-- ==== Sys2Proof/Word.lean ====
section
/-! DEFINITION. The byte and word types and the sparse table type, with nothing but their names. -/
namespace Sys2Proof

/-- One byte of a packet, a buffer, a register file or a memory. -/
abbrev Byte := BitVec 8

/-- A byte string; the byte at the lowest address comes first (R4). -/
abbrev Bytes := List Byte

/-- A 32-bit register word (R4). -/
abbrev Word := BitVec 32

/-- A 64-bit word. -/
abbrev Word64 := BitVec 64

/-- A sparse table in one canonical form: keys strictly rising, no entry equal to the value an
unlisted key reads as. -/
abbrev Tbl (α : Type) := List (Nat × α)

end Sys2Proof
end

