-- ==== Sys2Proof/Forms.lean ====
section
/-! DEFINITION. The operand forms of the commands: raw instruction fields, unit kinds and names. -/
namespace Sys2Proof

/-- The kinds of unit that execute a command (R54). -/
inductive UnitKind where
  | hub | aes | dge | cvu | parser | seq | none
deriving DecidableEq, Repr

/-- Second-operand form of a vector instruction: Table 6-3 formats V, X and I. -/
inductive VForm where
  | v | x | i
deriving DecidableEq, Repr

/-- The fields of formats V, X and I below the major opcode, without `funct` (Table 6-3).
`f2` is vs2, or [15] reserved and Xs, or imm5, as `form` says. -/
structure VF where
  form : VForm
  vd   : BitVec 5
  vs1  : BitVec 5
  f2   : BitVec 5
  k    : BitVec 3
  w    : BitVec 2
  mode : BitVec 2
deriving DecidableEq, Repr

/-- The fields of format M: vd or vs3, [20] reserved with Xb, [15] reserved with Xstride, k, w, mode. -/
structure MF where
  vd   : BitVec 5
  xb   : BitVec 5
  xs   : BitVec 5
  k    : BitVec 3
  w    : BitVec 2
  mode : BitVec 2
deriving DecidableEq, Repr

/-- The fields of the gather format G; `rsv` is [1:0]. -/
structure GF where
  vd   : BitVec 5
  xb   : BitVec 4
  xd   : BitVec 4
  g    : BitVec 6
  mode : BitVec 2
  w    : BitVec 2
  rsv  : BitVec 2
deriving DecidableEq, Repr

/-- The fields of the long format L: vd, vs1, [15:11], p. -/
structure LF where
  vd  : BitVec 5
  vs1 : BitVec 5
  f2  : BitVec 5
  p   : BitVec 4
deriving DecidableEq, Repr

/-- The fields of a scalar instruction: [25:22], [21:18], [17:0]. -/
structure XF where
  xd  : BitVec 4
  xs1 : BitVec 4
  f   : BitVec 18
deriving DecidableEq, Repr

/-- Who makes a register access: host function `fn`, sequencer core `c`, or a debug session. -/
inductive Src where
  | host (fn : Fin 256)
  | core (c : Fin 16)
  | debug
deriving DecidableEq, Repr

/-- The register blocks (Table 1-1), in the order of their numbers 0–15. -/
inductive Blk where
  | glb | pwr | lcs | tmp | hif | seq | hub | hsa | dge | kvt | ent | cvu | mem | tlk | cad | dbg
deriving DecidableEq, Repr

/-- The counter banks (Table 23-1). -/
inductive Bank where
  | seq | hub | block | inst
deriving DecidableEq, Repr

/-- A symbol of a memory line that reads other than it was written: codeword, symbol, the bits that differ (R312). -/
structure CellErr where
  cw  : Fin 2
  sym : Fin 39
  x   : Byte
deriving DecidableEq, Repr

end Sys2Proof
end

