-- ==== Sys2Proof/Syntax.lean ====
section
/-! DEFINITION. The commands of the block: one constructor per row of the opcode table. -/
namespace Sys2Proof

/-- One step of the block: a host access, a packet's effect, an instruction of an engine or a sequencer core,
an event of a pin, a timer, a link or the TAP. Each constructor names the rule its row cites. -/
inductive Instr where
  /-- SQ_DOORBELL (R31). -/
  | sqDoorbell (port : Fin 256) (q : Fin 64) (v : Word)
  /-- CQ_DOORBELL (R31). -/
  | cqDoorbell (port : Fin 256) (q : Fin 64) (v : Word)
  /-- QP_ENABLE (R35). -/
  | qpEnable (port : Fin 256) (q : Fin 64)
  /-- QP_DISABLE (R36). -/
  | qpDisable (port : Fin 256) (q : Fin 64)
  /-- MSIX_VECTOR_UNMASK (R504). -/
  | msixVectorUnmask (fn : Fin 256) (vec : Option (Fin 128))
  /-- COAL_TIME_EXPIRY (R26). -/
  | coalTimeExpiry (port : Fin 256) (q : Fin 64)
  /-- PACKET_FETCH (R43). -/
  | packetFetch (port : Fin 256) (q : Fin 64)
  /-- DERAILLEUR_DISPATCH (R136). -/
  | derailleurDispatch (kind : UnitKind) (unit : Nat)
  /-- EPOCH_BOUNDARY (R134). -/
  | epochBoundary
  /-- ENGINE_COMMAND_BOUNDARY (R132). -/
  | engineCommandBoundary (cmd : Nat)
  /-- FUNCTION_LEVEL_RESET (R334). -/
  | functionLevelReset (fn : Fin 256)
  /-- FUNCTION0_RESET (R335). -/
  | function0Reset (cause : Fin 3)
  /-- INSTANCE_RESET_COMPLETE (R334). -/
  | instanceResetComplete (inst : Fin 256)
  /-- PAUSE_DRAIN_END (R337). -/
  | pauseDrainEnd (inst : Fin 256)
  /-- ENCAPSULATE_INPUT_KEY (R70). -/
  | encapsulateInputKey (cmd : Nat)
  /-- ENCAPSULATE_HELD_KEY (R68). -/
  | encapsulateHeldKey (cmd : Nat)
  /-- KEM_DECAPSULATE (R71). -/
  | kemDecapsulate (cmd : Nat)
  /-- SIG_VERIFY_INPUT_KEY (R78). -/
  | sigVerifyInputKey (cmd : Nat)
  /-- SIG_VERIFY_HELD_KEY (R78). -/
  | sigVerifyHeldKey (cmd : Nat)
  /-- SIG_SIGN (R76). -/
  | sigSign (cmd : Nat)
  /-- SHA_256 (R79). -/
  | sha256 (cmd : Nat)
  /-- SHA_384 (R79). -/
  | sha384 (cmd : Nat)
  /-- SHA_512 (R79). -/
  | sha512 (cmd : Nat)
  /-- SHA3_256 (R79). -/
  | sha3256 (cmd : Nat)
  /-- SHA3_384 (R79). -/
  | sha3384 (cmd : Nat)
  /-- SHA3_512 (R79). -/
  | sha3512 (cmd : Nat)
  /-- SHAKE128 (R80). -/
  | shake128 (cmd : Nat)
  /-- SHAKE256 (R80). -/
  | shake256 (cmd : Nat)
  /-- HMAC_SHA_256 (R82). -/
  | hmacSha256 (cmd : Nat)
  /-- HMAC_SHA_384 (R82). -/
  | hmacSha384 (cmd : Nat)
  /-- HMAC_SHA_512 (R82). -/
  | hmacSha512 (cmd : Nat)
  /-- KMAC128 (R82). -/
  | kmac128 (cmd : Nat)
  /-- KMAC256 (R82). -/
  | kmac256 (cmd : Nat)
  /-- RANDOM_FILL (R83). -/
  | randomFill (cmd : Nat)
  /-- RANDOM_FILL_PR (R275). -/
  | randomFillPr (cmd : Nat)
  /-- AES_ECB_ENCRYPT (R84). -/
  | aesEcbEncrypt (cmd : Nat)
  /-- AES_ECB_DECRYPT (R84). -/
  | aesEcbDecrypt (cmd : Nat)
  /-- AES_CBC_ENCRYPT (R84). -/
  | aesCbcEncrypt (cmd : Nat)
  /-- AES_CBC_DECRYPT (R84). -/
  | aesCbcDecrypt (cmd : Nat)
  /-- AES_CTR (R84). -/
  | aesCtr (cmd : Nat)
  /-- AES_GCM_ENCRYPT (R84). -/
  | aesGcmEncrypt (cmd : Nat)
  /-- AES_GCM_DECRYPT (R85). -/
  | aesGcmDecrypt (cmd : Nat)
  /-- AES_XTS_ENCRYPT (R84). -/
  | aesXtsEncrypt (cmd : Nat)
  /-- AES_XTS_DECRYPT (R84). -/
  | aesXtsDecrypt (cmd : Nat)
  /-- AES_CMAC_GENERATE (R84). -/
  | aesCmacGenerate (cmd : Nat)
  /-- AES_CMAC_VERIFY (R86). -/
  | aesCmacVerify (cmd : Nat)
  /-- KEY_WRAP (R84). -/
  | keyWrap (cmd : Nat)
  /-- KEY_UNWRAP (R86). -/
  | keyUnwrap (cmd : Nat)
  /-- KEY_WRAP_PAD (R84). -/
  | keyWrapPad (cmd : Nat)
  /-- KEY_UNWRAP_PAD (R86). -/
  | keyUnwrapPad (cmd : Nat)
  /-- CV_SCAN (R87). -/
  | cvScan (cmd : Nat)
  /-- KEY_GENERATE (R94). -/
  | keyGenerate (cmd : Nat)
  /-- KEY_IMPORT (R265). -/
  | keyImport (cmd : Nat)
  /-- KEY_REPLACE (R95). -/
  | keyReplace (cmd : Nat)
  /-- KEY_COMMIT (R259). -/
  | keyCommit (cmd : Nat)
  /-- KEY_ABANDON (R259). -/
  | keyAbandon (cmd : Nat)
  /-- KEY_LOAD (R254). -/
  | keyLoad (cmd : Nat)
  /-- KEY_EVICT (R98). -/
  | keyEvict (cmd : Nat)
  /-- KEY_INVALIDATE (R263). -/
  | keyInvalidate (cmd : Nat)
  /-- KEY_EXPORT (R265). -/
  | keyExport (cmd : Nat)
  /-- KEY_PUBLIC (R92). -/
  | keyPublic (cmd : Nat)
  /-- KEY_INFO (R99). -/
  | keyInfo (cmd : Nat)
  /-- KEY_SHARE (R99). -/
  | keyShare (cmd : Nat)
  /-- KEY_AGREE_STORE (R516). -/
  | keyAgreeStore (cmd : Nat)
  /-- SFS_VERIFY_HSS (R103). -/
  | sfsVerifyHss (cmd : Nat)
  /-- SFS_VERIFY_XMSS (R103). -/
  | sfsVerifyXmss (cmd : Nat)
  /-- SFS_KEYGEN (R101). -/
  | sfsKeygen (cmd : Nat)
  /-- SFS_SIGN (R215). -/
  | sfsSign (cmd : Nat)
  /-- SFS_STATUS (R224). -/
  | sfsStatus (cmd : Nat)
  /-- SFS_RETIRE (R222). -/
  | sfsRetire (cmd : Nat)
  /-- DEV_IDENTITY (R104). -/
  | devIdentity (cmd : Nat)
  /-- DEV_STATUS (R113). -/
  | devStatus (cmd : Nat)
  /-- INST_CREATE (R329). -/
  | instCreate (cmd : Nat)
  /-- INST_DESTROY (R107). -/
  | instDestroy (cmd : Nat)
  /-- INST_SET_SHARE (R331). -/
  | instSetShare (cmd : Nat)
  /-- INST_PAUSE (R337). -/
  | instPause (cmd : Nat)
  /-- INST_RESUME (R339). -/
  | instResume (cmd : Nat)
  /-- INST_RESET (R107). -/
  | instReset (cmd : Nat)
  /-- INST_SET_SHIELD (R333). -/
  | instSetShield (cmd : Nat)
  /-- INST_MIGRATE_LOG (R342). -/
  | instMigrateLog (cmd : Nat)
  /-- INST_IMPORT_PREPARE (R343). -/
  | instImportPrepare (cmd : Nat)
  /-- INST_EXPORT (R344). -/
  | instExport (cmd : Nat)
  /-- INST_IMPORT (R345). -/
  | instImport (cmd : Nat)
  /-- LC_ADVANCE (R414). -/
  | lcAdvance (cmd : Nat)
  /-- UNLOCK (R444). -/
  | unlock (cmd : Nat)
  /-- ZEROIZE (R110). -/
  | zeroize (cmd : Nat)
  /-- REPROVISION (R418). -/
  | reprovision (cmd : Nat)
  /-- BUNDLE_STAGE (R410). -/
  | bundleStage (cmd : Nat)
  /-- PATCH_INFO (R113). -/
  | patchInfo (cmd : Nat)
  /-- EXT_LOAD (R114). -/
  | extLoad (cmd : Nat)
  /-- EXT_UNLOAD (R114). -/
  | extUnload (cmd : Nat)
  /-- EXTENSION_COMMAND (R305). -/
  | extensionCommand (cmd : Nat)
  /-- VADD (R155). -/
  | vadd (e : Fin 64) (a : VF)
  /-- VSUB (R155). -/
  | vsub (e : Fin 64) (a : VF)
  /-- VMUL (R155). -/
  | vmul (e : Fin 64) (a : VF)
  /-- VMULH (R155). -/
  | vmulh (e : Fin 64) (a : VF)
  /-- VMAC (R155). -/
  | vmac (e : Fin 64) (a : VF)
  /-- VNEG (R155). -/
  | vneg (e : Fin 64) (a : VF)
  /-- VSQR (R155). -/
  | vsqr (e : Fin 64) (a : VF)
  /-- VCLMUL (R155). -/
  | vclmul (e : Fin 64) (a : VF)
  /-- VCLMULH (R155). -/
  | vclmulh (e : Fin 64) (a : VF)
  /-- VAND (R155). -/
  | vand (e : Fin 64) (a : VF)
  /-- VOR (R155). -/
  | vor (e : Fin 64) (a : VF)
  /-- VXOR (R155). -/
  | vxor (e : Fin 64) (a : VF)
  /-- VSLL (R159). -/
  | vsll (e : Fin 64) (a : VF)
  /-- VSRL (R159). -/
  | vsrl (e : Fin 64) (a : VF)
  /-- VSRA (R159). -/
  | vsra (e : Fin 64) (a : VF)
  /-- VSADD (R159). -/
  | vsadd (e : Fin 64) (a : VF)
  /-- VSSUB (R159). -/
  | vssub (e : Fin 64) (a : VF)
  /-- VSADDU (R159). -/
  | vsaddu (e : Fin 64) (a : VF)
  /-- VSSUBU (R159). -/
  | vssubu (e : Fin 64) (a : VF)
  /-- VMIN (R155). -/
  | vmin (e : Fin 64) (a : VF)
  /-- VMAX (R155). -/
  | vmax (e : Fin 64) (a : VF)
  /-- VWMUL (R158). -/
  | vwmul (e : Fin 64) (u : Bool) (a : VF)
  /-- VWMACC (R158). -/
  | vwmacc (e : Fin 64) (u : Bool) (a : VF)
  /-- VWADD (R158). -/
  | vwadd (e : Fin 64) (u : Bool) (a : VF)
  /-- VDOT4 (R158). -/
  | vdot4 (e : Fin 64) (u : Bool) (a : VF)
  /-- VDOT2 (R158). -/
  | vdot2 (e : Fin 64) (u : Bool) (a : VF)
  /-- VCMP (R155). -/
  | vcmp (e : Fin 64) (f : Fin 8) (a : VF)
  /-- KAND_KOR_KXOR_KNOT (R155). -/
  | kLogic (e : Fin 64) (f : Fin 4) (a : VF)
  /-- KMOV (R155). -/
  | kmov (e : Fin 64) (a : VF)
  /-- VTEST (R148). -/
  | vtest (e : Fin 64) (a : VF)
  /-- VSLIDEUP (R155). -/
  | vslideup (e : Fin 64) (a : VF)
  /-- VSLIDEDN (R155). -/
  | vslidedn (e : Fin 64) (a : VF)
  /-- VRGATHER (R155). -/
  | vrgather (e : Fin 64) (a : VF)
  /-- VBCAST (R155). -/
  | vbcast (e : Fin 64) (a : VF)
  /-- VMERGE (R155). -/
  | vmerge (e : Fin 64) (a : VF)
  /-- VREDSUM (R155). -/
  | vredsum (e : Fin 64) (a : VF)
  /-- VMV (R155). -/
  | vmv (e : Fin 64) (a : VF)
  /-- VLD (R160). -/
  | vld (e : Fin 64) (a : MF)
  /-- VST (R160). -/
  | vst (e : Fin 64) (a : MF)
  /-- VGATHER (R161). -/
  | vgather (e : Fin 64) (a : GF)
  /-- VSCATTER (R161). -/
  | vscatter (e : Fin 64) (a : GF)
  /-- STAGING_RESUME (R163). -/
  | stagingResume (e : Fin 64) (upTo : Nat)
  /-- VNTT (R165). -/
  | vntt (e : Fin 64) (a : LF)
  /-- VINTT (R165). -/
  | vintt (e : Fin 64) (a : LF)
  /-- VBMUL (R165). -/
  | vbmul (e : Fin 64) (a : LF)
  /-- VSAMPLE_U (R165). -/
  | vsampleU (e : Fin 64) (a : LF)
  /-- VSAMPLE_CBD (R165). -/
  | vsampleCbd (e : Fin 64) (a : LF)
  /-- VSAMPLE_ETA (R165). -/
  | vsampleEta (e : Fin 64) (a : LF)
  /-- VSAMPLE_BALL (R165). -/
  | vsampleBall (e : Fin 64) (a : LF)
  /-- VDECOMP (R165). -/
  | vdecomp (e : Fin 64) (a : LF)
  /-- VCOMPRESS (R165). -/
  | vcompress (e : Fin 64) (a : LF)
  /-- VDECOMPRESS (R165). -/
  | vdecompress (e : Fin 64) (a : LF)
  /-- VPACK (R165). -/
  | vpack (e : Fin 64) (a : LF)
  /-- VUNPACK (R165). -/
  | vunpack (e : Fin 64) (a : LF)
  /-- VA2B (R121). -/
  | va2b (e : Fin 64) (a : LF)
  /-- VB2A (R121). -/
  | vb2a (e : Fin 64) (a : LF)
  /-- VAFFT (R165). -/
  | vafft (e : Fin 64) (a : LF)
  /-- VIAFFT (R165). -/
  | viafft (e : Fin 64) (a : LF)
  /-- VGOPPA (R165). -/
  | vgoppa (e : Fin 64) (a : LF)
  /-- VXOF_INIT (R165). -/
  | vxofInit (e : Fin 64) (a : LF)
  /-- VXOF_ABS (R165). -/
  | vxofAbs (e : Fin 64) (a : LF)
  /-- VXOF_SQ (R165). -/
  | vxofSq (e : Fin 64) (a : LF)
  /-- VKEY (R166). -/
  | vkey (e : Fin 64) (a : LF)
  /-- VUNMASK (R166). -/
  | vunmask (e : Fin 64) (a : LF)
  /-- VMPMUL (R165). -/
  | vmpmul (e : Fin 64) (a : LF)
  /-- VMPSQR (R165). -/
  | vmpsqr (e : Fin 64) (a : LF)
  /-- VMPRED (R165). -/
  | vmpred (e : Fin 64) (a : LF)
  /-- VMPADD (R165). -/
  | vmpadd (e : Fin 64) (a : LF)
  /-- VMPSUB (R165). -/
  | vmpsub (e : Fin 64) (a : LF)
  /-- VMPCSWAP (R165). -/
  | vmpcswap (e : Fin 64) (a : LF)
  /-- XOP (R167). -/
  | xop (e : Fin 64) (a : XF)
  /-- XADDI (R167). -/
  | xaddi (e : Fin 64) (a : XF)
  /-- XSHI (R167). -/
  | xshi (e : Fin 64) (a : XF)
  /-- XLIH (R167). -/
  | xlih (e : Fin 64) (a : XF)
  /-- XLD (R151). -/
  | xld (e : Fin 64) (a : XF)
  /-- BEQ_BNE_BLT_BLTU (R167). -/
  | xBranch (e : Fin 64) (f : Fin 4) (a : XF)
  /-- JAL (R167). -/
  | jal (e : Fin 64) (xd : BitVec 4) (off : BitVec 22)
  /-- JALR (R167). -/
  | jalr (e : Fin 64) (a : XF)
  /-- SETVL (R167). -/
  | setvl (e : Fin 64) (a : XF)
  /-- VSETQ (R118). -/
  | vsetq (e : Fin 64) (a : XF)
  /-- VSETGF (R167). -/
  | vsetgf (e : Fin 64) (a : XF)
  /-- VEND (R167). -/
  | vend (e : Fin 64) (a : XF)
  /-- WAIT_CEILING_EXPIRY (R180). -/
  | waitCeilingExpiry (e : Fin 64) (routine : Fin 128) (cond : Fin 64)
  /-- HOLD_TIMER_EXPIRY (R177). -/
  | holdTimerExpiry (e : Fin 64)
  /-- ENGINE_INTERRUPT (R178). -/
  | engineInterrupt (e : Fin 64) (kind : Fin 3)
  /-- MOV (R290). -/
  | sMov (c : Fin 16) (dd ds : BitVec 4)
  /-- ADD (R294). -/
  | sAdd (c : Fin 16) (dd ds : BitVec 4)
  /-- SUB (R294). -/
  | sSub (c : Fin 16) (dd ds : BitVec 4)
  /-- ADC (R294). -/
  | sAdc (c : Fin 16) (dd ds : BitVec 4)
  /-- SBC (R294). -/
  | sSbc (c : Fin 16) (dd ds : BitVec 4)
  /-- AND (R290). -/
  | sAnd (c : Fin 16) (dd ds : BitVec 4)
  /-- OR (R290). -/
  | sOr (c : Fin 16) (dd ds : BitVec 4)
  /-- XOR (R290). -/
  | sXor (c : Fin 16) (dd ds : BitVec 4)
  /-- CMP (R294). -/
  | sCmp (c : Fin 16) (dd ds : BitVec 4)
  /-- TST (R294). -/
  | sTst (c : Fin 16) (dd ds : BitVec 4)
  /-- SHL (R295). -/
  | sShl (c : Fin 16) (dd ds : BitVec 4)
  /-- SHR (R295). -/
  | sShr (c : Fin 16) (dd ds : BitVec 4)
  /-- SAR (R295). -/
  | sSar (c : Fin 16) (dd ds : BitVec 4)
  /-- MUL (R294). -/
  | sMul (c : Fin 16) (dd ds : BitVec 4)
  /-- DIVS (R291). -/
  | sDivs (c : Fin 16) (dd ds : BitVec 4)
  /-- DIVU (R291). -/
  | sDivu (c : Fin 16) (dd ds : BitVec 4)
  /-- MOVQ (R290). -/
  | sMovq (c : Fin 16) (dd : BitVec 4) (v : BitVec 5)
  /-- ADDQ (R294). -/
  | sAddq (c : Fin 16) (dd : BitVec 4) (v : BitVec 5)
  /-- SHLI (R295). -/
  | sShli (c : Fin 16) (dd : BitVec 4) (v : BitVec 5)
  /-- SHRI (R295). -/
  | sShri (c : Fin 16) (dd : BitVec 4) (v : BitVec 5)
  /-- SARI (R295). -/
  | sSari (c : Fin 16) (dd : BitVec 4) (v : BitVec 5)
  /-- ROLI (R295). -/
  | sRoli (c : Fin 16) (dd : BitVec 4) (v : BitVec 5)
  /-- MOVI (R290). -/
  | sMovi (c : Fin 16) (dd : BitVec 4) (imm : BitVec 17)
  /-- ADDI (R294). -/
  | sAddi (c : Fin 16) (dd : BitVec 4) (imm : BitVec 17)
  /-- ANDI (R290). -/
  | sAndi (c : Fin 16) (dd : BitVec 4) (imm : BitVec 17)
  /-- ORI (R290). -/
  | sOri (c : Fin 16) (dd : BitVec 4) (imm : BitVec 17)
  /-- XORI (R290). -/
  | sXori (c : Fin 16) (dd : BitVec 4) (imm : BitVec 17)
  /-- CMPI (R294). -/
  | sCmpi (c : Fin 16) (dd : BitVec 4) (imm : BitVec 17)
  /-- MOVH (R290). -/
  | sMovh (c : Fin 16) (dd : BitVec 4) (imm : BitVec 17)
  /-- TSTI (R294). -/
  | sTsti (c : Fin 16) (dd : BitVec 4) (imm : BitVec 17)
  /-- LD (R287). -/
  | sLd (c : Fin 16) (m : BitVec 2) (an : BitVec 3) (dd : BitVec 4) (ext : BitVec 14)
  /-- ST (R287). -/
  | sSt (c : Fin 16) (m : BitVec 2) (an : BitVec 3) (dd : BitVec 4) (ext : BitVec 14)
  /-- LDB (R287). -/
  | sLdb (c : Fin 16) (m : BitVec 2) (an : BitVec 3) (dd : BitVec 4) (ext : BitVec 14)
  /-- STB (R287). -/
  | sStb (c : Fin 16) (m : BitVec 2) (an : BitVec 3) (dd : BitVec 4) (ext : BitVec 14)
  /-- BSET (R292). -/
  | sBset (c : Fin 16) (x : BitVec 8) (ext : BitVec 14)
  /-- BCLR (R292). -/
  | sBclr (c : Fin 16) (x : BitVec 8) (ext : BitVec 14)
  /-- BNOT (R292). -/
  | sBnot (c : Fin 16) (x : BitVec 8) (ext : BitVec 14)
  /-- BLD (R292). -/
  | sBld (c : Fin 16) (x : BitVec 8) (ext : BitVec 14)
  /-- BST (R292). -/
  | sBst (c : Fin 16) (x : BitVec 8) (ext : BitVec 14)
  /-- JB (R292). -/
  | sJb (c : Fin 16) (x : BitVec 8) (ext : BitVec 14)
  /-- JNB (R292). -/
  | sJnb (c : Fin 16) (x : BitVec 8) (ext : BitVec 14)
  /-- WAITB (R292). -/
  | sWaitb (c : Fin 16) (x : BitVec 8) (ext : BitVec 14)
  /-- WAITB_RELEASE (R292). -/
  | waitbRelease (c : Fin 16)
  /-- BCC (R293). -/
  | sBcc (c : Fin 16) (cond : BitVec 4) (off : BitVec 6) (ext : BitVec 14)
  /-- MAC (R294). -/
  | sMac (c : Fin 16) (mx : BitVec 2) (ds1 ds2 : BitVec 3)
  /-- MACU (R294). -/
  | sMacu (c : Fin 16) (mx : BitVec 2) (ds1 ds2 : BitVec 3)
  /-- MSU (R294). -/
  | sMsu (c : Fin 16) (mx : BitVec 2) (ds1 ds2 : BitVec 3)
  /-- MULM (R294). -/
  | sMulm (c : Fin 16) (mx : BitVec 2) (ds1 ds2 : BitVec 3)
  /-- MCLR (R288). -/
  | sMclr (c : Fin 16) (mx : BitVec 2) (dd : BitVec 4)
  /-- MLD (R288). -/
  | sMld (c : Fin 16) (mx : BitVec 2) (dd : BitVec 4)
  /-- MRDL (R288). -/
  | sMrdl (c : Fin 16) (mx : BitVec 2) (dd : BitVec 4)
  /-- MRDH (R288). -/
  | sMrdh (c : Fin 16) (mx : BitVec 2) (dd : BitVec 4)
  /-- MRDG (R288). -/
  | sMrdg (c : Fin 16) (mx : BitVec 2) (dd : BitVec 4)
  /-- MSAT (R295). -/
  | sMsat (c : Fin 16) (mx : BitVec 2) (dd : BitVec 4)
  /-- MSAR (R288). -/
  | sMsar (c : Fin 16) (mx : BitVec 2) (dd : BitVec 4)
  /-- MINS (R288). -/
  | sMins (c : Fin 16) (mx : BitVec 2) (dd : BitVec 4)
  /-- NEG (R295). -/
  | sNeg (c : Fin 16) (dd : BitVec 4)
  /-- NOT (R290). -/
  | sNot (c : Fin 16) (dd : BitVec 4)
  /-- ABS (R295). -/
  | sAbs (c : Fin 16) (dd : BitVec 4)
  /-- SEXTB (R290). -/
  | sSextb (c : Fin 16) (dd : BitVec 4)
  /-- SEXTH (R290). -/
  | sSexth (c : Fin 16) (dd : BitVec 4)
  /-- ZEXTB (R290). -/
  | sZextb (c : Fin 16) (dd : BitVec 4)
  /-- ZEXTH (R290). -/
  | sZexth (c : Fin 16) (dd : BitVec 4)
  /-- CLZ (R290). -/
  | sClz (c : Fin 16) (dd : BitVec 4)
  /-- POPC (R290). -/
  | sPopc (c : Fin 16) (dd : BitVec 4)
  /-- BSWAP (R290). -/
  | sBswap (c : Fin 16) (dd : BitVec 4)
  /-- MFF (R289). -/
  | sMff (c : Fin 16) (dd : BitVec 4)
  /-- MTF (R289). -/
  | sMtf (c : Fin 16) (dd : BitVec 4)
  /-- MFW (R287). -/
  | sMfw (c : Fin 16) (dd : BitVec 4)
  /-- MTW (R287). -/
  | sMtw (c : Fin 16) (dd : BitVec 4)
  /-- MFPC (R290). -/
  | sMfpc (c : Fin 16) (dd : BitVec 4)
  /-- AMOV (R290). -/
  | sAmov (c : Fin 16) (an : BitVec 3) (ds : BitVec 4)
  /-- DMOVA (R290). -/
  | sDmova (c : Fin 16) (an : BitVec 3) (dd : BitVec 4)
  /-- AADDQ (R290). -/
  | sAaddq (c : Fin 16) (an : BitVec 3) (v : BitVec 6)
  /-- AMOD (R290). -/
  | sAmod (c : Fin 16) (an : BitVec 3) (ds : BitVec 4)
  /-- NOP (R290). -/
  | sNop (c : Fin 16)
  /-- RET (R300). -/
  | sRet (c : Fin 16)
  /-- RETI (R300). -/
  | sReti (c : Fin 16)
  /-- EI (R290). -/
  | sEi (c : Fin 16)
  /-- DI (R290). -/
  | sDi (c : Fin 16)
  /-- SLEEP (R290). -/
  | sSleep (c : Fin 16)
  /-- FENCE (R309). -/
  | sFence (c : Fin 16)
  /-- REP (R298). -/
  | sRep (c : Fin 16) (n : BitVec 8)
  /-- REPI (R299). -/
  | sRepi (c : Fin 16)
  /-- JMP (R290). -/
  | sJmp (c : Fin 16) (ext : BitVec 14)
  /-- CALL (R300). -/
  | sCall (c : Fin 16) (ext : BitVec 14)
  /-- JMPA (R290). -/
  | sJmpa (c : Fin 16) (an : BitVec 3)
  /-- CALLA (R300). -/
  | sCalla (c : Fin 16) (an : BitVec 3)
  /-- DONE (R308). -/
  | sDone (c : Fin 16)
  /-- HALT (R290). -/
  | sHalt (c : Fin 16)
  /-- TRAP (R300). -/
  | sTrap (c : Fin 16) (n : BitVec 5)
  /-- SVC_IN (R307). -/
  | svcIn (c : Fin 16)
  /-- SVC_OUT (R307). -/
  | svcOut (c : Fin 16)
  /-- SVC_KERNEL (R307). -/
  | svcKernel (c : Fin 16)
  /-- SVC_DIGEST (R307). -/
  | svcDigest (c : Fin 16)
  /-- SVC_RANDOM (R307). -/
  | svcRandom (c : Fin 16)
  /-- SVC_CV (R307). -/
  | svcCv (c : Fin 16)
  /-- SEQ_INTERRUPT (R300). -/
  | seqInterrupt (c : Fin 16) (kind : Fin 4)
  /-- SEQ_ABORT (R301). -/
  | seqAbort (c : Fin 16)
  /-- EXT_TIME_LIMIT (R306). -/
  | extTimeLimit (c : Fin 16)
  /-- DGE_CLAIM (R235). -/
  | dgeClaim (src : Src) (u : Fin 16)
  /-- DGE_RELEASE (R243). -/
  | dgeRelease (src : Src) (u : Fin 16)
  /-- DGE_LEN (R236). -/
  | dgeLen (src : Src) (u : Fin 16) (v : Word)
  /-- DGE_DATA_WORD (R237). -/
  | dgeDataWord (src : Src) (u : Fin 16) (v : Word)
  /-- DGE_LAST_COUNT (R238). -/
  | dgeLastCount (src : Src) (u : Fin 16) (v : Word)
  /-- DGE_KEYFEED_GO (R242). -/
  | dgeKeyfeedGo (src : Src) (u : Fin 16) (v : Word)
  /-- DGE_TIMEOUT_EXPIRY (R239). -/
  | dgeTimeoutExpiry (u : Fin 16)
  /-- DGE_FINISH (R241). -/
  | dgeFinish (u : Fin 16)
  /-- CVU_CLAIM (R375). -/
  | cvuClaim (src : Src) (u : Fin 8)
  /-- CVU_RELEASE (R376). -/
  | cvuRelease (src : Src) (u : Fin 8)
  /-- CVU_START (R374). -/
  | cvuStart (src : Src) (u : Fin 8)
  /-- CVU_STOP (R377). -/
  | cvuStop (src : Src) (u : Fin 8)
  /-- CVU_STOPPED (R377). -/
  | cvuStopped (u : Fin 8) (done : Nat)
  /-- CVU_SCAN_DONE (R372). -/
  | cvuScanDone (u : Fin 8)
  /-- OFFLINE_REQ (R116). -/
  | offlineReq (e : Fin 64) (on : Bool)
  /-- ENGINE_GROUP_GATE (R142). -/
  | engineGroupGate (g : Fin 16)
  /-- ENGINE_GROUP_WAKE (R141). -/
  | engineGroupWake (g : Fin 16)
  /-- ENGINE_READY (R141). -/
  | engineReady (e : Fin 64)
  /-- BLOCK_RESET_END (R446). -/
  | blockResetEnd (blk : Blk) (unit : Nat)
  /-- ENGINE_TEST_END (R210). -/
  | engineTestEnd (e : Fin 64) (pass : Bool)
  /-- MG_RESEED_REQUEST (R125). -/
  | mgReseedRequest (e : Fin 64)
  /-- MG_HALT (R125). -/
  | mgHalt (e : Fin 64)
  /-- MG_SEED_ARRIVAL (R125). -/
  | mgSeedArrival (e : Fin 64)
  /-- HEALTH_TEST_FAIL (R267). -/
  | healthTestFail (src : Fin 8) (apt : Bool)
  /-- SOURCE_SETTLE_END (R268). -/
  | sourceSettleEnd
  /-- STARTUP_TEST_END (R268). -/
  | startupTestEnd (pass : BitVec 8) (rct : BitVec 8)
  /-- CONDITIONER_BLOCK_RELEASE (R271). -/
  | conditionerBlockRelease
  /-- DRBG_RESEED_DUE (R273). -/
  | drbgReseedDue (n : Fin 64)
  /-- DRBG_STOP (R273). -/
  | drbgStop (n : Fin 64)
  /-- RANDOM_QUEUE_FILL (R276). -/
  | randomQueueFill (n : Fin 64) (fifo : Bool)
  /-- ENT_WAIT_EXPIRY (R278). -/
  | entWaitExpiry (cmd : Nat)
  /-- ENT_DATA_READ (R277). -/
  | entDataRead (src : Src)
  /-- RETEST (R282). -/
  | retest (src : Src)
  /-- RETEST_END (R282). -/
  | retestEnd (pass : BitVec 8) (rct : BitVec 8)
  /-- ENT_TEST (R284). -/
  | entTest (src : Src) (v : Word)
  /-- ENT_TEST_PATTERN (R284). -/
  | entTestPattern (src : Src) (v : Word)
  /-- PENDING_REWRITE (R259). -/
  | pendingRewrite (slot : Fin 256)
  /-- PANNIER_SWEEP (R264). -/
  | pannierSweep (inst : Fin 256)
  /-- PATROL_SCRUB_READ (R323). -/
  | patrolScrubRead (line : Nat) (errs : List CellErr)
  /-- SPARING_COPY_END (R324). -/
  | sparingCopyEnd (seg : Nat)
  /-- MEM_KEY_LOAD (R315). -/
  | memKeyLoad
  /-- MEM_REGION_INIT_DONE (R316). -/
  | memRegionInitDone (region : Fin 7)
  /-- MEM_CE_CNT_READ (R7). -/
  | memCeCntRead (src : Src) (p : Fin 64)
  /-- FLT_INJECT_ARM (R455). -/
  | fltInjectArm (src : Src) (blk : Blk) (unit : Nat) (v : Word)
  /-- FLT_INJECT_DISARM (R455). -/
  | fltInjectDisarm (src : Src) (blk : Blk) (unit : Nat) (v : Word)
  /-- REACT_ACK_HANDLED (R452). -/
  | reactAckHandled (src : Src) (blk : Blk) (unit : Nat) (v : Word)
  /-- REACT_ACK_KEEP_OFFLINE (R452). -/
  | reactAckKeepOffline (src : Src) (blk : Blk) (unit : Nat) (v : Word)
  /-- REACT_ACK_ESCALATE (R452). -/
  | reactAckEscalate (src : Src) (blk : Blk) (unit : Nat) (v : Word)
  /-- REACTION_TIMER_EXPIRY (R453). -/
  | reactionTimerExpiry (blk : Blk) (unit : Nat)
  /-- CONTINUOUS_CHECKER_ERROR (R520). -/
  | continuousCheckerError (blk : Blk) (unit : Nat) (checker : Nat) (sub : Nat) (real : Bool)
  /-- TAMPER_ALARM (R428). -/
  | tamperAlarm (src : Fin 13) (detail : BitVec 16)
  /-- TMP_SEAL (R432). -/
  | tmpSeal (src : Src)
  /-- TMP_FUSE_REQ (R433). -/
  | tmpFuseReq (src : Src) (v : Word)
  /-- OTP_BURN_DONE (R411). -/
  | otpBurnDone (good : Bool)
  /-- BBRAM_LOSS (R431). -/
  | bbramLoss
  /-- AO_CRYSTAL_START (R495). -/
  | aoCrystalStart
  /-- AO_POWER_UP (R379). -/
  | aoPowerUp (vbat : Bool) (vddIo : Bool)
  /-- SUPPLY_LOSS (R381). -/
  | supplyLoss
  /-- MAIN_RAIL_LOSS (R382). -/
  | mainRailLoss
  /-- MAIN_RAILS_VALID (R381). -/
  | mainRailsValid
  /-- PERST_N_ASSERT (R383). -/
  | perstNAssert
  /-- GLB_SOFT_RESET (R399). -/
  | glbSoftReset (src : Src) (v : Word)
  /-- RESET_RELEASE (R385). -/
  | resetRelease (role : Fin 4) (cascId : Fin 8) (bootSrc : Fin 4)
  /-- OTP_SENSE_DONE (R415). -/
  | otpSenseDone
  /-- JOURNAL_RECOVERY (R261). -/
  | journalRecovery
  /-- VERIFIER_TEST_END (R401). -/
  | verifierTestEnd (pass : Bool)
  /-- BOOT_IMAGE_SELECT (R404). -/
  | bootImageSelect
  /-- BUNDLE_VERIFY (R405). -/
  | bundleVerify
  /-- BUNDLE_LOAD (R406). -/
  | bundleLoad
  /-- HOST_BOOT_GO (R408). -/
  | hostBootGo (src : Src)
  /-- SELF_TEST_UNIT_RESULT (R208). -/
  | selfTestUnitResult (digestOk : Bool) (aesOk : Bool)
  /-- SELF_TEST_ENGINE_RESULT (R208). -/
  | selfTestEngineResult (pass : BitVec 64)
  /-- SELF_TEST_END (R208). -/
  | selfTestEnd (suites : BitVec 10)
  /-- ROLLBACK_BURN (R409). -/
  | rollbackBurn
  /-- BOOT_END (R400). -/
  | bootEnd
  /-- SCRAP_OBLITERATE (R419). -/
  | scrapObliterate
  /-- FREEWHEEL_ENTRY (R386). -/
  | freewheelEntry
  /-- FREEWHEEL_WAKE (R387). -/
  | freewheelWake
  /-- SURGE_WIND_DOWN (R392). -/
  | surgeWindDown (cause : Fin 4)
  /-- SURGE_END (R392). -/
  | surgeEnd
  /-- TEST_REQ (R396). -/
  | testReq (src : Src) (v : Word)
  /-- DRAIN_ENTRY (R393). -/
  | drainEntry (slow : Bool)
  /-- DRAIN_TRIM (R218). -/
  | drainTrim
  /-- DRAIN_RUN_WINDOW_END (R393). -/
  | drainRunWindowEnd
  /-- DRAIN_QUIESCE (R393). -/
  | drainQuiesce
  /-- DRAIN_RESET_ENTRY (R393). -/
  | drainResetEntry (us : Nat)
  /-- LINK_TRAINED (R350). -/
  | linkTrained (k : Fin 8) (two : Bool) (foreign : Bool)
  /-- LINK_SILENCE_TIMEOUT (R355). -/
  | linkSilenceTimeout (k : Fin 8)
  /-- HEARTBEAT_DUE (R355). -/
  | heartbeatDue (k : Fin 8)
  /-- DISC_WAIT_EXPIRY (R356). -/
  | discWaitExpiry
  /-- ROLE_CONFLICT_TIMEOUT (R362). -/
  | roleConflictTimeout
  /-- CASCADE_START (R360). -/
  | cascadeStart
  /-- MEMBER_TIMEOUT (R368). -/
  | memberTimeout (p : Fin 8)
  /-- ACK (R351). -/
  | frameAck (k : Fin 8) (frame : Bytes)
  /-- NAK (R354). -/
  | frameNak (k : Fin 8) (frame : Bytes)
  /-- HEARTBEAT (R355). -/
  | frameHeartbeat (k : Fin 8) (frame : Bytes)
  /-- TOKEN (R356). -/
  | frameToken (k : Fin 8) (frame : Bytes)
  /-- ASSIGN (R357). -/
  | frameAssign (k : Fin 8) (frame : Bytes)
  /-- ATTEST (R359). -/
  | frameAttest (k : Fin 8) (frame : Bytes)
  /-- KEYX (R359). -/
  | frameKeyx (k : Fin 8) (frame : Bytes)
  /-- GO (R360). -/
  | frameGo (k : Fin 8) (frame : Bytes)
  /-- LEAVE (R368). -/
  | frameLeave (k : Fin 8) (frame : Bytes)
  /-- LOST (R369). -/
  | frameLost (k : Fin 8) (frame : Bytes)
  /-- REQ (R367). -/
  | frameReq (k : Fin 8) (frame : Bytes)
  /-- RSP (R367). -/
  | frameRsp (k : Fin 8) (frame : Bytes)
  /-- KEYSHARE (R365). -/
  | frameKeyshare (k : Fin 8) (frame : Bytes)
  /-- BCAST (R366). -/
  | frameBcast (k : Fin 8) (frame : Bytes)
  /-- EXTEST (R422). -/
  | extest (dr : Bytes)
  /-- IDCODE (R422). -/
  | idcode
  /-- SAMPLE_PRELOAD (R422). -/
  | samplePreload (dr : Bytes)
  /-- BYPASS (R422). -/
  | bypass
  /-- DBG_CHAL (R423). -/
  | dbgChal (request : Bool)
  /-- DBG_TOKEN (R424). -/
  | dbgToken (b : Byte)
  /-- DBG_TOKEN_VERIFY (R424). -/
  | dbgTokenVerify
  /-- DBG_REG (R422). -/
  | dbgReg (write : Bool) (off : Word) (data : Word)
  /-- DBG_MEM (R421). -/
  | dbgMem (space : BitVec 8) (addr : BitVec 64)
  /-- DBG_CHAL_EXPIRY (R423). -/
  | dbgChalExpiry
  /-- DBG_SESSION_EXPIRY (R425). -/
  | dbgSessionExpiry
  /-- DBG_TRST (R422). -/
  | dbgTrst
  /-- DBG_CLOSE (R425). -/
  | dbgClose (src : Src)
  /-- DBG_DENY (R423). -/
  | dbgDeny (src : Src)
  /-- DBG_BIST_START (R427). -/
  | dbgBistStart (src : Src)
  /-- DBG_BIST_DONE (R427). -/
  | dbgBistDone (failBlock : Option (BitVec 16))
  /-- COUNTER_WRAP (R463). -/
  | counterWrap (bank : Bank) (unit : Nat) (k : Nat)
  /-- CAD_SAMP_CLEAR (R467). -/
  | cadSampClear (src : Src) (n : Fin 80)
  /-- CAD_SAMP_IDX (R467). -/
  | cadSampIdx (src : Src) (n : Fin 80) (slot : BitVec 8)
  /-- REGISTER_WRITE (R7). -/
  | registerWrite (src : Src) (off : Nat) (v : Word)
  /-- FABRIC_PLL_LOCK (R400). -/
  | fabricPllLock
  /-- PCIE_LINK_UP (R400). -/
  | pcieLinkUp
  /-- DRAM_RAILS_VALID (R488). -/
  | dramRailsValid
  /-- TANDEM_FRAME_CHECK_FAIL (R354). -/
  | tandemFrameCheckFail (k : Fin 8) (seq : Nat)
  /-- HASH_JOB_COMPLETE (R229). -/
  | hashJobComplete (g : Fin 16) (core : Fin 32)
  /-- OUTPUT_FIFO_DRAIN (R166). -/
  | outputFifoDrain (e : Fin 64) (n : Nat)
  /-- AO_CRYSTAL_STOP (R380). -/
  | aoCrystalStop
  /-- SMBUS_BLOCK_READ (R479). -/
  | smbusBlockRead (code : Byte)
  /-- SMBUS_ALERT_RESPONSE (R479). -/
  | smbusAlertResponse
  /-- SCAN_SHIFT (R427). -/
  | scanShift (ir : Byte) (dr : Bytes)
deriving DecidableEq, Repr

end Sys2Proof
end

