-- ==== Sys2Proof/Decode.lean ====
section
/-! DEFINITION. The decoder over the rows that give bits: the opcode table gives none. -/
namespace Sys2Proof

/-- The command a word spells. Every row of spec/opcode_table.json has an empty field list, so no word spells
a command. -/
def decodeTableWord (_nbits _w : Nat) : Option Instr := none

end Sys2Proof
end

