-- ==== Sys2Proof/Machine/Table.lean ====
section
/-! DEFINITION. Sparse tables: reading and writing one entry, and the canonical form. -/
namespace Sys2Proof.Machine
open Sys2Proof

/-- The value at key `k`; an unlisted key reads as `d`. -/
def Tbl.get {α : Type} (d : α) : Tbl α → Nat → α
  | [], _ => d
  | (j, v) :: t, k => if j = k then v else Tbl.get d t k

/-- Put `v` at key `k`, keeping keys in rising order. -/
def Tbl.put {α : Type} : Tbl α → Nat → α → Tbl α
  | [], k, v => [(k, v)]
  | (j, w) :: t, k, v =>
    if k = j then (k, v) :: t
    else if k < j then (k, v) :: (j, w) :: t
    else (j, w) :: Tbl.put t k v

/-- Take the entry of key `k` out. -/
def Tbl.del {α : Type} (m : Tbl α) (k : Nat) : Tbl α := m.filter (fun p => decide (p.1 ≠ k))

/-- Write `v` at key `k`; writing what an unlisted key reads as takes the entry out. -/
def Tbl.set {α : Type} [DecidableEq α] (d : α) (m : Tbl α) (k : Nat) (v : α) : Tbl α :=
  if v = d then Tbl.del m k else Tbl.put m k v

/-- Change the entry of key `k` by `f`. -/
def Tbl.upd {α : Type} [DecidableEq α] (d : α) (m : Tbl α) (k : Nat) (f : α → α) : Tbl α :=
  Tbl.set d m k (f (Tbl.get d m k))

/-- Keys strictly rising from above `lo`, and no entry equal to `d`. -/
def Tbl.wfFrom {α : Type} [DecidableEq α] (d : α) : Nat → Tbl α → Bool
  | _, [] => true
  | lo, (k, v) :: t => decide (lo ≤ k) && decide (v ≠ d) && Tbl.wfFrom d (k + 1) t

/-- The canonical form of a sparse table. -/
def Tbl.wf {α : Type} [DecidableEq α] (d : α) (m : Tbl α) : Bool := Tbl.wfFrom d 0 m

/-- Write consecutive entries from key `k` on. -/
def Tbl.setList {α : Type} [DecidableEq α] (d : α) (m : Tbl α) (k : Nat) : List α → Tbl α
  | [] => m
  | v :: vs => Tbl.setList d (Tbl.set d m k v) (k + 1) vs

/-- Read `n` consecutive entries from key `k` on. -/
def Tbl.getList {α : Type} (d : α) (m : Tbl α) (k : Nat) : Nat → List α
  | 0 => []
  | n + 1 => Tbl.get d m k :: Tbl.getList d m (k + 1) n

end Sys2Proof.Machine
end

