-- ==== Sys2Proof/Machine/Bits.lean ====
section
/-! DEFINITION. Bit fields, byte strings and byte order (R3, R4). -/
namespace Sys2Proof.Machine
open Sys2Proof

/-- Bits `[lo + w - 1 : lo]` of a number (R3). -/
def bitsOf (v lo w : Nat) : Nat := (v >>> lo) % 2 ^ w

/-- Field `[lo + w - 1 : lo]` of a 32-bit register word. -/
def fld (v : Word) (lo w : Nat) : Nat := bitsOf v.toNat lo w

/-- Bit `i` of a 32-bit register word. -/
def flag (v : Word) (i : Nat) : Bool := v.getLsbD i

/-- A one-bit field's number. -/
def b2n (b : Bool) : Nat := if b then 1 else 0

/-- A register word from its fields, each a value and its lowest bit. -/
def word (fs : List (Nat × Nat)) : Word :=
  BitVec.ofNat 32 (fs.foldl (fun a p => a + p.1 <<< p.2) 0)

/-- The little-endian bytes of `v`, `n` of them (R4). -/
def leBytes : Nat → Nat → Bytes
  | 0, _ => []
  | n + 1, v => BitVec.ofNat 8 v :: leBytes n (v / 256)

/-- The number that little-endian bytes hold (R4). -/
def ofLe : Bytes → Nat
  | [] => 0
  | b :: bs => b.toNat + 256 * ofLe bs

/-- The big-endian bytes of `v`, `n` of them (R58). -/
def beBytes (n v : Nat) : Bytes := (leBytes n v).reverse

/-- The number that big-endian bytes hold (R58). -/
def ofBe (b : Bytes) : Nat := ofLe b.reverse

/-- `n` zero bytes. -/
def zeros (n : Nat) : Bytes := List.replicate n 0

/-- Cut or fill with zero bytes to exactly `n` bytes. -/
def fit (n : Nat) (b : Bytes) : Bytes := (b ++ zeros (n - b.length)).take n

/-- Bytes `[at, at + n)` of a byte string; bytes beyond its end read 0. -/
def slice (b : Bytes) (off n : Nat) : Bytes := fit n (b.drop off)

/-- The little-endian number in bytes `[at, at + n)`. -/
def leAt (b : Bytes) (off n : Nat) : Nat := ofLe (slice b off n)

/-- The byte at an offset. -/
def byteAt (b : Bytes) (off : Nat) : Nat := leAt b off 1

/-- Exclusive or of two byte strings, as long as the shorter. -/
def xorB (a b : Bytes) : Bytes := List.zipWith (· ^^^ ·) a b

/-- Put `v` over the bytes of `b` from `off` on; bytes that fall past the end are dropped. -/
def overlay (b : Bytes) (off : Nat) (v : Bytes) : Bytes :=
  (b.take off ++ v ++ b.drop (off + v.length)).take b.length

/-- The pieces of `n` bytes of a byte string, the last maybe shorter. -/
def chunks (n : Nat) (b : Bytes) : List Bytes :=
  (List.range ((b.length + n - 1) / n)).map (fun i => (b.drop (i * n)).take n)

/-- Is every byte 0? -/
def allZero (b : Bytes) : Bool := b.all (· == 0)

/-- `a` divided by `b`, rounded up. -/
def ceilDiv (a b : Nat) : Nat := (a + b - 1) / b

/-- Round up to a multiple of `m`. -/
def roundUp (a m : Nat) : Nat := ceilDiv a m * m

/-- A list of numbers without repeats. -/
def uniq : List Nat → List Nat
  | [] => []
  | x :: t => if t.contains x then uniq t else x :: uniq t

/-- The signed value of the low `w` bits. -/
def sgn (w v : Nat) : Int := (BitVec.ofNat w v).toInt

end Sys2Proof.Machine
end

