-- ==== Sys2Proof/Machine/Crc.lean ====
section
/-! DEFINITION. The check-value functions and the record check code. -/
namespace Sys2Proof.Machine
open Sys2Proof

/-- One bit of a reflected CRC. -/
def crcBitR {w : Nat} (poly r : BitVec w) : BitVec w :=
  if r.getLsbD 0 then (r >>> 1) ^^^ poly else r >>> 1

/-- One byte of a reflected CRC whose reflected polynomial is `poly`. -/
def crcByteR {w : Nat} (poly r : BitVec w) (b : Byte) : BitVec w :=
  Nat.repeat (crcBitR poly) 8 (r ^^^ b.zeroExtend w)

/-- One bit of an unreflected CRC. -/
def crcBitF {w : Nat} (poly r : BitVec w) : BitVec w :=
  if r.getLsbD (w - 1) then (r <<< 1) ^^^ poly else r <<< 1

/-- One byte of an unreflected CRC with polynomial `poly`. -/
def crcByteF {w : Nat} (poly r : BitVec w) (b : Byte) : BitVec w :=
  Nat.repeat (crcBitF poly) 8 (r ^^^ (b.zeroExtend w <<< (w - 8)))

/-- The CRC-32C running value over some bytes. -/
def crc32cRun (r : BitVec 32) (bs : Bytes) : BitVec 32 := bs.foldl (crcByteR 0x82F63B78#32) r

/-- The CRC-32C check value of some bytes (R351). -/
def crc32c (bs : Bytes) : BitVec 32 := ~~~ crc32cRun 0xFFFFFFFF#32 bs

/-- The check byte of a counter-record copy (Table 9-1). -/
def crc8 (bs : Bytes) : BitVec 8 := ~~~ bs.foldl (crcByteF 0x2F#8) 0xFF#8

end Sys2Proof.Machine
end

