-- ==== Sys2Proof/Machine/StateUnits.lean ====
section
/-! DEFINITION. The state of the hash arrays, digest engines and check-value units. -/
namespace Sys2Proof.Machine
open Sys2Proof

/-- One hash-array job: the requester (engines 0–3 of the group, 4 the digest engine), its XOF context, and the Shield order
it runs at (R230). -/
structure HashJob where
  who : Nat
  ctx : Nat
  order : Nat := 0
deriving DecidableEq, Repr, Inhabited

/-- One hash array (R227–R229): what each core runs, the waiting jobs in issue order, and the engine last
served on each core. -/
structure HashArray where
  run  : Tbl (Option HashJob) := []
  wait : List HashJob := []
  last : Tbl Nat := []
deriving DecidableEq, Repr, Inhabited

/-- The owner of a digest engine or check-value unit (R233, R375). -/
inductive UnitOwner where
  | none | parser | core (c : Nat) | manager
deriving DecidableEq, Repr, Inhabited

/-- DGE_STATUS.state. -/
inductive DgeState where
  | idle | owned | absorbing | finishing | done | aborted
deriving DecidableEq, Repr, Inhabited

/-- One digest engine (R233–R245 and the DGE registers). `key` is the fed key with its shares s1 to sd and its order (R242),
`done` of `total` the compressions of the message that core 31 has done (R232). -/
structure Dge where
  owner   : UnitOwner := .none
  inst    : Nat := 0
  cmd     : Option Nat := none
  offline : Bool := false
  inReset : Bool := false
  alg     : Nat := 0
  compare : Bool := false
  keyed   : Bool := false
  source  : Bool := false
  len     : Nat := 0
  outlen  : Nat := 0
  dmaIn   : Word64 := 0
  dmaOut  : Word64 := 0
  dataLo  : Word := 0
  lastLo  : Word := 0
  lastHi  : Word := 0
  timeoutUs : Nat := 0x64
  st      : DgeState := .idle
  equal   : Bool := false
  notEqual : Bool := false
  truncated : Bool := false
  timeout : Bool := false
  dmaError : Bool := false
  short   : Bool := false
  offloaded : Bool := false
  cfgIgnored : Bool := false
  foreign : Bool := false
  count   : Nat := 0
  expect  : Bytes := []
  result  : Bytes := []
  msg     : Bytes := []
  key     : Option Bytes := none
  keyMasks : List (BitVec 512) := []
  keyOrder : Nat := 0
  done    : Nat := 0
  total   : Nat := 0
  truncSeen : Bool := false
deriving DecidableEq, Repr, Inhabited

/-- CVU_STATUS.state. -/
inductive CvuState where
  | idle | owned | running | done | stopped | aborted
deriving DecidableEq, Repr, Inhabited

/-- One check-value unit (R371–R377 and the CVU registers). -/
structure Cvu where
  owner   : UnitOwner := .none
  inst    : Nat := 0
  cmd     : Option Nat := none
  offline : Bool := false
  inReset : Bool := false
  alg     : Nat := 0
  source  : Nat := 0
  guard   : Nat := 0
  cont    : Bool := false
  alive   : Nat := 0
  addr    : Word64 := 0
  len     : Nat := 0
  seq     : Word := 0
  fold    : Word64 := 0
  run     : Word64 := 0
  result  : Word64 := 0
  bytes   : Nat := 0
  st      : CvuState := .idle
  dmaError : Bool := false
  memError : Bool := false
  cfgIgnored : Bool := false
  foreign : Bool := false
  stopReq : Bool := false
deriving DecidableEq, Repr, Inhabited

end Sys2Proof.Machine
end

