-- ==== Sys2Proof/Machine/CheckVal.lean ====
section
/-! DEFINITION. The check-value algorithms and guard folds (17 R371–R373). -/
namespace Sys2Proof.Machine
open Sys2Proof

/-- One byte of Adler-32: the halves b and a, modulo 65,521. -/
def adlerByte (r : Nat) (b : Byte) : Nat :=
  let a := (r % 65536 + b.toNat) % 65521
  (r / 65536 + a) % 65521 * 65536 + a

/-- The initial value of an algorithm (Table 17-1). -/
def cvInit : Nat → Nat
  | 0 => 0xFFFFFFFF
  | 1 => 0xFFFFFFFF
  | 2 => 0
  | 3 => 0xFFFF
  | _ => 1

/-- The running value after some bytes (R371, R372). -/
def cvRun (alg r : Nat) (bs : Bytes) : Nat :=
  match alg with
  | 0 => (bs.foldl (crcByteR 0x82F63B78#32) (BitVec.ofNat 32 r)).toNat
  | 1 => (bs.foldl (crcByteR 0xEDB88320#32) (BitVec.ofNat 32 r)).toNat
  | 2 => (bs.foldl (crcByteF 0x42F0E1EBA9EA3693#64) (BitVec.ofNat 64 r)).toNat
  | 3 => (bs.foldl (crcByteF 0x1021#16) (BitVec.ofNat 16 r)).toNat
  | _ => bs.foldl adlerByte (r % 2 ^ 32)

/-- The final XOR of an algorithm. -/
def cvXor : Nat → Nat
  | 0 => 0xFFFFFFFF
  | 1 => 0xFFFFFFFF
  | _ => 0

/-- The guard bytes of R373. -/
def guardBytes (guard alive : Nat) (fold seq : Nat) : Bytes :=
  match guard with
  | 1 => [BitVec.ofNat 8 (0xA0 + alive % 16)]
  | 2 => leBytes 8 fold ++ leBytes 4 seq
  | _ => []

/-- The final value from the running value (R372). -/
def cvFinal (alg r : Nat) (guard : Bytes) : Nat := cvRun alg r guard ^^^ cvXor alg

/-- An Adler-32 running value with a half of 65,521 or more is refused (R372). -/
def adlerBad (alg r : Nat) : Bool :=
  alg == 4 && (decide (65521 ≤ r % 65536) || decide (65521 ≤ r / 65536 % 65536))

end Sys2Proof.Machine
end

