-- ==== Sys2Proof/Machine/Aes.lean ====
section
/-! DEFINITION. AES and the modes of R84 (as FIPS 197, SP 800-38A/B/D/E and RFC 3394, RFC 5649 define them). -/
namespace Sys2Proof.Machine
open Sys2Proof

/-- Multiply by x in the AES field. -/
def xtime (a : Byte) : Byte := if a.getLsbD 7 then (a <<< 1) ^^^ 0x1B else a <<< 1

/-- Multiply in the AES field. -/
def gmul8 (a b : Byte) : Byte :=
  (List.range 8).foldl (fun r i => if b.getLsbD i then r ^^^ Nat.repeat xtime i a else r) 0

/-- The inverse in the AES field, 0 for 0: the 254th power. -/
def ginv8 (a : Byte) : Byte :=
  let sq := fun x => gmul8 x x
  let p2 := sq a
  let p3 := gmul8 p2 a
  let p12 := sq (sq p3)
  let p15 := gmul8 p12 p3
  let p240 := Nat.repeat sq 4 p15
  gmul8 (gmul8 p240 p12) p2

/-- The S-box, computed. -/
def sboxOf (a : Byte) : Byte :=
  let b := ginv8 a
  b ^^^ b.rotateLeft 1 ^^^ b.rotateLeft 2 ^^^ b.rotateLeft 3 ^^^ b.rotateLeft 4 ^^^ 0x63

/-- The S-box of all 256 bytes as one number, byte `a` at bit `8a`. -/
def sboxTable : Nat := ofLe ((List.range 256).map (fun a => sboxOf (BitVec.ofNat 8 a)))

/-- The inverse S-box of all 256 bytes, each put at the place its S-box value names. -/
def invSboxTable : Nat :=
  (List.range 256).foldl (fun t a => t + a <<< (8 * (sboxOf (BitVec.ofNat 8 a)).toNat)) 0

/-- The S-box. -/
def sbox (a : Byte) : Byte := BitVec.ofNat 8 (sboxTable >>> (8 * a.toNat))

/-- The inverse S-box. -/
def invSbox (a : Byte) : Byte := BitVec.ofNat 8 (invSboxTable >>> (8 * a.toNat))

/-- Extend the key schedule, words of four bytes, by `n` words; `nk` words of key. -/
def aesExpand (nk : Nat) : Nat → List Bytes → List Bytes
  | 0, ws => ws
  | n + 1, ws =>
    let i := ws.length
    let t := (ws.drop (i - 1)).headD []
    let rc := Nat.repeat xtime (i / nk - 1) (1 : Byte)
    let t' :=
      if i % nk = 0 then xorB ((t.drop 1 ++ t.take 1).map sbox) [rc, 0, 0, 0]
      else if 6 < nk ∧ i % nk = 4 then t.map sbox else t
    aesExpand nk n (ws ++ [xorB ((ws.drop (i - nk)).headD []) t'])

/-- The round keys of a key of 16, 24 or 32 bytes. -/
def aesKeys (key : Bytes) : List Bytes :=
  let nk := key.length / 4
  chunks 16 (aesExpand nk (4 * (nk + 7) - nk) (chunks 4 key)).flatten

/-- The byte of an AES state at row `r`, column `c`. -/
def aesB (s : Bytes) (r c : Nat) : Byte := (s.drop (r + 4 * (c % 4))).headD 0

/-- ShiftRows by `d` columns a row (1 forward, 3 back). -/
def aesShift (d : Nat) (s : Bytes) : Bytes :=
  (List.range 16).map (fun i => aesB s (i % 4) (i / 4 + d * (i % 4)))

/-- MixColumns with the given first row. -/
def aesMix (m : List Byte) (s : Bytes) : Bytes :=
  (List.range 16).map (fun i =>
    (List.range 4).foldl (fun a j =>
      a ^^^ gmul8 (aesB s j (i / 4)) ((m.drop ((j + 4 - i % 4) % 4)).headD 0)) 0)

/-- The middle rounds and the last one of encryption. -/
def aesEncRounds : List Bytes → Bytes → Bytes
  | [], s => s
  | [k], s => xorB (aesShift 1 (s.map sbox)) k
  | k :: ks, s => aesEncRounds ks (xorB (aesMix [2, 3, 1, 1] (aesShift 1 (s.map sbox))) k)

/-- Encrypt one block. -/
def aesEnc (key blk : Bytes) : Bytes :=
  match aesKeys key with
  | [] => blk
  | k :: ks => aesEncRounds ks (xorB blk k)

/-- The middle rounds and the last one of decryption, round keys from the last on. -/
def aesDecRounds : List Bytes → Bytes → Bytes
  | [], s => s
  | [k], s => xorB ((aesShift 3 s).map invSbox) k
  | k :: ks, s => aesDecRounds ks (aesMix [14, 11, 13, 9] (xorB ((aesShift 3 s).map invSbox) k))

/-- Decrypt one block. -/
def aesDec (key blk : Bytes) : Bytes :=
  match (aesKeys key).reverse with
  | [] => blk
  | k :: ks => aesDecRounds ks (xorB blk k)

/-- ECB over whole blocks with a block function. -/
def ecb (f : Bytes → Bytes) (m : Bytes) : Bytes := (chunks 16 m).flatMap f

/-- CBC encryption. -/
def cbcEnc (key : Bytes) : List Bytes → Bytes → Bytes
  | [], _ => []
  | b :: bs, iv => let c := aesEnc key (xorB b iv); c ++ cbcEnc key bs c

/-- CBC decryption. -/
def cbcDec (key : Bytes) : List Bytes → Bytes → Bytes
  | [], _ => []
  | c :: cs, iv => xorB (aesDec key c) iv ++ cbcDec key cs c

/-- The counter block `i` blocks after `cb`, its low `w` bits counting big-endian (Table 3-8). -/
def ctrBlock (cb : Bytes) (w i : Nat) : Bytes :=
  let v := ofBe cb
  beBytes 16 (v / 2 ^ w * 2 ^ w + (v + i) % 2 ^ w)

/-- CTR over a message from a counter block with counter width `w`. -/
def ctrMode (key cb : Bytes) (w : Nat) (m : Bytes) : Bytes :=
  let n := ceilDiv m.length 16
  xorB m ((List.range n).flatMap (fun i => aesEnc key (ctrBlock cb w i)))

/-- The product of GHASH's field, bit 0 the most significant bit of byte 0. -/
def ghashMul (x y : BitVec 128) : BitVec 128 :=
  ((List.range 128).foldl (fun (p : BitVec 128 × BitVec 128) i =>
    (if x.getLsbD (127 - i) then p.1 ^^^ p.2 else p.1,
     if p.2.getLsbD 0 then (p.2 >>> 1) ^^^ (0xE1#128 <<< 120) else p.2 >>> 1)) (0, y)).1

/-- GHASH of whole blocks under the hash key `h`. -/
def ghash (h : BitVec 128) (m : Bytes) : BitVec 128 :=
  (chunks 16 m).foldl (fun y b => ghashMul (y ^^^ BitVec.ofNat 128 (ofBe b)) h) 0

/-- Zero-fill to whole blocks. -/
def pad16 (m : Bytes) : Bytes := fit (roundUp m.length 16) m

/-- The GCM tag of 16 bytes of associated data `a` and ciphertext `c`, for a 12-byte IV. -/
def gcmTag (key iv a c : Bytes) : Bytes :=
  let h := BitVec.ofNat 128 (ofBe (aesEnc key (zeros 16)))
  let s := ghash h (pad16 a ++ pad16 c ++ beBytes 8 (8 * a.length) ++ beBytes 8 (8 * c.length))
  xorB (beBytes 16 s.toNat) (aesEnc key (iv ++ [0, 0, 0, 1]))

/-- GCM's counter-mode part for a 12-byte IV. -/
def gcmCtr (key iv m : Bytes) : Bytes := ctrMode key (iv ++ [0, 0, 0, 2]) 32 m

/-- Multiply an XTS tweak by α. -/
def xtsAlpha (t : Bytes) : Bytes :=
  let v := ofLe t
  leBytes 16 (if 2 ^ 127 ≤ v then (2 * v) % 2 ^ 128 ^^^ 0x87 else 2 * v)

/-- XTS over whole blocks from tweak `t`. -/
def xtsBlocks (f : Bytes → Bytes) : List Bytes → Bytes → Bytes
  | [], _ => []
  | b :: bs, t => xorB (f (xorB b t)) t ++ xtsBlocks f bs (xtsAlpha t)

/-- XTS over one data unit (at least 16 bytes), with ciphertext stealing; `enc` chooses the direction. -/
def xts (enc : Bool) (key tweak m : Bytes) : Bytes :=
  let k1 := key.take (key.length / 2)
  let k2 := key.drop (key.length / 2)
  let f := if enc then aesEnc k1 else aesDec k1
  let t0 := aesEnc k2 tweak
  let q := m.length / 16
  let r := m.length % 16
  if r = 0 then xtsBlocks f (chunks 16 m) t0
  else
    let head := m.take (16 * (q - 1))
    let blk := (m.drop (16 * (q - 1))).take 16
    let tail := m.drop (16 * q)
    let tq := Nat.repeat xtsAlpha (q - 1) t0
    let tq1 := xtsAlpha tq
    let (ta, tb) := if enc then (tq, tq1) else (tq1, tq)
    let c := xorB (f (xorB blk ta)) ta
    let p := xorB (f (xorB (tail ++ c.drop r) tb)) tb
    xtsBlocks f (chunks 16 head) t0 ++ p ++ c.take r

/-- Double a CMAC subkey. -/
def cmacDbl (b : Bytes) : Bytes :=
  let v := ofBe b
  beBytes 16 (if 2 ^ 127 ≤ v then (2 * v) % 2 ^ 128 ^^^ 0x87 else 2 * v)

/-- AES-CMAC of a message, 16 bytes. -/
def cmac (key m : Bytes) : Bytes :=
  let k1 := cmacDbl (aesEnc key (zeros 16))
  let n := if m.length = 0 then 1 else ceilDiv m.length 16
  let last := m.drop (16 * (n - 1))
  let last' :=
    if last.length = 16 then xorB last k1 else xorB (fit 16 (last ++ [0x80])) (cmacDbl k1)
  ((chunks 16 (m.take (16 * (n - 1)))) ++ [last']).foldl (fun c b => aesEnc key (xorB c b)) (zeros 16)

/-- One step of the RFC 3394 wrap: register A, the block list R, step number `t` of `n` blocks. -/
def kwStep (key : Bytes) (n : Nat) (ar : Bytes × List Bytes) (t : Nat) : Bytes × List Bytes :=
  let i := t % n
  let b := aesEnc key (ar.1 ++ (ar.2.drop i).headD [])
  (xorB (b.take 8) (beBytes 8 (t + 1)), ar.2.set i (b.drop 8))

/-- The RFC 3394 wrap of at least two 8-byte blocks under the initial value `iv`. -/
def kwWrap (key iv m : Bytes) : Bytes :=
  let n := m.length / 8
  let r := (List.range (6 * n)).foldl (kwStep key n) (iv, chunks 8 m)
  r.1 ++ r.2.flatten

/-- One step of the unwrap. -/
def kwUnstep (key : Bytes) (n : Nat) (ar : Bytes × List Bytes) (t : Nat) : Bytes × List Bytes :=
  let i := t % n
  let b := aesDec key (xorB ar.1 (beBytes 8 (t + 1)) ++ (ar.2.drop i).headD [])
  (b.take 8, ar.2.set i (b.drop 8))

/-- The RFC 3394 unwrap: the recovered initial value and the data. -/
def kwUnwrap (key c : Bytes) : Bytes × Bytes :=
  let n := c.length / 8 - 1
  let r := ((List.range (6 * n)).reverse).foldl (kwUnstep key n) (c.take 8, chunks 8 (c.drop 8))
  (r.1, r.2.flatten)

/-- The initial value of RFC 3394. -/
def kwIv : Bytes := List.replicate 8 0xA6

/-- The alternative initial value of RFC 5649 for a length. -/
def kwpIv (n : Nat) : Bytes := [0xA6, 0x59, 0x59, 0xA6] ++ beBytes 4 n

/-- The RFC 5649 wrap. -/
def kwpWrap (key m : Bytes) : Bytes :=
  let p := fit (roundUp m.length 8) m
  if p.length = 8 then aesEnc key (kwpIv m.length ++ p) else kwWrap key (kwpIv m.length) p

/-- The RFC 5649 unwrap, none where the integrity or padding check fails. -/
def kwpUnwrap (key c : Bytes) : Option Bytes :=
  let (iv, p) :=
    if c.length = 16 then let b := aesDec key c; (b.take 8, b.drop 8) else kwUnwrap key c
  let n := ofBe (iv.drop 4)
  if iv.take 4 = [0xA6, 0x59, 0x59, 0xA6] ∧ n ≤ p.length ∧ p.length < n + 8 ∧ allZero (p.drop n)
  then some (p.take n) else none

end Sys2Proof.Machine
end

