-- ==== Sys2Proof/Machine/Keccak.lean ====
section
/-! DEFINITION. Keccak-f[1600], SHA-3, SHAKE, cSHAKE and KMAC (as FIPS 202 and SP 800-185 define them). -/
namespace Sys2Proof.Machine
open Sys2Proof

/-- Lane (x, y) of a state held as 25 lanes, lane x + 5y. -/
def kLane (a : List (BitVec 64)) (x y : Nat) : BitVec 64 := (a.drop (x % 5 + 5 * (y % 5))).headD 0

/-- The rotation counts of ρ in the order of x + 5y. -/
def kRho : List Nat :=
  [0, 1, 62, 28, 27, 36, 44, 6, 55, 20, 3, 10, 43, 25, 39, 41, 45, 15, 21, 8, 18, 2, 61, 56, 14]

/-- One step of the register that makes the round constants. -/
def kLfsr (r : BitVec 8) : BitVec 8 := if r.getLsbD 7 then (r <<< 1) ^^^ 0x71 else r <<< 1

/-- The round constant of round `i`. -/
def kRc (i : Nat) : BitVec 64 :=
  (List.range 7).foldl (fun a j =>
    if (Nat.repeat kLfsr (7 * i + j) (1 : BitVec 8)).getLsbD 0 then a ^^^ (1#64 <<< (2 ^ j - 1)) else a) 0

/-- One round of Keccak-f[1600]. -/
def kRound (a : List (BitVec 64)) (rc : BitVec 64) : List (BitVec 64) :=
  let c := (List.range 5).map (fun x =>
    kLane a x 0 ^^^ kLane a x 1 ^^^ kLane a x 2 ^^^ kLane a x 3 ^^^ kLane a x 4)
  let g := fun x => (c.drop (x % 5)).headD 0
  let d := fun x => g (x + 4) ^^^ (g (x + 1)).rotateLeft 1
  let t := (List.range 25).map (fun i =>
    (kLane a (i % 5) (i / 5) ^^^ d (i % 5)).rotateLeft ((kRho.drop i).headD 0))
  let b := (List.range 25).map (fun i => kLane t (i % 5 + 3 * (i / 5)) (i % 5))
  ((List.range 25).map (fun i =>
    kLane b (i % 5) (i / 5) ^^^ (~~~ kLane b (i % 5 + 1) (i / 5) &&& kLane b (i % 5 + 2) (i / 5)))).modify 0
    (· ^^^ rc)

/-- The permutation of 24 rounds. -/
def keccakF (a : List (BitVec 64)) : List (BitVec 64) :=
  ((List.range 24).map kRc).foldl kRound a

/-- Add one block of bytes into the state and permute. -/
def kAbsorb (a : List (BitVec 64)) (blk : Bytes) : List (BitVec 64) :=
  keccakF ((chunks 8 (fit 200 blk)).zipWith (fun c l => l ^^^ BitVec.ofNat 64 (ofLe c)) a)

/-- The bytes of the state. -/
def kBytes (a : List (BitVec 64)) : Bytes := a.flatMap (fun l => leBytes 8 l.toNat)

/-- Squeeze `k` blocks of `r` bytes. -/
def kSqueeze (r : Nat) : Nat → List (BitVec 64) → Bytes
  | 0, _ => []
  | k + 1, a => (kBytes a).take r ++ kSqueeze r k (keccakF a)

/-- The sponge with rate `r` bytes and domain byte `dom`, giving `n` bytes. -/
def sponge (r : Nat) (dom : Byte) (m : Bytes) (n : Nat) : Bytes :=
  let p := fit (((m.length + 1) + r - 1) / r * r) (m ++ [dom])
  let p' := p.modify (p.length - 1) (· ^^^ 0x80)
  (kSqueeze r ((n + r - 1) / r)
    ((chunks r p').foldl kAbsorb (List.replicate 25 0))).take n

/-- SHA3-256 (R79). -/
def sha3_256 (m : Bytes) : Bytes := sponge 136 0x06 m 32
/-- SHA3-384 (R79). -/
def sha3_384 (m : Bytes) : Bytes := sponge 104 0x06 m 48
/-- SHA3-512 (R79). -/
def sha3_512 (m : Bytes) : Bytes := sponge 72 0x06 m 64
/-- SHAKE128 (R79). -/
def shake128 (m : Bytes) (n : Nat) : Bytes := sponge 168 0x1F m n
/-- SHAKE256 (R79). -/
def shake256 (m : Bytes) (n : Nat) : Bytes := sponge 136 0x1F m n

/-- The fewest bytes, at least one, that hold `v`, big-endian. -/
def minBe (v : Nat) : Bytes :=
  let n := (List.range 9).foldl (fun a i => if 256 ^ i ≤ v then i + 1 else a) 1
  beBytes n v

/-- left_encode of SP 800-185. -/
def leftEnc (v : Nat) : Bytes := let b := minBe v; BitVec.ofNat 8 b.length :: b
/-- right_encode of SP 800-185. -/
def rightEnc (v : Nat) : Bytes := let b := minBe v; b ++ [BitVec.ofNat 8 b.length]
/-- encode_string of SP 800-185. -/
def encStr (b : Bytes) : Bytes := leftEnc (8 * b.length) ++ b
/-- bytepad of SP 800-185. -/
def bytepad (b : Bytes) (r : Nat) : Bytes :=
  let x := leftEnc r ++ b
  fit (roundUp x.length r) x

/-- cSHAKE with rate `r`, function name `nm` and customization `cu`. -/
def cshake (r : Nat) (nm cu m : Bytes) (n : Nat) : Bytes :=
  sponge r 0x04 (bytepad (encStr nm ++ encStr cu) r ++ m) n

/-- KMAC with rate `r` (R82): key, message, customization, output bytes. -/
def kmac (r : Nat) (key m cu : Bytes) (n : Nat) : Bytes :=
  cshake r [0x4B, 0x4D, 0x41, 0x43] cu (bytepad (encStr key) r ++ m ++ rightEnc (8 * n)) n

/-- KMAC128 (R82). -/
def kmac128 (key m cu : Bytes) (n : Nat) : Bytes := kmac 168 key m cu n
/-- KMAC256 (R82). -/
def kmac256 (key m cu : Bytes) (n : Nat) : Bytes := kmac 136 key m cu n

/-- HMAC over a hash with block size `b` (R82). -/
def hmac (h : Bytes → Bytes) (b : Nat) (key m : Bytes) : Bytes :=
  let k := fit b (if b < key.length then h key else key)
  h (k.map (· ^^^ 0x5C) ++ h (k.map (· ^^^ 0x36) ++ m))

end Sys2Proof.Machine
end

