-- ==== Sys2Proof/Config.lean ====
section
/-! DEFINITION. The values the spec leaves open (no body: nothing can be proved about them) and the results
of the external standards that the spec names but does not restate. -/
namespace Sys2Proof

/-- A byte whose value the spec leaves open: the `n`-th such byte of the run. -/
opaque Config.freeByte : Nat → Byte

/-- A number whose value the spec leaves open (an estimate, a measured value): the `n`-th of the run. -/
opaque Config.freeNat : Nat → Nat

/-- Lane `i` of state `j` of a mask generator that absorbs a seed (R125): the spec does not say how 256 bits enter
eight states. -/
opaque Config.mgLane : List (List (BitVec 64)) → Bytes → Nat → Nat → BitVec 64

/-- A word of the microcode ROM (R169); the spec gives none. -/
opaque Config.romWord : Nat → BitVec 256

/-- A word of patch RAM that no patch has written. -/
opaque Config.patchOpen : Nat → BitVec 256

/-- Does the ROM routine of a number fetch this ROM address (its entry vector apart)? -/
opaque Config.romReaches : Nat → Nat → Bool

/-- What a Spoke operation of a microword gives (Table 7-1 names op and does not list it): op, mode, wsel and the two
operands. -/
opaque Config.spokeOp : Nat → Nat → Nat → BitVec 8192 → BitVec 8192 → BitVec 8192

/-- The WORK or CACHE offset, in 64-byte lines, that the address-generator control of a microword names. -/
opaque Config.microLine : Nat → Nat

/-- The transform of R165 with the twiddle table of modulus slots 2 and 3, whose layout the spec does not
give: inverse or not, q, the CONST image, the table's address, the elements. -/
opaque Config.slotNtt : Bool → Nat → Tbl Byte → Nat → List Nat → List Nat

/-- The additive FFT of R165 (the basis and order are the micro-routine's): inverse or not, m, field
polynomial, the elements. -/
opaque Config.additiveFft : Bool → Nat → Nat → List Nat → List Nat

/-- The Goppa decoding step of R165: m, field polynomial, the operand and the Goppa polynomial. -/
opaque Config.goppaStep : Nat → Nat → List Nat → List Nat → List Nat

/-- Montgomery reduction by an even or zero modulus, which R165 leaves open: words, value, modulus. -/
opaque Config.mpReduceOpen : Nat → Nat → Nat → Nat

/-- Candidate `i` of the prime search of an RSA key generation (R201): the random bits it draws. -/
opaque Config.primeCandidate : Bytes → Nat → Nat

/-- Base `j` of the Miller–Rabin rounds on candidate `i` (R201). -/
opaque Config.primeBase : Bytes → Nat → Nat → Nat

/-- The body of an RSA key whose prime search fails as the standard's does (R201): the spec does not say what the device
does then. -/
opaque Config.primeFailure : Bytes → Bytes

/-- The identifier and seed of a tree of an HSS key: secret, level, tree number (R211: the device derives them from the
private seeds; the spec does not say how). -/
opaque Config.hssSeed : Bytes → Nat → Nat → Bytes

/-- The LMS randomiser C: secret, level, tree, leaf (R63: derived from the private seed and the leaf index). -/
opaque Config.lmsRandomiser : Bytes → Nat → Nat → Nat → Bytes

/-- The hash-array jobs of a tree-cache build (R225): parameter bytes. -/
opaque Config.treeJobs : Bytes → Nat

/-- A byte of an instance's Pannier region as the vault stored it: the Pannier key with what is resident, and
the offset. -/
opaque Config.pannierByte : Bytes → Nat → Byte

/-- What firmware puts into the CACHE window of a command (Table 6-2): the handle of its key and the key's public part;
tree nodes, their place and the window's size are the firmware's (R225), for the bottom tree whose caches stand (plus 1,
0 none) and the command's leaf. -/
opaque Config.cacheWindow : Nat → Bytes → Nat → Option Nat → Bytes

/-- The device certificate of a device identity (R108, Table 4-8), whose layout the spec does not give. -/
opaque Config.certificate : Bytes → Bytes

/-- The length of the certificate that stands at the front of some bytes. -/
opaque Config.certLen : Bytes → Nat

/-- Does a certificate verify (R108)? -/
opaque Config.certOk : Bytes → Bool

/-- The ML-DSA-87 public key of a certificate. -/
opaque Config.certKey : Bytes → Bytes

/-- The device's own ML-DSA-87 signature (Table 15-4), from its OTP identity and secret. -/
opaque Config.deviceSign : Bytes → Bytes → Bytes

/-- The vendor's ML-DSA-87 public key in the boot ROM. -/
opaque Config.vendorKey : Bytes

/-- Does an owner-signed Clazal extension bundle verify (R114), given the owner key digest? The spec does not
give the bundle's layout; the next four read its declaration, code and kernel. -/
opaque Config.extVerify : Bytes → Bytes → Bool

/-- The declaration's numbers (chapter 13): entry word, first and last opcode, kernel region start and length in
bytes, Hub engine, digest engine, check-value context wanted, limit in µs, program word of the code's start. -/
opaque Config.extFields : Bytes → List Nat

/-- Is the check code of a microword correct (R170)? The spec names a 9-bit SECDED code and does not give it. -/
opaque Config.eccOk : BitVec 256 → Bool

/-- The program words of an extension bundle. -/
opaque Config.extCode : Bytes → List (BitVec 14)

/-- The owner kernel image of an extension bundle. -/
opaque Config.extKernel : Bytes → Bytes

/-- The owner's ML-DSA-87 public key, from its digest: a debug token does not carry the key (R424). -/
opaque Config.ownerKey : Bytes → Bytes

/-- A byte that debug reads where the spec gives a memory no address layout or no plaintext (R421): space, address,
and the number of the read. -/
opaque Config.debugByte : Nat → Nat → Nat → Byte

end Sys2Proof
end

