-- ==== Sys2Proof/Machine/StateChip.lean ====
section
/-! DEFINITION. The state of the chip-wide blocks: modes and power, boot, life cycle, debug, tamper, faults,
counters, links, pins. -/
namespace Sys2Proof.Machine
open Sys2Proof

/-- The twelve operating modes (Table 1-4), in the order of their numbers. -/
inductive Mode where
  | off | watch | reset | boot | discover | freewheel | service | surge | drain | locked | zeroized | test
deriving DecidableEq, Repr, Inhabited

/-- The life-cycle states (Table 4-8). -/
inductive LcState where
  | maker | integrator | fielded | returned | scrapped
deriving DecidableEq, Repr, Inhabited

/-- Power, clocks and modes (PWR registers, R378–R397). -/
structure Pwr where
  mode     : Mode := .reset
  prev     : Mode := .reset
  cause    : Nat := 0
  fabLock  : Bool := false
  seqLock  : Bool := false
  dramLock : Bool := false
  aoRc     : Bool := false
  cfgIgnored : Bool := false
  fwEn     : Bool := true
  fwIdle   : Nat := 0x64
  drainRun : Nat := 0x28
  capW     : Nat := 0x2D
  surgeEn  : Bool := false
  maxMs    : Nat := 0xC8
  gapMs    : Nat := 0x320
  windDown : Bool := false
  blockedThermal : Bool := false
  blockedGap : Bool := false
  windows  : Nat := 0
  lastSurgeEnd : Option Nat := none
  fullEpochs : Nat := 0
  idleEpochs : Nat := 0
  tj       : Nat := 0
  surgeTj  : Nat := 0x5F
  power    : Nat := 0
  holdThr  : Nat := 0x4B0
  senseMv  : Nat := 0
  drainAbandoned : Nat := 0
  drainCut : Nat := 0
  drainSource : Nat := 0
  drainDur : Nat := 0
  drainCap : Nat := 0x2D
  drainRunEnded : Bool := false
  drainQuiesced : Bool := false
  trimmed  : Bool := false
  dramRails : Bool := false
  warnPin  : Bool := false
  links    : Nat := 0
  groups   : List Nat := []
deriving DecidableEq, Repr, Inhabited

/-- Boot (GLB registers, R398–R410). `fullSet` are the engines that run the full set of self-tests, once the engine test has
ended (R208), `staging` the BUNDLE_STAGE without a reply and the slot it writes (R410), `badSlots` the flash slots whose
cells do not take a write (R410), a condition of the board that nothing here changes. -/
structure Glb where
  phase    : Nat := 0
  image    : Nat := 3
  fallback : Bool := false
  svnDeferred : Bool := false
  error    : Nat := 0
  patchRejected : Bool := false
  ownerRequired : Bool := false
  cfgIgnored : Bool := false
  bootAddr : Word64 := 0
  bootLen  : Nat := 0
  flashA   : Bytes := []
  flashB   : Bytes := []
  staging  : Option (Nat × Nat) := none
  badSlots : List Nat := []
  header  : Bytes := []
  cand     : List Nat := []
  bundle   : Bytes := []
  bootSeq  : Nat := 0
  topSeq   : Nat := 0
  svn      : Nat := 0
  version  : Nat := 0
  sec1     : Nat := 0
  sec2     : Nat := 0
  katBits  : Nat := 0
  katFailed : Nat := 0
  katRunning : Bool := false
  katDone  : Bool := false
  katFatal : Bool := false
  fullSet  : Option (List Nat) := none
  verifierDone : Bool := false
  memDrawn : Bool := false
deriving DecidableEq, Repr, Inhabited

/-- Life cycle and OTP (LCS registers, R411–R420). -/
structure Lcs where
  otp      : Tbl Word64 := []
  st       : LcState := .maker
  invalid  : Bool := false
  sensed   : Bool := false
  burning  : Option (Nat × Word64) := none
  burnQ    : List (Nat × Word64) := []
  oblit    : Bool := false
  lcCmd    : Option Nat := none
deriving DecidableEq, Repr, Inhabited

/-- The instructions a TAP can hold (R422). -/
inductive TapIr where
  | extest | idcode | samplePreload | dbgChal | dbgToken | dbgReg | dbgMem | scan | bypass
deriving DecidableEq, Repr, Inhabited

/-- Debug (DBG registers, R421–R427). `regOut` and `memOut` are what the next capture returns, `boundary` the boundary
register, `extPins` the levels EXTEST drives, `tdo` what the last data scan shifted out,
`openedAt` the time the session opened. -/
structure Dbg where
  session  : Bool := false
  signer   : Nat := 0
  chal     : Option Bytes := none
  verifying : Bool := false
  tokenBad : Bool := false
  denied   : Bool := false
  perm     : Nat := 0
  remaining : Nat := 0
  deny     : Bool := false
  token    : Bytes := []
  bistRun  : Bool := false
  bistDone : Bool := false
  bistFail : Bool := false
  bistFirst : Nat := 0
  ir       : TapIr := .idcode
  regOut   : Word := 0
  memOut   : Bytes := []
  boundary : Bytes := []
  extPins  : Option Bytes := none
  tdo      : Bytes := []
  erased   : Bool := false
  openedAt : Nat := 0
deriving DecidableEq, Repr, Inhabited

/-- Tamper (TMP registers, R428–R445); the always-on part of the state. -/
structure Tmp where
  sealed   : Bool := false
  bbramLost : Bool := false
  erasing  : Bool := false
  tamperOut : Bool := false
  hostifStopped : Bool := false
  cfgIgnored : Bool := false
  fuseBusy : Bool := false
  classes  : Word := 0x03FF9C05
  alarm    : Nat := 0
  win0     : Word := 0x031102CB
  win1     : Word := 0x074E06C2
  win2     : Word := 0x0E740834
  tempWin  : Word := 0x7DE2
  inCfg    : Nat := 0x040F
  logIdx   : Nat := 0
  rtc      : Nat := 0
  rtcFrac  : Nat := 0
  crystal  : Bool := true
  armed7   : Bool := true
deriving DecidableEq, Repr, Inhabited

/-- One fault register set (R448–R458). `pend` lists the uncorrected records since pending set (class, unit,
REAL), `held` the units held offline by escalation and `heldBySw` those kept offline by code 2 (R453, R454); `liveEn`, `liveEsc` and `liveUs` are class_en,
escalate_int and the timer's length as the unit's last command boundary took them over (R7, R9). -/
structure FltSet where
  classBits : Nat := 0
  pending  : Bool := false
  escalated : Bool := false
  ackLate  : Bool := false
  inj      : Bool := false
  cfgIgnored : Bool := false
  seq      : Nat := 0
  corrCount : Nat := 0
  fChecker : Nat := 0
  fClass   : Nat := 0
  fInj     : Bool := false
  fReal    : Bool := false
  fMultiple : Bool := false
  fValid   : Bool := false
  fUnit    : Nat := 0
  fInst    : Nat := 0
  classEn  : Nat := 0x1E
  escInt   : Bool := true
  iChecker : Nat := 0
  iCount   : Nat := 0
  iMode    : Nat := 0
  armed    : Bool := false
  iLeft    : Nat := 0
  timerUs  : Nat := 0x32
  timerEnd : Option Nat := none
  actContained : Nat := 0
  actBlock : Nat := 1
  actDevice : Nat := 0
  pend     : List (Nat × Nat × Bool) := []
  held     : List Nat := []
  heldBySw : List Nat := []
  expired  : Bool := false
  liveEn   : Nat := 0x1E
  liveEsc  : Bool := true
  liveUs   : Nat := 0x32
deriving DecidableEq, Repr, Inhabited

/-- One Cadence counter (R460–R464). -/
structure Cnt where
  val     : Nat := 0
  event   : Nat := 0
  en      : Bool := false
  chain   : Bool := false
  ovf     : Bool := false
  ovfInt  : Bool := false
  scope   : Nat := 0
  filtEn  : Bool := false
  inst    : Nat := 0
  tag     : Nat := 0
deriving DecidableEq, Repr, Inhabited

/-- One sampling entry of four words (R466). -/
structure Sample where
  w0 : Word := 0
  w1 : Word := 0
  w2 : Word := 0
  w3 : Word := 0
deriving DecidableEq, Repr, Inhabited

/-- One sampling buffer of 256 entries (R466, R467). -/
structure SampBuf where
  precise : Bool := false
  wrap    : Bool := false
  coreInt : Bool := false
  entries : Tbl Sample := []
  head    : Nat := 0
  count   : Nat := 0
  lost    : Nat := 0
  gap     : Bool := false
deriving DecidableEq, Repr, Inhabited

/-- Cadence (CAD registers, R460–R470). Counters by bank number and index; `rem` holds the bytes not yet counted
by the events that count 64-byte units, `out` and `idx` each buffer's CAD_SAMP_DATA0–3 and CAD_SAMP_IDX. -/
structure Cad where
  cnt      : Tbl Cnt := []
  extRead  : Bool := false
  cfgIgnored : Bool := false
  buf      : Tbl SampBuf := []
  out      : Tbl Sample := []
  idx      : Tbl Nat := []
  rem      : Tbl Nat := []
deriving DecidableEq, Repr, Inhabited

/-- One Tandem link's state (TLK_LINK_STATUS). -/
inductive LinkState where
  | off | training | trained | keyed | down | unused
deriving DecidableEq, Repr, Inhabited

/-- One Tandem link (R349–R359). `retry` is the retry buffer, `returned` counts the receive buffers to return, `key`
is the secret KEYX agreed, `attested` that the peer's proof held, `secured` says that the peer has sent under it, `seed` is the KEYX key pair's; `fails`
counts the failed checks of the next frame, `naks` those of frame `nakSeq` at the peer. -/
structure Link where
  st      : LinkState := .off
  peer    : Nat := 0
  authFail : Bool := false
  foreign : Bool := false
  lanes   : Nat := 0
  replays : Nat := 0
  txSeq   : Nat := 0
  rxSeq   : Nat := 0
  retry   : List (Nat × Bytes) := []
  fails   : Nat := 0
  nakSeq  : Nat := 0
  naks    : Nat := 0
  returned : Nat := 0
  key     : Option Bytes := none
  secured : Bool := false
  attested : Bool := false
  peerCert : Bytes := []
  seed    : Option Bytes := none
deriving DecidableEq, Repr, Inhabited

/-- A transaction of a command with another member (R367): `acked` says that the REQ was acknowledged. -/
structure Txn where
  id     : Nat := 0
  cmd    : Nat := 0
  peer   : Nat := 0
  pkt    : Bytes := []
  rsp    : Option Bytes := none
  acked  : Bool := false
deriving DecidableEq, Repr, Inhabited

/-- The Tandem block (TLK registers, R349–R370). `tokenIn` is a token that waits for the onward link, with the link it
came on; `gathered` the entries of the first token, `assign` the ASSIGN in force, `reports` the links (8 × position
+ link) that have passed or failed attestation; `adj` the neighbours of each position and `adjSeq` the number of the
notice they come from; `seen` the guests' REQs. -/
structure Tlk where
  link     : Tbl Link := []
  position : Nat := 0
  formed   : Bool := false
  ringClosed : Bool := false
  roleConflict : Bool := false
  excluded : Bool := false
  isolated : Bool := false
  guard    : Bool := false
  cfgIgnored : Bool := false
  devices  : Nat := 0
  verMinor : Nat := 0
  verMajor : Nat := 0
  discWait : Nat := 0x1F4
  memberTimeout : Nat := 0x32
  lendWeight : Nat := 0
  lendMax  : Nat := 0x40
  present  : Nat := 0
  lost     : Nat := 0
  adj      : Tbl Nat := []
  adjSeq   : Tbl Nat := []
  startAt  : Option Nat := none
  tokenSent : Bool := false
  waitOver : Bool := false
  tokenIn  : Option (Nat × Bytes) := none
  gathered : Bytes := []
  assign   : Bytes := []
  reports  : List (Nat × Bool) := []
  seen     : List (Nat × Nat) := []
  origins  : List Txn := []
  guests   : List Txn := []
  bcasts   : List (Nat × List Nat) := []
  nextTxn  : Nat := 0
  parts    : List (Nat × Bytes) := []
  sent     : List (Nat × Bytes) := []
deriving DecidableEq, Repr, Inhabited

/-- Straps and output pins (chapter 24): CASC_ROLE, CASC_ID, BOOT_SRC; FAULT_N, TAMPER_OUT_N, SMB_ALERT_N as
asserted or not; the SMBus target's answer. -/
structure Pins where
  cascRole : Nat := 0
  cascId   : Nat := 0
  bootSrc  : Nat := 0
  faultLatch : Bool := false
  fatal    : Bool := false
  smbAlert : Bool := false
  smbOut   : Bytes := []
  smbNack  : Bool := false
deriving DecidableEq, Repr, Inhabited

end Sys2Proof.Machine
end

