-- ==== Sys2Proof/Machine/StateEnt.lean ====
section
/-! DEFINITION. The state of the entropy block and of the stacked memory (chapters 12 and 14). -/
namespace Sys2Proof.Machine
open Sys2Proof

/-- What a noise source does (R266). -/
inductive SrcState where
  | settling | testing | spare | active | failed
deriving DecidableEq, Repr, Inhabited

/-- One noise source (R266, R267): its state, the two fail bits, and whether a retest runs. -/
structure Source where
  st       : SrcState := .settling
  rctFail  : Bool := false
  aptFail  : Bool := false
  retest   : Bool := false
deriving DecidableEq, Repr, Inhabited

/-- One CTR_DRBG (R273, R274): its working state is `key` and `v`. -/
structure Drbg where
  key     : Bytes := []
  v       : Bytes := []
  inst    : Bool := false
  reqs    : Nat := 0
  reseedDue : Bool := false
  stopped : Bool := false
  mustReseed : Bool := false
deriving DecidableEq, Repr, Inhabited

/-- The entropy block (ENT registers, R266–R284). `seedQ` lists the engines whose seed requests wait, oldest
first, `seedFly` those whose seed is on its way; `firstPart` counts the blocks taken by an instantiation,
`firstBlock` is the block it has taken. -/
structure Ent where
  src       : Tbl Source := []
  running   : Bool := false
  startupDone : Bool := false
  switched  : Bool := false
  entErr    : Bool := false
  retesting : Bool := false
  testActive : Bool := false
  testDenied : Bool := false
  cfgIgnored : Bool := false
  wait100   : Nat := 0x64
  drbg      : Tbl Drbg := []
  reqCount  : Nat := 0
  queue     : Bytes := []
  queueOn   : Bool := false
  fifo      : Bytes := []
  reserve   : Nat := 0
  seedQ     : List Nat := []
  seedFly   : List Nat := []
  prQ       : List Nat := []
  prDone    : List Nat := []
  firstPart : Nat := 0
  firstBlock : Bytes := []
  tstSource : Nat := 0
  tstSubst  : Bool := false
  tstRaw    : Bool := false
  pattern   : Bytes := []
  patPos    : Nat := 0
deriving DecidableEq, Repr, Inhabited

/-- A segment copy in progress (R324): the segment and the spare that takes it. -/
structure Sparing where
  seg   : Nat
  spare : Nat
deriving DecidableEq, Repr, Inhabited

/-- MEM_ERR_ADDR and MEM_ERR_INFO (chapter 14). -/
structure MemErr where
  addr     : Nat := 0
  kind     : Nat := 0
  region   : Nat := 0
  injected : Bool := false
  inst     : Nat := 0
  requester : Nat := 0
deriving DecidableEq, Repr, Inhabited

/-- The memory (R310–R327). What its regions hold stands with the block that uses them: WORK with the engines, Pannier
records and tree caches with the vault, firmware images with the sequencers and the Hub. -/
structure Mem where
  keys      : Bool := false
  keyVal    : Bytes := []
  initDone  : Nat := 0
  selfRefresh : Bool := false
  cfgIgnored : Bool := false
  scrubEn   : Bool := true
  scrubHours : Nat := 0x18
  spareEn   : Bool := true
  spareThr  : Nat := 3
  mgrQuota  : Nat := 0x400
  poison    : List Nat := []
  ceCount   : Tbl Nat := []
  lineCount : List (Nat × Nat) := []
  copying   : Option Sparing := none
  remaps    : List (Nat × Nat) := []
  err       : MemErr := {}
  scrubPos  : Nat := 0
  stagePages : Tbl Nat := []
  pannierPages : Tbl Nat := []
deriving DecidableEq, Repr, Inhabited

end Sys2Proof.Machine
end

