-- ==== Sys2Proof/Machine/StateVault.lean ====
section
/-! DEFINITION. The state of the key vault, the stateful-signature records and the rest of BBRAM. -/
namespace Sys2Proof.Machine
open Sys2Proof

/-- One generation-table entry (Table 11-4). -/
structure GenEntry where
  gen       : Nat := 0
  parentGen : Nat := 0
  inst      : Nat := 0
  st        : Nat := 0
  nextIndex : Nat := 0
  unreadable : Bool := false
deriving DecidableEq, Repr, Inhabited

/-- One journal record (Table 11-7); `valid` says its check byte is correct. -/
structure JRec where
  kind    : Nat := 0
  install : Nat := 0
  version : Nat := 0
  handle  : Nat := 0
  cls     : Nat := 0
  entry   : Nat := 0
  digest  : Bytes := []
  jseq    : Nat := 0
  valid   : Bool := false
deriving DecidableEq, Repr, Inhabited

/-- One journal slot: the PENDING and the COMMIT record (R258). -/
structure JSlot where
  pend   : JRec := {}
  commit : JRec := {}
deriving DecidableEq, Repr, Inhabited

/-- One copy of a counter record (Table 9-1) with its check byte; `damaged` is an uncorrectable ECC error in a word. -/
structure RecCopy where
  stateId   : Nat := 0
  hwm       : Nat := 0
  seq       : Nat := 0
  live      : Bool := false
  exhausted : Bool := false
  closed    : Bool := false
  check     : Nat := 0
  damaged   : Bool := false
deriving DecidableEq, Repr, Inhabited

/-- The two copies of one counter record (R211). -/
structure RecPair where
  a : RecCopy := {}
  b : RecCopy := {}
deriving DecidableEq, Repr, Inhabited

/-- One tamper-log entry of 16 bytes (R442). -/
structure LogEntry where
  epoch  : Nat := 0
  count  : Nat := 0
  rtc    : Nat := 0
  source : Nat := 0
  info   : Nat := 0
deriving DecidableEq, Repr, Inhabited

/-- A prepare slot of INST_IMPORT_PREPARE (R343). -/
structure PrepSlot where
  used     : Bool := false
  seed     : Bytes := []
  ekDigest : Bytes := []
  finished : Bool := false
  stDigest : Bytes := []
  order    : Nat := 0
deriving DecidableEq, Repr, Inhabited

/-- A staged life-cycle transition record (Table 20-3). -/
structure TransRec where
  target : Nat := 0
  seed   : Bytes := []
  digest : Bytes := []
  valid  : Bool := false
deriving DecidableEq, Repr, Inhabited

/-- An adopted domain (R346): instance, label, imported domain key, aliases of class entries. -/
structure AdoptDom where
  used    : Bool := false
  inst    : Nat := 0
  label   : Bytes := []
  key     : Bytes := []
  aliases : List (Nat × Nat) := []
deriving DecidableEq, Repr, Inhabited

/-- What BBRAM holds (R15): it survives RESET and WATCH while VBAT or VDD_IO is present. `logCount` is the
count the next log entry takes, `logSlot` the slot it goes into, `logNewest` the newest sequence number. `recOwner` is the
instance of each counter record's key, plus 1 (R226); `badRecs` are the record slots whose cells do not take a write
(R213), a condition of the part that nothing here changes. -/
structure Bbram where
  gens      : Tbl GenEntry := []
  journal   : Tbl JSlot := []
  recs      : Tbl RecPair := []
  recOwner  : Tbl Nat := []
  badRecs   : List Nat := []
  intSeed   : Option Bytes := none
  ownSeed   : Option Bytes := none
  retRoot   : Option Bytes := none
  ownDigest : Option Bytes := none
  lockFlag  : Bool := false
  lockSeq   : Nat := 0
  prep      : Tbl PrepSlot := []
  adopted   : Tbl AdoptDom := []
  trans     : TransRec := {}
  log       : Tbl LogEntry := []
  logEpoch  : Nat := 0
  logCount  : Nat := 0
  logSlot   : Nat := 0
  logNewest : Nat := 0
deriving DecidableEq, Repr, Inhabited

/-- A key as the vault holds it: the fields of Table 11-5 with its secret, public part and body. -/
structure KeyObj where
  handle   : Nat := 0
  level    : Nat := 3
  cls      : Nat := 0
  tag      : Nat := 0
  version  : Nat := 0
  attr     : Nat := 0
  ext      : Bool := false
  stateful : Bool := false
  stateId  : Nat := 0
  par      : Bytes := []
  secret   : Bytes := []
  pub      : Bytes := []
  body     : Bytes := []
deriving DecidableEq, Repr, Inhabited

/-- A resident record of a handle (R255): the current key, the superseded ones kept for commands submitted before
the commit's reply, each with that reply's stamp (R260), the command whose reply is still to come, a pending key
(R95) with its journal slot. -/
structure Resident where
  cur    : Option KeyObj := none
  old    : List (Nat × KeyObj) := []
  oldCmd : Option Nat := none
  pend   : Option KeyObj := none
  slot   : Nat := 0
  install : Nat := 0
  entry  : Nat := 0
deriving DecidableEq, Repr, Inhabited

/-- What an outage can leave of a command's BBRAM writes: records, journal slots and generation entries as they then
stand (R214, R219, R222, R259). -/
structure BbStage where
  recs  : List (Nat × RecPair) := []
  slots : List (Nat × JSlot) := []
  gens  : List (Nat × GenEntry) := []
deriving DecidableEq, Repr, Inhabited

/-- The key vault (R246–R265). `stops` holds the KEY_INVALIDATE commands that hold resolutions (R263, step 2), `full`
the instances whose last KEY_LOAD failed with STS_QUOTA, `grants` the instances granted use of each handle (R99),
`trees` the bottom tree, plus 1, whose caches stand for each stateful key (R225), and `cuts` the stages of the
BBRAM writes of commands still without a reply, which an outage can leave (R214, R219, R222, R259). -/
structure Kvt where
  root      : Option Bytes := none
  rootState : Nat := 0
  pannierKey : Bytes := []
  recovered : Bool := false
  sweep     : List Nat := []
  stops     : List Nat := []
  invalidations : Nat := 0
  full      : List Nat := []
  jseq      : Nat := 0
  cursor    : Tbl Nat := []
  claims    : List Nat := []
  res       : Tbl (Option Resident) := []
  cache     : List Nat := []
  sfsCursor : Tbl (Option Nat) := []
  trees     : Tbl Nat := []
  cuts      : List (Nat × List BbStage) := []
  grants    : Tbl (List Nat) := []
  recsLost  : List Nat := []
  bbramLost : Bool := false
deriving DecidableEq, Repr, Inhabited

end Sys2Proof.Machine
end

