-- ==== Sys2Proof/Machine/StateHif.lean ====
section
/-! DEFINITION. The state of the host interface: ports, queue pairs, commands, Derailleur, instances. -/
namespace Sys2Proof.Machine
open Sys2Proof

/-- One queue pair (R27–R37). `subm` holds the submission stamp of each slot from sq_head to sq_tail (R48),
`unsig` the replies that count towards coal_count; `irqOn`, `coalN` and `coalT` are irq_en, coal_count and coal_time as the
last command boundary took them over (R7, R9), `retiring` says that the commands of a retired pair still complete (R36). -/
structure Qp where
  sqTail     : Nat := 0
  sqHead     : Nat := 0
  cqHead     : Nat := 0
  cqTail     : Nat := 0
  phase      : Bool := true
  sqBase     : Word64 := 0
  cqBase     : Word64 := 0
  sqEntries  : Nat := 0x10
  cqEntries  : Nat := 0x10
  vector     : Nat := 0
  irqEn      : Bool := false
  coalCount  : Nat := 0
  coalTime   : Nat := 0
  reqMinor   : Nat := 2
  reqMajor   : Nat := 3
  accMinor   : Nat := 0
  accMajor   : Nat := 0
  enable     : Bool := false
  active     : Bool := false
  versionRejected : Bool := false
  notAllotted : Bool := false
  ringError  : Bool := false
  subm       : List Nat := []
  unsig      : Nat := 0
  irqOn      : Bool := false
  coalN      : Nat := 0
  coalT      : Nat := 0
  retiring   : Bool := false
deriving DecidableEq, Repr, Inhabited

/-- One MSI-X vector (R504). -/
structure Msix where
  addr : Word64 := 0
  data : Word := 0
  mask : Bool := true
  pend : Bool := false
deriving DecidableEq, Repr, Inhabited

/-- An MSI-X message the device sent: function, vector, address, data. -/
structure Msg where
  fn   : Nat
  vec  : Nat
  addr : Word64
  data : Word
deriving DecidableEq, Repr, Inhabited

/-- Host memory as the device's DMA sees it (R30, R59): its bytes, the ranges that answer an access with an
error, the functions whose Bus Master Enable is 0, the messages sent, and the functions whose AER registers
hold a DMA error (R336). -/
structure HostMem where
  mem  : Tbl Byte := []
  bad  : List (Nat × Nat) := []
  noMaster : List Nat := []
  msgs : List Msg := []
  aer  : List Nat := []
deriving DecidableEq, Repr, Inhabited

/-- Where a fetched command stands. -/
inductive CmdPhase where
  | waiting | running | finished
deriving DecidableEq, Repr, Inhabited

/-- The result a command's reply will carry (Table 2-5). -/
structure Result where
  status    : Nat := 0
  outLen    : Nat := 0
  truncated : Bool := false
  hint      : Nat := 0
deriving DecidableEq, Repr, Inhabited

/-- A fetched, unanswered command. Port 256 is a guest of another cascade member (R364). `key` and `key2` are
the keys its handles resolved to at dispatch, `out` the output a guest returns in its RSP, `leaf` the leaf it took; `drawing`
says that it has tried to draw DRBG output and waits for it (R278), `began` is the time of its dispatch, `input` the bytes of its
input that a unit without staging has read (R59), `served` what the home of its stateful key answered (cursor and
high-water mark, R226), `trunc` that a digest engine of its set truncated (R245). -/
structure Cmd where
  id       : Nat := 0
  port     : Nat := 0
  q        : Nat := 0
  subm     : Nat := 0
  pkt      : Bytes := []
  phase    : CmdPhase := .waiting
  kind     : UnitKind := .none
  unit     : Nat := 0
  lender   : Nat := 0
  gang     : List Nat := []
  core     : Option Nat := none
  pos      : Nat := 0
  order    : Nat := 0
  start    : Nat := 0
  res      : Result := {}
  inj      : Bool := false
  switched : Bool := false
  drawing  : Bool := false
  leaf     : Option Nat := none
  remote   : Option Nat := none
  key      : Option KeyObj := none
  key2     : Option KeyObj := none
  out      : Bytes := []
  began    : Nat := 0
  input    : Bytes := []
  served   : Option (Nat × Nat) := none
  trunc    : Bool := false
deriving DecidableEq, Repr, Inhabited

/-- Per-function flags: HIF_PORT_STATUS.cfg_ignored (R26), MSI-X Enable and Function Mask (R504). -/
structure Port where
  cfgIgnored : Bool := false
  msixEnable : Bool := false
  fnMask     : Bool := false
deriving DecidableEq, Repr, Inhabited

/-- One Derailleur ledger (R134–R137), in units of 10 ns. -/
structure Ledger where
  credit   : Tbl Int := []
  charged  : Tbl Nat := []
  lastUsed : Tbl Nat := []
  lastHeld : Tbl Nat := []
  indebted : Tbl Bool := []
  present  : List Nat := []
deriving DecidableEq, Repr, Inhabited

/-- The Derailleur (HIF_DRL registers, R133–R142). `mgrLive` and `lendLive` are mgr_weight and the guests' lend_weight as
the last epoch boundary took them over (R134). -/
structure Drl where
  mgrWeight : Nat := 0x400
  mgrLive   : Nat := 0x400
  lendLive  : Nat := 0
  affinity  : Bool := true
  idleGate  : Nat := 0x32
  epoch     : Nat := 0
  hub       : Ledger := {}
  aes       : Ledger := {}
  wait      : Tbl Nat := []
deriving DecidableEq, Repr, Inhabited

/-- The states of an instance (Table 15-2). -/
inductive InstState where
  | absent | active | pausing | paused | exported | resetting
deriving DecidableEq, Repr, Inhabited

/-- One instance (Table 4-7, R328–R346). -/
structure Inst where
  st       : InstState := .absent
  qps      : Nat := 0
  weight   : Nat := 0
  nextWeight : Nat := 0
  groups   : Nat := 0
  order    : Nat := 0
  drbgs    : Nat := 0
  dgeSlots : Nat := 0
  cvuSlots : Nat := 0
  quota    : Nat := 0
  csets    : Nat := 0
  label    : Bytes := []
  adopted  : Option Nat := none
  logging  : Bool := false
  logOver  : Bool := false
  bitmap   : Nat := 0
  bitmapLen : Nat := 0
  dirty    : List Nat := []
  created  : Bytes := []
  pauseAt  : Nat := 0
  pauseCmd : Option Nat := none
deriving DecidableEq, Repr, Inhabited

/-- The host interface. `stamp` orders doorbells and replies (R48); `reach` says the link has trained. -/
structure Hif where
  qps    : Tbl Qp := []
  port   : Tbl Port := []
  msix   : Tbl Msix := []
  cmds   : List Cmd := []
  nextId : Nat := 0
  stamp  : Nat := 0
  ts     : Nat := 0
  counting : Bool := false
  asleep : Nat := 0
  reach  : Bool := false
  inst   : Tbl Inst := []
  perms  : Tbl Bool := []
deriving DecidableEq, Repr, Inhabited

end Sys2Proof.Machine
end

