-- ==== Sys2Proof/Machine/StateHub.lean ====
section
/-! DEFINITION. The state of the Hub engines, their control stores and the AES core pool. -/
namespace Sys2Proof.Machine
open Sys2Proof

/-- The masking domain of a vector register (R121). -/
inductive Dom where
  | boolean
  | arithQ (slot : Nat)
  | arith2 (w : Nat)
deriving DecidableEq, Repr, Inhabited

/-- A vector register (R121, R146): its value, the domain its shares recover it in, and the shares s1 to sd (none at order
0). Share s0 is the one that makes them recover the value (`VReg.shares`); a bank that lists no share holds zero. -/
structure VReg where
  val   : BitVec 8192 := 0
  dom   : Dom := .boolean
  masks : List (BitVec 8192) := []
deriving DecidableEq, Repr, Inhabited

/-- A mask register: its bits and the Boolean shares s1 to sd (R146). -/
structure KMask where
  val   : BitVec 1024 := 0
  masks : List (BitVec 1024) := []
deriving DecidableEq, Repr, Inhabited

/-- An XOF context: function (0–5 as VXOF.INIT's p; none before INIT), the bytes absorbed, the bytes
squeezed so far, whether absorption went on after a squeeze, and the shares s1 to sd of its sponge state (R145). -/
structure Xof where
  fn       : Option Nat := none
  absorbed : Bytes := []
  pos      : Nat := 0
  mixed    : Bool := false
  masks    : List (BitVec 1600) := []
deriving DecidableEq, Repr, Inhabited

/-- The key register (R127): key bits, the Boolean shares s1 to sd, lineage tag, order, marks, owner and the handle it
serves. -/
structure KeyReg where
  key      : BitVec 512 := 0
  masks    : List (BitVec 512) := []
  tag      : BitVec 64 := 0
  order    : Nat := 0
  marked   : Bool := false
  retained : Bool := false
  inst     : Nat := 0
  handle   : BitVec 64 := 0
  gen      : Nat := 0
  cls      : Nat := 0
  material : Bytes := []
deriving DecidableEq, Repr, Inhabited

/-- What a long or memory instruction waits for: the instruction's raw form, for re-execution. -/
inductive Stall where
  | mem (store : Bool) (a : MF)
  | gs (scatter : Bool) (a : GF)
  | unmask (a : LF)
  | xld (a : XF)
deriving DecidableEq, Repr

/-- HUB_KEXC (R168). -/
structure Kexc where
  cause       : Nat := 0
  restartable : Bool := false
  window      : Nat := 0
  pc          : Nat := 0
deriving DecidableEq, Repr, Inhabited

/-- HUB_UC_STATUS and HUB_UC_CNT (07). `issue` is set while an issue of a long instruction goes on that was abandoned and
executes again (R179, R180). -/
structure Uc where
  routine        : Nat := 0
  running        : Bool := false
  committed      : Bool := false
  restarts       : Nat := 0
  lastWait       : Nat := 0
  ceilingExpired : Bool := false
  guard          : Bool := false
  refaulted      : Bool := false
  issue          : Bool := false
  cntRestarts    : Nat := 0
  cntExpiries    : Nat := 0
deriving DecidableEq, Repr, Inhabited

/-- The mask generator (R125): its eight Keccak-f[1600] states, of 25 lanes each, and HUB_MG_STATUS. -/
structure Mg where
  states    : List (List (BitVec 64)) := []
  blocks    : Nat := 0
  reseedReq : Bool := false
  halted    : Bool := false
  seeded    : Bool := false
deriving DecidableEq, Repr, Inhabited

/-- The hidden scratch of a micro-routine that runs microwords (R172, R175): the address of the next word, the loop
counters, the call stack, S0–S15, the shadow XOF contexts, what the hash FIFO holds for it, the words since its commit
point, the condition it waits on with the ceiling in cycles, and an interrupt held until END. -/
structure Micro where
  live   : Bool := false
  upc    : Nat := 0
  ops    : Option LF := none
  lc0    : Nat := 0
  lc1    : Nat := 0
  stack  : List Nat := []
  scr    : Tbl VReg := []
  shadow : Tbl (Option Xof) := []
  hfifo  : Bytes := []
  hold   : Nat := 0
  wait   : Option (Nat × Nat) := none
  held   : Bool := false
deriving DecidableEq, Repr, Inhabited

/-- One Hub engine (R115, R146; HUB registers of chapters 05, 06 and 07). `work` is what its WORK window shows: bytes of the
DRAM or, with `recovery`, the other 192 KiB of the recovery buffer (R111); `workMasks` are the shares s1 to sd of its
bytes (R150). -/
structure Engine where
  powered    : Bool := false
  busy       : Bool := false
  offline    : Bool := false
  offlineReq : Bool := false
  heldByFault : Bool := false
  inReset    : Bool := false
  testing    : Bool := false
  failedTest : Bool := false
  order      : Nat := 0
  inst       : Nat := 0
  gang       : Bool := false
  lend       : Bool := false
  cmd        : Option Nat := none
  reservedBy : Option Nat := none
  reservedAt : Nat := 0
  q2         : BitVec 32 := 0
  q3         : BitVec 32 := 0
  gfM        : Nat := 0
  gfPoly     : BitVec 16 := 0
  vl         : Nat := 0
  sew        : Nat := 0
  vstart     : Nat := 0
  v          : Tbl VReg := []
  k          : Tbl KMask := []
  x          : Tbl (BitVec 64) := []
  pc         : Nat := 0
  owner      : Bool := false
  xof        : Tbl Xof := []
  key        : Option KeyReg := none
  mg         : Mg := {}
  fifo       : Bytes := []
  outCount   : Nat := 0
  maxOut     : Nat := 0
  varOut     : Bool := false
  inLen      : Nat := 0
  staged     : Bytes := []
  work       : Tbl Byte := []
  workMasks  : Tbl (List Byte) := []
  lines      : Tbl Bool := []
  workSize   : Nat := 0x400000
  recovery   : Bool := false
  cache      : Bytes := []
  param      : Bytes := []
  kimg       : Tbl Byte := []
  kexc       : Kexc := {}
  stall      : Option Stall := none
  ended      : Option Nat := none
  uc         : Uc := {}
  mc         : Micro := {}
  halted     : Bool := false
deriving DecidableEq, Repr, Inhabited

/-- The patch in force (Table 7-6, R184, R186). -/
structure Patch where
  version     : Nat := 0
  loaded      : Bool := false
  ownerSigned : Bool := false
  format      : Nat := 0
  words       : List (BitVec 256) := []
  redirects   : List (Nat × Nat) := []
  rmatches    : List (Nat × Nat) := []
  image       : Bytes := []
  digest      : Bytes := []
deriving DecidableEq, Repr, Inhabited

/-- One AES core (R131). -/
structure AesCore where
  busy   : Bool := false
  lender : Nat := 0
  cmd    : Option Nat := none
  held   : Bool := false
  inReset : Bool := false
deriving DecidableEq, Repr, Inhabited

/-- The Hub block. -/
structure Hub where
  eng      : Tbl Engine := []
  aes      : Tbl AesCore := []
  kmem     : Tbl Byte := []
  patch    : Patch := {}
  recovery : Tbl Byte := []
deriving DecidableEq, Repr, Inhabited

end Sys2Proof.Machine
end

