-- ==== Sys2Proof/Machine/StateSeq.lean ====
section
/-! DEFINITION. The state of the sixteen Seryen-14 sequencer cores and of the extension programs. -/
namespace Sys2Proof.Machine
open Sys2Proof

/-- What a core does (SEQ_STATUS.state). -/
inductive CoreState where
  | idle | vendor | ext | blockReset
deriving DecidableEq, Repr, Inhabited

/-- One return-stack entry: saved PC, F and mode (R300). A CALL pushes its F and mode as they stand. -/
structure Frame where
  pc  : Nat := 0
  f   : BitVec 6 := 0
  ext : Bool := false
deriving DecidableEq, Repr, Inhabited

/-- SEQ_TRAP_INFO. -/
structure TrapInfo where
  cause   : Nat := 0
  pc      : Nat := 0
  repLeft : Nat := 0
  ext     : Bool := false
deriving DecidableEq, Repr, Inhabited

/-- The declaration of an extension program (chapter 13, "Extension programs"; R114). -/
structure ExtDecl where
  entry    : Nat := 0x3000
  first    : Nat := 0x8000
  last     : Nat := 0x8000
  kernel   : Option (Nat × Nat) := none
  hub      : Bool := false
  dge      : Bool := false
  cvu      : Bool := false
  limitUs  : Nat := 1
  insts    : List Nat := []
  code     : List (BitVec 14) := []
  codeAt   : Nat := 0x3000
  unloading : Bool := false
deriving DecidableEq, Repr, Inhabited

/-- One core (R288, R285, R303, SEQ registers). -/
structure Core where
  a        : Tbl (BitVec 24) := []
  d        : Tbl (BitVec 32) := []
  m        : Tbl (BitVec 72) := []
  f        : BitVec 6 := 0
  ie       : Bool := false
  win      : BitVec 3 := 0
  pc       : Nat := 0
  stack    : List Frame := []
  b        : Tbl (BitVec 24) := []
  l        : Tbl (BitVec 16) := []
  extMode  : Bool := false
  prog     : Tbl (BitVec 14) := []
  dmem     : Tbl Byte := []
  mbox     : Bytes := []
  bits     : Tbl Bool := []
  st       : CoreState := .idle
  inst     : Nat := 0
  cfgIgnored : Bool := false
  dzEn     : Bool := false
  ovEn     : Bool := false
  trap     : TrapInfo := {}
  cmd      : Option Nat := none
  sleeping : Bool := false
  haltedI  : Bool := false
  haltedD  : Bool := false
  waitb    : Option (Nat × Bool) := none
  intPend  : Bool := false
  abortPend : Bool := false
  svc      : Option Nat := none
  offline  : Bool := false
  hub      : Option Nat := none
  dge      : Option Nat := none
  cvu      : Option Nat := none
deriving DecidableEq, Repr, Inhabited

/-- The sequencer block: cores, the program image all cores load, the loaded extensions. -/
structure Seq where
  core  : Tbl Core := []
  image : Tbl (BitVec 14) := []
  exts  : List ExtDecl := []
deriving DecidableEq, Repr, Inhabited

end Sys2Proof.Machine
end

