-- ==== Sys2Proof/Machine/State.lean ====
section
/-! DEFINITION. The state of the block as a whole, the reasons a step can stop, and the state after reset. -/
namespace Sys2Proof.Machine
open Sys2Proof

/-- The whole block. `pending` is the queue of waiting commands, first in first out; `now` counts 10 ns ticks
and `free` the open values already used (both the model's own); `host` is host memory and what the device sent
to the host. -/
structure State where
  pending : List Instr := []
  now     : Nat := 0
  free    : Nat := 0
  host    : HostMem := {}
  hif     : Hif := {}
  drl     : Drl := {}
  hub     : Hub := {}
  hsa     : Tbl HashArray := []
  dge     : Tbl Dge := []
  cvu     : Tbl Cvu := []
  seq     : Seq := {}
  kvt     : Kvt := {}
  bbram   : Bbram := {}
  ent     : Ent := {}
  mem     : Mem := {}
  pwr     : Pwr := {}
  glb     : Glb := {}
  lcs     : Lcs := {}
  dbg     : Dbg := {}
  tmp     : Tmp := {}
  flt     : Tbl FltSet := []
  cad     : Cad := {}
  tlk     : Tlk := {}
  pins    : Pins := {}
deriving DecidableEq, Repr, Inhabited

/-- The reasons for a fault of the model: none, because every command of the block has a next state. -/
inductive Fault where
deriving DecidableEq, Repr

/-- The reasons for a refusal. -/
inductive Refusal where
  /-- Raised by the dispatch alone, for a command without a meaning yet; safe. -/
  | notModelled (mnemonic : String)
deriving DecidableEq, Repr

/-- OTP of a part that has left the vendor and nothing more: LC0 holds its advance pattern, every other word
is blank (R412; DESIGN CHOICE, log 4: the spec leaves each part's identity and secrets to the part). -/
def State.freshOtp : Tbl Word64 := [(0, 0x0F0F0F0F0F0F0F0F)]

/-- The block right after reset: every register at its reset value (R500, chapter 26), the mode RESET with
the main rails valid. -/
def State.reset : State := { lcs := { otp := State.freshOtp } }

end Sys2Proof.Machine
end

