-- ==== Sys2Proof/Machine/Status.lean ====
section
/-! DEFINITION. The status codes of Table 2-6. -/
namespace Sys2Proof.Machine
open Sys2Proof

abbrev stsOk : Nat := 0x0000
abbrev stsBadOpcode : Nat := 0x0101
abbrev stsBadLength : Nat := 0x0102
abbrev stsVersion : Nat := 0x0103
abbrev stsReserved : Nat := 0x0104
abbrev stsDmaError : Nat := 0x0105
abbrev stsNotPermitted : Nat := 0x0106
abbrev stsBadParameter : Nat := 0x0107
abbrev stsKeyUnknown : Nat := 0x0201
abbrev stsKeyClass : Nat := 0x0202
abbrev stsKeyOrphaned : Nat := 0x0203
abbrev stsKeyForeign : Nat := 0x0204
abbrev stsKeyPending : Nat := 0x0205
abbrev stsLeafExhausted : Nat := 0x0210
abbrev stsStateLost : Nat := 0x0211
abbrev stsQuota : Nat := 0x0301
abbrev stsPaused : Nat := 0x0302
abbrev stsRetry : Nat := 0x0303
abbrev stsEntropy : Nat := 0x0401
abbrev stsLifecycle : Nat := 0x0501
abbrev stsLocked : Nat := 0x0502
abbrev stsDraining : Nat := 0x0503
abbrev stsZeroized : Nat := 0x0504
abbrev stsTamper : Nat := 0x0601
abbrev stsInstanceReset : Nat := 0x0602
abbrev stsRemoteLost : Nat := 0x0603
abbrev stsFault : Nat := 0x0604
abbrev stsVerifyFail : Nat := 0x0701
abbrev stsNotEqual : Nat := 0x0702

/-- The codes that may carry a retry hint (Table 2-6, "Hint"). -/
def hintCode (c : Nat) : Bool :=
  [stsKeyPending, stsQuota, stsPaused, stsRetry, stsEntropy, stsRemoteLost].contains c

end Sys2Proof.Machine
end

