-- ==== Sys2Proof/Machine/Ops.lean ====
section
/-! DEFINITION. The named operations over the state: one entry of each table, open values, counters, messages,
host memory, the tamper log. -/
namespace Sys2Proof.Machine
open Sys2Proof

/-- The outcome every command has. -/
abbrev Res := Host.Outcome State Fault Refusal

/-- Hub engine `n`. -/
def eng (s : State) (n : Nat) : Engine := Tbl.get {} s.hub.eng n
/-- Write Hub engine `n`. -/
def setEng (n : Nat) (e : Engine) (s : State) : State :=
  { s with hub := { s.hub with eng := Tbl.set {} s.hub.eng n e } }
/-- Change Hub engine `n`. -/
def updEng (n : Nat) (f : Engine → Engine) (s : State) : State := setEng n (f (eng s n)) s

/-- AES core `n`. -/
def aesCore (s : State) (n : Nat) : AesCore := Tbl.get {} s.hub.aes n
/-- Write AES core `n`. -/
def setAes (n : Nat) (c : AesCore) (s : State) : State :=
  { s with hub := { s.hub with aes := Tbl.set {} s.hub.aes n c } }

/-- Digest engine `n`. -/
def dgeU (s : State) (n : Nat) : Dge := Tbl.get {} s.dge n
/-- Write digest engine `n`. -/
def setDge (n : Nat) (u : Dge) (s : State) : State := { s with dge := Tbl.set {} s.dge n u }

/-- Check-value unit `n`. -/
def cvuU (s : State) (n : Nat) : Cvu := Tbl.get {} s.cvu n
/-- Write check-value unit `n`. -/
def setCvu (n : Nat) (u : Cvu) (s : State) : State := { s with cvu := Tbl.set {} s.cvu n u }

/-- Sequencer core `n`. -/
def coreU (s : State) (n : Nat) : Core := Tbl.get {} s.seq.core n
/-- Write sequencer core `n`. -/
def setCore (n : Nat) (c : Core) (s : State) : State :=
  { s with seq := { s.seq with core := Tbl.set {} s.seq.core n c } }
/-- Change sequencer core `n`. -/
def updCore (n : Nat) (f : Core → Core) (s : State) : State := setCore n (f (coreU s n)) s

/-- Queue pair `q` of port `p`. -/
def qpU (s : State) (p q : Nat) : Qp := Tbl.get {} s.hif.qps (p * 64 + q)
/-- Write a queue pair. -/
def setQp (p q : Nat) (v : Qp) (s : State) : State :=
  { s with hif := { s.hif with qps := Tbl.set {} s.hif.qps (p * 64 + q) v } }

/-- Instance `i`. -/
def instU (s : State) (i : Nat) : Inst := Tbl.get {} s.hif.inst i
/-- Write an instance. -/
def setInst (i : Nat) (v : Inst) (s : State) : State :=
  { s with hif := { s.hif with inst := Tbl.set {} s.hif.inst i v } }

/-- Flags of function `p`. -/
def portU (s : State) (p : Nat) : Port := Tbl.get {} s.hif.port p
/-- Write a function's flags. -/
def setPort (p : Nat) (v : Port) (s : State) : State :=
  { s with hif := { s.hif with port := Tbl.set {} s.hif.port p v } }

/-- MSI-X vector `v` of function `p`. -/
def msixU (s : State) (p v : Nat) : Msix := Tbl.get {} s.hif.msix (p * 128 + v)
/-- Write a vector's entry. -/
def setMsix (p v : Nat) (m : Msix) (s : State) : State :=
  { s with hif := { s.hif with msix := Tbl.set {} s.hif.msix (p * 128 + v) m } }

/-- Noise source `n`. -/
def srcU (s : State) (n : Nat) : Source := Tbl.get {} s.ent.src n
/-- Write a noise source. -/
def setSrc (n : Nat) (v : Source) (s : State) : State :=
  { s with ent := { s.ent with src := Tbl.set {} s.ent.src n v } }

/-- DRBG `n`. -/
def drbgU (s : State) (n : Nat) : Drbg := Tbl.get {} s.ent.drbg n
/-- Write a DRBG. -/
def setDrbg (n : Nat) (v : Drbg) (s : State) : State :=
  { s with ent := { s.ent with drbg := Tbl.set {} s.ent.drbg n v } }

/-- Tandem link `k`. -/
def linkU (s : State) (k : Nat) : Link := Tbl.get {} s.tlk.link k
/-- Write a Tandem link. -/
def setLink (k : Nat) (v : Link) (s : State) : State :=
  { s with tlk := { s.tlk with link := Tbl.set {} s.tlk.link k v } }

/-- Permission bit B:2048 + 4i + g (R303, R304); instance 0 holds every group. -/
def permBit (s : State) (i g : Nat) : Bool := i == 0 || Tbl.get false s.hif.perms (4 * i + g)
/-- Write a permission bit. -/
def setPerm (i g : Nat) (v : Bool) (s : State) : State :=
  { s with hif := { s.hif with perms := Tbl.set false s.hif.perms (4 * i + g) v } }

/-- The instances that exist. -/
def liveInsts (s : State) : List Nat :=
  (s.hif.inst.filter (fun p => p.2.st != .absent)).map (·.1)

/-! ### Open values -/

/-- The next `n` bytes that the spec leaves open, with the counter moved on. -/
def freeBytes (n : Nat) (s : State) : Bytes × State :=
  ((List.range n).map (fun i => Config.freeByte (s.free + i)), { s with free := s.free + n })

/-- A number the spec leaves open (an estimate or a measurement), below `m`. -/
def freeNumber (m : Nat) (s : State) : Nat × State :=
  (Config.freeNat s.free % m, { s with free := s.free + 1 })

/-- PWR_STATUS.holdup_ok (R395). -/
def holdupOk (s : State) : Bool := decide (s.pwr.holdThr ≤ s.pwr.senseMv)

/-- The hold-up input is sampled; the sample saturates at 2,000 mV (R492). -/
def senseHoldup (s : State) : State :=
  let r := freeNumber 2001 s
  { r.2 with pwr := { r.2.pwr with senseMv := r.1 } }

/-! ### Counting and sampling (R460–R468) -/

/-- The number of a counter. -/
def cntKey (b : Bank) (unit k : Nat) : Nat :=
  (match b with | .seq => 0 | .hub => 0x1000 | .block => 0x2000 | .inst => 0x3000) + unit * 16 + k

/-- A counter. -/
def cntU (s : State) (b : Bank) (unit k : Nat) : Cnt := Tbl.get {} s.cad.cnt (cntKey b unit k)
/-- Write a counter. -/
def setCnt (b : Bank) (unit k : Nat) (c : Cnt) (s : State) : State :=
  { s with cad := { s.cad with cnt := Tbl.set {} s.cad.cnt (cntKey b unit k) c } }

/-- Counters per unit of a bank (Table 23-1). -/
def bankSize : Bank → Nat
  | .seq => 8
  | .hub => 8
  | .block => 4
  | .inst => 16

/-- Is a counter there to count (R460): an instance counter only in an allotted set? -/
def cntLive (s : State) (b : Bank) (unit k : Nat) : Bool :=
  match b with
  | .inst => unit == 0 || decide (k / 4 < (instU s unit).csets)
  | _ => true

/-- May a counter chain into the next (R463)? -/
def mayChain (b : Bank) (k : Nat) : Bool :=
  match b with
  | .inst => k % 4 != 3
  | .block => k != 3
  | _ => k != 7

/-- Does sampling act in the mode, for a sequencer or a Hub engine (Table 18-7)? -/
def samplingActs (m : Mode) (hub : Bool) : Bool :=
  match m with
  | .service => true
  | .surge => true
  | .test => true
  | .discover => !hub
  | _ => false

/-- A sampling entry as words (Table 23-3). -/
def mkSample (pc word lat ts flags inst : Nat) : Sample :=
  let b := leBytes 2 pc ++ leBytes 4 word ++ leBytes 2 lat ++ leBytes 6 ts ++ leBytes 1 flags ++ leBytes 1 inst
  { w0 := BitVec.ofNat 32 (leAt b 0 4), w1 := BitVec.ofNat 32 (leAt b 4 4),
    w2 := BitVec.ofNat 32 (leAt b 8 4), w3 := BitVec.ofNat 32 (leAt b 12 4) }

/-- Put an entry into a buffer (R467). -/
def pushSample (x : Nat → Sample) (b : SampBuf) : SampBuf :=
  if b.count = 256 ∧ ¬ b.wrap then { b with lost := min 0xFF (b.lost + 1), gap := true }
  else { b with
    entries := Tbl.set {} b.entries b.head (x (b2n b.gap)), head := (b.head + 1) % 256,
    count := min 256 (b.count + 1), gap := false }

/-- Sampling buffer `n`: 0–15 sequencers, 16–79 Hub engines. -/
def bufU (s : State) (n : Nat) : SampBuf := Tbl.get {} s.cad.buf n
/-- Write a sampling buffer. -/
def setBuf (n : Nat) (b : SampBuf) (s : State) : State :=
  { s with cad := { s.cad with buf := Tbl.set {} s.cad.buf n b } }

/-- The sample that a wrap of counter `k` writes, none where no instruction is in progress (R466). The latency
of a precise entry is open. A skid entry names the instruction at the PC. -/
def sampleAt (b : Bank) (unit k : Nat) (s : State) : State :=
  match b with
  | .seq =>
    let c := coreU s unit
    let buf := bufU s unit
    if samplingActs s.pwr.mode false && c.st != .idle then
      let (lat, s) := if buf.precise then freeNumber 0x10000 s else (0, s)
      let w := (Tbl.get 0 c.prog c.pc).toNat + (Tbl.get 0 c.prog ((c.pc + 1) % 0x4000)).toNat <<< 16
      let s := setBuf unit (pushSample (fun gap => mkSample c.pc w lat s.hif.ts
        (b2n (!buf.precise) + 2 * gap + 4 * b2n c.extMode + 16 * k) c.inst) buf) s
      if buf.coreInt then updCore unit (fun c => { c with intPend := true }) s else s
    else s
  | .hub =>
    let e := eng s unit
    let buf := bufU s (16 + unit)
    if samplingActs s.pwr.mode true && e.cmd.isSome then
      let (lat, s) := if buf.precise then freeNumber 0x10000 s else (0, s)
      let w := ofLe (Tbl.getList 0 e.kimg (4 * e.pc) 4)
      setBuf (16 + unit) (pushSample (fun gap => mkSample e.pc w lat s.hif.ts
        (b2n (!buf.precise) + 2 * gap + 4 * b2n e.owner + 8 * b2n (e.uc.restarts != 0) + 16 * k) e.inst) buf) s
    else s
  | _ => s

/-- Send an MSI-X message, or hold it pending (R504). -/
def signal (fn vec : Nat) (s : State) : State :=
  let p := portU s fn
  let m := msixU s fn vec
  if ¬ p.msixEnable then s
  else if m.mask ∨ p.fnMask then setMsix fn vec { m with pend := true } s
  else { s with host := { s.host with msgs := s.host.msgs ++ [⟨fn, vec, m.addr, m.data⟩] } }

/-- Signal vector 0 of every port (R25). -/
def signalPorts (s : State) : State := (List.range 256).foldl (fun s f => signal f 0 s) s

/-- Add `amt` to a counter; a wrap sets ovf, samples and carries (R463, R464). -/
def cntAdd (b : Bank) (unit : Nat) : Nat → Nat → Nat → State → State
  | 0, _, _, s => s
  | n + 1, k, amt, s =>
    let c := cntU s b unit k
    if ¬ c.en ∨ amt = 0 ∨ cntLive s b unit k = false then s
    else
      let v := c.val + amt
      let w := v / 2 ^ 48
      let s := setCnt b unit k { c with val := v % 2 ^ 48, ovf := c.ovf || decide (0 < w) } s
      if w = 0 then s
      else
        let s := if c.ovfInt then signal 0 114 (sampleAt b unit k s) else s
        if c.chain && mayChain b k then cntAdd b unit n (k + 1) w s else s

/-- `amt` occurrences of event `code` in a unit of a bank, of a command of `inst`, in a vendor region or mode
or not (R461, R462). -/
def cadEvent (b : Bank) (unit code amt : Nat) (vendor : Bool) (inst : Nat) (s : State) : State :=
  (List.range (bankSize b)).foldl (fun s k =>
    let c := cntU s b unit k
    let inScope : Bool := match b with
      | .block => true
      | .inst => true
      | _ => (c.scope != 1 || vendor) && (c.scope != 2 || !vendor) && (!c.filtEn || c.inst == inst)
    if c.event = code ∧ inScope then cntAdd b unit (bankSize b) k amt s else s) s

/-- The number of a block (Table 1-1). -/
def blkNum : Blk → Nat
  | .glb => 0 | .pwr => 1 | .lcs => 2 | .tmp => 3 | .hif => 4 | .seq => 5 | .hub => 6 | .hsa => 7
  | .dge => 8 | .kvt => 9 | .ent => 10 | .cvu => 11 | .mem => 12 | .tlk => 13 | .cad => 14 | .dbg => 15

/-- The number of a fault-register set: block and unit (R448). -/
def fltKey (b : Blk) (unit : Nat) : Nat := blkNum b * 256 + unit
/-- A fault-register set. -/
def fltU (s : State) (b : Blk) (unit : Nat) : FltSet := Tbl.get {} s.flt (fltKey b unit)
/-- Write a fault-register set. -/
def setFlt (b : Blk) (unit : Nat) (f : FltSet) (s : State) : State :=
  { s with flt := Tbl.set {} s.flt (fltKey b unit) f }

/-- The command boundary of a set's unit: its RW-L fields take effect (R7, R9). -/
def fltLive (f : FltSet) : FltSet := { f with liveEn := f.classEn, liveEsc := f.escInt, liveUs := f.timerUs }
/-- The command boundary of a unit reaches its fault-register set. -/
def settleFlt (b : Blk) (unit : Nat) (s : State) : State := setFlt b unit (fltLive (fltU s b unit)) s

/-- `amt` occurrences of an event of a block. -/
def blkEvent (b : Blk) (code amt : Nat) (s : State) : State := cadEvent .block (blkNum b) code amt true 0 s

/-- Bytes counted in units of 64 (HIF 0x12 and 0x13, CVU 0x10): what is left over is kept. -/
def bytesEvent (b : Blk) (code n : Nat) (s : State) : State :=
  let key := blkNum b * 256 + code
  let r := Tbl.get 0 s.cad.rem key + n
  blkEvent b code (r / 64) { s with cad := { s.cad with rem := Tbl.set 0 s.cad.rem key (r % 64) } }

/-- `amt` occurrences of an event of an instance. -/
def instEvent (i code amt : Nat) (s : State) : State := cadEvent .inst i code amt true i s

/-! ### Host memory (R59, R60, R336, R340–R342) -/

/-- Does a DMA access of function `fn` to `n` bytes at `a` succeed? -/
def hostOk (s : State) (fn a n : Nat) : Bool :=
  n == 0 || (!s.host.noMaster.contains fn && decide (a + n ≤ 2 ^ 64) &&
    s.host.bad.all (fun r => decide (a + n ≤ r.1) || decide (r.1 + r.2 ≤ a)))

/-- The bytes of host memory, whatever an access answers. -/
def hostBytes (s : State) (a n : Nat) : Bytes := Tbl.getList 0 s.host.mem a n

/-- Store bytes into host memory. -/
def hostPut (a : Nat) (b : Bytes) (s : State) : State :=
  { s with host := { s.host with mem := Tbl.setList 0 s.host.mem a b } }

/-- A DMA error is reported in the issuing function's AER registers (R336). -/
def aerReport (fn : Nat) (s : State) : State :=
  if s.host.aer.contains fn then s else { s with host := { s.host with aer := fn :: s.host.aer } }

/-- The 4 KiB pages of a write. -/
def pagesOf (a n : Nat) : List Nat :=
  if n = 0 then [] else (List.range ((a + n - 1) / 4096 - a / 4096 + 1)).map (· + a / 4096)

/-- Log one page of a write: its bit in the 64-bit word of the bitmap, or the overflow flag (R340–R342). -/
def logPage (i p : Nat) (s : State) : State :=
  let x := instU s i
  if x.bitmapLen ≤ p / 8 then setInst i { x with logOver := true } s
  else
    let d := if x.dirty.contains p then x.dirty else p :: x.dirty
    let w := p / 64
    let v := d.foldl (fun a q => if q / 64 = w then a ||| 2 ^ (q % 64) else a) 0
    hostPut (x.bitmap + 8 * w) (leBytes 8 v) (setInst i { x with dirty := d } s)

/-- Log a DMA write of instance `i` while logging is on (R341). -/
def logWrite (i a n : Nat) (s : State) : State :=
  if (instU s i).logging then (pagesOf a n).foldl (fun s p => logPage i p s) s else s

/-- Read host memory for function `fn`; none on an error. -/
def dmaRead (fn a n : Nat) (s : State) : Option (Bytes × State) :=
  if hostOk s fn a n then
    some (hostBytes s a n, instEvent fn 6 n (bytesEvent .hif 0x12 n s))
  else none

/-- Write host memory for function `fn`, logged while migration logging is on; none on an error. -/
def dmaWrite (fn a : Nat) (b : Bytes) (s : State) : Option State :=
  if hostOk s fn a b.length then
    some (instEvent fn 7 b.length (bytesEvent .hif 0x13 b.length (logWrite fn a b.length (hostPut a b s))))
  else none

/-- After a failed access each of the `n` bytes of an output buffer is what it was or a byte that the command wrote (R60):
which, and what, is open. A byte that does not answer keeps its value. -/
def spill (fn a n : Nat) (s : State) : State :=
  (List.range n).foldl (fun s i =>
    let t : State := { s with free := s.free + 2 }
    if hostOk s fn (a + i) 1 ∧ (Config.freeByte s.free).getLsbD 0 = true then
      hostPut (a + i) [Config.freeByte (s.free + 1)] (logWrite fn (a + i) 1 t)
    else t) s

/-! ### Always-on log (R442) and OTP words -/

/-- The number of a mode (R381). -/
def modeNum : Mode → Nat
  | .off => 0 | .watch => 1 | .reset => 2 | .boot => 3 | .discover => 4 | .freewheel => 5 | .service => 6
  | .surge => 7 | .drain => 8 | .locked => 9 | .zeroized => 10 | .test => 11

/-- Write the next tamper-log entry (Table 21-3): source, class, flags, detail; `info` packs class, mode, flags
and detail. -/
def logTamper (source cls flags detail : Nat) (s : State) : State :=
  let b := s.bbram
  let e : LogEntry := {
    epoch := b.logEpoch, count := b.logCount, rtc := s.tmp.rtc, source := source,
    info := cls + modeNum s.pwr.mode * 2 ^ 8 + flags * 2 ^ 16 + detail * 2 ^ 24 }
  { s with
    bbram := { b with
      log := Tbl.set {} b.log b.logSlot e, logSlot := (b.logSlot + 1) % 256,
      logCount := (b.logCount + 1) % 2 ^ 32, logNewest := b.logEpoch * 2 ^ 32 + b.logCount } }

/-- OTP word `n`. -/
def otpWord (s : State) (n : Nat) : Nat := (Tbl.get 0 s.lcs.otp n).toNat
/-- Set bits of an OTP word; a burn never clears one (R411). -/
def burnWord (n v : Nat) (s : State) : State :=
  { s with lcs := { s.lcs with otp := Tbl.set 0 s.lcs.otp n (BitVec.ofNat 64 (otpWord s n ||| v)) } }

/-- The device identity (Table 20-1, words 5 and 6). -/
def identity (s : State) : Bytes := leBytes 8 (otpWord s 5) ++ leBytes 8 (otpWord s 6)

end Sys2Proof.Machine
end

