-- ==== Sys2Proof/Machine/Line.lean ====
section
/-! DEFINITION. Line protection: ciphertext, integrity tag and the two codewords of a line (14 R312–R314). -/
namespace Sys2Proof.Machine
open Sys2Proof

/-- What the checks of one memory line give (Table 14-2); `badFix` is a correction whose tag fails. -/
inductive LineRead where
  | clean | corrected | badEcc | badFix | badTag
deriving DecidableEq, Repr

/-! ### The Reed–Solomon code: 36 symbols and 3 check symbols over GF(2^8) (PRESUMED, log 131: field polynomial 0x11D,
roots 1, α and α²) -/

/-- Multiplication by α. -/
def lineAlpha (a : Byte) : Byte := if a.getLsbD 7 then (a <<< 1) ^^^ 0x1D#8 else a <<< 1

/-- `a` times α^k. -/
def linePow (k : Nat) (a : Byte) : Byte := Nat.repeat lineAlpha k a

/-- One symbol into the check register: the remainder by x³ + 7x² + 14x + 8. -/
def lineStep (r : Byte × Byte × Byte) (m : Byte) : Byte × Byte × Byte :=
  let f := m ^^^ r.1
  (r.2.1 ^^^ linePow 2 f ^^^ linePow 1 f ^^^ f, r.2.2 ^^^ linePow 3 f ^^^ linePow 2 f ^^^ linePow 1 f, linePow 3 f)

/-- The three check symbols of 36 symbols. -/
def lineCheck (m : Bytes) : Bytes :=
  let r := m.foldl lineStep (0, 0, 0)
  [r.1, r.2.1, r.2.2]

/-- Syndrome `j` of a word: its value at α^j. -/
def lineSyn (j : Nat) (w : Bytes) : Byte := w.foldl (fun a c => linePow j a ^^^ c) 0

/-- What a decoder makes of a word of 39 symbols: clean, one symbol corrected, or uncorrectable. -/
inductive WordRead where
  | clean
  | fixed (w : Bytes)
  | bad

/-- The symbol at which one error would give these syndromes. -/
def lineSeek (s0 s1 s2 : Byte) : Option Nat :=
  (List.range 39).find? (fun i => linePow (38 - i) s0 == s1 && linePow (2 * (38 - i)) s0 == s2 && s0 != 0)

/-- Decode a word: one symbol is corrected, two are detected (R312). -/
def lineDecode (w : Bytes) : WordRead :=
  let s0 := lineSyn 0 w
  let s1 := lineSyn 1 w
  let s2 := lineSyn 2 w
  if s0 = 0 ∧ s1 = 0 ∧ s2 = 0 then .clean
  else match lineSeek s0 s1 s2 with
    | some i => .fixed (w.modify i (· ^^^ s0))
    | none => .bad

/-! ### A line as it is stored (R312) -/

/-- The line's device address as the tweak and in the tag (DESIGN CHOICE, log 131: little-endian, 16 and 8 bytes). -/
def lineTweak (l : Nat) : Bytes := leBytes 16 (64 * l)

/-- The ciphertext of a line. -/
def lineCipher (kx : Bytes) (l : Nat) (p : Bytes) : Bytes := xts true kx (lineTweak l) p

/-- The integrity tag of a line's ciphertext. -/
def lineTag (kt : Bytes) (l : Nat) (ct : Bytes) : Bytes := kmac128 kt (leBytes 8 (64 * l) ++ ct) [] 8

/-- Codeword `k`: 32 bytes of line data, 4 of the tag, 3 check bytes. -/
def lineWord (ct tag : Bytes) (k : Nat) : Bytes :=
  let m := slice ct (32 * k) 32 ++ slice tag (4 * k) 4
  m ++ lineCheck m

/-- The sideband: tag and check bytes of each codeword, then two zeros. -/
def lineSideband (ct tag : Bytes) : Bytes := (lineWord ct tag 0).drop 32 ++ (lineWord ct tag 1).drop 32 ++ zeros 2

/-- A stored line: 64 bytes of ciphertext and 16 of sideband. -/
def lineStored (keys : Bytes) (l : Nat) (p : Bytes) : Bytes :=
  let ct := lineCipher (keys.take 64) l p
  ct ++ lineSideband ct (lineTag (keys.drop 64) l ct)

/-- Codeword `k` of a line as the cells give it back. -/
def cellWord (w : Bytes) (k : Nat) (es : List CellErr) : Bytes :=
  (es.filter (fun e => e.cw.val == k)).foldl (fun w e => w.modify e.sym.val (· ^^^ e.x)) w

/-- The tag kept in two corrected codewords is that of the line data they hold. -/
def lineTagged (kt : Bytes) (l : Nat) (a b : Bytes) : Bool :=
  decide (lineTag kt l (a.take 32 ++ b.take 32) = slice a 32 4 ++ slice b 32 4)

/-- What two codewords read back give, by the test of the tag: the code first, then the tag (R314, Table 14-2). -/
def lineJudge (tagged : Bytes → Bytes → Bool) (a b : Bytes) : LineRead :=
  match lineDecode a, lineDecode b with
  | .clean, .clean => if tagged a b then .clean else .badTag
  | .fixed a, .clean => if tagged a b then .corrected else .badFix
  | .clean, .fixed b => if tagged a b then .corrected else .badFix
  | .fixed a, .fixed b => if tagged a b then .corrected else .badFix
  | _, _ => .badEcc

/-- Read a stored line with plaintext `p` back. -/
def lineOutcome (keys : Bytes) (l : Nat) (p : Bytes) (es : List CellErr) : LineRead :=
  let ct := lineCipher (keys.take 64) l p
  let tag := lineTag (keys.drop 64) l ct
  lineJudge (lineTagged (keys.drop 64) l) (cellWord (lineWord ct tag 0) 0 es) (cellWord (lineWord ct tag 1) 1 es)

end Sys2Proof.Machine
end

