-- ==== Sys2Proof/Machine/Sha2.lean ====
section
/-! DEFINITION. SHA-256, SHA-384 and SHA-512 (the functions R79 names, as FIPS 180-4 defines them). -/
namespace Sys2Proof.Machine
open Sys2Proof

/-- The first 64 primes. -/
def primes64 : List Nat :=
  [2, 3, 5, 7, 11, 13, 17, 19, 23, 29, 31, 37, 41, 43, 47, 53, 59, 61, 67, 71, 73, 79, 83, 89, 97,
   101, 103, 107, 109, 113, 127, 131, 137, 139, 149, 151, 157, 163, 167, 173, 179, 181, 191, 193,
   197, 199, 211, 223, 227, 229, 233, 239, 241, 251, 257, 263, 269, 271, 277, 281, 283, 293, 307, 311]

/-- The next 16 primes, which SHA-512's 80 rounds use. -/
def primes80 : List Nat :=
  primes64 ++ [313, 317, 331, 337, 347, 349, 353, 359, 367, 373, 379, 383, 389, 397, 401, 409]

/-- The greatest `x` with `x ^ k ≤ n`, found bit by bit from bit `i - 1` down. -/
def rootFrom (k n : Nat) : Nat → Nat → Nat
  | 0, x => x
  | i + 1, x => rootFrom k n i (if (x + 2 ^ i) ^ k ≤ n then x + 2 ^ i else x)

/-- The first `w` bits of the fraction of the `k`-th root of `p`. -/
def rootFrac (k w p : Nat) : BitVec w := BitVec.ofNat w (rootFrom k (p * 2 ^ (k * w)) (w + 5) 0)

/-- The round constants of SHA-256. -/
def sha256K : List (BitVec 32) := primes64.map (rootFrac 3 32)

/-- The round constants of SHA-512. -/
def sha512K : List (BitVec 64) := primes80.map (rootFrac 3 64)

/-- The first hash value of SHA-256. -/
def sha256H : List (BitVec 32) := (primes64.take 8).map (rootFrac 2 32)

/-- The first hash value of SHA-512. -/
def sha512H : List (BitVec 64) := (primes64.take 8).map (rootFrac 2 64)

/-- The first hash value of SHA-384. -/
def sha384H : List (BitVec 64) := ((primes64.drop 8).take 8).map (rootFrac 2 64)

/-- The rotation and shift counts of one SHA-2 word size: Σ0, Σ1, σ0, σ1. -/
structure Sha2Par where
  bs0 : Nat × Nat × Nat
  bs1 : Nat × Nat × Nat
  ss0 : Nat × Nat × Nat
  ss1 : Nat × Nat × Nat
deriving DecidableEq, Repr

/-- The counts of the 32-bit functions. -/
def sha256Par : Sha2Par := ⟨(2, 13, 22), (6, 11, 25), (7, 18, 3), (17, 19, 10)⟩

/-- The counts of the 64-bit functions. -/
def sha512Par : Sha2Par := ⟨(28, 34, 39), (14, 18, 41), (1, 8, 7), (19, 61, 6)⟩

/-- Three rotations to the right, combined. -/
def rot3 {w : Nat} (c : Nat × Nat × Nat) (x : BitVec w) : BitVec w :=
  x.rotateRight c.1 ^^^ x.rotateRight c.2.1 ^^^ x.rotateRight c.2.2

/-- Two rotations and a shift to the right, combined. -/
def rot2s {w : Nat} (c : Nat × Nat × Nat) (x : BitVec w) : BitVec w :=
  x.rotateRight c.1 ^^^ x.rotateRight c.2.1 ^^^ x >>> c.2.2

/-- Extend the message schedule by `n` words. -/
def sha2Sched {w : Nat} (p : Sha2Par) : Nat → List (BitVec w) → List (BitVec w)
  | 0, ws => ws
  | n + 1, ws =>
    let g := fun i => (ws.drop (ws.length - i)).headD 0
    sha2Sched p n (ws ++ [rot2s p.ss1 (g 2) + g 7 + rot2s p.ss0 (g 15) + g 16])

/-- One round of the compression function. -/
def sha2Round {w : Nat} (p : Sha2Par) (h : List (BitVec w)) (kw : BitVec w × BitVec w) :
    List (BitVec w) :=
  match h with
  | [a, b, c, d, e, f, g, x] =>
    let t1 := x + rot3 p.bs1 e + ((e &&& f) ^^^ (~~~ e &&& g)) + kw.1 + kw.2
    let t2 := rot3 p.bs0 a + ((a &&& b) ^^^ (a &&& c) ^^^ (b &&& c))
    [t1 + t2, a, b, c, d + t1, e, f, g]
  | _ => h

/-- Compress one block. -/
def sha2Block {w : Nat} (p : Sha2Par) (ks : List (BitVec w)) (h : List (BitVec w)) (blk : Bytes) :
    List (BitVec w) :=
  let ws := (chunks (w / 8) blk).map (fun c => BitVec.ofNat w (ofBe c))
  let r := (ks.zip (sha2Sched p (ks.length - 16) ws)).foldl (sha2Round p) h
  List.zipWith (· + ·) h r

/-- A message with SHA-2 padding for blocks of `b` bytes. -/
def sha2Pad (b : Nat) (m : Bytes) : Bytes :=
  let l := b / 8
  let z := (2 * b - 1 - l - m.length % b) % b
  m ++ [0x80] ++ zeros z ++ beBytes l (8 * m.length)

/-- The SHA-2 function with the given constants, giving `n` bytes. -/
def sha2 {w : Nat} (p : Sha2Par) (ks h : List (BitVec w)) (n : Nat) (m : Bytes) : Bytes :=
  let b := 2 * w
  (((chunks b (sha2Pad b m)).foldl (sha2Block p ks) h).flatMap (fun x => beBytes (w / 8) x.toNat)).take n

/-- SHA-256 (R79). -/
def sha256 (m : Bytes) : Bytes := sha2 sha256Par sha256K sha256H 32 m
/-- SHA-384 (R79). -/
def sha384 (m : Bytes) : Bytes := sha2 sha512Par sha512K sha384H 48 m
/-- SHA-512 (R79). -/
def sha512 (m : Bytes) : Bytes := sha2 sha512Par sha512K sha512H 64 m

end Sys2Proof.Machine
end

