-- ==== Sys2Proof/Machine/DigestFn.lean ====
section
/-! DEFINITION. The digest functions a digest engine computes and the message path of its registers
(10 R236–R242). -/
namespace Sys2Proof.Machine
open Sys2Proof

/-- The digest length of an algorithm in bytes, 0 for SHAKE. -/
def digestLen : Nat → Nat
  | 1 => 32
  | 2 => 48
  | 3 => 64
  | 4 => 32
  | 5 => 48
  | 6 => 64
  | _ => 0

/-- The unkeyed digest of DGE_CFG.alg; `n` is the SHAKE output length. -/
def digest (alg : Nat) (m : Bytes) (n : Nat) : Bytes :=
  match alg with
  | 1 => sha256 m
  | 2 => sha384 m
  | 3 => sha512 m
  | 4 => sha3_256 m
  | 5 => sha3_384 m
  | 6 => sha3_512 m
  | 7 => shake128 m n
  | _ => shake256 m n

/-- The keyed digest: HMAC for SHA-2, KMAC for SHAKE (R82, R242), the tag of `n` bytes. -/
def keyedDigest (alg : Nat) (key m cust : Bytes) (n : Nat) : Bytes :=
  match alg with
  | 1 => (hmac sha256 64 key m).take n
  | 2 => (hmac sha384 128 key m).take n
  | 3 => (hmac sha512 128 key m).take n
  | 7 => kmac128 key m cust n
  | _ => kmac256 key m cust n

/-- Is the unit's configuration one that arming accepts (R240, DGE_CFG)? -/
def dgeCfgOk (u : Dge) : Bool :=
  let n := u.outlen
  if u.keyed then
    u.key.isSome && (match u.alg with
      | 1 => decide (n ≤ 32) && (n == 0 || decide (16 ≤ n))
      | 2 => decide (n ≤ 48) && (n == 0 || decide (16 ≤ n))
      | 3 => decide (n ≤ 64) && (n == 0 || decide (16 ≤ n))
      | 7 => decide (16 ≤ n) && decide (n ≤ 64)
      | 8 => decide (16 ≤ n) && decide (n ≤ 64)
      | _ => false)
  else if 1 ≤ u.alg ∧ u.alg ≤ 6 then n == 0
  else if u.alg = 7 ∨ u.alg = 8 then
    decide (1 ≤ n) && decide (n ≤ (if u.source ∧ ¬ u.compare then 16777216 else 64))
  else false

/-- The length a result or comparison has. -/
def dgeOutLen (u : Dge) : Nat :=
  if u.outlen = 0 then digestLen u.alg else u.outlen

/-- The block size of DGE_CFG.alg in bytes. -/
def algBlock : Nat → Nat
  | 1 => 64 | 2 => 128 | 3 => 128 | 4 => 136 | 5 => 104 | 6 => 72 | 7 => 168 | _ => 136

/-- The blocks of a padded message (Table 10-3). -/
def blocksOf (alg len : Nat) : Nat :=
  match alg with
  | 1 => (len + 8) / 64 + 1
  | 2 => (len + 16) / 128 + 1
  | 3 => (len + 16) / 128 + 1
  | _ => len / algBlock alg + 1

/-- The compressions of an unkeyed digest of `out` bytes. -/
def digestJobs (alg len out : Nat) : Nat :=
  if alg ≤ 3 then blocksOf alg len else len / algBlock alg + max 1 (ceilDiv out (algBlock alg))

/-- The compressions of a keyed digest that come before the message: key length, customization string. -/
def keyedFore (alg key : Nat) (cust : Bytes) : Nat :=
  let b := algBlock alg
  if alg ≤ 3 then 1 + (if b < key then blocksOf alg key else 0)
  else (bytepad (encStr [0x4B, 0x4D, 0x41, 0x43] ++ encStr cust) b).length / b + (bytepad (encStr (zeros key)) b).length / b

/-- The compressions of a keyed digest of `out` bytes (R242). -/
def keyedJobs (alg key : Nat) (cust : Bytes) (len out : Nat) : Nat :=
  let b := algBlock alg
  if alg ≤ 3 then keyedFore alg key [] - 1 + blocksOf alg (b + len) + blocksOf alg (b + digestLen alg)
  else keyedFore alg key cust + (len + (rightEnc (8 * out)).length) / b + max 1 (ceilDiv out b)

/-- The value the unit computes over its message. -/
def dgeValue (u : Dge) : Bytes :=
  match u.keyed, u.key with
  | true, some k => keyedDigest u.alg k u.msg [] (dgeOutLen u)
  | _, _ => digest u.alg u.msg (dgeOutLen u)

/-- Arm the unit for a length (R236): status and count cleared, absorbing, or finishing at length 0; a
configuration that R240 refuses aborts. Core 31 does the work at 4,096 bytes or in keyed mode (R232). -/
def dgeArm (len : Nat) (u : Dge) : Dge :=
  let t := { u with
    len := len, equal := false, notEqual := false, truncated := false, timeout := false,
    dmaError := false, short := false, count := 0, msg := [], result := [],
    offloaded := decide (4096 ≤ len) || u.keyed, done := 0
    total := if u.keyed then keyedJobs u.alg (u.key.getD []).length [] len (dgeOutLen u) else digestJobs u.alg len (dgeOutLen u) }
  if dgeCfgOk u then { t with st := if len = 0 then .finishing else .absorbing }
  else { t with st := .aborted, offloaded := false }

/-- The compressions whose bytes the unit has. -/
def dgeAvail (u : Dge) : Nat :=
  if u.st = .finishing ∨ u.count = u.len then u.total
  else (if u.keyed then keyedFore u.alg (u.key.getD []).length [] else 0) + u.count / algBlock u.alg

/-- Append message bytes (R237, R238): only what the declared length still needs is taken; the rest is
discarded and truncated sets; at the declared length the unit finishes. -/
def dgeAppend (bs : Bytes) (u : Dge) : Dge :=
  let need := u.len - u.count
  let t := { u with
    msg := u.msg ++ bs.take need, count := u.count + min bs.length need,
    truncated := u.truncated || decide (need < bs.length) }
  { t with
    truncSeen := u.truncSeen || t.truncated
    st := if t.count = u.len then .finishing else .absorbing }

/-- Bytes that arrive when the message is complete are discarded and set truncated (R237). -/
def dgeLate (u : Dge) : Dge :=
  match u.st with
  | .finishing | .done => { u with truncated := true, truncSeen := true }
  | _ => u

/-- A 64-bit data word (R237). -/
def dgeWord (lo hi : Word) (u : Dge) : Dge :=
  if u.st = .absorbing ∧ ¬ u.source then dgeAppend (leBytes 4 lo.toNat ++ leBytes 4 hi.toNat) u
  else dgeLate u

/-- DGE_LAST_COUNT: append `c` bytes of the partial word and end the message (R238). -/
def dgeLast (c : Nat) (u : Dge) : Dge :=
  if u.st = .absorbing ∧ ¬ u.source then
    let t := dgeAppend ((leBytes 4 u.lastLo.toNat ++ leBytes 4 u.lastHi.toNat).take c) u
    if t.count < u.len then { t with st := .aborted, short := true, msg := [] } else t
  else if c = 0 then u else dgeLate u

/-- The message's last block completes (R241): compare, or hold the result for its reader. -/
def dgeFinish (u : Dge) : Dge :=
  let v := dgeValue u
  if u.compare then
    let eq := decide (fit (dgeOutLen u) u.expect = v)
    { u with st := .done, equal := eq, notEqual := !eq, result := [], msg := [] }
  else { u with st := .done, result := v, msg := [] }

/-- Release (R243): message state, expected and result values and keyed shares are zeroed, the unit is
idle and has no owner; the configuration registers keep their values. -/
def dgeRelease (u : Dge) : Dge :=
  { ({} : Dge) with
    offline := u.offline, inReset := u.inReset, timeoutUs := u.timeoutUs, alg := u.alg,
    compare := u.compare, keyed := u.keyed, source := u.source, len := u.len, outlen := u.outlen,
    dmaIn := u.dmaIn, dmaOut := u.dmaOut, cfgIgnored := u.cfgIgnored, foreign := u.foreign }

end Sys2Proof.Machine
end

