-- ==== Sys2Proof/Machine/KeyClass.lean ====
section
/-! DEFINITION. Key classes, key handles and lineage tags, and the lengths Tables 3-2, 3-4 and 8-2 give
(03 R68, R73; 11 R248, R249, R262; 08 R188, R203; 04 R516). -/
namespace Sys2Proof.Machine
open Sys2Proof

/-- Role, family and set of a key class (Table 11-3). -/
def clsRole (c : Nat) : Nat := bitsOf c 12 4
/-- Family. -/
def clsFam (c : Nat) : Nat := bitsOf c 8 4
/-- Set byte. -/
def clsSet (c : Nat) : Nat := c % 256

/-- The KEM and key-agreement sets of Table 3-2: public key, ciphertext and shared secret bytes. -/
def kemSet : Nat → Option (Nat × Nat × Nat)
  | 1 => some (800, 768, 32)
  | 2 => some (1184, 1088, 32)
  | 3 => some (1568, 1568, 32)
  | 4 => some (1044992, 208, 32)
  | 5 => some (1357824, 208, 32)
  | 6 => some (2241, 4433, 32)
  | 7 => some (4514, 8978, 32)
  | 8 => some (7237, 14421, 32)
  | 0xA => some (32, 0, 32)
  | 0xB => some (64, 0, 32)
  | 0xC => some (96, 0, 48)
  | _ => none

/-- Is a set one of key agreement (X25519, ECDH), which has operation 2 alone? -/
def isAgree (s : Nat) : Bool := decide (0xA ≤ s)

/-- An RSA modulus length in bytes by size code. -/
def rsaLen : Nat → Nat
  | 0 => 256
  | 1 => 384
  | _ => 512

/-- The signature sets of Table 3-4: public key and signature bytes; RSA by its size code. -/
def sigSet (s size : Nat) : Option (Nat × Nat) :=
  match s with
  | 0x1 => some (1312, 2420)
  | 0x2 => some (1952, 3309)
  | 0x3 => some (2592, 4627)
  | 0x4 => some (32, 7856)
  | 0x5 => some (32, 17088)
  | 0x6 => some (32, 7856)
  | 0x7 => some (32, 17088)
  | 0x8 => some (48, 16224)
  | 0x9 => some (48, 35664)
  | 0xA => some (64, 29792)
  | 0xB => some (64, 49856)
  | 0xC => some (32, 64)
  | 0xD => some (64, 64)
  | 0xE => some (96, 96)
  | 0xF => some (rsaLen size + 4, rsaLen size)
  | _ => none

/-- Is a class listed by R249? -/
def clsListed (c : Nat) : Bool :=
  let s := clsSet c
  match clsRole c, clsFam c with
  | 0, 1 => (kemSet s).isSome
  | 1, 1 => (kemSet s).isSome
  | 0, 2 => if s % 16 = 15 then decide (s / 16 ≤ 2) else decide (1 ≤ s) && decide (s < 15)
  | 1, 2 => if s % 16 = 15 then decide (s / 16 ≤ 2) else decide (1 ≤ s) && decide (s < 15)
  | 0, 3 => s == 0x10 || s == 0x18
  | 0, 6 => s == 0x10 || s == 0x18 || s == 0x20 || s == 0x30 || s == 0x40
  | 0, 8 => s == 1 || s == 2 || s == 3
  | 2, _ => c == 0x2000 || c == 0x2001
  | 3, _ => c == 0x3620 || c == 0x3101 || c == 0x3102 || c == 0x3103
  | _, _ => false

/-- The first minor version of a class (R515): HQC and Classic McEliece-8192128 from 2, KMAC from 1, of
major version 3; 0 where every version has it. -/
def clsMinor (c : Nat) : Nat :=
  if clsRole c ≤ 1 ∧ clsFam c = 1 ∧ 5 ≤ clsSet c ∧ clsSet c ≤ 8 then 2
  else if c = 0x0318 then 1 else 0

/-- Is a class extended (Table 8-2): Classic McEliece and RSA? -/
def clsExt (c : Nat) : Bool :=
  clsRole c == 0 && ((clsFam c == 1 && (clsSet c == 4 || clsSet c == 5)) ||
    (clsFam c == 2 && clsSet c % 16 == 15))

/-- The secret length in the key register (Table 8-2); `n` is the HMAC or KMAC key length. -/
def clsSecret (c n : Nat) : Nat :=
  let s := clsSet c
  match clsRole c, clsFam c with
  | 1, _ => 0
  | 2, _ => 32
  | 3, 6 => 32
  | 3, _ => 64
  | _, 1 => match s with
    | 1 | 2 | 3 => 64
    | 4 | 5 => 32
    | 6 => 48
    | 7 => 56
    | 8 => 64
    | 0xC => 48
    | _ => 32
  | _, 2 => match s % 16 with
    | 8 | 9 => 48
    | 0xA | 0xB => 64
    | 0xE => 48
    | _ => 32
  | _, 3 => n
  | _, 6 => match s with
    | 0x10 => 16
    | 0x18 => 24
    | 0x20 => 32
    | 0x30 => 32
    | _ => 64
  | _, _ => 64

/-- The public part of a class in bytes. -/
def clsPub (c : Nat) : Nat :=
  match clsFam c with
  | 1 => ((kemSet (clsSet c)).getD (0, 0, 0)).1
  | 2 => if clsRole c ≤ 1 then ((sigSet (clsSet c % 16) (clsSet c / 16)).getD (0, 0)).1 else 0
  | _ => 0

/-- The body of an extended class in bytes (Table 8-2), without its tag. -/
def clsBody (c : Nat) : Nat :=
  if clsFam c = 1 then (if clsSet c = 4 then 13932 else 14120)
  else match clsSet c / 16 with
    | 0 => 640
    | 1 => 960
    | _ => 1280

/-- Classes KEY_GENERATE accepts (R516). -/
def genAccepts (c : Nat) : Bool :=
  (clsRole c == 0 && clsFam c != 8) || c == 0x2000 || clsRole c == 3

/-- Classes KEY_IMPORT accepts (R516). -/
def importAccepts (c : Nat) : Bool :=
  (clsRole c == 0 && clsFam c != 8) || clsRole c == 1 || clsRole c == 3

/-- Classes KEY_AGREE_STORE accepts (R516). -/
def agreeAccepts (c : Nat) : Bool :=
  (clsRole c == 0 && clsFam c != 8 && !clsExt c) || c == 0x3620

/-- The material lengths an import of a class accepts (Table 8-2, "Import accepts"). -/
def importLens (c : Nat) : List Nat :=
  let s := clsSet c
  match clsRole c, clsFam c with
  | 1, _ => [clsPub c]
  | 3, 6 => [32]
  | 3, _ => [64, [1632, 2400, 3168].getD (s - 1) 64]
  | _, 1 => match s with
    | 1 => [64, 1632]
    | 2 => [64, 2400]
    | 3 => [64, 3168]
    | 4 => [13932]
    | 5 => [14120]
    | 6 => [48, 2321]
    | 7 => [56, 4602]
    | 8 => [64, 7333]
    | _ => [clsSecret c 0]
  | _, 2 => match s % 16 with
    | 1 => [32, 2560]
    | 2 => [32, 4032]
    | 3 => [32, 4896]
    | 4 | 5 | 6 | 7 => [64]
    | 8 | 9 => [96]
    | 0xA | 0xB => [128]
    | 0xF => [clsBody c, 2 * rsaLen (s / 16) + 4]
    | _ => [clsSecret c 0]
  | _, 3 => (List.range 49).map (· + 16)
  | _, _ => [clsSecret c 0]

/-- A key handle's fields (Table 11-2). -/
def hHome (h : Nat) : Nat := bitsOf h 61 3
/-- Owning instance. -/
def hInst (h : Nat) : Nat := bitsOf h 53 8
/-- Level. -/
def hLevel (h : Nat) : Nat := bitsOf h 51 2
/-- Index. -/
def hIndex (h : Nat) : Nat := bitsOf h 16 35
/-- Generation check. -/
def hGen (h : Nat) : Nat := bitsOf h 0 16

/-- A handle from its fields. -/
def mkHandle (home inst level index gen : Nat) : Nat :=
  home <<< 61 + inst <<< 53 + level <<< 51 + index <<< 16 + gen

/-- A lineage tag (R262). -/
def mkTag (inst entry dgen cgen version : Nat) : Nat :=
  inst <<< 56 + entry <<< 43 + dgen <<< 27 + cgen <<< 11 + version % 2048

/-- One level's LMS code: n, the family of its hash, the height. -/
def lmsCode (c : Nat) : Option (Nat × Nat × Nat) :=
  if 5 ≤ c ∧ c ≤ 0x18 then
    let g := (c - 5) / 5
    some (if g % 2 = 0 then 32 else 24, g, 5 * ((c - 5) % 5 + 1))
  else none

/-- One level's LM-OTS code: n, the family of its hash, the chain count p. -/
def otsCode (c : Nat) : Option (Nat × Nat × Nat) :=
  if 1 ≤ c ∧ c ≤ 0x10 then
    let g := (c - 1) / 4
    let n := if g % 2 = 0 then 32 else 24
    some (n, g, ([[265, 133, 67, 34], [200, 101, 51, 26]].getD (g % 2) []).getD ((c - 1) % 4) 0)
  else none

/-- A stateful parameter set: n, total height, public key bytes, signature bytes. -/
structure SfsPar where
  n      : Nat
  height : Nat
  pub    : Nat
  sig    : Nat
deriving DecidableEq, Repr

/-- The signature bytes of one LMS level. -/
def lmsSig (n p h : Nat) : Nat := 12 + n * (p + 1) + n * h

/-- The levels of an HSS key: every level has one hash and one n (R203). -/
def hssLevels (g n : Nat) : List (Nat × Nat) → Option (List (Nat × Nat))
  | [] => some []
  | (a, b) :: t =>
    match lmsCode a, otsCode b, hssLevels g n t with
    | some (n1, g1, h), some (n2, g2, p), some r =>
      if n1 = n ∧ n2 = n ∧ g1 = g ∧ g2 = g then some ((h, p) :: r) else none
    | _, _, _ => none

/-- XMSS sets by OID (Table 8-4): n and height. -/
def xmssCode (o : Nat) : Option (Nat × Nat) :=
  let h := fun i => [10, 16, 20].getD i 10
  if 1 ≤ o ∧ o ≤ 3 then some (32, h (o - 1))
  else if 0xD ≤ o ∧ o ≤ 0xF then some (24, h (o - 0xD))
  else if 0x10 ≤ o ∧ o ≤ 0x12 then some (32, h (o - 0x10))
  else if 0x13 ≤ o ∧ o ≤ 0x15 then some (24, h (o - 0x13))
  else none

/-- XMSS^MT sets by OID: total height and layers. -/
def xmssmtCode (o : Nat) : Option (Nat × Nat) :=
  if 1 ≤ o ∧ o ≤ 8 then
    [(20, 2), (20, 4), (40, 2), (40, 4), (40, 8), (60, 3), (60, 6), (60, 12)][o - 1]?
  else none

/-- The parameter set that bytes 40–63 select (R100, R203), none where it is not listed. -/
def sfsParams (inl : Bytes) : Option SfsPar :=
  match byteAt inl 0 with
  | 1 =>
    let l := byteAt inl 1
    let cs := (List.range l).map (fun i => (byteAt inl (2 + i), byteAt inl (10 + i)))
    match cs with
    | [] => none
    | (a, b) :: t =>
      match lmsCode a with
      | none => none
      | some (n, g, _) =>
        if 8 < l then none
        else match hssLevels g n ((a, b) :: t) with
          | none => none
          | some ls =>
            let sigs := ls.foldl (fun z x => z + lmsSig n x.2 x.1) 0
            some ⟨n, ls.foldl (fun z x => z + x.1) 0, 28 + n, 4 + sigs + (l - 1) * (24 + n)⟩
  | 2 => (xmssCode (leAt inl 4 4)).map (fun x =>
      let len := if x.1 = 32 then 67 else 51
      ⟨x.1, x.2, 4 + 2 * x.1, 4 + x.1 + x.1 * len + x.1 * x.2⟩)
  | 3 => (xmssmtCode (leAt inl 4 4)).map (fun x =>
      ⟨32, x.1, 68, ceilDiv x.1 8 + 32 + x.2 * 32 * 67 + 32 * x.1⟩)
  | _ => none

/-- The key class of a stateful scheme (R100). -/
def sfsClass (scheme : Nat) : Nat := 0x0800 + scheme

end Sys2Proof.Machine
end

