-- ==== Sys2Proof/Machine/Blob.lean ====
section
/-! DEFINITION. Key derivation, wrapped blobs and export records (11 R246, R247, R253, R265; 08 R189). -/
namespace Sys2Proof.Machine
open Sys2Proof

/-- The ASCII bytes of a label. -/
def ascii (s : String) : Bytes := s.toList.map (fun c => BitVec.ofNat 8 c.toNat)

/-- A 32-byte KMAC256 derivation with no customization. -/
def kdf (key m : Bytes) : Bytes := kmac256 key m [] 32

/-- The domain key of an instance (R247). -/
def domainKey (root : Bytes) (inst : Nat) (label : Bytes) (g : Nat) : Bytes :=
  kdf root (ascii "DOM" ++ leBytes 1 inst ++ fit 8 label ++ leBytes 2 g)

/-- The header key of an instance (R247). -/
def headerKey (root : Bytes) (inst : Nat) : Bytes := kdf root (ascii "HDR" ++ leBytes 1 inst)

/-- The wrapping key of a child (R253). -/
def wrapKey (parent : Bytes) (g : Nat) : Bytes := kdf parent (ascii "WRAP" ++ leBytes 2 g)

/-- AES-GCM encryption: ciphertext and 16-byte tag. -/
def gcmEnc (key iv a p : Bytes) : Bytes × Bytes :=
  let c := gcmCtr key iv p
  (c, gcmTag key iv a c)

/-- AES-GCM decryption, none where the tag (its first `t.length` bytes) fails. -/
def gcmDec (key iv a c t : Bytes) : Option Bytes :=
  if (gcmTag key iv a c).take t.length = t then some (gcmCtr key iv c) else none

/-- Bytes 0–63 of a wrapped blob (Table 11-5). -/
def blobHead (k : KeyObj) (iv : Bytes) : Bytes :=
  ascii "UQKB" ++ [1, BitVec.ofNat 8 k.level] ++ leBytes 2 k.cls ++ leBytes 8 k.handle ++
  leBytes 8 k.tag ++ leBytes 2 k.version ++
  [BitVec.ofNat 8 k.attr, BitVec.ofNat 8 (b2n k.ext + 2 * b2n k.stateful)] ++
  leBytes 5 k.stateId ++ zeros 3 ++ leBytes 4 k.secret.length ++ leBytes 4 k.pub.length ++
  leBytes 4 k.body.length ++ fit 12 iv ++ zeros 4

/-- The header tag (bytes 64–79). -/
def headTag (hk head : Bytes) : Bytes := (kmac256 hk head [] 32).take 16

/-- A wrapped blob under the header key `hk` and the wrapping key `w` (Table 11-5). -/
def mkBlob (hk w iv : Bytes) (k : KeyObj) : Bytes :=
  let head := blobHead k iv
  let pre := head ++ headTag hk head
  let c := gcmCtr w iv k.secret
  pre ++ c ++ k.pub ++ k.body ++ gcmTag w iv (pre ++ k.pub ++ k.body) c

/-- The header fields of a blob as a key without its parts. -/
def blobKey (b : Bytes) : KeyObj :=
  { handle := leAt b 8 8, level := byteAt b 5, cls := leAt b 6 2, tag := leAt b 16 8,
    version := leAt b 24 2, attr := byteAt b 26, ext := (byteAt b 27).testBit 0,
    stateful := (byteAt b 27).testBit 1, stateId := leAt b 28 5 }

/-- Does the length of a blob agree with its header? -/
def blobLenOk (b : Bytes) : Bool := b.length == 96 + leAt b 36 4 + leAt b 40 4 + leAt b 44 4

/-- The blob length of a key. -/
def blobLen (k : KeyObj) : Nat := 96 + k.secret.length + k.pub.length + k.body.length

/-- Open a blob under the wrapping key, none where the GCM tag fails. -/
def openBlob (w b : Bytes) : Option KeyObj :=
  let s := leAt b 36 4
  let p := leAt b 40 4
  let e := leAt b 44 4
  let pub := slice b (80 + s) p
  let body := slice b (80 + s + p) e
  (gcmDec w (slice b 48 12) (b.take 80 ++ pub ++ body) (slice b 80 s) (slice b (80 + s + p + e) 16)).map
    (fun sec => { blobKey b with secret := sec, pub := pub, body := body })

/-- Is the header of a blob well formed and authentic (R254, checks 1 and 2)? -/
def headerOk (hk b : Bytes) : Bool :=
  decide (b.take 4 = ascii "UQKB") && byteAt b 4 == 1 && blobLenOk b &&
  (byteAt b 5 == 2 || byteAt b 5 == 3) && clsListed (leAt b 6 2) && leAt b 6 2 != 0x2001 &&
  decide (slice b 64 16 = headTag hk (b.take 64))

/-- The Pannier bytes of a resident record with its index share (R255). -/
def residentBytes (k : KeyObj) : Nat :=
  64 * ceilDiv (32 + k.secret.length + k.pub.length + k.body.length) 64 + 22

/-- An extended key's stored body: the body under its key with the 32-byte tag (R189). -/
def sealBody (bodyKey body : Bytes) : Bytes :=
  xorB body (shake256 bodyKey body.length) ++ kmac256 bodyKey body [] 32

/-- The body of an extended key, none where its tag fails (R189). -/
def unsealBody (bodyKey stored : Bytes) : Option Bytes :=
  let n := stored.length - 32
  let body := xorB (stored.take n) (shake256 bodyKey n)
  if kmac256 bodyKey body [] 32 = stored.drop n then some body else none

/-- An export record (R265). -/
def exportRec (cls : Nat) (m : Bytes) : Bytes := leBytes 2 cls ++ leBytes 4 m.length ++ m

/-- The lineage broadcast's match (Table 11-9): a value and the bits compared. -/
structure Cast where
  value : Nat
  mask  : Nat
deriving DecidableEq, Repr

/-- Does a lineage tag match a broadcast? -/
def castHit (c : Cast) (tag : Nat) : Bool := (tag &&& c.mask) == (c.value &&& c.mask)

/-- The broadcast of a domain invalidation: instance and old domain generation. -/
def castDomain (inst dgen : Nat) : Cast := ⟨mkTag inst 0 dgen 0 0, mkTag 0xFF 0 0xFFFF 0 0⟩
/-- The broadcast of a class invalidation: instance, class entry, old class generation. -/
def castClass (inst entry cgen : Nat) : Cast := ⟨mkTag inst entry 0 cgen 0, mkTag 0xFF 0x1FFF 0 0xFFFF 0⟩
/-- The broadcast of one key's old version: all five fields. -/
def castKey (tag : Nat) : Cast := ⟨tag, 2 ^ 64 - 1⟩

/-- Bytes 0–14 of a counter-record copy (Table 9-1). -/
def recBytes (c : RecCopy) : Bytes :=
  leBytes 5 c.stateId ++ leBytes 8 c.hwm ++ leBytes 1 c.seq ++ leBytes 1 (b2n c.live + 2 * b2n c.exhausted + 4 * b2n c.closed)

/-- A copy as the vault writes it: with its check byte, and clean ECC. -/
def sealCopy (c : RecCopy) : RecCopy := { c with check := (crc8 (recBytes c)).toNat, damaged := false }

/-- The class of a counter-record copy (R212): valid, where it is neither damaged nor void. -/
def copyValid (c : RecCopy) : Bool :=
  !c.damaged && c.check == (crc8 (recBytes c)).toNat && c.stateId != 0 && (c.live || c.closed)

/-- Is copy x newer than copy y (R212)? -/
def newer (x y : RecCopy) : Bool :=
  let d := (x.seq + 256 - y.seq) % 256
  decide (1 ≤ d) && decide (d ≤ 127)

/-- What a record is (R212): lost, free, or its copy in force with which copy that is (A or B). -/
inductive RecView where
  | lost | free | held (c : RecCopy) (isA : Bool)
deriving DecidableEq, Repr

/-- The record of a pair of copies (R212). -/
def viewRec (p : RecPair) : RecView :=
  if p.a.damaged ∨ p.b.damaged then .lost
  else match copyValid p.a, copyValid p.b with
    | false, false => .free
    | true, false => .held p.a true
    | false, true => .held p.b false
    | true, true =>
      if newer p.a p.b then .held p.a true
      else if newer p.b p.a then .held p.b false
      else if p.a.closed then .held p.a true
      else if p.b.closed then .held p.b false
      else if p.a.hwm ≥ p.b.hwm then .held p.a true else .held p.b false

/-- Write a new copy over the one that is not the record (R213); seq is one greater. -/
def writeCopy (p : RecPair) (c : RecCopy) : RecPair :=
  match viewRec p with
  | .held r true => { p with b := sealCopy { c with seq := (r.seq + 1) % 256 } }
  | .held r false => { p with a := sealCopy { c with seq := (r.seq + 1) % 256 } }
  | _ => { a := sealCopy { c with seq := 1 }, b := {} }

/-- A pair whose copy that is not the record is void: a write that does not read back, the first clearing write. -/
def voidOther (p : RecPair) : RecPair :=
  match viewRec p with
  | .held _ true => { p with b := {} }
  | .held _ false => { p with a := {} }
  | _ => { p with a := {} }

/-- The copy that closes a record (R222, step 1). -/
def closedCopy (c : RecCopy) : RecCopy := { c with live := false, closed := true }

end Sys2Proof.Machine
end

