-- ==== Sys2Proof/Machine/TandemTx.lean ====
section
/-! DEFINITION. Sending on the Tandem links: frames, check values, link encryption, long messages (chapter 16). -/
namespace Sys2Proof.Machine
open Sys2Proof

/-- Is a link held out of use by escalation (R453)? -/
def linkHeld (s : State) (k : Nat) : Bool :=
  let f := Tbl.get {} s.flt (blkNum .tlk * 256)
  f.held.contains k || f.heldBySw.contains k

/-- Can link `k` carry a frame? -/
def linkUp (s : State) (k : Nat) : Bool :=
  ((linkU s k).st == .trained || (linkU s k).st == .keyed) && !linkHeld s k

/-- The AES-256 key and the 4-byte salt of one direction of a link (R359): direction 0 runs from the lower
position to the higher. -/
def dirKey (secret : Bytes) (dir : Nat) : Bytes := kmac256 secret (ascii "TLK" ++ leBytes 1 dir) [] 36

/-- The direction of frames from position `a` to position `b`. -/
def dirOf (a b : Nat) : Nat := if a < b then 0 else 1

/-- The guard bytes of a frame (R352, R373). -/
def linkGuard (fold : Bool) (k src dst alive seq : Nat) : Bytes :=
  if fold then guardBytes 2 0 (src + dst * 2 ^ 8 + k * 2 ^ 16) (seq % 2 ^ 32) else guardBytes 1 alive 0 0

/-- The check value of a frame's bytes 0–251 (Table 16-1). -/
def frameCheck (body guard : Bytes) : Nat := cvFinal 0 (cvRun 0 (cvInit 0) body) guard

/-- The header of the next frame of a link (Table 16-1), from position `src`; destination 8 is a broadcast. -/
def frameHead (l : Link) (ty src dst len : Nat) : Bytes :=
  leBytes 1 ty ++ leBytes 1 (src + dst % 8 * 8 + dst / 8 * 64) ++ leBytes 1 len ++ leBytes 1 (l.txSeq % 16) ++
  leBytes 8 l.txSeq ++ leBytes 2 l.returned ++ leBytes 2 ((l.rxSeq + 0xFFFF) % 0x10000)

/-- The 256 bytes of the next frame of link `k` (R351–R353). -/
def mkFrame (s : State) (k ty src dst : Nat) (payload : Bytes) : Bytes :=
  let l := linkU s k
  let head := frameHead l ty src dst payload.length
  let p := fit 220 payload
  let body := match l.key with
    | some z =>
      let d := dirKey z (dirOf s.tlk.position l.peer)
      let x := gcmEnc (d.take 32) (d.drop 32 ++ leBytes 8 l.txSeq) head p
      head ++ x.1 ++ x.2
    | none => head ++ p ++ zeros 16
  body ++ leBytes 4 (frameCheck body (linkGuard s.tlk.guard k src (dst % 8) (l.txSeq % 16) l.txSeq))

/-- Put a frame on link `k`. -/
def putFrame (k : Nat) (f : Bytes) (s : State) : State :=
  blkEvent .tlk 0x10 1 { s with tlk := { s.tlk with sent := s.tlk.sent ++ [(k, f)] } }

/-- Send a frame of position `src` on link `k`: it takes the next sequence number and stays in the retry buffer
(R351, R354). A type that travels only encrypted is not sent before the link has a key (R353). -/
def passFrame (k ty src dst : Nat) (payload : Bytes) (s : State) : State :=
  let l := linkU s k
  if linkUp s k ∧ (ty ≤ 0x13 ∨ l.key.isSome) then
    let f := mkFrame s k ty src dst payload
    putFrame k f (setLink k { l with txSeq := l.txSeq + 1, retry := l.retry ++ [(l.txSeq, f)], returned := 0 } s)
  else s

/-- Send a frame of this device on link `k`. -/
def sendFrame (k ty dst : Nat) (payload : Bytes) (s : State) : State := passFrame k ty s.tlk.position dst payload s

/-- LEAVE on every link that can carry it (R368). -/
def sendLeave (s : State) : State :=
  (List.range 8).foldl (fun s k => sendFrame k 0x15 8 [BitVec.ofNat 8 s.tlk.position] s) s

/-- A message of any length in frames of a type: transaction, offset, total, then up to 200 bytes each. -/
def sendLong (k ty dst txn : Nat) (m : Bytes) (s : State) : State :=
  let ps := if m.isEmpty then [[]] else chunks 200 m
  (List.range ps.length).foldl (fun s i =>
    sendFrame k ty dst (leBytes 4 txn ++ leBytes 4 (200 * i) ++ leBytes 4 m.length ++ ps.getD i []) s) s

/-- May routes use link `k` (R358, Table 16-2): attested and keyed, and no chord under version 1.0? -/
def routable (s : State) (k : Nat) : Bool :=
  linkUp s k && (linkU s k).st == .keyed && (decide (k < 2) || decide (1 ≤ s.tlk.verMinor)) &&
    !s.tlk.lost.testBit (linkU s k).peer

/-- The positions next to some, as a mask. -/
def spread (adj : Tbl Nat) (m : Nat) : Nat :=
  (List.range 8).foldl (fun a p => if m.testBit p then a ||| Tbl.get 0 adj p else a) m

/-- The hops from one of the positions of a mask to `goal`, up to a bound. -/
def hopsTo (adj : Tbl Nat) (goal : Nat) : Nat → Nat → Option Nat
  | 0, _ => none
  | n + 1, m => if m.testBit goal then some 0 else (hopsTo adj goal n (spread adj m)).map (· + 1)

/-- The link of the path to a position (R358): the fewest hops, then the lower link number. -/
def routeTo (s : State) (p : Nat) : Option Nat :=
  let adj := Tbl.del s.tlk.adj s.tlk.position
  ((List.range 8).foldl (fun b k =>
    if routable s k then
      match hopsTo adj p 8 (2 ^ (linkU s k).peer), b with
      | none, _ => b
      | some h, none => some (h, k)
      | some h, some x => if h < x.1 then some (h, k) else b
    else b) (none : Option (Nat × Nat))).map (·.2)

/-- Has a position a route now? -/
def hasRoute (s : State) (p : Nat) : Bool := (routeTo s p).isSome

/-- A message to a position, where a route exists. -/
def sendTo (p ty txn : Nat) (m : Bytes) (s : State) : State :=
  match routeTo s p with
  | some k => sendLong k ty p txn m s
  | none => s

end Sys2Proof.Machine
end

