-- ==== Sys2Proof/Machine/Unit.lean ====
section
/-! DEFINITION. Commands: the packet's fields, replies, and the end of a command on its unit. -/
namespace Sys2Proof.Machine
open Sys2Proof

/-! ### Packet fields (Table 2-3) -/

/-- Opcode. -/
def pOp (p : Bytes) : Nat := leAt p 0 2
/-- Minor version. -/
def pMinor (p : Bytes) : Nat := byteAt p 2
/-- Flags. -/
def pFlags (p : Bytes) : Nat := byteAt p 3
/-- Key handle. -/
def pKey (p : Bytes) : Nat := leAt p 8 8
/-- Input address. -/
def pInA (p : Bytes) : Nat := leAt p 16 8
/-- Input length. -/
def pInL (p : Bytes) : Nat := leAt p 24 4
/-- Maximum output length. -/
def pMax (p : Bytes) : Nat := leAt p 28 4
/-- Output address. -/
def pOutA (p : Bytes) : Nat := leAt p 32 8
/-- FENCE (R41). -/
def pFence (p : Bytes) : Bool := (pFlags p).testBit 0
/-- NO_IRQ (R41). -/
def pNoIrq (p : Bytes) : Bool := (pFlags p).testBit 1

/-- A command by its number. -/
def cmdU (s : State) (id : Nat) : Option Cmd := s.hif.cmds.find? (fun c => c.id == id)
/-- Replace a command. -/
def setCmd (c : Cmd) (s : State) : State :=
  { s with hif := { s.hif with cmds := s.hif.cmds.map (fun x => if x.id = c.id then c else x) } }
/-- Take a command away. -/
def delCmd (id : Nat) (s : State) : State :=
  { s with hif := { s.hif with cmds := s.hif.cmds.filter (fun x => x.id != id) } }

/-- The instance that issued a command: its port's function number. -/
def cmdInst (c : Cmd) : Nat := c.port

/-- The input that a guest's REQ brought (R364): after 1, order, packet, leaf, key length and key. -/
def guestInput (s : State) (c : Cmd) : Bytes :=
  match s.tlk.guests.find? (fun t => t.cmd == c.id) with
  | some t => t.pkt.drop (78 + leAt t.pkt 74 4)
  | none => []

/-- Read `n` bytes of host memory for a command; a guest has its input with it. -/
def readAt (c : Cmd) (a n : Nat) (s : State) : Option (Bytes × State) :=
  if c.port = 256 then some (slice (guestInput s c) (a - pInA c.pkt) n, s) else dmaRead c.port a n s

/-! ### Replies (R28–R30, R52–R56) -/

/-- The code of a unit kind (R54). -/
def kindCode : UnitKind → Nat
  | .hub => 0 | .aes => 1 | .dge => 2 | .cvu => 3 | .parser => 4 | .seq => 5 | .none => 15

/-- The engine identifier (R54); 0x0F00 for a command that failed before dispatch. -/
def engineId (s : State) (c : Cmd) : Nat :=
  match c.kind with
  | .none => 0x0F00
  | k =>
    let u := match k with | .parser => 0 | _ => c.unit % 64
    u + kindCode k * 256 + (match c.remote with | some p => p | none => s.tlk.position) % 8 * 4096

/-- Does the queue pair's version write the timestamp, the hint, the MIGRATING flag (Table 2-2)? The packet's
own minor version decides (R38), for one above the accepted the accepted. -/
def versionAtLeast (major minor n : Nat) : Bool := major == 3 && decide (n ≤ minor)

/-- The flags word of a reply (R53). -/
def replyFlags (s : State) (c : Cmd) (r : Result) (qp : Qp) : Nat :=
  b2n r.truncated + 2 * b2n c.inj + 4 * b2n c.switched +
  8 * b2n ((instU s (cmdInst c)).logging && versionAtLeast qp.accMajor (min (pMinor c.pkt) qp.accMinor) 2) + 0x8000 * b2n qp.phase

/-- The 32 bytes of a reply (Table 2-5). -/
def replyBytes (s : State) (c : Cmd) (r : Result) (qp : Qp) : Bytes :=
  let v := versionAtLeast qp.accMajor (min (pMinor c.pkt) qp.accMinor)
  slice c.pkt 4 4 ++ leBytes 2 r.status ++ leBytes 2 (replyFlags s c r qp) ++ leBytes 4 r.outLen ++
  leBytes 2 (engineId s c) ++ leBytes 2 (if v 1 ∧ hintCode r.status then r.hint else 0) ++
  leBytes 8 (if v 0 then s.hif.ts else 0) ++ zeros 8

/-- Has a queue pair a fetched command without a reply? -/
def qpBusy (s : State) (p q : Nat) : Bool := s.hif.cmds.any (fun c => c.port == p && c.q == q)

/-- Queue pairs allotted to a port (HIF_PORT_INFO): 64 on the manager port. -/
def qpAllotted (s : State) (p : Nat) : Nat := if p = 0 then 64 else (instU s p).qps

/-- Vectors of a port (R25). -/
def vectors (p : Nat) : Nat := if p = 0 then 128 else 65

/-- R35: the failure bit that the checks of an enable give, 0 version, 1 allotment, 2 ring; none where they
pass. -/
def enableFails (s : State) (p q : Nat) : Option Nat :=
  let qp := qpU s p q
  let sizeOk (n : Nat) := decide (16 ≤ n) && decide (n ≤ 4096)
  if qpAllotted s p ≤ q then some 1
  else if qp.reqMajor ≠ 2 ∧ qp.reqMajor ≠ 3 then some 0
  else if ¬ (sizeOk qp.sqEntries ∧ sizeOk qp.cqEntries) ∨ qp.sqBase = 0 ∨ qp.cqBase = 0 ∨ vectors p ≤ qp.vector then some 2
  else none

/-- A queue pair just enabled (R35, R37). -/
def enabled (qp : Qp) : Qp :=
  { qp with
    enable := true, active := true, versionRejected := false, notAllotted := false, ringError := false,
    accMajor := qp.reqMajor, accMinor := min qp.reqMinor (if qp.reqMajor = 3 then 2 else 3), sqTail := 0, sqHead := 0,
    cqHead := 0, cqTail := 0, phase := true, subm := [], unsig := 0 }

/-- The checks of R35 and what they lead to; of the failure bits one stands for the last enable. -/
def qpCheck (p q : Nat) (s : State) : State :=
  let qp := qpU s p q
  match enableFails s p q with
  | none => setQp p q (enabled qp) s
  | some k => signal p 0 (setQp p q { qp with
      enable := true, versionRejected := k == 0, notAllotted := k == 1, ringError := k == 2 } s)

/-- The interrupt settings of a queue pair take effect (R7, R9). -/
def qpLive (qp : Qp) : Qp := { qp with irqOn := qp.irqEn, coalN := qp.coalCount, coalT := qp.coalTime }

/-- The command boundary of a queue pair (R7, R9, R36): its interrupt settings take effect; a retired one becomes
inactive once its last command has ended, and one whose enable was written 1 meanwhile is enabled then (R35). -/
def settleQp (p q : Nat) (s : State) : State :=
  let s := setQp p q (qpLive (qpU s p q)) s
  let qp := qpU s p q
  if qp.active ∧ qp.retiring ∧ qpBusy s p q = false then
    let s := setQp p q { qp with active := false, retiring := false } s
    if qp.enable then qpCheck p q s else s
  else s

/-- Count an unsignalled reply and signal the vector when R26's counts say so. -/
def coalesce (p q : Nat) (s : State) : State :=
  let qp := qpU s p q
  if ¬ qp.irqOn then s
  else
    let n := qp.unsig + 1
    if n ≥ qp.coalN ∨ qp.coalT = 0 then signal p qp.vector (setQp p q { qp with unsig := 0 } s)
    else setQp p q { qp with unsig := n } s

/-- The stamp of the reply of a commit orders later commands of the handle (R48, R96). -/
def stampCommits (id : Nat) (s : State) : State :=
  { s with
    kvt := { s.kvt with
      res := s.kvt.res.map (fun p => (p.1, p.2.map (fun r =>
        if r.oldCmd = some id then { r with
          oldCmd := none, old := r.old.map (fun x => if x.1 = 2 ^ 64 then (s.hif.stamp, x.2) else x) } else r))) } }

/-- The RSP message of a guest (R364): status, output length, flags, hint, unit, then the output. -/
def guestReply (c : Cmd) (r : Result) : Bytes :=
  leBytes 2 r.status ++ leBytes 4 r.outLen ++ leBytes 1 (b2n r.truncated + 2 * b2n c.inj + 4 * b2n c.switched) ++
  leBytes 2 r.hint ++ leBytes 1 c.unit ++ c.out

/-- A guest's result goes back to its origin and is kept until the origin acknowledges it (R367); a lost origin's
result is discarded (R369). -/
def answerGuest (c : Cmd) (r : Result) (s : State) : State :=
  let s := delCmd c.id s
  match s.tlk.guests.find? (fun t => t.cmd == c.id && t.rsp.isNone) with
  | none => s
  | some t =>
    if s.tlk.lost.testBit t.peer ∨ s.tlk.isolated then
      { s with tlk := { s.tlk with guests := s.tlk.guests.filter (fun x => x != t) } }
    else
      let m := guestReply c r
      sendTo t.peer 0x21 t.id m { s with
        tlk := { s.tlk with guests := s.tlk.guests.map (fun x => if x = t then { t with rsp := some m } else x) } }

/-- Write the reply of a command and end it: the slot at cq_tail, PHASE, the interrupt (R29, R30). -/
def reply (c : Cmd) (r : Result) (s : State) : State :=
  let s := { s with hif := { s.hif with stamp := s.hif.stamp + 1 } }
  let s := stampCommits c.id s
  if c.port = 256 then answerGuest c r s
  else
    let qp := qpU s c.port c.q
    let a := qp.cqBase.toNat + 32 * qp.cqTail
    let b := replyBytes s c r qp
    let s := logWrite (cmdInst c) a 32 s
    let s := if hostOk s c.port a 32 then hostPut a b s else s
    let wrap := qp.cqTail + 1 ≥ qp.cqEntries
    let s := setQp c.port c.q { qp with
      cqTail := if wrap then 0 else qp.cqTail + 1, phase := if wrap then !qp.phase else qp.phase } s
    let s := bytesEvent .hif 0x13 32 (blkEvent .hif 0x11 1 s)
    let s := instEvent (cmdInst c) (if r.status = 0 then 2 else 3) 1 s
    let s := if r.status = stsRetry then instEvent (cmdInst c) 8 1 s else s
    let s := if pNoIrq c.pkt then s else coalesce c.port c.q s
    settleQp c.port c.q (delCmd c.id s)

/-- A status and nothing else. -/
def justStatus (st : Nat) : Result := { status := st }
/-- A status with its retry hint. -/
def withHint (st hint : Nat) : Result := { status := st, hint := hint }

/-! ### The end of a command on its unit -/

/-- What an engine's key register does at the end of a command: a marked key is cleared, any other is kept
for a next command that matches it (R129, R130). -/
def keyAtEnd : Option KeyReg → Option KeyReg
  | none => none
  | some k => if k.marked then none else some { k with retained := true }

/-- The command boundary of an engine (R132): nothing of the command is left but a key that may be kept; a
lent key stays with its AES command. The kernel image and offline_req take effect (R116, R120). -/
def engBoundary (kmem : Tbl Byte) (e : Engine) : Engine :=
  { e with
    busy := false, gang := false, cmd := none, reservedBy := none, q2 := 0, q3 := 0, gfM := 0, gfPoly := 0,
    vl := 0, sew := 2, vstart := 0, v := [], k := [], x := [], pc := 0, owner := false, xof := [], fifo := [],
    outCount := 0, maxOut := 0, varOut := false, inLen := 0, staged := [], work := [], workMasks := [], lines := [], workSize := 0x400000, recovery := false,
    cache := [], param := [], kimg := kmem, stall := none, ended := none,
    key := if e.lend then e.key else keyAtEnd e.key, offline := e.offlineReq,
    uc := { e.uc with running := false, issue := false }, mc := {} }

/-- Charge unit time to an instance in a ledger (R135). -/
def chargeLedger (i t : Nat) (l : Ledger) : Ledger :=
  { l with
    credit := Tbl.set 0 l.credit i (Tbl.get 0 l.credit i - (t : Int)),
    charged := Tbl.set 0 l.charged i (Tbl.get 0 l.charged i + t) }

/-- Charge the time from `start` until now on the Hub or the AES ledger. -/
def charge (aes : Bool) (i start : Nat) (s : State) : State :=
  let t := s.now - start
  let s := instEvent i 4 t s
  if aes then { s with drl := { s.drl with aes := chargeLedger i t s.drl.aes } }
  else { s with drl := { s.drl with hub := chargeLedger i t s.drl.hub } }

/-- The waiting hash-array jobs of an engine go with its command; a running job ends by itself (R229). -/
def dropJobs (n : Nat) (s : State) : State :=
  let a := Tbl.get {} s.hsa (n / 4)
  if a.wait.any (fun j => j.who == n % 4) then
    { s with hsa := Tbl.set {} s.hsa (n / 4) { a with wait := a.wait.filter (fun j => j.who != n % 4) } }
  else s

/-- Release one Hub engine from a command of instance `i` that held it from `start` on. -/
def releaseEngine (i start n : Nat) (s : State) : State :=
  settleFlt .hub n (updEng n (engBoundary s.hub.kmem) (cadEvent .hub n 0x0C 1 true i (charge false i start (dropJobs n s))))

/-- Release a sequencer core from its command (R308): its registers stay; at the end of an extension program
its data memory and bits are zeroed (R305). -/
def releaseCore (n : Nat) (s : State) : State :=
  settleFlt .seq n <| updCore n (fun c =>
    let c := if c.st == CoreState.ext then { c with
        dmem := c.dmem.filter (fun p => decide (p.1 < 0x6000)), extMode := false
        bits := c.bits.filter (fun p => decide (p.1 < 768)) } else c
    { c with
      cmd := none, st := .idle, mbox := [], hub := none, dge := none, cvu := none, waitb := none,
      sleeping := false, svc := none }) s

/-! ### Hash arrays (R227–R231) -/

/-- Hash array `g`. -/
def hsaU (s : State) (g : Nat) : HashArray := Tbl.get {} s.hsa g
/-- Write a hash array. -/
def setHsa (g : Nat) (a : HashArray) (s : State) : State := { s with hsa := Tbl.set {} s.hsa g a }

/-- The owner of a core (Table 10-2): engines 0–3 of the group, 4 the digest engine; none for 24–30. -/
def coreOwner (core : Nat) : Option Nat := if core < 24 then some (core / 6) else if core = 31 then some 4 else none

/-- May a job start: no job of its context runs? -/
def jobFree (a : HashArray) (j : HashJob) : Bool :=
  a.run.all (fun p => match p.2 with
    | some r => r.who != j.who || r.ctx != j.ctx
    | none => true)

/-- The job a free core takes (R229): its owner's first, then the engines round-robin after the last served. -/
def nextJob (a : HashArray) (core : Nat) : Option HashJob :=
  let own := match coreOwner core with
    | some o => a.wait.find? (fun j => j.who == o && jobFree a j)
    | none => none
  match own with
  | some j => some j
  | none =>
    let start := Tbl.get 3 a.last core + 1
    ((List.range 4).map (fun k => (start + k) % 4)).findSome? (fun e => a.wait.find? (fun j => j.who == e && jobFree a j))

/-- Take the first occurrence of a job out of the waiting list. -/
def takeJob (j : HashJob) : List HashJob → List HashJob
  | [] => []
  | x :: t => if x = j then t else x :: takeJob j t

/-- A free core takes its next job. -/
def hsaTake (core : Nat) (a : HashArray) : HashArray :=
  if Tbl.get none a.run core ≠ none then a
  else match nextJob a core with
    | none => a
    | some j => { a with
        run := Tbl.set none a.run core (some j), wait := takeJob j a.wait
        last := if j.who < 4 then Tbl.set 3 a.last core j.who else a.last }

/-- Every idle core takes a job that has become free (R229, R231). -/
def hsaFill (a : HashArray) : HashArray := (List.range 32).foldl (fun a c => hsaTake c a) a

/-- An array without the jobs of its digest engine, whose core is lent at once (R244). -/
def dropDgeJobs (a : HashArray) : HashArray :=
  hsaFill { a with
    run := if (Tbl.get none a.run 31).any (fun j => j.who == 4) then Tbl.set none a.run 31 none else a.run
    wait := a.wait.filter (fun j => j.who != 4) }

/-- Release a digest engine (R243) with its work on core 31 (R244); a command of its remembers a truncation (R245). -/
def releaseDge (n : Nat) (s : State) : State :=
  let d := dgeU s n
  let s := match d.cmd.bind (cmdU s) with
    | some c => if d.truncSeen then setCmd { c with trunc := true } s else s
    | none => s
  settleFlt .dge n (setDge n (dgeRelease d) (setHsa n (dropDgeJobs (hsaU s n)) s))

/-- A check-value unit after its release (R376): configuration, running state and result are zero. -/
def cvuRelease (u : Cvu) : Cvu :=
  { ({} : Cvu) with offline := u.offline, inReset := u.inReset, cfgIgnored := u.cfgIgnored, foreign := u.foreign }

/-- Release a check-value unit. -/
def releaseCvu (n : Nat) (s : State) : State := settleFlt .cvu n (setCvu n (cvuRelease (cvuU s n)) s)

/-- Release an AES core and the lent key register of its engine (R131, R132). -/
def releaseAes (i start n : Nat) (s : State) : State :=
  let c := aesCore s n
  let s := charge true i start s
  let s := setAes n { c with busy := false, cmd := none } s
  updEng c.lender (fun e => { e with
    lend := false, key := keyAtEnd e.key, offline := if e.cmd.isNone then e.offlineReq else e.offline }) s

/-- Release everything a dispatched command holds: its unit, its core, its staging pages (R320). -/
def releaseUnits (c : Cmd) (s : State) : State :=
  let i := cmdInst c
  let s := match c.phase with
    | .waiting => s
    | _ => match c.kind with
      | .hub => match c.remote with
        | some _ => charge false i c.start s
        | none => (c.unit :: c.gang).foldl (fun s n =>
            releaseEngine i (if c.gang.isEmpty then c.start else (eng s n).reservedAt) n s) s
      | .aes => releaseAes i c.start c.unit s
      | .dge => releaseDge c.unit s
      | .cvu => releaseCvu c.unit s
      | _ => s
  let s := match c.core with
    | none => s
    | some n =>
      let k := coreU s n
      let s := match k.hub with
        | none => s
        | some e => if c.kind == UnitKind.hub && e == c.unit then s else releaseEngine i c.start e s
      let s := match k.dge with
        | none => s
        | some d => if c.kind == UnitKind.dge && d == c.unit then s else releaseDge d s
      let s := match k.cvu with
        | none => s
        | some v => if c.kind == UnitKind.cvu && v == c.unit then s else releaseCvu v s
      releaseCore n s
  { s with mem := { s.mem with stagePages := s.mem.stagePages.filter (fun p => p.2 != c.id + 1) } }

/-- An engine reserved for a gang that has not started is free again; the time since its reservation is charged (R140). -/
def freeReserved (n : Nat) (s : State) : State :=
  let e := eng s n
  match e.reservedBy with
  | none => s
  | some id =>
    if e.busy then s
    else
      let s := match cmdU s id with
        | some c => charge false (cmdInst c) e.reservedAt s
        | none => s
      updEng n (fun e => { e with reservedBy := none }) s

/-- Gang engines reserved for a command that has not started are free again. -/
def unreserve (id : Nat) (s : State) : State :=
  (List.range 64).foldl (fun s n => if (eng s n).reservedBy = some id then freeReserved n s else s) s

/-- End a command: its units are cleared and released; the reply is `r`, or none. -/
def conclude (r : Option Result) (c : Cmd) (s : State) : State :=
  let s := unreserve c.id (releaseUnits c s)
  match r with
  | some r => reply c { r with truncated := r.truncated || (match cmdU s c.id with | some d => d.trunc | none => false) } s
  | none => settleQp c.port c.q (delCmd c.id s)

/-- Abandon a command (R139): it ends, and its sequencer core has an abort to take (Table 13-7, cause 8). -/
def abandon (r : Option Result) (c : Cmd) (s : State) : State :=
  let s := conclude r c s
  match c.core with
  | some n => updCore n (fun k => { k with abortPend := true }) s
  | none => s

/-- Abandon every command that satisfies `p`. -/
def abandonAll (p : Cmd → Bool) (r : Option Result) (s : State) : State :=
  (s.hif.cmds.filter p).foldl (fun s c => abandon r c s) s

/-- A command's result is known: what its reply will say. -/
def finish (id : Nat) (r : Result) (s : State) : State :=
  match cmdU s id with
  | none => s
  | some c => setCmd { c with phase := .finished, res := r } s

/-- Complete a command at once with a status, before dispatch (R43, R44): the engine identifier is 0x0F00. -/
def refuse (c : Cmd) (r : Result) (s : State) : State := reply { c with kind := .none } r s

end Sys2Proof.Machine
end

