-- ==== Sys2Proof/Machine/Modes.lean ====
section
/-! DEFINITION. Operating modes, erasure, entry into RESET, and fault records (chapters 18, 21, 22). -/
namespace Sys2Proof.Machine
open Sys2Proof

/-- Every link goes down (Table 18-7). -/
def linksDown (s : State) : State :=
  { s with
    tlk := { s.tlk with
      link := s.tlk.link.map (fun p => (p.1, { p.2 with st := .down, key := none })) } }

/-! ### Debug, injections, keys at a mode change -/

/-- Close a debug session and release every halt (R425). -/
def closeSession (s : State) : State :=
  let s := (List.range 64).foldl (fun s n =>
    if (eng s n).halted then updEng n (fun e => { e with halted := false }) s else s) s
  let s := (List.range 16).foldl (fun s n =>
    if (coreU s n).haltedD then updCore n (fun c => { c with haltedD := false }) s else s) s
  { s with
    dbg := { s.dbg with
      session := false, signer := 0, perm := 0, remaining := 0 } }

/-- Cancel every armed injection (R458). -/
def cancelInjections (s : State) : State :=
  { s with flt := s.flt.map (fun p => (p.1, { p.2 with armed := false, iLeft := 0 })) }

/-- A retained key does not outlive a mode change (R130). -/
def dropIdleKeys (s : State) : State :=
  (List.range 64).foldl (fun s n =>
    if (eng s n).cmd.isNone ∧ (eng s n).lend = false then updEng n (fun e => { e with key := none }) s else s) s

/-- Is a mode one whose changes signal vector 0 of every port (R25)? -/
def portEventMode (m : Mode) : Bool := m == .locked || m == .zeroized || m == .drain

/-- The error of the timestamp's advance across FREEWHEEL, in 10 ns units (R56): 31 µs and 100 ppm of the
interval on the crystal, 3 % on the RC backup. -/
def wakeError (s : State) : Nat := 3100 + (if s.pwr.aoRc then s.hif.asleep * 3 / 100 else s.hif.asleep / 10000)

/-- FREEWHEEL ends: the timestamp has advanced by the elapsed time, with an error the spec bounds and does not fix (R56). -/
def stampWake (s : State) : State :=
  let e := wakeError s
  let r := freeNumber (2 * e + 1) s
  let ts := max s.hif.ts (s.hif.ts + s.hif.asleep + r.1 - e)
  { r.2 with hif := { r.2.hif with ts := ts, asleep := 0 } }

/-- Change the mode (R381): the previous mode is kept, SMB_ALERT_N asserts (R479), vector 0 of every port is
signalled on a change to or from LOCKED, ZEROIZED or DRAIN (R25). -/
def setMode (m : Mode) (s : State) : State :=
  let old := s.pwr.mode
  if old = m then s
  else
    let s := if old = .freewheel then stampWake s else s
    let s := dropIdleKeys { s with
      pwr := { s.pwr with mode := m, prev := old }, pins := { s.pins with smbAlert := true } }
    if portEventMode m ∨ portEventMode old then signalPorts s else s

/-- The wake from FREEWHEEL (R387): PLLs and DRAM run, the ledgers restart, the mode is SERVICE. -/
def wake (s : State) : State :=
  if s.pwr.mode = .freewheel then
    setMode .service { s with
      mem := { s.mem with selfRefresh := false }
      drl := { s.drl with hub := {}, aes := {} }
      pwr := { s.pwr with fabLock := true, seqLock := true, dramLock := true } }
  else s

/-- An access from a source: a host access to a BAR0 wakes the device (R387). -/
def touch (src : Src) (s : State) : State :=
  match src with
  | .host _ => wake s
  | _ => s

/-! ### Erasure (R434, Table 21-2) -/

/-- Step 4 on an engine: key register, share file, scratch, FIFO, mask generator; in a group that has power (`on`) the
generator halts and asks for a seed, also one that still awaited its first (R125). -/
def eraseEngine (on : Bool) (e : Engine) : Engine :=
  { e with
    key := none, v := [], k := [], x := [], fifo := [], xof := [], stall := none, lend := false,
    work := if e.recovery then [] else e.work, workMasks := if e.recovery then [] else e.workMasks, mc := {}, staged := if e.recovery then [] else e.staged,
    mg := { halted := on, reseedReq := on } }

/-- Steps 3 and 4: every volatile secret; memory reads as zeros from then on (R317). -/
def eraseVolatile (s : State) : State :=
  let s : State := { s with
    hub := { s.hub with
      eng := (List.range 64).foldl (fun t n => Tbl.upd {} t n (eraseEngine (s.pwr.groups.contains (n / 4)))) s.hub.eng, recovery := [],
      aes := s.hub.aes.map (fun p => (p.1, { p.2 with busy := false, cmd := none })) }
    mem := { s.mem with keys := false, keyVal := [], poison := [] }
    dge := s.dge.map (fun p => (p.1, { p.2 with key := none, keyMasks := [], msg := if p.2.keyed then [] else p.2.msg })) }
  { s with
    kvt := { s.kvt with root := none, rootState := 0, pannierKey := [], res := [], cache := [], trees := [], grants := [] }
    ent := { s.ent with
      drbg := s.ent.drbg.map (fun p => (p.1, { p.2 with key := [], v := [], inst := false, mustReseed := false })), queue := [], fifo := [], reserve := 0,
      seedQ := (List.range 64).filter (fun n => s.pwr.groups.contains (n / 4)), seedFly := [], firstPart := 0, firstBlock := [] } }

/-- Step 6: the BBRAM secrets, with the seed fields of a staged transition record (R439); the prepare slots
become free (R440). -/
def eraseBbram (s : State) : State :=
  { s with
    bbram := { s.bbram with
      intSeed := none, ownSeed := none, ownDigest := none, retRoot := none, adopted := [], prep := [],
      trans := { s.bbram.trans with seed := [], digest := [] } } }

/-- The erase of the ERASE response. -/
def eraseAll (s : State) : State := eraseBbram (eraseVolatile s)

/-! ### Instances taken away -/

/-- The counters of an instance start over. -/
def zeroCounters (i : Nat) (s : State) : State :=
  { s with
    cad := { s.cad with
      cnt := s.cad.cnt.filter (fun p => decide (p.1 < cntKey .inst i 0) || decide (cntKey .inst i 16 ≤ p.1)) } }

/-- The queue pairs and the MSI-X table of a port at their reset values. -/
def resetPort (i : Nat) (s : State) : State :=
  { s with
    hif := { s.hif with
      qps := s.hif.qps.filter (fun p => p.1 / 64 != i), msix := s.hif.msix.filter (fun p => p.1 / 128 != i),
      port := Tbl.del s.hif.port i } }

/-- Set a journal slot's PENDING record to kind 3 (R259). -/
def clearPending (slot : Nat) (s : State) : State :=
  let j := Tbl.get {} s.bbram.journal slot
  { s with
    bbram := { s.bbram with
      journal := Tbl.set {} s.bbram.journal slot { j with pend := { j.pend with kind := 3 } } } }

/-- The resident records of an instance are freed, its pending installs get kind 3 (Table 15-3). -/
def freeResidents (i : Nat) (s : State) : State :=
  let mine := s.kvt.res.filter (fun p => hInst p.1 == i)
  let s := mine.foldl (fun s p => match p.2 with
    | some r => if r.pend.isSome then clearPending r.slot s else s
    | none => s) s
  { s with kvt := { s.kvt with res := s.kvt.res.filter (fun p => hInst p.1 != i) } }

/-- Revoke every KEY_SHARE grant that involves an instance (R99, R107). -/
def revokeGrants (i : Nat) (s : State) : State :=
  { s with
    kvt := { s.kvt with
      grants := (s.kvt.grants.filter (fun p => hInst p.1 != i && p.2 != [i])).map (fun p => (p.1, p.2.filter (· != i))) } }

/-- Destroy an instance: everything it holds goes back (R107, Table 15-3). Its commands have ended before. -/
def destroyInst (i : Nat) (s : State) : State :=
  let s := revokeGrants i (freeResidents i (zeroCounters i (resetPort i s)))
  let s := (List.range 4).foldl (fun s g => setPerm i g false s) s
  setInst i {} s

/-! ### Engine groups off -/

/-- Gate a group: its engines keep nothing but whether they are withdrawn (R116, R141). -/
def gateGroup (g : Nat) (s : State) : State :=
  let s := (List.range 4).foldl (fun s i => updEng (4 * g + i) (fun e => { ({} : Engine) with
    offline := e.offline, offlineReq := e.offlineReq, heldByFault := e.heldByFault, inReset := e.inReset, testing := e.testing
    failedTest := e.failedTest }) s) s
  { s with
    pwr := { s.pwr with groups := s.pwr.groups.filter (· != g) }
    ent := { s.ent with seedQ := s.ent.seedQ.filter (fun n => n / 4 != g), seedFly := s.ent.seedFly.filter (fun n => n / 4 != g) } }

/-- No engine group runs in LOCKED and ZEROIZED, and the DRAM is in self-refresh or without keys (R111, Table 14-6). -/
def gateAll (s : State) : State :=
  let s := s.pwr.groups.foldl (fun s g => gateGroup g s) s
  { s with mem := { s.mem with selfRefresh := true }, pwr := { s.pwr with dramLock := false } }

/-! ### Entry into LOCKED, ZEROIZED and RESET -/

/-- May the device enter LOCKED or ZEROIZED from this mode (Table 18-3)? In DRAIN the response acts and DRAIN
continues (Table 18-4). -/
def mayLock (m : Mode) : Bool :=
  match m with
  | .off => false | .watch => false | .reset => false | .drain => false
  | _ => true

/-- Enter LOCKED, with every command that has no reply answered by `st`. -/
def enterLocked (st : Nat) (s : State) : State :=
  let s := abandonAll (fun _ => true) (some (justStatus st)) s
  if mayLock s.pwr.mode then
    let s := cancelInjections (closeSession (linksDown (sendLeave s)))
    setMode .locked (gateAll s)
  else s

/-- Migration logging is off (Table 18-7). -/
def stopLogging (s : State) : State :=
  { s with
    hif := { s.hif with
      inst := s.hif.inst.map (fun p => (p.1, { p.2 with logging := false, logOver := false, dirty := [] })) } }

/-- The mode becomes ZEROIZED: instances 1–255 are destroyed, links and the session end (Table 18-7). -/
def toZeroized (s : State) : State :=
  if mayLock s.pwr.mode then
    let s := cancelInjections (closeSession (linksDown (sendLeave s)))
    let s := setMode .zeroized (gateAll s)
    ((liveInsts s).filter (· != 0)).foldl (fun s i => destroyInst i s) (stopLogging s)
  else s

/-- Enter ZEROIZED, with every command that has no reply answered by `st`. -/
def enterZeroized (st : Nat) (s : State) : State :=
  toZeroized (abandonAll (fun _ => true) (some (justStatus st)) s)

/-! ### Counter records, and what an outage leaves of their writes (R211–R222) -/

/-- A record by its slot. -/
def recU (s : State) (n : Nat) : RecPair := Tbl.get {} s.bbram.recs n
/-- Stages of earlier writes that touch what is written now can no longer come back. -/
def dropCuts (p : BbStage → Bool) (s : State) : State :=
  { s with kvt := { s.kvt with cuts := s.kvt.cuts.filter (fun c => !c.2.any p) } }

/-- Write a record's copies. -/
def setRec (n : Nat) (p : RecPair) (s : State) : State :=
  dropCuts (fun x => x.recs.any (·.1 == n)) { s with bbram := { s.bbram with recs := Tbl.set {} s.bbram.recs n p } }

/-- Note the stages of a command's BBRAM writes; those of commands that have replied go. -/
def noteCut (id : Nat) (ps : List BbStage) (s : State) : State :=
  { s with kvt := { s.kvt with cuts := (id, ps) :: s.kvt.cuts.filter (fun c => (cmdU s c.1).isSome) } }

/-- The stages of a write to one record. -/
def recStages (n : Nat) (ps : List RecPair) : List BbStage := ps.map (fun p => { recs := [(n, p)] })

/-- BBRAM as a stage leaves it. -/
def applyStage (x : BbStage) (b : Bbram) : Bbram :=
  { b with
    recs := x.recs.foldl (fun t p => Tbl.set {} t p.1 p.2) b.recs
    journal := x.slots.foldl (fun t p => Tbl.set {} t p.1 p.2) b.journal
    gens := x.gens.foldl (fun t p => Tbl.set {} t p.1 p.2) b.gens }

/-- The copy that trims a record, where its key's cursor lies below its mark (R218). -/
def trimCopy (s : State) (n : Nat) : Option RecCopy :=
  match viewRec (recU s n), Tbl.get none s.kvt.sfsCursor n with
  | .held c _, some k => if ¬ c.closed ∧ k < c.hwm then some { c with hwm := k, exhausted := false } else none
  | _, _ => none

/-- Does a command hold a leaf of a stateful key? -/
def leafHeld (s : State) : Bool := s.hif.cmds.any (fun c => c.leaf.isSome && c.port != 256 && c.phase != .finished)

/-- May the trims of DRAIN be under way (R218): no SFS_SIGN holds a leaf any more? -/
def mayTrim (s : State) : Bool := s.pwr.mode == .drain && !s.pwr.drainQuiesced && (s.pwr.drainRunEnded || !leafHeld s)

/-- The trims are cut short (R218, R219): some of the records, in slot order, have theirs. How many is open. -/
def cutTrims (s : State) : State :=
  if mayTrim s ∧ ¬ s.pwr.trimmed then
    let ns := (List.range 1024).filter (fun n => (trimCopy s n).isSome && !s.bbram.badRecs.contains n)
    let r := freeNumber (ns.length + 1) s
    (ns.take r.1).foldl (fun s n => match trimCopy s n with
      | some c => setRec n (writeCopy (recU s n) c) s
      | none => s) r.2
  else s

/-- BBRAM writes of commands without a reply may have got only as far as an earlier stage (Table 9-2, R259, R438): which
is open. -/
def cutWrites (s : State) : State :=
  let t := (s.kvt.cuts.filter (fun c => (cmdU s c.1).isSome)).foldl (fun s c =>
    let r := freeNumber (c.2.length + 1) s
    match c.2[r.1]? with
    | some x => { r.2 with bbram := applyStage x r.2.bbram }
    | none => r.2) s
  { t with kvt := { t.kvt with cuts := [] } }

/-- A flash slot with an image written into it. -/
def putSlot (k : Nat) (im : Bytes) (s : State) : State :=
  { s with glb := if k = 0 then { s.glb with flashA := im } else { s.glb with flashB := im } }

/-- A slot whose first sector is erased and not programmed holds no header (R410). -/
def erasedSlot (im : Bytes) : Bytes := List.replicate (min 4096 im.length) 0xFF ++ im.drop 4096

/-- A staging without its reply may have been cut short before its first sector (R410): whether it was is open. -/
def cutFlash (s : State) : State :=
  match s.glb.staging with
  | some (id, k) =>
    let s : State := { s with glb := { s.glb with staging := none } }
    if (cmdU s id).isNone then s
    else
      let r := freeNumber 2 s
      if r.1 = 0 then putSlot k (erasedSlot (if k = 0 then s.glb.flashA else s.glb.flashB)) r.2 else r.2
  | none => s

/-- What an outage, or DRAIN that abandons commands, leaves of the writes of commands without a reply. -/
def cutShort (s : State) : State := cutFlash (cutWrites s)

/-- Every volatile state is lost in entering RESET, WATCH or OFF (R384, Table 18-7); the always-on bank, BBRAM, OTP, the
boot flash and PWR_LAST_DRAIN stay. -/
def wipe (m : Mode) (cause : Nat) (s : State) : State :=
  let s := cutShort (cutTrims s)
  let r := State.reset
  { r with
    pending := s.pending, now := s.now, free := s.free, host := s.host, bbram := s.bbram
    tmp := { s.tmp with erasing := false, fuseBusy := false }
    lcs := { r.lcs with otp := s.lcs.otp }
    glb := { r.glb with flashA := s.glb.flashA, flashB := s.glb.flashB, badSlots := s.glb.badSlots }
    flt := s.flt.filterMap (fun p => if p.1 / 256 = blkNum .tmp then
      some (p.1, { p.2 with armed := false, iLeft := 0, iChecker := 0, iCount := 0, iMode := 0 }) else none)
    tlk := { r.tlk with sent := s.tlk.sent }
    pwr := { r.pwr with
      mode := m, prev := s.pwr.mode, cause := cause, aoRc := s.pwr.aoRc
      drainAbandoned := s.pwr.drainAbandoned, drainCut := s.pwr.drainCut, drainSource := s.pwr.drainSource
      drainDur := s.pwr.drainDur, dramRails := s.pwr.dramRails, warnPin := s.pwr.warnPin } }

/-- The causes of entry into RESET (PWR_MODE.reset_cause): 0 power-on, 1 PERST_N, 2 end of DRAIN, 3 GLB soft
reset, 4 REPROVISION, 5 LC_ADVANCE, 6 UNLOCK. -/
def enterReset (cause : Nat) (s : State) : State :=
  let s := if mayLock s.pwr.mode ∧ cause ≠ 2 then sendLeave s else s
  let s := match s.lcs.burning with
    | some (n, v) => burnWord n v.toNat s
    | none => s
  wipe .reset cause s

/-! ### Fault records (R446–R454) -/

/-- The manager vector of a set (Table 26-4a). -/
def fltVector (b : Blk) (unit : Nat) : Nat :=
  match b with
  | .hub => 65 + unit / 4 | .seq => 81 + unit / 2 | .dge => 89 + unit / 2 | .cvu => 97 + unit / 2
  | .glb => 101 | .pwr => 102 | .lcs => 103 | .tmp => 104 | .hif => 106 | .hsa => 107 | .kvt => 108
  | .ent => 109 | .mem => 111 | .tlk => 112 | .cad => 113 | .dbg => 127

/-- A checker's record (R449): block, set, checker, class, unit field, instance, REAL, INJ. -/
structure FltRec where
  blk     : Blk
  set     : Nat := 0
  checker : Nat
  cls     : Nat
  unit    : Nat := 0
  inst    : Nat := 0
  real    : Bool := true
  inj     : Bool := false
deriving DecidableEq, Repr

/-- The timer length in 10 ns ticks: 1–10,000 µs (REACT_TIMER). -/
def timerTicks (us : Nat) : Nat := 100 * max 1 (min us 10000)

/-- What a record does to its set (R449–R452). -/
def recordSet (now : Nat) (r : FltRec) (f : FltSet) : FltSet :=
  let f := { f with
    classBits := f.classBits ||| 2 ^ r.cls, inj := f.inj || r.inj,
    corrCount := if r.cls = 0 then min 0xFF (f.corrCount + 1) else f.corrCount }
  let f := if r.cls = 0 then f
    else { f with
      seq := (f.seq + 1) % 256, pending := true, expired := false, pend := f.pend ++ [(r.cls, r.unit, r.real)],
      timerEnd := if f.pending then f.timerEnd else some (now + timerTicks f.liveUs) }
  if f.fValid then { f with fMultiple := true }
  else { f with
    fValid := true, fChecker := r.checker, fClass := r.cls, fInj := r.inj, fReal := r.real, fMultiple := false,
    fUnit := r.unit, fInst := r.inst }

/-- Make a record: the set, its vector on a class bit that turns 1, the FAULT_N latch (R451). -/
def record (r : FltRec) (s : State) : State :=
  let f := fltU s r.blk r.set
  let g := recordSet s.now r f
  let s := setFlt r.blk r.set g s
  let s := if r.real ∧ 3 ≤ r.cls then { s with pins := { s.pins with faultLatch := true } } else s
  if ¬ f.classBits.testBit r.cls ∧ f.liveEn.testBit r.cls then signal 0 (fltVector r.blk r.set) s else s

/-- FAULT_N is low (R451, R209, R404); it is released up to RESET (Table 24-7). -/
def faultN (s : State) : Bool :=
  decide (3 ≤ modeNum s.pwr.mode) && (s.pins.faultLatch || s.pins.fatal ||
    s.flt.any (fun p => (p.2.pending && p.2.pend.any (fun x => decide (2 ≤ x.1))) || !p.2.held.isEmpty))

/-- TAMPER_OUT_N is low (R445); it is released in OFF (Table 24-7). -/
def tamperOutN (s : State) : Bool := s.pwr.mode != .off && (s.tmp.tamperOut || s.bbram.lockFlag)

/-- The engines whose withdrawal a held unit of a set means (R453). -/
def heldEngines (b : Blk) (set unit : Nat) : List Nat :=
  match b with
  | .hub => if unit = 0 then [set] else []
  | .hsa => (List.range 4).map (· + 4 * unit)
  | _ => []

/-- Hold a unit of a set offline, or return it (R453, R454). -/
def holdUnit (on : Bool) (b : Blk) (set unit : Nat) (s : State) : State :=
  let s := (heldEngines b set unit).foldl (fun s n => updEng n (fun e => { e with heldByFault := on }) s) s
  match b with
  | .hub => if unit = 1 then setAes (set / 2) { aesCore s (set / 2) with held := on } s else s
  | .seq => updCore set (fun c => { c with offline := on }) s
  | .dge => setDge set { dgeU s set with offline := on } s
  | .cvu => setCvu set { cvuU s set with offline := on } s
  | _ => s

/-- The action of a class at expiry (R453): 1 and 2 act as 0 for DEVICE. -/
def classAction (f : FltSet) (cls : Nat) : Nat :=
  match cls with
  | 1 => f.actContained
  | 2 => f.actBlock
  | 3 => if f.actDevice = 3 then 3 else 0
  | _ => 0

/-- Has a block units that can be held offline? -/
def holdable (b : Blk) : Bool :=
  match b with
  | .hub | .seq | .dge | .cvu | .tlk | .hsa => true
  | _ => false

/-- The command that a unit of a set serves. -/
def unitCmd (s : State) (b : Blk) (set unit : Nat) : Option Nat :=
  match b with
  | .hub => if unit = 1 then (aesCore s (set / 2)).cmd else (eng s set).cmd
  | .seq => (coreU s set).cmd
  | .dge => (dgeU s set).cmd
  | .cvu => (cvuU s set).cmd
  | _ => none

/-- A command ends with STS_FAULT (R446). -/
def faultCmd (id : Option Nat) (s : State) : State :=
  match id with
  | none => s
  | some i => match cmdU s i with
    | none => s
    | some c => abandon (some (justStatus stsFault)) c s

/-- A command on whose path a record carried INJ = 1 (R449). -/
def markInj (id : Option Nat) (s : State) : State :=
  match id with
  | none => s
  | some i => match cmdU s i with
    | none => s
    | some c => setCmd { c with inj := true } s

/-- The DRBGs, the random queue, ENT_DATA and the reserve are cleared and instantiated anew (R283, R446). -/
def resetEnt (s : State) : State :=
  { s with
    ent := { s.ent with
      drbg := s.ent.drbg.map (fun p => (p.1, { p.2 with key := [], v := [], inst := false, mustReseed := false, stopped := false })),
      queue := [], fifo := [], reserve := 0 } }

/-- A unit enters block reset (Table 22-1). -/
def blockReset (b : Blk) (set unit : Nat) (s : State) : State :=
  match b with
  | .hub =>
    if unit = 1 then
      let s := updEng (aesCore s (set / 2)).lender (fun e => if e.cmd.isSome then e else { e with key := none }) s
      setAes (set / 2) { aesCore s (set / 2) with inReset := true, busy := false, cmd := none } s
    else updEng set (fun e => { engBoundary s.hub.kmem { e with lend := false } with
      key := none, inReset := true }) s
  | .seq => updCore set (fun c => { ({} : Core) with st := .blockReset, offline := c.offline }) s
  | .dge => setDge set { dgeRelease (dgeU s set) with inReset := true } s
  | .cvu => setCvu set { cvuRelease (cvuU s set) with inReset := true } s
  | .tlk => setLink unit { linkU s unit with st := .down, authFail := true, key := none } s
  | .ent => resetEnt s
  | _ => s

/-! ### Injection on a checker's accesses (R455–R457) -/

/-- Has a set an injection armed on a checker? -/
def injArmed (s : State) (b : Blk) (set checker : Nat) : Bool :=
  let f := fltU s b set
  f.armed && f.iChecker == checker

/-- One access of an armed checker: remaining counts down and disarms at 0. -/
def injUse (b : Blk) (set : Nat) (s : State) : State :=
  let f := fltU s b set
  setFlt b set { f with iLeft := f.iLeft - 1, armed := decide (1 < f.iLeft) } s

/-- The erase engine at work, which reads back what it erased (TMP checker 2, whose injected record ends nothing, R456). -/
def eraseRead (s : State) : State :=
  let s := eraseAll s
  if injArmed s .tmp 0 2 then record { blk := .tmp, checker := 2, cls := 3, real := false, inj := true } (injUse .tmp 0 s) else s

/-- What a SECRET fault does (Table 22-1, from step 2 of Table 21-2): the erase, TAMPER_OUT_N, ZEROIZED; no source of
Table 21-3 names a fault, so that no log entry is written (DEDUCED, log 138). -/
def secretFault (s : State) : State :=
  let s := eraseRead s
  enterZeroized stsFault { s with tmp := { s.tmp with tamperOut := true } }

/-! ### Effects -/

/-- The effect of a class at detection (Table 22-1), on the command `id` that the checker's path serves; an
injected DEVICE or SECRET record has none (R456). -/
def classEffect (r : FltRec) (id : Option Nat) (s : State) : State :=
  match r.cls with
  | 1 => faultCmd id s
  | 2 => blockReset r.blk r.set r.unit (faultCmd id s)
  | 3 => if r.real then enterLocked stsFault s else s
  | 4 => if r.real then secretFault s else s
  | _ => s

/-- A fault: its record, the INJ flag of its command, and its effect. -/
def faultAt (r : FltRec) (id : Option Nat) (s : State) : State :=
  classEffect r id (if r.inj then markInj id (record r s) else record r s)

/-! ### Accesses (R455–R457) -/

/-- An access that a checker sees, with no real error: nothing, unless an injection is armed on it, in which
case a record with INJ = 1 and REAL = 0 takes the class the inverted bits call for (R456). `dec` says that the
checker decodes (one bit is CORRECTED), `cls` is its class for what it cannot correct. -/
def access (b : Blk) (set checker cls : Nat) (dec : Bool) (unit inst : Nat) (id : Option Nat) (s : State) : State :=
  if injArmed s b set checker then
    let f := fltU s b set
    let c := if dec ∧ f.iMode = 0 then 0 else cls
    faultAt ⟨b, set, checker, c, unit, inst, false, true⟩ id (injUse b set s)
  else s

end Sys2Proof.Machine
end

