-- ==== Sys2Proof/Machine/Mask.lean ====
section
/-! DEFINITION. The mask generator and the shares it makes (05 R121–R125). -/
namespace Sys2Proof.Machine
open Sys2Proof

/-- The bytes of a block: the 1,344-bit output of one permutation (R125). -/
def mgBlock : Nat := 168

/-- Deliver `k` blocks: each is the output of one permutation of the next of the eight states in turn. -/
def mgBlocks : Nat → Mg → Bytes × Mg
  | 0, m => ([], m)
  | k + 1, m =>
    let a := keccakF (m.states.getD (m.blocks % 8) (List.replicate 25 0))
    let r := mgBlocks k { m with states := m.states.set (m.blocks % 8) a, blocks := m.blocks + 1 }
    ((kBytes a).take mgBlock ++ r.1, r.2)

/-- Deliver `n` bytes; what is left of the last block is dropped. -/
def mgDraw (n : Nat) (m : Mg) : Bytes × Mg :=
  let r := mgBlocks (ceilDiv n mgBlock) m
  (r.1.take n, r.2)

/-- Shares s1 to sd of `w` bits each, fresh from the generator. -/
def mgMasks (d w : Nat) (m : Mg) : List (BitVec w) × Mg :=
  let r := mgDraw (d * (w / 8)) m
  ((List.range d).map (fun j => BitVec.ofNat w (leAt r.1 (j * (w / 8)) (w / 8))), r.2)

/-- The fresh shares of one write at the engine's order; at order 0 there are none and the generator rests (R126). -/
def freshMasks (e : Engine) (w : Nat) : List (BitVec w) × Mg := if e.order = 0 then ([], e.mg) else mgMasks e.order w e.mg

/-- The eight states after a 256-bit seed is absorbed (R125). -/
def mgAbsorb (m : Mg) (seed : Bytes) : List (List (BitVec 64)) :=
  (List.range 8).map (fun j => (List.range 25).map (fun i => Config.mgLane m.states seed j i))

/-- The key register's shares are refreshed, on a load and before a retained key is used (R128, R130). -/
def refreshKey (e : Engine) : Engine :=
  match e.key with
  | none => e
  | some k =>
    if k.order = 0 then e
    else
      let r := mgMasks k.order 512 e.mg
      { e with key := some { k with masks := r.1 }, mg := r.2 }

end Sys2Proof.Machine
end

