-- ==== Sys2Proof/Machine/Vec.lean ====
section
/-! DEFINITION. The vector side of a kernel: elements, modes and the element-wise functions (06 R153–R159). -/
namespace Sys2Proof.Machine
open Sys2Proof

/-- What one kernel instruction does to its engine: it completes, raises an exception (R168, cause and
window), waits for staging, FIFO space or a condition (R163, R166, R173), reads a poisoned line of a window (R314), or raises a
guard fault (R169, R175–R177). -/
inductive KRes where
  | ok (e : Engine)
  | exc (cause window : Nat) (e : Engine)
  | wait (e : Engine)
  | poison (win line : Nat) (e : Engine)
  | guard (e : Engine)
deriving DecidableEq, Repr

/-- Vector register `i`. -/
def getV (e : Engine) (i : Nat) : VReg := Tbl.get {} e.v i
/-- Write vector register `i`: a value in its domain, with fresh shares s1 to sd (R121–R123). -/
def setV (e : Engine) (i : Nat) (x : BitVec 8192) (d : Dom) : Engine :=
  { e with v := Tbl.set {} e.v i { val := x, dom := d, masks := (freshMasks e 8192).1 }, mg := (freshMasks e 8192).2 }
/-- Mask register `i`. -/
def getK (e : Engine) (i : Nat) : BitVec 1024 := (Tbl.get {} e.k i).val
/-- Write mask register `i`, with fresh Boolean shares (R146). -/
def setK (e : Engine) (i : Nat) (m : BitVec 1024) : Engine :=
  { e with k := Tbl.set {} e.k i { val := m, masks := (freshMasks e 1024).1 }, mg := (freshMasks e 1024).2 }
/-- Scalar register `i`; X0 reads 0 (R146). -/
def getX (e : Engine) (i : Nat) : BitVec 64 := if i = 0 then 0 else Tbl.get 0 e.x i
/-- Write scalar register `i`; X0 ignores writes (R146). -/
def setX (e : Engine) (i : Nat) (v : BitVec 64) : Engine :=
  if i = 0 then e else { e with x := Tbl.set 0 e.x i v }

/-- VLMAX of an element width code (Table 5-2). -/
def vlmax (sew : Nat) : Nat := 1024 >>> sew

/-- The modulus in a slot (R118). -/
def slotQ (e : Engine) : Nat → Nat
  | 0 => 3329
  | 1 => 8380417
  | 2 => e.q2.toNat
  | _ => e.q3.toNat

/-- Element `i` of width `w` bits (Table 6-1). -/
def elAt (x : BitVec 8192) (w i : Nat) : Nat := bitsOf x.toNat (w * i) w

/-- A register from its elements of width `w`. -/
def ofEls (w : Nat) (xs : List Nat) : BitVec 8192 :=
  BitVec.ofNat 8192 (xs.foldr (fun a r => a % 2 ^ w + r <<< w) 0)

/-- Change every element of width `w`, by its index and old value. -/
def updEls (x : BitVec 8192) (w : Nat) (f : Nat → Nat → Nat) : BitVec 8192 :=
  ofEls w ((List.range (8192 / w)).map (fun i => f i (elAt x w i)))

/-- The first `n` elements of width `w`. -/
def els (x : BitVec 8192) (w n : Nat) : List Nat := (List.range n).map (elAt x w)

/-- Share s0 of a register: what shares s1 to sd leave of its value in its domain (R121); `q` gives the moduli. -/
def VReg.share0 (q : Nat → Nat) (r : VReg) : BitVec 8192 :=
  match r.dom with
  | .boolean => r.masks.foldl (· ^^^ ·) r.val
  | .arith2 w => updEls r.val w (fun i x => r.masks.foldl (fun t m => t + (2 ^ w - elAt m w i)) x)
  | .arithQ n => updEls r.val 32 (fun i x => r.masks.foldl (fun t m => t + (q n - elAt m 32 i % q n)) x % q n)

/-- The d+1 physical shares of a register, banks 0 to d (R121). -/
def VReg.shares (q : Nat → Nat) (r : VReg) : List (BitVec 8192) := r.share0 q :: r.masks

/-- The value that shares recover in a domain (the three formulas of R121). -/
def recover (q : Nat → Nat) (d : Dom) (ss : List (BitVec 8192)) : BitVec 8192 :=
  match d with
  | .boolean => ss.foldl (· ^^^ ·) 0
  | .arith2 w => updEls 0 w (fun i _ => ss.foldl (fun t m => t + elAt m w i) 0 % 2 ^ w)
  | .arithQ n => updEls 0 32 (fun i _ => ss.foldl (fun t m => t + elAt m 32 i) 0 % q n)

/-- The element width code and width that mode and w imply, none where w does not fit the mode (R154). -/
def modeSew (mode w : Nat) : Option Nat :=
  match mode with
  | 0 => some w
  | 1 => some 2
  | 2 => if w = 1 then some 1 else none
  | _ => if w = 3 then some 3 else none

/-- Carry-less product. -/
def clmul (a b : Nat) : Nat :=
  (List.range 64).foldl (fun r i => if b.testBit i then r ^^^ (a <<< i) else r) 0

/-- Reduce a polynomial of degree below 32 by x^m + poly. -/
def gfReduce (m poly v : Nat) : Nat :=
  (List.range 32).foldl (fun r j =>
    let i := 31 - j
    if m ≤ i ∧ r.testBit i then r ^^^ ((2 ^ m + poly % 2 ^ m) <<< (i - m)) else r) v

/-- Multiply in GF(2^m). -/
def gfMul (m poly a b : Nat) : Nat := gfReduce m poly (clmul a b)

/-- The functions of Table 6-5. -/
inductive VKind where
  | add | sub | mul | mulh | mac | neg | sqr | clmul | clmulh | and | or | xor | sll | srl | sra
  | sadd | ssub | saddu | ssubu | min | max
deriving DecidableEq, Repr

/-- The modes Table 6-5 gives a function in. -/
def vopModes : VKind → List Nat
  | .add | .sub | .mul => [0, 1, 2]
  | .mac => [1, 2]
  | .neg => [1]
  | .sqr => [2]
  | .clmul | .clmulh => [3]
  | .and | .or | .xor | .sll | .srl => [0, 3]
  | _ => [0]

/-- Is the function a shift, whose count is read as Table 6-8 says? -/
def isShift : VKind → Bool
  | .sll | .srl | .sra => true
  | _ => false

/-- Clamp a signed value to `w` bits. -/
def satS (w : Nat) (v : Int) : Nat :=
  let hi : Int := 2 ^ (w - 1) - 1
  let lo : Int := -(2 ^ (w - 1))
  (BitVec.ofInt w (if hi < v then hi else if v < lo then lo else v)).toNat

/-- An element as a mode reads it: reduced modulo q, or to its low m bits (R157). -/
def canon (e : Engine) (mode w : Nat) (v : Nat) : Nat :=
  match mode with
  | 0 => v
  | 1 => if slotQ e w = 0 then v else v % slotQ e w
  | 2 => v % 2 ^ e.gfM
  | _ => v

/-- One element of a Table 6-5 function: mode, w field, width in bits, vs1, second operand, old vd. -/
def vopEl (e : Engine) (f : VKind) (mode w width a b d : Nat) : Nat :=
  let q := slotQ e w
  let g := gfMul e.gfM e.gfPoly.toNat
  match f with
  | .add => match mode with
    | 0 => (a + b) % 2 ^ width
    | 1 => (a + b) % q
    | _ => a ^^^ b
  | .sub => match mode with
    | 0 => (a + (2 ^ width - b)) % 2 ^ width
    | 1 => (a + (q - b)) % q
    | _ => a ^^^ b
  | .mul => match mode with
    | 0 => (a * b) % 2 ^ width
    | 1 => (a * b) % q
    | _ => g a b
  | .mulh => (BitVec.ofInt width ((sgn width a * sgn width b) >>> width)).toNat
  | .mac => if mode = 1 then (d + a * b) % q else d ^^^ g a b
  | .neg => (q - a) % q
  | .sqr => g a a
  | .clmul => clmul a b % 2 ^ 64
  | .clmulh => clmul a b >>> 64
  | .and => a &&& b
  | .or => a ||| b
  | .xor => a ^^^ b
  | .sll => if width ≤ b then 0 else (a <<< b) % 2 ^ width
  | .srl => if width ≤ b then 0 else a >>> b
  | .sra => (BitVec.ofInt width (sgn width a >>> (if width ≤ b then width else b))).toNat
  | .sadd => satS width (sgn width a + sgn width b)
  | .ssub => satS width (sgn width a - sgn width b)
  | .saddu => Nat.min (a + b) (2 ^ width - 1)
  | .ssubu => a - b
  | .min => if sgn width a ≤ sgn width b then a else b
  | .max => if sgn width a ≤ sgn width b then b else a

/-- Is element `i` active under mask field `k` (Table 6-1: field 0 means no mask)? -/
def active (e : Engine) (k i : Nat) : Bool := k == 0 || (getK e k).getLsbD i

/-- The second operand of element `i` as its form reads it (R155; a shift's count as Table 6-8 says). -/
def second (e : Engine) (a : VF) (width i : Nat) (shift : Bool) : Nat :=
  match a.form with
  | .v => let b := elAt (getV e a.f2.toNat).val width i
          if shift then b % 256 else canon e a.mode.toNat a.w.toNat b
  | .x => let b := (getX e (a.f2.toNat % 16)).toNat
          if shift then b else canon e a.mode.toNat a.w.toNat (b % 2 ^ width)
  | .i => if shift then a.f2.toNat else canon e a.mode.toNat a.w.toNat a.f2.toNat

/-- Does a function act bit by bit, on Boolean shares? -/
def isBits : VKind → Bool
  | .and | .or | .xor | .sll | .srl | .sra => true
  | _ => false

/-- The domain a result of a mode is held in. -/
def modeDom (mode w width : Nat) : Dom :=
  match mode with
  | 0 => .arith2 width
  | 1 => .arithQ w
  | _ => .boolean

/-- The checks of R154 and R157 in order: widths, then modulus and field where VL is not 0; the cause. -/
def modeCheck (e : Engine) (mode w : Nat) : Nat :=
  match modeSew mode w with
  | none => 2
  | some sw =>
    if sw ≠ e.sew then 2
    else if e.vl = 0 then 0
    else if mode = 1 ∧ slotQ e w = 0 then 4
    else if mode = 2 ∧ e.gfM = 0 then 5
    else 0

/-- Format X holds 0 in bit [15] (Table 6-3). -/
def formRsv (a : VF) : Bool := a.form == .x && a.f2.getLsbD 4

/-- The kernel's next word (14 bits). -/
def nextPc (e : Engine) : Engine := { e with pc := (e.pc + 1) % 0x4000 }

/-- Complete an instruction: VSTART is 0, nothing is awaited and the PC moves on. -/
def retire (e : Engine) : KRes := .ok (nextPc { e with vstart := 0, stall := none })

/-- An element-wise instruction (R155). -/
def vop (f : VKind) (a : VF) (e : Engine) : KRes :=
  let mode := a.mode.toNat
  let w := a.w.toNat
  if formRsv a ∨ mode ∉ vopModes f ∨ (f = .neg ∧ a.f2 ≠ 0) then .exc 1 0 e
  else match modeCheck e mode w with
    | 0 =>
      let width := 8 <<< e.sew
      let x := (getV e a.vs1.toNat).val
      let old := getV e a.vd.toNat
      let r := updEls old.val width (fun i d =>
        if i < e.vl ∧ active e a.k.toNat i then
          vopEl e f mode w width (canon e mode w (elAt x width i)) (second e a width i (isShift f))
            (canon e mode w d)
        else d)
      retire (if e.vl = 0 then e else setV e a.vd.toNat r (if isBits f then .boolean else modeDom mode w width))
    | c => .exc c 0 e

/-- The functions of Table 6-6. -/
inductive WKind where
  | mul | macc | add | dot4 | dot2
deriving DecidableEq, Repr

/-- An element read signed or unsigned. -/
def elInt (u : Bool) (w v : Nat) : Int := if u then (v : Int) else sgn w v

/-- Put an element of width `w`. -/
def setEl (x : BitVec 8192) (w i v : Nat) : BitVec 8192 :=
  let b := x.toNat
  BitVec.ofNat 8192 (b % 2 ^ (w * i) + (v % 2 ^ w) <<< (w * i) + (b >>> (w * (i + 1))) <<< (w * (i + 1)))

/-- A register as an instruction sees it while its destination pair `vd`, `vd + 1` holds `p` so far (R156). -/
def seen (e : Engine) (vd : Nat) (p : BitVec 8192 × BitVec 8192) (i : Nat) : BitVec 8192 :=
  if i = vd then p.1 else if i = vd + 1 then p.2 else (getV e i).val

/-- Element `i` of width `w` of a pair. -/
def pairEl (p : BitVec 8192 × BitVec 8192) (w i : Nat) : Nat :=
  let n := 8192 / w
  if i < n then elAt p.1 w i else elAt p.2 w (i - n)

/-- Put element `i` of width `w` of a pair. -/
def setPairEl (p : BitVec 8192 × BitVec 8192) (w i v : Nat) : BitVec 8192 × BitVec 8192 :=
  let n := 8192 / w
  if i < n then (setEl p.1 w i v, p.2) else (p.1, setEl p.2 w (i - n) v)

/-- Elements 0 to `n - 1` of a destination pair processed one by one in ascending order (R156): `f` gives an active
element's value from what the pair holds so far. -/
def ascend (e : Engine) (k vd n w : Nat) (f : BitVec 8192 × BitVec 8192 → Nat → Nat) : BitVec 8192 × BitVec 8192 :=
  (List.range n).foldl (fun p i => if active e k i then setPairEl p w i (f p i) else p) ((getV e vd).val, (getV e (vd + 1)).val)

/-- A widening or dot-product instruction (R158), its elements in ascending order (R156); `u` is the unsigned form. A
widening source of 64 bits is a width mismatch (DESIGN CHOICE, log 122). -/
def vwop (f : WKind) (u : Bool) (a : VF) (e : Engine) : KRes :=
  let w := a.w.toNat
  let vd := a.vd.toNat
  let dot := match f with | .dot4 => 4 | .dot2 => 2 | _ => 0
  if a.form ≠ .v ∨ a.mode ≠ 0 then .exc 1 0 e
  else if w ≠ e.sew ∨ (w = 3 ∧ dot = 0) then .exc 2 0 e
  else if e.vl = 0 then retire e
  else if (dot = 0 ∧ vd % 2 = 1) ∨ (dot = 4 ∧ w ≠ 1) ∨ (dot = 2 ∧ w ≠ 2) then .exc 3 0 e
  else
    let width := 8 <<< w
    let x := fun p i => elInt u width (elAt (seen e vd p a.vs1.toNat) width i)
    let y := fun p i => elInt u width (elAt (seen e vd p a.f2.toNat) width i)
    if dot = 0 then
      let r := ascend e a.k.toNat vd e.vl (2 * width) (fun p i =>
        (BitVec.ofInt (2 * width) (match f with
          | .mul => x p i * y p i
          | .macc => (pairEl p (2 * width) i : Int) + x p i * y p i
          | _ => x p i + y p i)).toNat)
      retire (setV (setV e vd r.1 (.arith2 (2 * width))) (vd + 1) r.2 (.arith2 (2 * width)))
    else
      let r := ascend e a.k.toNat vd (ceilDiv e.vl dot) 64 (fun p i =>
        (BitVec.ofInt 64 ((List.range dot).foldl (fun (t : Int) j =>
          if dot * i + j < e.vl then t + x p (dot * i + j) * y p (dot * i + j) else t) 0)).toNat)
      retire (setV e vd r.1 (.arith2 64))

/-- The comparisons of Table 6-7 by funct: EQ, NE, LTU, LT, LEU, LE, GTU, GT. -/
def vcmpEl (f width a b : Nat) : Bool :=
  match f with
  | 0 => a == b
  | 1 => a != b
  | 2 => decide (a < b)
  | 3 => decide (sgn width a < sgn width b)
  | 4 => decide (a ≤ b)
  | 5 => decide (sgn width a ≤ sgn width b)
  | 6 => decide (b < a)
  | _ => decide (sgn width b < sgn width a)

/-- A mask from its bits. -/
def ofBits (f : Nat → Bool) : BitVec 1024 :=
  BitVec.ofNat 1024 ((List.range 1024).foldl (fun r i => if f i then r + 2 ^ i else r) 0)

/-- VCMPEQ to VCMPGT (Table 6-7): vd[23:21] names the mask K1–K7 and vd[25:24] are reserved; a mask field of 0, which names
none, is a reserved encoding (DESIGN CHOICE, log 100). -/
def vcmp (f : Nat) (a : VF) (e : Engine) : KRes :=
  let mode := a.mode.toNat
  let w := a.w.toNat
  let kd := a.vd.toNat % 8
  if formRsv a ∨ a.form = .i ∨ a.vd.toNat ≥ 8 ∨ kd = 0 ∨ f ≥ 8 ∨ mode = 3 ∨ (mode = 2 ∧ f ≥ 2) then .exc 1 0 e
  else match modeCheck e mode w with
    | 0 =>
      let width := 8 <<< e.sew
      let x := (getV e a.vs1.toNat).val
      let old := getK e kd
      let r := ofBits (fun i =>
        if i < e.vl ∧ active e a.k.toNat i then
          vcmpEl f width (canon e mode w (elAt x width i)) (second e a width i false)
        else old.getLsbD i)
      retire (setK e kd r)
    | c => .exc c 0 e

/-- KAND, KOR, KXOR, KNOT (Table 6-7). -/
def kmask (f : Nat) (a : VF) (e : Engine) : KRes :=
  let kd := a.vd.toNat % 8
  let x := getK e (a.vs1.toNat % 8)
  let y := getK e (a.f2.toNat % 8)
  if kd = 0 ∨ a.vs1.toNat % 8 = 0 ∨ (f < 3 ∧ a.f2.toNat % 8 = 0) ∨ f ≥ 5 then .exc 1 0 e
  else retire (setK e kd
    (match f with | 0 => x &&& y | 1 => x ||| y | 2 => x ^^^ y | 3 => ~~~ x | _ => x))

/-- VTEST (Table 6-7, R148). -/
def vtest (a : VF) (e : Engine) : KRes :=
  let x := getK e (a.vs1.toNat % 8)
  if a.vs1.toNat % 8 = 0 then .exc 1 0 e
  else retire (setX e (a.vd.toNat % 16)
    (if (List.range e.vl).any (fun i => x.getLsbD i) then 1 else 0))

/-- The functions of VPERM (Table 6-7). -/
inductive PKind where
  | slideUp | slideDn | rgather | bcast | merge | redsum | mv
deriving DecidableEq, Repr

/-- Which form a VPERM function has. -/
def permForm : PKind → VForm
  | .slideUp | .slideDn | .bcast => .x
  | _ => .v

/-- The sum of a reduction in a mode. -/
def redAdd (e : Engine) (mode w width a b : Nat) : Nat :=
  match mode with
  | 0 => (a + b) % 2 ^ width
  | 1 => (a + b) % slotQ e w
  | _ => a ^^^ b

/-- A permutation, broadcast, merge or reduction (Table 6-7), its elements in ascending order (R156). -/
def vperm (f : PKind) (a : VF) (e : Engine) : KRes :=
  let mode := a.mode.toNat
  let w := a.w.toNat
  if a.form ≠ permForm f ∨ formRsv a ∨ (f = .merge ∧ a.k = 0) then .exc 1 0 e
  else match modeCheck e mode w with
    | 0 =>
      let width := 8 <<< e.sew
      let c := canon e mode w
      let vd := a.vd.toNat
      let x := fun p i => c (elAt (seen e vd p a.vs1.toNat) width i)
      let y := fun p i => c (elAt (seen e vd p a.f2.toNat) width i)
      let xs := (getX e (a.f2.toNat % 16)).toNat
      let act := active e a.k.toNat
      let r := match f with
        | .redsum => (setEl (getV e vd).val width 0 ((List.range e.vl).foldl (fun t j =>
            if act j then redAdd e mode w width t (c (elAt (getV e a.vs1.toNat).val width j)) else t) 0), (0 : BitVec 8192))
        | .merge => ascend e 0 vd e.vl width (fun p i => if act i then x p i else y p i)
        | .slideUp => ascend e a.k.toNat vd e.vl width (fun p i => if xs ≤ i then x p (i - xs) else 0)
        | .slideDn => ascend e a.k.toNat vd e.vl width (fun p i => if i + xs < e.vl then x p (i + xs) else 0)
        | .rgather => ascend e a.k.toNat vd e.vl width (fun p i => if y p i < vlmax e.sew then x p (y p i) else 0)
        | .bcast => ascend e a.k.toNat vd e.vl width (fun _ _ => c (xs % 2 ^ width))
        | .mv => ascend e a.k.toNat vd e.vl width x
      retire (if e.vl = 0 then e else setV e vd r.1 (modeDom mode w width))
    | cz => .exc cz 0 e

end Sys2Proof.Machine
end

