-- ==== Sys2Proof/Machine/VecMem.lean ====
section
/-! DEFINITION. Kernel windows, vector loads and stores, gather and scatter, scalar loads (06 R149–R152, R160–R164). -/
namespace Sys2Proof.Machine
open Sys2Proof

/-- What an access of `n` bytes at a kernel address meets: fine, a fault (cause), staging not there yet,
a poisoned line. -/
inductive Acc where
  | ok | fault (cause : Nat) | notStaged | poisoned
deriving DecidableEq, Repr

/-- The window and the offset of a kernel address (Table 6-2). -/
def winOf (a : BitVec 64) : Nat × Nat := (a.toNat / 2 ^ 60, a.toNat % 2 ^ 60)

/-- The size of a window (Table 6-2; the recovery buffer's WORK is smaller, R111). -/
def winSize (e : Engine) : Nat → Nat
  | 0 => e.inLen
  | 1 => e.workSize
  | 2 => e.cache.length
  | 3 => 65536
  | 4 => 24
  | _ => 0

/-- Check an access of `n` bytes (R149, R152, R163): alignment first, then the window, then staging.
`bad` says which lines of which window are poisoned; a WORK line not written yet is not read (R150). -/
def checkAcc (bad : Nat → Nat → Bool) (store work : Bool) (n : Nat) (a : BitVec 64) (e : Engine) : Acc :=
  let (w, o) := winOf a
  if o % n ≠ 0 then .fault 7
  else if 5 ≤ w ∨ winSize e w < o + n ∨ (store ∧ w ≠ 1) ∨ (w = 1 ∧ ¬ work) then .fault 6
  else if w = 0 ∧ e.staged.length < o + n then .notStaged
  else if (w = 1 → Tbl.get false e.lines (o / 64) = true) ∧ bad w (o / 64) then .poisoned
  else .ok

/-- The byte at an offset of a window. -/
def winByte (e : Engine) (w o : Nat) : Byte :=
  match w with
  | 0 => e.staged.getD o 0
  | 1 => Tbl.get 0 e.work o
  | 2 => e.cache.getD o 0
  | 3 => Tbl.get 0 e.kimg o
  | _ => e.param.getD o 0

/-- The little-endian value of `n` bytes at a kernel address. -/
def winRead (e : Engine) (a : BitVec 64) (n : Nat) : Nat :=
  let (w, o) := winOf a
  ofLe ((List.range n).map (fun i => winByte e w (o + i)))

/-- Store the `n` low bytes of a value and of its shares s1 to sd into WORK and mark its line written (R150, R319). -/
def workWrite (e : Engine) (a : BitVec 64) (n v : Nat) (ms : List Nat) : Engine :=
  { e with
    workMasks := Tbl.setList [] e.workMasks (winOf a).2 ((List.range n).map (fun k => ms.map (fun m => BitVec.ofNat 8 (m >>> (8 * k)))))
    work := Tbl.setList 0 e.work (winOf a).2 (leBytes n v), lines := Tbl.set false e.lines ((winOf a).2 / 64) true }

/-- The exception record of R168 for a cause in a window. -/
def excAt (e : Engine) (cause window : Nat) : Engine :=
  { e with kexc := { cause := cause, restartable := cause == 8, window := window % 8, pc := e.pc } }

/-- One element of a load or store: `i` its number, `a` its address, `n` its bytes. -/
def elemAcc (store : Bool) (vd mode w width i : Nat) (a : BitVec 64) (e : Engine) : Engine :=
  let r := getV e vd
  if store then workWrite e a (width / 8) (canon e mode w (elAt r.val width i)) (r.masks.map (fun m => elAt m width i))
  else
    { e with v := Tbl.set {} e.v vd { r with
        val := setEl r.val width i (canon e mode w (winRead e a (width / 8))), dom := modeDom mode w width } }

/-- A load's register enters the share file re-masked (R122). -/
def remask (store : Bool) (vd : Nat) (e : Engine) : Engine :=
  if store then e else setV e vd (getV e vd).val (getV e vd).dom

/-- Access the listed elements in order, stopping at the first that faults (R161, R162): elements before it
are done, VSTART names it. -/
def runElems (bad : Nat → Nat → Bool) (store : Bool) (vd mode w width : Nat) (addr : Nat → BitVec 64)
    (again : Stall) : List Nat → Engine → KRes
  | [], e => retire (remask store vd e)
  | i :: is, e =>
    let a := addr i
    match checkAcc bad store true (width / 8) a e with
    | .ok => runElems bad store vd mode w width addr again is (elemAcc store vd mode w width i a e)
    | .fault c => .exc c (winOf a).1 (remask store vd { e with vstart := i, stall := none })
    | .notStaged => .wait (remask store vd { excAt { e with vstart := i } 8 0 with stall := some again })
    | .poisoned => .poison (winOf a).1 ((winOf a).2 / 64) (remask store vd { e with vstart := i, stall := none })

/-- The elements that VLD or VST accesses, in order (R160). -/
def memElems (a : MF) (e : Engine) : List Nat := (List.range e.vl).filter (fun i => decide (e.vstart ≤ i) && active e a.k.toNat i)

/-- The address of element `i` of VLD or VST: base plus stride, the element's own size where no stride is named. -/
def memAddr (a : MF) (e : Engine) (i : Nat) : BitVec 64 :=
  getX e (a.xb.toNat % 16) + BitVec.ofNat 64 i * (if a.xs = 0 then BitVec.ofNat 64 ((8 <<< e.sew) / 8) else getX e (a.xs.toNat % 16))

/-- The descriptor of element `n` of a gather or scatter (R161). -/
def gsDesc (a : GF) (e : Engine) (n : Nat) : Nat :=
  winRead e (getX e a.xd.toNat + BitVec.ofNat 64 (4 * (n - 16 * a.g.toNat))) 4

/-- The elements that a gather or scatter accesses, in order. -/
def gsElems (a : GF) (e : Engine) : List Nat :=
  ((List.range 16).map (fun i => 16 * a.g.toNat + i)).filter (fun n =>
    decide (e.vstart ≤ n) && decide (n < e.vl) && (gsDesc a e n).testBit 31)

/-- The address of element `n` of a gather or scatter. -/
def gsAddr (a : GF) (e : Engine) (n : Nat) : BitVec 64 :=
  getX e a.xb.toNat + BitVec.ofNat 64 (gsDesc a e n % 2 ^ 31 * ((8 <<< e.sew) / 8))

/-- VLD and VST (R160). -/
def vmem (bad : Nat → Nat → Bool) (store : Bool) (a : MF) (e : Engine) : KRes :=
  let mode := a.mode.toNat
  let w := a.w.toNat
  if a.xb.getLsbD 4 ∨ a.xs.getLsbD 4 then .exc 1 0 e
  else match modeCheck e mode w with
    | 0 =>
      let width := 8 <<< e.sew
      if e.vl = 0 then retire e
      else runElems bad store a.vd.toNat mode w width (memAddr a e) (.mem store a) (memElems a e) e
    | c => .exc c 0 e

/-- VGATHER and VSCATTER (R161): the descriptor is read in a public window (R151), then its elements. -/
def vgs (bad : Nat → Nat → Bool) (scatter : Bool) (a : GF) (e : Engine) : KRes :=
  let mode := a.mode.toNat
  let w := a.w.toNat
  if a.rsv ≠ 0 then .exc 1 0 e
  else match modeCheck e mode w with
    | 0 =>
      let width := 8 <<< e.sew
      let d := getX e a.xd.toNat
      let g := a.g.toNat
      if e.vl = 0 then retire e
      else match checkAcc bad false false 64 d e with
      | .fault c => .exc c (winOf d).1 { e with vstart := if e.vstart = 0 then 16 * g else e.vstart, stall := none }
      | .notStaged => .wait { excAt e 8 0 with stall := some (.gs scatter a) }
      | .poisoned => .poison (winOf d).1 ((winOf d).2 / 64) { e with vstart := if e.vstart = 0 then 16 * g else e.vstart, stall := none }
      | .ok =>
        runElems bad scatter a.vd.toNat mode w width (gsAddr a e) (.gs scatter a) (gsElems a e) e
    | c => .exc c 0 e

/-- The address of XLD (Table 6-10). -/
def xldAddr (a : XF) (e : Engine) : BitVec 64 := getX e a.xs1.toNat + (BitVec.ofNat 16 a.f.toNat).signExtend 64

/-- XLD (Table 6-10, R151): a zero-extended load from a public window. -/
def xld (bad : Nat → Nat → Bool) (a : XF) (e : Engine) : KRes :=
  let n := 1 <<< (a.f.toNat >>> 16)
  let addr := xldAddr a e
  match checkAcc bad false false n addr e with
  | .ok => retire (setX e a.xd.toNat (BitVec.ofNat 64 (winRead e addr n)))
  | .notStaged => .wait { excAt e 8 0 with stall := some (.xld a) }
  | .fault c => .exc c (winOf addr).1 e
  | .poisoned => .poison (winOf addr).1 ((winOf addr).2 / 64) e

end Sys2Proof.Machine
end

