-- ==== Sys2Proof/Machine/MemAcc.lean ====
section
/-! DEFINITION. Accesses to the stacked memory: regions, the pages of its pools, the lines that an access reaches and the
checks on it (14 R310–R326). -/
namespace Sys2Proof.Machine
open Sys2Proof

/-- The region of a device address, as MEM_ERR_INFO codes it (Table 14-4). -/
def regionOf (a : Nat) : Nat :=
  if a < 0x1800000000 then 0 else if a < 0x1C00000000 then 1 else if a < 0x1E00000000 then 2
  else if a < 0x1F00000000 then 3 else if a < 0x1F40000000 then 4 else if a < 0x1F80000000 then 5 else 6

/-- The init_done bit of a region's code: firmware, WORK, staging, tree cache, migration, sparing, Pannier. -/
def initBit : Nat → Nat
  | 0 => 6 | 1 => 2 | 2 => 3 | 3 => 4 | 4 => 1 | 5 => 0 | _ => 5

/-- Is a region initialised (R316)? -/
def regionReady (s : State) (code : Nat) : Bool := s.mem.initDone.testBit (initBit code)

/-- The class of an uncorrectable read in a region (Table 14-5). -/
def regionClass (code : Nat) : Nat := if 5 ≤ code then 3 else 1

/-- The device address of a line of an engine's WORK window, share bank 0 (R319), as a line number. -/
def workLine (n l : Nat) : Nat := (0x1F00000000 + n * 0x1000000) / 64 + l

/-- The pseudo-channel of a device address (R310). -/
def pseudoChannel (a : Nat) : Nat := bitsOf a 8 6 ^^^ bitsOf a 14 6 ^^^ bitsOf a 20 6

/-- MEM_ERR_ADDR and MEM_ERR_INFO take a failed read (chapter 14). -/
def memError (kind region a inst requester : Nat) (inj : Bool) (s : State) : State :=
  { s with
    mem := { s.mem with
      err := { addr := a, kind := kind, region := region, injected := inj, inst := inst, requester := requester } } }

/-! ### Pools of pages -/

/-- The pages of a pool with a mark, ascending. -/
def markedPages (t : Tbl Nat) (mark : Nat) : List Nat := (t.filter (fun p => p.2 == mark)).map (·.1)

/-- The first `n` free pages from page `k` on, looking at `fuel` pages. -/
def freePages (m : Tbl Nat) : Nat → Nat → Nat → List Nat
  | 0, _, _ => []
  | fuel + 1, k, n =>
    if n = 0 then [] else if Tbl.get 0 m k = 0 then k :: freePages m fuel (k + 1) (n - 1) else freePages m fuel (k + 1) n

/-- The 1 MiB pages of an instance's Pannier region (R322): marked with the instance number plus one. -/
def pagesOfInst (s : State) (i : Nat) : List Nat := markedPages s.mem.pannierPages (i + 1)

/-- The line that holds a byte of a command's staged input (R320): its 2 MiB pages are marked with the command plus one. -/
def stageLine (s : State) (id o : Nat) : Nat :=
  (0x1800000000 + (markedPages s.mem.stagePages (id + 1)).getD (o / 0x200000) 0 * 0x200000 + o % 0x200000) / 64

/-- The lines of memory behind line `l` of a window of engine `n`: a page of the staging pool, the share banks of WORK (R319).
The recovery buffer is on the die (R111); where a tree cache lies is open. -/
def winLines (s : State) (n : Nat) (e : Engine) (w l : Nat) : List Nat :=
  if e.recovery then []
  else match w with
    | 0 => match e.cmd with
      | some id => [stageLine s id (64 * l)]
      | none => []
    | 1 => (List.range (e.order + 1)).map (fun b => workLine n (65536 * b + l))
    | _ => []

/-- Is line `l` of a window of engine `n` poisoned? -/
def poisonedAt (s : State) (n : Nat) (e : Engine) (w l : Nat) : Option Nat :=
  (winLines s n e w l).find? (s.mem.poison.contains ·)

/-! ### The checks of an access -/

/-- Is an injection armed on the checkers of a line? -/
def memArmed (s : State) : Bool := injArmed s .mem 0 0 || injArmed s .mem 0 1

/-- An injection on the memory controller's checkers at a read of a region (R326). -/
def memAccess (code a inst requester : Nat) (id : Option Nat) (s : State) : State :=
  let f := fltU s .mem 0
  if injArmed s .mem 0 0 then
    let s := if f.iMode = 0 then s else memError 1 code a inst requester true s
    access .mem 0 0 (regionClass code) true (pseudoChannel a) inst id s
  else if injArmed s .mem 0 1 then access .mem 0 1 3 false (pseudoChannel a) inst id (memError 3 code a inst requester true s)
  else s

/-- Where a kernel address reaches memory: region and line address, none for a tree cache's. A WORK line not written
yet takes no access (R150). -/
def dramAt (s : State) (n : Nat) (e : Engine) (a : BitVec 64) : Option (Nat × Option Nat) :=
  let w := (winOf a).1
  let o := (winOf a).2
  if e.recovery then none
  else if w = 0 ∧ o < e.staged.length then some (1, (winLines s n e 0 (o / 64)).head?.map (64 * ·))
  else if w = 1 ∧ Tbl.get false e.lines (o / 64) then some (4, some (64 * workLine n (o / 64)))
  else if w = 2 ∧ o < e.cache.length then some (2, none)
  else none

/-- The kernel addresses a memory instruction accesses, in its order (R160, R161, Table 6-10). -/
def dramAddrs (i : Instr) (e : Engine) : List (BitVec 64) :=
  match i with
  | .vld _ a | .vst _ a => (memElems a e).map (memAddr a e)
  | .vgather _ a | .vscatter _ a => getX e a.xd.toNat :: (gsElems a e).map (gsAddr a e)
  | .xld _ a => [xldAddr a e]
  | _ => []

/-- The regions that a memory instruction of engine `n` reaches are initialised; it waits until they are (R316). -/
def dramReady (i : Instr) (n : Nat) (s : State) : Bool :=
  (dramAddrs i (eng s n)).all (fun a => match dramAt s n (eng s n) a with
    | some (code, _) => regionReady s code
    | none => true)

/-- The memory controller's checks of a kernel's access (R314, R326): an injection on the first line it reaches. -/
def dramAccess (i : Instr) (n : Nat) (s : State) : State :=
  let e := eng s n
  if memArmed s then match (dramAddrs i e).findSome? (dramAt s n e) with
    | some (code, some a) => memAccess code a e.inst n e.cmd s
    | some (code, none) =>
      let r := freeNumber (2 ^ 27) s
      memAccess code (0x1C00000000 + 64 * r.1) e.inst n e.cmd r.2
    | none => s
  else s

/-- A read of an instance's index or record by the vault (requester 0x40); which line holds it is open. -/
def vaultRead (inst : Nat) (id : Option Nat) (s : State) : State :=
  if memArmed s then
    let ps := pagesOfInst s inst
    let r := freeNumber (16384 * max 1 ps.length) s
    memAccess 0 (ps.getD (r.1 / 16384) 0 * 0x100000 + 64 * (r.1 % 16384)) inst 0x40 id r.2
  else s

/-- Engine `n` reloads its patch words from the firmware region, with the memory's checks and its own (R186, R311). -/
def reloadPatch (n : Nat) (s : State) : State :=
  let s := if memArmed s then
      let r := freeNumber (2 ^ 24) s
      memAccess 5 (0x1F40000000 + 64 * r.1) 0 n none r.2
    else s
  access .hub n 2 2 false 0 0 none s

end Sys2Proof.Machine
end

