-- ==== Sys2Proof/Machine/Drbg.lean ====
section
/-! DEFINITION. CTR_DRBG with AES-256 and its derivation function, as SP 800-90A defines it (R273): the working state is
the 32-byte key with the 16-byte counter block V. -/
namespace Sys2Proof.Machine
open Sys2Proof

/-- A counter block `i` ahead, all its 128 bits counting big-endian. -/
def ctrNext (v : Bytes) (i : Nat) : Bytes := beBytes 16 ((ofBe v + i) % 2 ^ 128)

/-- BCC: the CBC-MAC of whole blocks. -/
def blockChain (key m : Bytes) : Bytes := (chunks 16 m).foldl (fun c b => aesEnc key (xorB c b)) (zeros 16)

/-- The derivation function: 48 bytes from an input of any length. -/
def drbgDf (m : Bytes) : Bytes :=
  let t := pad16 (beBytes 4 m.length ++ beBytes 4 48 ++ m ++ [0x80])
  let k0 : Bytes := (List.range 32).map (BitVec.ofNat 8)
  let x := (List.range 3).flatMap (fun i => blockChain k0 (beBytes 4 i ++ zeros 12 ++ t))
  let k := x.take 32
  let b1 := aesEnc k (x.drop 32)
  let b2 := aesEnc k b1
  fit 48 (b1 ++ b2 ++ aesEnc k b2)

/-- The update of the working state with 48 bytes. -/
def drbgUpdate (d : Bytes) (kv : Bytes × Bytes) : Bytes × Bytes :=
  let t := xorB ((List.range 3).flatMap (fun i => aesEnc kv.1 (ctrNext kv.2 (i + 1)))) d
  (t.take 32, t.drop 32)

/-- Instantiation from entropy input, nonce and personalisation string. -/
def drbgStart (entropy nonce pers : Bytes) : Bytes × Bytes := drbgUpdate (drbgDf (entropy ++ nonce ++ pers)) (zeros 32, zeros 16)

/-- A reseed with entropy input. -/
def drbgReseed (entropy : Bytes) (kv : Bytes × Bytes) : Bytes × Bytes := drbgUpdate (drbgDf entropy) kv

/-- One generate request of `n` bytes with additional input: the output and the next working state. -/
def drbgGen (n : Nat) (add : Bytes) (kv : Bytes × Bytes) : Bytes × (Bytes × Bytes) :=
  let a := drbgDf add
  let kv := drbgUpdate a kv
  let m := ceilDiv n 16
  (fit n ((List.range m).flatMap (fun i => aesEnc kv.1 (ctrNext kv.2 (i + 1)))), drbgUpdate a (kv.1, ctrNext kv.2 m))

end Sys2Proof.Machine
end

