-- ==== Sys2Proof/Machine/Fault.lean ====
section
/-! DEFINITION. The fault-register sets: injection, acknowledgement, escalation, continuous checkers, the end of
block reset (chapter 22). -/
namespace Sys2Proof.Machine
open Sys2Proof

/-- Units of a block that have a set of their own (R448); DBG has none. -/
def fltUnits : Blk → Nat
  | .seq => 16 | .hub => 64 | .dge => 16 | .cvu => 8 | .dbg => 0 | _ => 1

/-- Do the sets answer in the mode (R448)? -/
def fltOpen (m : Mode) : Bool :=
  match m with
  | .off | .watch | .reset => false
  | _ => true

/-- Whose write reaches a block's registers: function 0, a sequencer core, a debug session. -/
def srcOk : Src → Bool
  | .host fn => fn == 0
  | _ => true

/-- Is a checker injectable (Table 22-2): 0 no, 1 yes, 2 in TEST only? -/
def injectable (b : Blk) (checker : Nat) : Nat :=
  let mem (l : List Nat) := if l.contains checker then 1 else 0
  match b with
  | .glb => mem [0]
  | .pwr => if checker = 1 then 2 else 0
  | .lcs => mem [0]
  | .tmp => if checker < 4 then 2 else 0
  | .hif => mem [0, 2, 3]
  | .seq => mem [0, 1]
  | .hub => mem [0, 2, 3, 4, 5, 6, 7, 8, 11, 12, 13, 15]
  | .hsa => mem [0]
  | .dge => mem [0, 2]
  | .kvt => mem [0, 1, 2, 3]
  | .ent => mem [0, 1]
  | .cvu => mem [0]
  | .mem => mem [0, 1]
  | .tlk => mem [0, 1]
  | .cad => mem [0]
  | .dbg => 0

/-- May an injection be armed in the mode (R458)? -/
def armMode (m : Mode) (kind : Nat) : Bool :=
  match m with
  | .test => kind != 0
  | .discover | .freewheel | .service | .surge => kind == 1
  | _ => false

/-- A write to FLT_INJECT (R455, R513): while the set is busy its fields stay, and arm and disarm act alone. With both
written 1 it arms and then disarms (DESIGN CHOICE, log 113: the spec orders them nowhere). -/
def injectWrite (b : Blk) (unit : Nat) (v : Word) (s : State) : State :=
  let f := fltU s b unit
  let arm := flag v 17
  let disarm := flag v 19
  let busy := f.pending || (f.armed && !disarm)
  let same := f.iChecker == fld v 0 8 && f.iCount == fld v 8 8 && f.iMode == fld v 16 1
  let f := if busy then { f with cfgIgnored := f.cfgIgnored || !same }
    else { f with iChecker := fld v 0 8, iCount := fld v 8 8, iMode := fld v 16 1 }
  let f := if arm then
      if f.iCount ≠ 0 ∧ armMode s.pwr.mode (injectable b f.iChecker) then
        { f with armed := true, iLeft := f.iCount }
      else { f with cfgIgnored := true }
    else f
  setFlt b unit (if disarm then { f with armed := false, iLeft := 0 } else f) s

/-- The action taken at expiry or on code 3 (R453): the largest of the real records pending. -/
def escalate (b : Blk) (set : Nat) (s : State) : State :=
  let f := fltU s b set
  let real := f.pend.filter (fun x => x.2.2)
  let a := real.foldl (fun m x => max m (classAction f x.1)) 0
  let units := if a = 1 ∧ holdable b then
    uniq ((real.filter (fun x => classAction f x.1 == 1)).map (fun x => x.2.1)) else []
  let s := setFlt b set { f with
    pending := false, pend := [], timerEnd := none, escalated := true, expired := true,
    held := uniq (f.held ++ units) } s
  let s := units.foldl (fun s u => holdUnit true b set u s) s
  let s := if f.liveEsc then signal 0 (fltVector b set) s else s
  match a with
  | 2 => enterLocked stsFault s
  | 3 => secretFault s
  | _ => s

/-- A write to REACT_ACK (R452, R454). -/
def ackWrite (b : Blk) (set : Nat) (v : Word) (s : State) : State :=
  let f := fltU s b set
  let code := fld v 0 2
  if fld v 8 8 ≠ f.seq ∨ code = 0 then s
  else if code = 3 then
    if f.pending then escalate b set s
    else setFlt b set { f with ackLate := f.ackLate || f.expired } s
  else
    let f1 := { f with
      ackLate := f.ackLate || (!f.pending && f.expired), pending := false, pend := [], timerEnd := none }
    if code = 1 then
      (f.held ++ f.heldBySw).foldl (fun s u => holdUnit false b set u s)
        (setFlt b set { f1 with held := [], heldBySw := [] } s)
    else
      let units := if holdable b then uniq (f.pend.map (fun x => x.2.1)) else []
      units.foldl (fun s u => holdUnit true b set u s)
        (setFlt b set { f1 with held := [], heldBySw := uniq (f.held ++ f.heldBySw ++ units) } s)

/-- Does an access reach the register blocks: the host's through function 0, once the PCIe link is up? -/
def reaches (s : State) (src : Src) : Bool :=
  srcOk src && (match src with | .host _ => s.hif.reach | _ => true)

/-- Does a set exist and answer? -/
def fltHere (s : State) (src : Src) (b : Blk) (unit : Nat) : Bool :=
  reaches s src && fltOpen s.pwr.mode && decide (unit < fltUnits b)

/-- A read of a set's register at its offset (R448). -/
def fltRead (s : State) (b : Blk) (unit off : Nat) : Word :=
  let f := fltU s b unit
  match off with
  | 0x0F00 => word [(f.classBits, 0), (b2n f.pending, 5), (b2n f.escalated, 6), (b2n f.ackLate, 7), (b2n f.inj, 8),
      (b2n f.cfgIgnored, 9), (f.seq, 16), (f.corrCount, 24)]
  | 0x0F04 => word [(f.fChecker, 0), (f.fClass, 8), (b2n f.fInj, 11), (b2n f.fReal, 12), (b2n f.fMultiple, 13),
      (b2n f.fValid, 15), (f.fUnit, 16), (f.fInst, 24)]
  | 0x0F08 => word [(f.classEn, 0), (b2n f.escInt, 5)]
  | 0x0F0C => word [(f.iChecker, 0), (f.iCount, 8), (f.iMode, 16), (b2n f.armed, 18), (f.iLeft, 20)]
  | 0x0F10 => word [(f.timerUs, 0), ((match f.timerEnd with
      | some t => (t - s.now + 99) / 100
      | none => 0), 16)]
  | 0x0F14 => word [(f.actContained, 0), (f.actBlock, 2), (f.actDevice, 4)]
  | _ => 0

/-- Does a unit whose set is one of many run a command? A block with one set has no command boundary of its own (log 112). -/
def unitRuns (s : State) (b : Blk) (unit : Nat) : Bool :=
  match b with
  | .hub => (eng s unit).cmd.isSome
  | .seq => (coreU s unit).cmd.isSome
  | .dge => (dgeU s unit).owner != .none
  | .cvu => (cvuU s unit).owner != .none
  | _ => false

/-- The RW-L fields of a set take effect now, where its unit is between commands (R9). -/
def fltBoundary (b : Blk) (unit : Nat) (s : State) : State := if unitRuns s b unit then s else settleFlt b unit s

/-- A write to a set's register (R7, R448). -/
def fltWrite (b : Blk) (unit off : Nat) (v : Word) (s : State) : State :=
  let f := fltU s b unit
  match off with
  | 0x0F00 => setFlt b unit { f with
      classBits := (List.range 5).foldl (fun a i => if flag v i then a else a + b2n (f.classBits.testBit i) * 2 ^ i) 0,
      corrCount := if flag v 0 then 0 else f.corrCount, escalated := f.escalated && !flag v 6,
      ackLate := f.ackLate && !flag v 7, inj := f.inj && !flag v 8, cfgIgnored := f.cfgIgnored && !flag v 9 } s
  | 0x0F04 => if flag v 15 then setFlt b unit { f with
      fValid := false, fChecker := 0, fClass := 0, fInj := false, fReal := false, fMultiple := false, fUnit := 0,
      fInst := 0 } s else s
  | 0x0F08 => fltBoundary b unit (setFlt b unit { f with classEn := fld v 0 5, escInt := flag v 5 } s)
  | 0x0F0C => injectWrite b unit v s
  | 0x0F10 => fltBoundary b unit (setFlt b unit { f with timerUs := fld v 0 14 } s)
  | 0x0F14 =>
    if f.pending ∨ f.armed then setFlt b unit { f with
      cfgIgnored := f.cfgIgnored || !(f.actContained == fld v 0 2 && f.actBlock == fld v 2 2 && f.actDevice == fld v 4 2) } s
    else setFlt b unit { f with actContained := fld v 0 2, actBlock := fld v 2 2, actDevice := fld v 4 2 } s
  | 0x0F18 => ackWrite b unit v s
  | _ => s

/-- FLT_INJECT_ARM (R455): a write to FLT_INJECT with arm = 1. -/
def execFltInjectArm (src : Src) (blk : Blk) (unit : Nat) (v : Word) (s : State) : Res :=
  let s := touch src s
  .next (if fltHere s src blk unit ∧ flag v 17 then injectWrite blk unit v s else s)

/-- FLT_INJECT_DISARM (R455): a write to FLT_INJECT with disarm = 1 and arm = 0. -/
def execFltInjectDisarm (src : Src) (blk : Blk) (unit : Nat) (v : Word) (s : State) : Res :=
  let s := touch src s
  .next (if fltHere s src blk unit ∧ flag v 19 ∧ ¬ flag v 17 then injectWrite blk unit v s else s)

/-- REACT_ACK_HANDLED (R452): code 1. -/
def execReactAckHandled (src : Src) (blk : Blk) (unit : Nat) (v : Word) (s : State) : Res :=
  let s := touch src s
  .next (if fltHere s src blk unit ∧ fld v 0 2 = 1 then ackWrite blk unit v s else s)

/-- REACT_ACK_KEEP_OFFLINE (R452): code 2. -/
def execReactAckKeepOffline (src : Src) (blk : Blk) (unit : Nat) (v : Word) (s : State) : Res :=
  let s := touch src s
  .next (if fltHere s src blk unit ∧ fld v 0 2 = 2 then ackWrite blk unit v s else s)

/-- REACT_ACK_ESCALATE (R452): code 3. -/
def execReactAckEscalate (src : Src) (blk : Blk) (unit : Nat) (v : Word) (s : State) : Res :=
  let s := touch src s
  .next (if fltHere s src blk unit ∧ fld v 0 2 = 3 then ackWrite blk unit v s else s)

/-- REACTION_TIMER_EXPIRY (R453): the timer runs only while pending is 1. -/
def execReactionTimerExpiry (blk : Blk) (unit : Nat) (s : State) : Res :=
  .next (if (fltU s blk unit).pending then escalate blk unit s else s)

/-- The class and the unit field of a continuous checker (R520, Table 22-2), none for any other checker. -/
def contChecker (b : Blk) (checker sub : Nat) : Option (Nat × Nat) :=
  match b, checker with
  | .glb, 0 => some (3, 0)
  | .pwr, 0 => some (3, 0)
  | .hif, 2 => some (3, 0)
  | .hub, 15 => some (2, 1)
  | .hsa, 0 => some (1, sub % 16)
  | .dge, 0 => some (1, 0)
  | .ent, 1 => some (2, 0)
  | .cvu, 0 => some (1, 0)
  | .cad, 0 => some (1, 0)
  | _, _ => none

/-- Does the unit of a continuous checker run (R520)? -/
def contRuns (s : State) (b : Blk) (unit sub : Nat) : Bool :=
  match b with
  | .hub => (aesCore s (unit / 2)).cmd.isSome
  | .hsa => !(Tbl.get {} s.hsa (sub % 16)).run.isEmpty
  | .dge => (dgeU s unit).owner != .none
  | .cvu => (cvuU s unit).owner != .none
  | .ent => s.ent.running
  | _ => true

/-- The requester of hash-array job data that a fault in array `g` reaches: the engines of its group and the
digest engine with the same number. -/
def hashFault (g : Nat) (s : State) : State :=
  let jobs := (Tbl.get {} s.hsa g).run.filterMap (fun p => p.2)
  jobs.foldl (fun s j =>
    if j.who = 4 then faultCmd (dgeU s g).cmd s
    else
      let n := 4 * g + j.who
      let e := eng s n
      if e.uc.refaulted ∨ (e.mc.live ∧ e.uc.committed) then faultCmd e.cmd s
      else updEng n (fun e => { e with
        mc := {},
        uc := { e.uc with refaulted := true, cntRestarts := min 0xFFFF (e.uc.cntRestarts + 1) } }) s) s

/-- The command and the instance that a checker's unit serves. -/
def contCmd (s : State) (b : Blk) (unit : Nat) : Option Nat :=
  match b with
  | .hub => (aesCore s (unit / 2)).cmd
  | .dge => (dgeU s unit).cmd
  | .cvu => (cvuU s unit).cmd
  | _ => none

/-- The instance of a command, 0 where none. -/
def instOf (s : State) (id : Option Nat) : Nat :=
  match id.bind (cmdU s) with
  | some c => cmdInst c
  | none => 0

/-- CONTINUOUS_CHECKER_ERROR (R520): the checker's record and its effect; an injection armed on the checker
makes it INJ. -/
def execContinuousCheckerError (blk : Blk) (unit checker sub : Nat) (real : Bool) (s : State) : Res :=
  .next (match contChecker blk checker sub with
  | none => s
  | some (cls, u) =>
    let inj := injArmed s blk unit checker
    if unit < fltUnits blk ∧ fltOpen s.pwr.mode ∧ contRuns s blk unit sub ∧ (real ∨ inj) then
      let id := contCmd s blk unit
      let r : FltRec := {
        blk := blk, set := unit, checker := checker, cls := cls, unit := u, inst := instOf s id, real := real,
        inj := inj }
      let s := if inj then injUse blk unit s else s
      let s := match blk with
        | .cad => if real then { s with cad := { s.cad with cnt := Tbl.del s.cad.cnt sub } } else s
        | .pwr => if real then { s with pwr := { s.pwr with fabLock := false } } else s
        | _ => s
      match blk with
      | .hsa => hashFault u (record r s)
      | _ => faultAt r id s
    else s)

/-- BLOCK_RESET_END (R446): the unit's post-reset action. A Hub engine reloads its patch, whose copy is checked (R186), and
goes on to its engine test; an AES core
has run the AES tests; a sequencer core restarts at vector 0x0000 with its program. -/
def execBlockResetEnd (blk : Blk) (unit : Nat) (s : State) : Res :=
  .next (match blk with
  | .hub =>
    if (eng s unit).inReset ∧ unit < 64 then
      let s := updEng unit (fun e => { e with inReset := false, testing := true }) s
      if s.hub.patch.loaded then reloadPatch unit s else s
    else if (aesCore s (unit / 2)).inReset ∧ unit < 64 then
      setAes (unit / 2) { aesCore s (unit / 2) with inReset := false } s
    else s
  | .seq =>
    if (coreU s unit).st = .blockReset then setCore unit { ({} : Core) with prog := s.seq.image, offline := (coreU s unit).offline } s else s
  | .dge => if (dgeU s unit).inReset then setDge unit { dgeU s unit with inReset := false } s else s
  | .cvu => if (cvuU s unit).inReset then setCvu unit { cvuU s unit with inReset := false } s else s
  | _ => s)

/-- ENGINE_TEST_END (R210): a pass returns the engine to the pool; a failure keeps it out until the next BOOT. -/
def execEngineTestEnd (e : Fin 64) (pass : Bool) (s : State) : Res :=
  .next (if (eng s e).testing then
    updEng e (fun x => { x with testing := false, failedTest := x.failedTest || !pass }) s
  else s)

end Sys2Proof.Machine
end

