-- ==== Sys2Proof/Machine/Entropy.lean ====
section
/-! DEFINITION. The entropy block: sources, conditioner, DRBGs, queues, test access (chapter 12). -/
namespace Sys2Proof.Machine
open Sys2Proof

/-- Are registers of the blocks other than GLB and the port pages reachable (R381, R407): once BOOT has ended? -/
def regOpen (src : Src) (s : State) : Bool := reaches s src && fltOpen s.pwr.mode && s.pwr.mode != .boot

/-- The sources in a state, in ascending number. -/
def srcsIn (s : State) (t : SrcState) : List Nat := (List.range 8).filter (fun n => (srcU s n).st == t)
/-- ENT_STATUS.degraded: exactly one source is active. -/
def entDegraded (s : State) : Bool := s.ent.startupDone && (srcsIn s .active).length == 1
/-- ENT_STATUS.all_failed (R280): no source is active. -/
def allFailed (s : State) : Bool := s.ent.startupDone && (srcsIn s .active).isEmpty

/-- A DRBG that counts as instantiated (R282) and may generate (R273, R280, R284). -/
def drbgUsable (s : State) (n : Nat) : Bool :=
  let d := drbgU s n
  d.inst && !d.mustReseed && !d.stopped && !allFailed s && !s.ent.testActive
/-- ENT_STATUS.data_ready: a DRBG is instantiated and generating. -/
def entReady (s : State) : Bool := (List.range 64).any (drbgUsable s)

/-- The ENT event vector (Table 26-4a): signalled when source_switched, degraded or all_failed changes from 0
to 1 between two states. -/
def entInt (old : State) (s : State) : State :=
  if (!old.ent.switched && s.ent.switched) || (!entDegraded old && entDegraded s) ||
      (!allFailed old && allFailed s) then signal 0 110 s else s

/-- Make spares active until two sources are (R269); a takeover sets source_switched. -/
def takeOver : Nat → Bool → State → State
  | 0, _, s => s
  | k + 1, mark, s =>
    if 2 ≤ (srcsIn s .active).length then s
    else match srcsIn s .spare with
      | [] => s
      | n :: _ =>
        let s := setSrc n { srcU s n with st := .active } s
        takeOver k mark { s with ent := { s.ent with switched := s.ent.switched || mark } }

/-- Does a cyclic sample sequence fail the repetition count test: 26 consecutive identical samples (R267)? -/
def rctHits (m : Bytes) : Bool :=
  (List.range m.length).any (fun k => (List.range 26).all (fun j => m.getD ((k + j) % m.length) 0 == m.getD k 0))
/-- Can a window of 512 samples of a cyclic sequence fail the adaptive proportion test: its first sample stands there 350
times (R267)? -/
def aptHits (m : Bytes) : Bool :=
  (List.range m.length).any (fun k =>
    decide (350 ≤ ((List.range 512).filter (fun j => m.getD ((k + j) % m.length) 0 == m.getD k 0)).length))

/-- Do the samples of a source allow this failure? A substituted source's are the pattern, replayed (R284); any other's are
free. -/
def mayFail (s : State) (n : Nat) (apt : Bool) : Bool :=
  if s.ent.testActive ∧ s.ent.tstSubst ∧ s.ent.tstSource = n then if apt then aptHits s.ent.pattern else rctHits s.ent.pattern
  else true

/-- HEALTH_TEST_FAIL (R267, R269): a running source fails a test; a spare takes an active one's place. -/
def execHealthTestFail (src : Fin 8) (apt : Bool) (s : State) : Res :=
  .next (
    let x := srcU s src
    if s.ent.running ∧ (x.st = .active ∨ x.st = .spare) ∧ mayFail s src apt then
      let t := setSrc src { x with st := .failed, rctFail := x.rctFail || !apt, aptFail := x.aptFail || apt } s
      entInt s (takeOver 2 true t)
    else s)

/-- SOURCE_SETTLE_END (R268, R282): settling sources start their start-up test. -/
def execSourceSettleEnd (s : State) : Res :=
  .next ((srcsIn s .settling).foldl (fun s n => setSrc n { srcU s n with st := .testing } s)
    s)

/-- The end of a start-up test for one source: it passes, or fails one of the two tests (R268, R282). -/
def testResult (pass rct : BitVec 8) (s : State) (n : Nat) : State :=
  let x := srcU s n
  if pass.getLsbD n ∨ ¬ mayFail s n (!rct.getLsbD n) then
    let st : SrcState := if (srcsIn s .active).length < 2 then .active else .spare
    setSrc n { x with st := st, rctFail := false, aptFail := false } s
  else setSrc n { x with st := .failed, rctFail := rct.getLsbD n, aptFail := !rct.getLsbD n } s

/-- STARTUP_TEST_END (R268): the two lowest-numbered passing sources become active, the others spares. -/
def execStartupTestEnd (pass rct : BitVec 8) (s : State) : Res :=
  .next (if s.ent.running ∧ ¬ s.ent.startupDone ∧ (srcsIn s .testing).length = 8 then
    let t := (srcsIn s .testing).foldl (testResult pass rct) s
    entInt s { t with ent := { t.ent with startupDone := true } }
  else s)

/-- RETEST (R282): a write of ENT_CTRL.retest; ignored while a retest runs or no source is failed. -/
def execRetest (src : Src) (s : State) : Res :=
  let s := touch src s
  .next (if regOpen src s ∧ ¬ s.ent.retesting ∧ srcsIn s .failed ≠ [] ∧ s.ent.running then
    let t := (srcsIn s .failed).foldl (fun s n => setSrc n { srcU s n with st := .settling, retest := true } s) s
    { t with ent := { t.ent with retesting := true } }
  else s)

/-- Leaving the all-failed state (R282): every instantiated DRBG needs a reseed before it generates again. -/
def needReseed (s : State) : State :=
  { s with
    ent := { s.ent with
      drbg := s.ent.drbg.map (fun p => (p.1, { p.2 with mustReseed := p.2.inst || p.2.mustReseed })) } }

/-- RETEST_END (R282). -/
def execRetestEnd (pass rct : BitVec 8) (s : State) : Res :=
  .next (
    let l := (srcsIn s .testing).filter (fun n => (srcU s n).retest)
    if s.ent.retesting ∧ l ≠ [] then
      let before := (srcsIn s .active).length
      let t := l.foldl (testResult pass rct) s
      let t := l.foldl (fun s n => setSrc n { srcU s n with retest := false } s) t
      let t : State := { t with ent := { t.ent with
        retesting := false, switched := t.ent.switched || decide (before < (srcsIn t .active).length) } }
      signal 0 110 (if allFailed s ∧ ¬ allFailed t then needReseed t else t)
    else s)

/-! ### The conditioner (R270–R273) -/

/-- Does a DRBG wait for its instantiation or for the reseed after the all-failed state? -/
def drbgWants (s : State) (n : Nat) : Bool := !(drbgU s n).inst || (drbgU s n).mustReseed

/-- A DRBG just seeded, with this working state. -/
def seeded (kv : Bytes × Bytes) (d : Drbg) : Drbg :=
  { d with key := kv.1, v := kv.2, inst := true, mustReseed := false, reseedDue := false, stopped := false, reqs := 0 }

/-- Give DRBG `n` a block, whose 256 bits are free: a reseed takes one; an instantiation two, as 384 bits of entropy input
and a nonce, personalised with the identity and the number (R273). -/
def feedDrbg (n : Nat) (s : State) : State :=
  let d := drbgU s n
  let r := freeBytes 32 s
  let s := r.2
  if d.inst then setDrbg n (seeded (drbgReseed r.1 (d.key, d.v)) d) s
  else if s.ent.firstPart = 0 then { s with ent := { s.ent with firstPart := 1, firstBlock := r.1 } }
  else
    let b := s.ent.firstBlock ++ r.1
    setDrbg n (seeded (drbgStart (b.take 48) (b.drop 48) (identity s ++ leBytes 1 n)) d)
      { s with ent := { s.ent with firstPart := 0, firstBlock := [] } }

/-- After a DRBG is ready the random queue is enabled (R276). -/
def enableQueue (s : State) : State :=
  if entReady s then { s with ent := { s.ent with queueOn := true } } else s

/-- The consumer of a released block, in the order of R271. -/
def releaseBlock (s : State) : State :=
  let want := (List.range 64).filter (drbgWants s)
  if want.length = 64 then enableQueue (feedDrbg 0 s)
  else match s.ent.seedQ with
    | e :: q => { s with ent := { s.ent with seedQ := q, seedFly := s.ent.seedFly ++ [e] } }
    | [] =>
      if s.ent.reserve < 64 then { s with ent := { s.ent with reserve := s.ent.reserve + 1 } }
      else match s.ent.prQ with
        | c :: q => { s with ent := { s.ent with prQ := q, prDone := s.ent.prDone ++ [c] } }
        | [] => match want with
          | n :: _ => enableQueue (feedDrbg n s)
          | [] => match (List.range 64).filter (fun n => (drbgU s n).reseedDue) with
            | n :: _ => enableQueue (feedDrbg n s)
            | [] => s

/-- CONDITIONER_BLOCK_RELEASE (R271): no block is released without an active source, nor once a test setting
has been made (R284). -/
def execConditionerBlockRelease (s : State) : Res :=
  .next (if s.ent.startupDone ∧ ¬ allFailed s ∧ ¬ s.ent.testActive then blkEvent .ent 0x10 1 (releaseBlock s)
    else s)

/-- DRBG_RESEED_DUE (R273). -/
def execDrbgReseedDue (n : Fin 64) (s : State) : Res :=
  .next (if (drbgU s n).inst then setDrbg n { drbgU s n with reseedDue := true } s else s)

/-- DRBG_STOP (R273): a DRBG whose reseed is outstanding stops until it is reseeded. -/
def execDrbgStop (n : Fin 64) (s : State) : Res :=
  .next (if (drbgU s n).inst ∧ (drbgU s n).reseedDue then setDrbg n { drbgU s n with stopped := true } s else s)

/-- One generate request of DRBG `d`, with the issuing instance and the device-wide request counter as additional input
(R273). -/
def genRequest (d inst n : Nat) (s : State) : Bytes × State :=
  let x := drbgU s d
  let r := drbgGen n (leBytes 1 inst ++ leBytes 8 s.ent.reqCount) (x.key, x.v)
  (r.1, setDrbg d { x with key := r.2.1, v := r.2.2, reqs := x.reqs + 1 }
    { s with ent := { s.ent with reqCount := (s.ent.reqCount + 1) % 2 ^ 64 } })

/-- Consecutive requests of at most 65,536 bytes. -/
def genRequests (d inst : Nat) : Nat → Nat → State → Bytes × State
  | 0, _, s => ([], s)
  | k + 1, n, s =>
    let r := genRequest d inst (min n 65536) s
    let q := genRequests d inst k (n - 65536) r.2
    (r.1 ++ q.1, q.2)

/-- One DRBG generates `n` bytes for a draw of an instance (R273). -/
def generate (d inst n : Nat) (s : State) : Bytes × State :=
  let k := max 1 (ceilDiv n 65536)
  genRequests d inst k n (blkEvent .ent 0x11 k s)

/-- RANDOM_QUEUE_FILL (R276, R277): the lowest-numbered idle DRBG fills the queue or the ENT_DATA FIFO. -/
def execRandomQueueFill (n : Fin 64) (fifo : Bool) (s : State) : Res :=
  .next (if s.ent.queueOn ∧ drbgUsable s n ∧ (List.range n).all (fun k => !drbgUsable s k) then
    if fifo then
      let r := generate n 0 (256 - s.ent.fifo.length) s
      if s.ent.fifo.length < 256 then { r.2 with ent := { r.2.ent with fifo := s.ent.fifo ++ r.1 } } else s
    else
      let r := generate n 0 (65536 - s.ent.queue.length) s
      if s.ent.queue.length < 65536 then { r.2 with ent := { r.2.ent with queue := s.ent.queue ++ r.1 } } else s
  else s)

/-! ### Draws (R274, R278) -/

/-- The DRBG a draw of an instance would take: an idle one. -/
def drawUnit (s : State) : Option Nat := (List.range 64).find? (drbgUsable s)

/-- A command that consumed randomness while source_switched was 1 says so (R53). -/
def noteSwitch (id : Nat) (s : State) : State :=
  match cmdU s id with
  | some c => if s.ent.switched then setCmd { c with switched := true } s else s
  | none => s

/-- The instance that a command's draws are issued for. -/
def drawInst (s : State) (id : Nat) : Nat := match cmdU s id with | some c => cmdInst c | none => 0

/-- A draw of `n` bytes for a command; none while no DRBG can generate. -/
def draw (id n : Nat) (s : State) : Option (Bytes × State) :=
  match drawUnit s with
  | none => none
  | some d => some (generate d (drawInst s id) n (noteSwitch id s))

/-- A command's first attempt to draw finds no DRBG: from then on it waits (R278). -/
def awaitDraw (id : Nat) (s : State) : State :=
  match cmdU s id with
  | some c => setCmd { c with drawing := true } s
  | none => s

/-- The retry hint of R278. -/
def entropyHint (s : State) : Nat × State :=
  if allFailed s then (0xFFFF, s) else freeNumber 0x10000 s

/-- A command ends with STS_ENTROPY_UNAVAILABLE (R278, R281). -/
def entropyFail (c : Cmd) (s : State) : State :=
  let h := entropyHint s
  let s := h.2
  let s : State := { s with ent := { s.ent with prQ := s.ent.prQ.filter (· != c.id), prDone := s.ent.prDone.filter (· != c.id) } }
  if c.phase = .waiting then refuse c (withHint stsEntropy h.1) (unreserve c.id s)
  else abandon (some (withHint stsEntropy h.1)) c s

/-! ### Registers with effects of their own -/

/-- A read of ENT_DATA (R277, R284): the word and the state after it. -/
def entDataRead (s : State) : Word × State :=
  if s.ent.testActive then
    if s.ent.tstRaw then
      if s.ent.tstSubst ∧ s.ent.pattern ≠ [] then
        let k := s.ent.pattern.length
        let b := (List.range 3).map (fun i => s.ent.pattern.getD ((s.ent.patPos + i) % k) 0)
        (BitVec.ofNat 32 (ofLe b + 2 ^ 31), { s with ent := { s.ent with patPos := (s.ent.patPos + 3) % k } })
      else
        let r := freeBytes 3 s
        (BitVec.ofNat 32 (ofLe r.1 + 2 ^ 31), r.2)
    else (0, { s with ent := { s.ent with entErr := true } })
  else if 3 ≤ s.ent.fifo.length then
    (BitVec.ofNat 32 (ofLe (s.ent.fifo.take 3) + 2 ^ 31),
      { s with ent := { s.ent with fifo := s.ent.fifo.drop 3 } })
  else (0, { s with ent := { s.ent with entErr := true } })

/-- ENT_DATA_READ (R277). -/
def execEntDataRead (src : Src) (s : State) : Res :=
  let s := touch src s
  .next (if regOpen src s then (entDataRead s).2 else s)

/-- From the first test setting on no DRBG is instantiated and the queues are off (R284, R396). -/
def entTestStart (s : State) : State :=
  { s with
    ent := { s.ent with
      drbg := s.ent.drbg.map (fun p => (p.1, { p.2 with key := [], v := [], inst := false, mustReseed := false })),
      queueOn := false, queue := [], fifo := [], reserve := 0, firstPart := 0, firstBlock := [] } }

/-- A write to ENT_TEST (R284). -/
def entTestWrite (v : Word) (s : State) : State :=
  if s.pwr.mode = .test then
    let on := flag v 3 || flag v 4
    let s := if on ∧ ¬ s.ent.testActive then
        let t := entTestStart s
        { t with ent := { t.ent with testActive := true } }
      else s
    { s with ent := { s.ent with tstSource := fld v 0 3, tstSubst := flag v 3, tstRaw := flag v 4 } }
  else { s with ent := { s.ent with testDenied := true } }

/-- ENT_TEST (R284). -/
def execEntTest (src : Src) (v : Word) (s : State) : Res :=
  let s := touch src s
  .next (if regOpen src s then entTestWrite v s else s)

/-- A write to ENT_TEST_PATTERN (R284): four samples, low byte first; a full buffer takes no more. -/
def entPatternWrite (v : Word) (s : State) : State :=
  if s.pwr.mode = .test then
    { s with ent := { s.ent with pattern := (s.ent.pattern ++ leBytes 4 v.toNat).take 4096 } }
  else { s with ent := { s.ent with testDenied := true } }

/-- ENT_TEST_PATTERN (R284). -/
def execEntTestPattern (src : Src) (v : Word) (s : State) : Res :=
  let s := touch src s
  .next (if regOpen src s then entPatternWrite v s else s)

/-- Does a running command wait for DRBG output, or for the block of its prediction-resistant reseed (R278)? -/
def drawWaits (s : State) (c : Cmd) : Bool := (c.drawing && (drawUnit s).isNone) || s.ent.prQ.contains c.id

/-! ### Mask-generator seeds (R125, R126, R141, R272) -/

/-- An engine asks for a seed: at power-up the reserve serves it, later only the conditioner. -/
def requestSeed (powerUp : Bool) (n : Nat) (s : State) : State :=
  let s := updEng n (fun e => { e with mg := { e.mg with reseedReq := true } }) s
  if s.ent.seedQ.contains n ∨ s.ent.seedFly.contains n then s
  else if powerUp ∧ 0 < s.ent.reserve then
    { s with ent := { s.ent with reserve := s.ent.reserve - 1, seedFly := s.ent.seedFly ++ [n] } }
  else { s with ent := { s.ent with seedQ := s.ent.seedQ ++ [n] } }

/-- MG_RESEED_REQUEST (R125): at 983,040 blocks a running generator requests a seed. -/
def execMgReseedRequest (e : Fin 64) (s : State) : Res :=
  .next (
    let m := (eng s e).mg
    if (eng s e).powered ∧ m.seeded ∧ ¬ m.reseedReq then
      requestSeed false e (updEng e (fun x => { x with mg := { x.mg with blocks := max 983040 x.mg.blocks } }) s)
    else s)

/-- A command at order 1 or above whose engine's generator halts is abandoned (R126) with STS_ENTROPY_UNAVAILABLE and
SOURCE_SWITCHED (R281). -/
def haltCmd (id : Option Nat) (s : State) : State :=
  match id.bind (cmdU s) with
  | some c => if 0 < c.order then entropyFail { c with switched := true } s else s
  | none => s

/-- The generator of engine `e` halts (R125, R126): the engine's own command and the AES command it lends its key to end at
order 1 or above; a gang that forms does without the engine (R281). -/
def mgHalt (e : Nat) (s : State) : State :=
  let x := eng s e
  let s := setEng e { x with mg := { x.mg with blocks := 2 ^ 20, halted := true } } s
  let s := haltCmd x.cmd s
  let s := if x.lend then haltCmd (aesCore s (e / 2)).cmd s else s
  match x.reservedBy.bind (cmdU s) with
  | some c => if 0 < (if c.port = 256 then c.order else (instU s c.port).order) then freeReserved e s else s
  | none => s

/-- MG_HALT (R125, R126): at 2^20 blocks without a seed the generator halts. -/
def execMgHalt (e : Fin 64) (s : State) : Res :=
  .next (
    let x := eng s e
    if x.powered ∧ x.mg.reseedReq ∧ ¬ x.mg.halted then mgHalt e s else s)

/-- A seed reaches the generator of engine `e` (R125): the conditioner's 256 bits, which are free, are absorbed into its
eight states, and a halted one resumes. -/
def seedEngine (e : Nat) (s : State) : State :=
  let r := freeBytes 32 s
  blkEvent .ent 0x12 1 (updEng e (fun x => { x with mg := { states := mgAbsorb x.mg r.1, seeded := true } }) r.2)

/-- MG_SEED_ARRIVAL (R125): the conditioner's 256 bits, which are free, are absorbed and a halted generator resumes. -/
def execMgSeedArrival (e : Fin 64) (s : State) : Res :=
  .next (if s.ent.seedFly.contains e.val then
    seedEngine e { s with ent := { s.ent with seedFly := s.ent.seedFly.filter (· != e.val) } }
  else s)

end Sys2Proof.Machine
end

