-- ==== Sys2Proof/Machine/Hsa.lean ====
section
/-! DEFINITION. Hash-array jobs (R227–R229). -/
namespace Sys2Proof.Machine
open Sys2Proof

/-- Issue jobs to an array; free cores take them at once, the requester's own cores first. -/
def hashIssue (g : Nat) (js : List HashJob) (s : State) : State :=
  let a := hsaU s g
  let own := (List.range 32).filter (fun c => coreOwner c == (js.head?.map (·.who)))
  setHsa g (hsaFill (own.foldl (fun a c => hsaTake c a) { a with wait := a.wait ++ js })) s

/-- Has a digest engine a block that core 31 can take (R232), none of its jobs waiting or running? -/
def dgeWants (s : State) (u : Nat) : Bool :=
  let d := dgeU s u
  let a := hsaU s u
  d.offloaded && (d.st == .absorbing || d.st == .finishing) && decide (d.done < dgeAvail d) &&
    a.wait.all (fun j => j.who != 4) && a.run.all (fun p => !p.2.any (fun j => j.who == 4))

/-- The job of a digest engine's next block: at order 0, or at its key's order in keyed mode (R230, R242). -/
def dgeJob (d : Dge) : HashJob := ⟨4, 0, if d.keyed then d.keyOrder else 0⟩

/-- A digest engine's next block goes to core 31. -/
def dgePump (u : Nat) (s : State) : State := if dgeWants s u then hashIssue u [dgeJob (dgeU s u)] s else s

/-- Does a running job stall on its engine's mask generator (R125, R230)? -/
def jobStalls (s : State) (g : Nat) (j : HashJob) : Bool :=
  decide (j.who < 4) && decide (0 < j.order) && (eng s (4 * g + j.who)).mg.halted

/-- A digest engine's block is done: its next one waits where its bytes are there. -/
def dgeBlockDone (g : Nat) (s : State) : State :=
  let s := setDge g { dgeU s g with done := (dgeU s g).done + 1 } s
  if dgeWants s g then setHsa g { hsaU s g with wait := dgeJob (dgeU s g) :: (hsaU s g).wait } s else s

/-- HASH_JOB_COMPLETE (R229): a core completes its job and takes the next; other idle cores take what that freed. -/
def execHashJobComplete (g : Fin 16) (core : Fin 32) (s : State) : Res :=
  .next (match Tbl.get none (hsaU s g).run core with
    | none => s
    | some j =>
      if jobStalls s g j then s
      else
        let s := blkEvent .hsa 0x10 1 s
        let s := if (match coreOwner core with | some o => o != j.who | none => false) then blkEvent .hsa 0x11 1 s else s
        let s := setHsa g { hsaU s g with run := Tbl.set none (hsaU s g).run core none } s
        let s := if j.who = 4 then dgeBlockDone g s else s
        setHsa g (hsaFill (hsaTake core (hsaU s g))) s)

/-- The block size of a context's function in bytes. -/
def xofRate : Nat → Nat
  | 0 => 168 | 1 => 136 | 2 => 136 | 3 => 72 | 4 => 64 | _ => 128

/-- The permutations or compressions a context has needed so far. -/
def xofPerms (x : Xof) : Nat :=
  match x.fn with
  | none => 0
  | some f =>
    let n := x.absorbed.length
    if f < 4 then n / xofRate f + ceilDiv x.pos (xofRate f)
    else if x.pos = 0 then n / xofRate f
    else if f = 4 then (n + 8) / 64 + 1
    else (n + 16) / 128 + 1

/-- The jobs that an instruction of engine `n` issued at an order, from its contexts before and after (R230, R231). -/
def xofJobs (n order : Nat) (a b : Tbl Xof) : List HashJob :=
  (List.range 4).flatMap (fun c => List.replicate (xofPerms (Tbl.get {} b c) - xofPerms (Tbl.get {} a c)) ⟨n % 4, c, order⟩)

end Sys2Proof.Machine
end

