-- ==== Sys2Proof/Machine/KWord.lean ====
section
/-! DEFINITION. The words of kernel instructions (06 Tables 6-3, 6-4, 6-5, 6-6, 6-7, 6-9 and 6-10). -/
namespace Sys2Proof.Machine
open Sys2Proof

/-- Bits `[lo + n - 1 : lo]` of an instruction word. -/
def kf (w lo n : Nat) : BitVec n := BitVec.ofNat n (bitsOf w lo n)

/-- The fields of formats V, X and I. -/
def wordVF (form : VForm) (w : Nat) : VF := ⟨form, kf w 21 5, kf w 16 5, kf w 11 5, kf w 8 3, kf w 6 2, kf w 4 2⟩

/-- Table 6-5: the element-wise instruction of a function in a mode; none is a reserved encoding. -/
def decodeVop (e : Fin 64) (a : VF) (funct : Nat) : Option Instr :=
  match funct, a.mode.toNat with
  | 0, 3 => some (.vxor e a)
  | 0, _ => some (.vadd e a)
  | 1, 3 => some (.vxor e a)
  | 1, _ => some (.vsub e a)
  | 2, 3 => some (.vclmul e a)
  | 2, _ => some (.vmul e a)
  | 3, 0 => some (.vmulh e a)
  | 3, 3 => some (.vclmulh e a)
  | 3, _ => some (.vmac e a)
  | 4, 1 => some (.vneg e a)
  | 4, 2 => some (.vsqr e a)
  | 4, _ => some (.vand e a)
  | 5, 0 => some (.vor e a)
  | 5, 3 => some (.vor e a)
  | 6, 0 => some (.vxor e a)
  | 7, 0 => some (.vsll e a)
  | 7, 3 => some (.vsll e a)
  | 8, 0 => some (.vsrl e a)
  | 8, 3 => some (.vsrl e a)
  | 9, 0 => some (.vsra e a)
  | 10, 0 => some (.vsadd e a)
  | 11, 0 => some (.vssub e a)
  | 12, 0 => some (.vsaddu e a)
  | 13, 0 => some (.vssubu e a)
  | 14, 0 => some (.vmin e a)
  | 15, 0 => some (.vmax e a)
  | _, _ => none

/-- Table 6-6. -/
def decodeVwop (e : Fin 64) (a : VF) (funct : Nat) : Option Instr :=
  let u := decide (funct % 2 = 1)
  match funct / 2 with
  | 0 => some (.vwmul e u a)
  | 1 => some (.vwmacc e u a)
  | 2 => some (.vwadd e u a)
  | 3 => some (.vdot4 e u a)
  | 4 => some (.vdot2 e u a)
  | _ => none

/-- VCMP of Table 6-7. -/
def decodeVcmp (e : Fin 64) (a : VF) (funct : Nat) : Option Instr :=
  if h : funct < 8 then some (.vcmp e ⟨funct, h⟩ a) else none

/-- VMSK of Table 6-7. -/
def decodeVmsk (e : Fin 64) (a : VF) (funct : Nat) : Option Instr :=
  if h : funct < 4 then some (.kLogic e ⟨funct, h⟩ a)
  else if funct = 4 then some (.kmov e a)
  else if funct = 5 then some (.vtest e a)
  else none

/-- VPERM of Table 6-7: the function says whether the word is of format V or X. -/
def decodeVperm (e : Fin 64) (w : Nat) : Option Instr :=
  let v := wordVF .v w
  let x := wordVF .x w
  match bitsOf w 0 4 with
  | 0 => some (.vslideup e x)
  | 1 => some (.vslidedn e x)
  | 2 => some (.vrgather e v)
  | 3 => some (.vbcast e x)
  | 4 => some (.vmerge e v)
  | 5 => some (.vredsum e v)
  | 6 => some (.vmv e v)
  | _ => none

/-- Table 6-9: the long instruction of a routine number; numbers not listed are reserved encodings (R165). -/
def decodeLong (e : Fin 64) (a : LF) (routine : Nat) : Option Instr :=
  match routine with
  | 0 => some (.vntt e a)
  | 1 => some (.vintt e a)
  | 2 => some (.vbmul e a)
  | 3 => some (.vsampleU e a)
  | 4 => some (.vsampleCbd e a)
  | 5 => some (.vsampleEta e a)
  | 6 => some (.vsampleBall e a)
  | 7 => some (.vdecomp e a)
  | 8 => some (.vcompress e a)
  | 9 => some (.vdecompress e a)
  | 10 => some (.vpack e a)
  | 11 => some (.vunpack e a)
  | 12 => some (.va2b e a)
  | 13 => some (.vb2a e a)
  | 14 => some (.vafft e a)
  | 15 => some (.viafft e a)
  | 16 => some (.vgoppa e a)
  | 17 => some (.vxofInit e a)
  | 18 => some (.vxofAbs e a)
  | 19 => some (.vxofSq e a)
  | 20 => some (.vkey e a)
  | 21 => some (.vunmask e a)
  | 24 => some (.vmpmul e a)
  | 25 => some (.vmpsqr e a)
  | 26 => some (.vmpred e a)
  | 27 => some (.vmpadd e a)
  | 28 => some (.vmpsub e a)
  | 29 => some (.vmpcswap e a)
  | _ => none

/-- Table 6-10. -/
def decodeScalar (e : Fin 64) (w major : Nat) : Option Instr :=
  let a : XF := ⟨kf w 22 4, kf w 18 4, kf w 0 18⟩
  match major with
  | 0x30 => some (.xop e a)
  | 0x31 => some (.xaddi e a)
  | 0x32 => some (.xshi e a)
  | 0x33 => some (.xlih e a)
  | 0x34 => some (.xld e a)
  | 0x35 => some (.xBranch e 0 a)
  | 0x36 => some (.xBranch e 1 a)
  | 0x37 => some (.xBranch e 2 a)
  | 0x38 => some (.xBranch e 3 a)
  | 0x39 => some (.jal e (kf w 22 4) (kf w 0 22))
  | 0x3A => some (.setvl e a)
  | 0x3B => some (.vsetq e a)
  | 0x3C => some (.vsetgf e a)
  | 0x3D => some (.vend e a)
  | 0x3E => some (.jalr e a)
  | _ => none

/-- The instruction that a kernel word spells on engine `e` (Table 6-4); none is a reserved encoding (R153). -/
def kDecode (e : Fin 64) (w : Nat) : Option Instr :=
  let funct := bitsOf w 0 4
  match bitsOf w 26 6 with
  | 0x00 => decodeVop e (wordVF .v w) funct
  | 0x01 => decodeVop e (wordVF .x w) funct
  | 0x02 => decodeVop e (wordVF .i w) funct
  | 0x03 => decodeVwop e (wordVF .v w) funct
  | 0x04 => decodeVcmp e (wordVF .v w) funct
  | 0x05 => decodeVcmp e (wordVF .x w) funct
  | 0x06 => decodeVmsk e (wordVF .v w) funct
  | 0x07 => decodeVperm e w
  | 0x08 =>
    let m : MF := ⟨kf w 21 5, kf w 16 5, kf w 11 5, kf w 8 3, kf w 6 2, kf w 4 2⟩
    match funct with
    | 0 => some (.vld e m)
    | 1 => some (.vst e m)
    | _ => none
  | 0x09 =>
    let g : GF := ⟨kf w 21 5, kf w 17 4, kf w 13 4, kf w 7 6, kf w 4 2, kf w 2 2, kf w 0 2⟩
    some (if w.testBit 6 then .vscatter e g else .vgather e g)
  | 0x10 => decodeLong e ⟨kf w 21 5, kf w 16 5, kf w 11 5, kf w 0 4⟩ (bitsOf w 4 7)
  | m => decodeScalar e w m

end Sys2Proof.Machine
end

