-- ==== Sys2Proof/Machine/Ntt.lean ====
section
/-! DEFINITION. The lattice arithmetic behind the long instructions, on lists of residues
(R165; the transforms of FIPS 203 and FIPS 204). -/
namespace Sys2Proof.Machine
open Sys2Proof

/-- `b ^ n mod q`. -/
def powMod (b q : Nat) : Nat → Nat
  | 0 => 1 % q
  | n + 1 => powMod b q n * b % q

/-- The low `w` bits of a number, reversed. -/
def bitRev (w v : Nat) : Nat :=
  (List.range w).foldl (fun r i => 2 * r + v / 2 ^ i % 2) 0

/-- The parameters of a transform: q, root of unity, bits reversed, layers, last factor of the inverse. -/
structure NttPar where
  q      : Nat
  root   : Nat
  brv    : Nat
  layers : Nat
  scale  : Nat
deriving DecidableEq, Repr

/-- The ML-KEM transform of 7 layers. -/
def kemNtt : NttPar := ⟨3329, 17, 7, 7, 3303⟩
/-- The ML-DSA transform of 8 layers. -/
def dsaNtt : NttPar := ⟨8380417, 1753, 8, 8, 8347681⟩

/-- The twiddle factor number `k`. -/
def zeta (p : NttPar) (k : Nat) : Nat := powMod p.root p.q (bitRev p.brv k)

/-- One forward layer with half-length `len`. -/
def nttLayer (p : NttPar) (len : Nat) (f : List Nat) : List Nat :=
  let nb := 128 / len
  let zs := (List.range nb).map (fun b => zeta p (nb + b))
  (List.range 256).map (fun i =>
    let z := zs.getD (i / (2 * len)) 0
    if i % (2 * len) < len then (f.getD i 0 + z * f.getD (i + len) 0) % p.q
    else (f.getD (i - len) 0 + (p.q - z * f.getD i 0 % p.q)) % p.q)

/-- The forward transform. -/
def ntt (p : NttPar) (f : List Nat) : List Nat :=
  (List.range p.layers).foldl (fun g l => nttLayer p (128 >>> l) g) f

/-- One inverse layer with half-length `len`. -/
def inttLayer (p : NttPar) (len : Nat) (f : List Nat) : List Nat :=
  let nb := 128 / len
  let zs := (List.range nb).map (fun b => zeta p (2 * nb - 1 - b))
  (List.range 256).map (fun i =>
    if i % (2 * len) < len then (f.getD i 0 + f.getD (i + len) 0) % p.q
    else zs.getD (i / (2 * len)) 0 * ((f.getD i 0 + (p.q - f.getD (i - len) 0)) % p.q) % p.q)

/-- The inverse transform. -/
def intt (p : NttPar) (f : List Nat) : List Nat :=
  ((List.range p.layers).foldl (fun g l => inttLayer p ((128 >>> (p.layers - 1)) <<< l) g) f).map
    (fun x => x * p.scale % p.q)

/-- The base-case multiply of 128 pairs modulo X² − ζ (VBMUL). -/
def baseMul (f g : List Nat) : List Nat :=
  (List.range 256).map (fun i =>
    let j := i / 2 * 2
    let a0 := f.getD j 0
    let a1 := f.getD (j + 1) 0
    let b0 := g.getD j 0
    let b1 := g.getD (j + 1) 0
    if i % 2 = 0 then (a0 * b0 + a1 * b1 % 3329 * powMod 17 3329 (2 * bitRev 7 (i / 2) + 1)) % 3329
    else (a0 * b1 + a1 * b0) % 3329)

/-- Compress_d of ML-KEM. -/
def compress (d x : Nat) : Nat := ((x * 2 ^ (d + 1) + 3329) / (2 * 3329)) % 2 ^ d

/-- Decompress_d of ML-KEM. -/
def decompress (d y : Nat) : Nat := (y % 2 ^ d * 3329 + 2 ^ (d - 1)) / 2 ^ d

/-- Decompose of ML-DSA: r1 and r0, r0 as a residue. -/
def decompose (g2 r : Nat) : Nat × Nat :=
  let q : Int := 8380417
  let a : Int := 2 * g2
  let t : Int := (r : Int) % a
  let r0 : Int := if (g2 : Int) < t then t - a else t
  if (r : Int) - r0 = q - 1 then (0, ((r0 - 1) % q).toNat)
  else ((((r : Int) - r0) / a).toNat, (r0 % q).toNat)

/-- Uniform candidates accepted from a byte string: 12-bit pairs (`p = 0`) or 23-bit words (`p = 1`); the
elements and the bytes used. -/
def sampleU (p : Nat) : Nat → Nat → List Byte → List Nat × Nat
  | 0, used, _ => ([], used)
  | n + 1, used, b0 :: b1 :: b2 :: bs =>
    let x0 := b0.toNat
    let x1 := b1.toNat
    let x2 := b2.toNat
    let cs :=
      if p = 0 then [x0 + 256 * (x1 % 16), x1 / 16 + 16 * x2].filter (· < 3329)
      else [x0 + 256 * x1 + 65536 * (x2 % 128)].filter (· < 8380417)
    match cs with
    | [] => sampleU p (n + 1) (used + 3) bs
    | [c] => let r := sampleU p n (used + 3) bs; (c :: r.1, r.2)
    | c :: d :: _ => let r := sampleU p (n - 1) (used + 3) bs; (c :: (if n = 0 then [] else [d]) ++ r.1, r.2)
  | _, used, _ => ([], used)

/-- Bounded candidates of ML-DSA from half-bytes. -/
def etaOf (eta v : Nat) : List Nat :=
  let q := 8380417
  if eta = 2 then (if v < 15 then [(q + 2 - v % 5) % q] else [])
  else (if v < 9 then [(q + 4 - v) % q] else [])

/-- ML-DSA bounded sampling of `n` elements. -/
def sampleEta (eta : Nat) : Nat → Nat → List Byte → List Nat × Nat
  | 0, used, _ => ([], used)
  | _, used, [] => ([], used)
  | n + 1, used, b :: bs =>
    let cs := etaOf eta (b.toNat % 16) ++ etaOf eta (b.toNat / 16)
    let r := sampleEta eta (n + 1 - cs.length) (used + 1) bs
    (cs.take (n + 1) ++ r.1, r.2)

/-- Centred binomial sampling of 256 residues modulo 3,329 from 64η bytes. -/
def sampleCbd (eta : Nat) (bs : Bytes) : List Nat :=
  let v := ofLe bs
  let ones := fun k => (List.range eta).foldl (fun t j => t + bitsOf v (k + j) 1) 0
  (List.range 256).map (fun i => (3329 + ones (2 * i * eta) - ones (2 * i * eta + eta)) % 3329)

/-- The positions of SampleInBall: first index, sign number, bytes used, coefficients so far. -/
def ballSteps (signs : Nat) : Nat → Nat → Nat → List Nat → List Byte → List Nat × Nat
  | _, _, used, c, [] => (c, used)
  | i, h, used, c, b :: bs =>
    if 256 ≤ i then (c, used)
    else
      let j := b.toNat
      if i < j then ballSteps signs i h (used + 1) c bs
      else
        let s := if signs.testBit h then 8380416 else 1
        ballSteps signs (i + 1) (h + 1) (used + 1) ((c.set i (c.getD j 0)).set j s) bs

/-- SampleInBall of ML-DSA with τ non-zero coefficients. -/
def sampleBall (tau : Nat) (bs : Bytes) : List Nat × Nat :=
  ballSteps (ofLe (bs.take 8)) (256 - tau) 0 8 (List.replicate 256 0) (bs.drop 8)

end Sys2Proof.Machine
end

