-- ==== Sys2Proof/Machine/Long.lean ====
section
/-! DEFINITION. The long instructions (06 R165, R166), each routine whole. `fr` is the run's supply of open bytes. -/
namespace Sys2Proof.Machine
open Sys2Proof

/-- The first `n` bytes an XOF context's function gives; a fixed-length hash gives its digest only. -/
def xofBytes (fn : Nat) (m : Bytes) (n : Nat) : Bytes :=
  match fn with
  | 0 => shake128 m n
  | 1 => shake256 m n
  | 2 => (sha3_256 m).take n
  | 3 => (sha3_512 m).take n
  | 4 => (sha256 m).take n
  | _ => (sha512 m).take n

/-- The next `n` bytes of a context. Output that no rule fixes (no function chosen, past a fixed-length
digest, absorption after a squeeze) is open. -/
def xofNext (fr : Nat → Byte) (c : Xof) (n : Nat) : Bytes :=
  let known : Bytes := match c.fn, c.mixed with
    | some f, false => (xofBytes f c.absorbed (c.pos + n)).drop c.pos
    | _, _ => []
  known ++ (List.range (n - known.length)).map fr

/-- The context named in field [12:11]. -/
def ctxOf (a : LF) : Nat := bitsOf a.f2.toNat 0 2

/-- XOF context `c`. -/
def getXof (e : Engine) (c : Nat) : Xof := Tbl.get {} e.xof c
/-- Write XOF context `c`; at order d its sponge state has fresh shares (R145). -/
def setXof (e : Engine) (c : Nat) (x : Xof) : Engine :=
  { e with xof := Tbl.set {} e.xof c { x with masks := (freshMasks e 1600).1 }, mg := (freshMasks e 1600).2 }

/-- Write a register of 32-bit residues of a slot. -/
def setRes (e : Engine) (vd slot : Nat) (xs : List Nat) : Engine :=
  setV e vd (ofEls 32 xs) (.arithQ slot)

/-- The first 256 residues of a register, reduced for a slot. -/
def resOf (e : Engine) (v slot : Nat) : List Nat := (els (getV e v).val 32 256).map (canon e 1 slot)

/-- The requirement "sew 32, VL 256" (Table 6-9): the cause, 0 where it holds. -/
def need256 (e : Engine) : Nat := if e.sew ≠ 2 then 2 else if e.vl ≠ 256 then 3 else 0

/-- Complete a long instruction, or raise the cause. -/
def orExc (c : Nat) (e : Engine) (t : Engine) : KRes := if c = 0 then retire t else .exc c 0 e

/-- VNTT and VINTT: p selects the slot. -/
def vntt (inv : Bool) (a : LF) (e : Engine) : KRes :=
  let slot := a.p.toNat
  if slot ≥ 4 then .exc 1 0 e
  else
    let c := if need256 e ≠ 0 then need256 e else if slotQ e slot = 0 then 4 else 0
    let xs := resOf e a.vs1.toNat slot
    let addr := (getX e (a.f2.toNat % 16)).toNat % 2 ^ 60
    let r := match slot, inv with
      | 0, false => ntt kemNtt xs
      | 0, true => intt kemNtt xs
      | 1, false => ntt dsaNtt xs
      | 1, true => intt dsaNtt xs
      | _, _ => (Config.slotNtt inv (slotQ e slot) e.kimg addr xs).map (· % slotQ e slot)
    orExc c e (setRes e a.vd.toNat slot r)

/-- VBMUL: p[0] adds to vd. -/
def vbmul (a : LF) (e : Engine) : KRes :=
  if a.p.toNat ≥ 2 then .exc 1 0 e
  else
    let m := baseMul (resOf e a.vs1.toNat 0) (resOf e a.f2.toNat 0)
    let r := if a.p = 1 then List.zipWith (fun x y => (x + y) % 3329) (resOf e a.vd.toNat 0) m else m
    orExc (need256 e) e (setRes e a.vd.toNat 0 r)

/-- A sampler's elements: `f` on ever longer output of the context until it accepts `n` elements (R165). -/
def sampleMore (fr : Nat → Byte) (x : Xof) (n : Nat) (f : Bytes → List Nat × Nat) : Nat → Nat → List Nat × Nat
  | 0, len => f (xofNext fr x len)
  | k + 1, len =>
    let r := f (xofNext fr x len)
    if n ≤ r.1.length then r else sampleMore fr x n f k (2 * len)

/-- The sampler offers 1,024 bytes at first, and twice as many each time it needs more. -/
def sample (fr : Nat → Byte) (x : Xof) (n : Nat) (f : Bytes → List Nat × Nat) : List Nat × Nat := sampleMore fr x n f 64 1024

/-- A sampler's end: the elements in vd and the context moved on by the bytes used, and by no others (DESIGN CHOICE,
log 122). -/
def sampled (e : Engine) (vd c slot : Nat) (r : List Nat × Nat) : Engine :=
  let x := getXof e c
  setRes (setXof e c { x with pos := x.pos + r.2 }) vd slot r.1

/-- VSAMPLE.U. A value of p that Table 6-9 does not list is a reserved encoding here and below (DESIGN CHOICE, log 122). -/
def vsampleU (fr : Nat → Byte) (a : LF) (e : Engine) : KRes :=
  let p := a.p.toNat
  if p ≥ 2 then .exc 1 0 e
  else orExc (need256 e) e (sampled e a.vd.toNat (ctxOf a) p (sample fr (getXof e (ctxOf a)) 256 (sampleU p 256 0)))

/-- VSAMPLE.CBD: η is p, 2 or 3. -/
def vsampleCbd (fr : Nat → Byte) (a : LF) (e : Engine) : KRes :=
  let eta := a.p.toNat
  if eta ≠ 2 ∧ eta ≠ 3 then .exc 1 0 e
  else
    let bs := xofNext fr (getXof e (ctxOf a)) (64 * eta)
    orExc (need256 e) e (sampled e a.vd.toNat (ctxOf a) 0 (sampleCbd eta bs, 64 * eta))

/-- VSAMPLE.ETA: η is p, 2 or 4. -/
def vsampleEta (fr : Nat → Byte) (a : LF) (e : Engine) : KRes :=
  let eta := a.p.toNat
  if eta ≠ 2 ∧ eta ≠ 4 then .exc 1 0 e
  else orExc (need256 e) e (sampled e a.vd.toNat (ctxOf a) 1 (sample fr (getXof e (ctxOf a)) 256 (sampleEta eta 256 0)))

/-- VSAMPLE.BALL: τ is 39, 49 or 60. -/
def vsampleBall (fr : Nat → Byte) (a : LF) (e : Engine) : KRes :=
  let p := a.p.toNat
  if p ≥ 3 then .exc 1 0 e
  else
    let tau := [39, 49, 60].getD p 39
    let more := fun bs => let r := sampleBall tau bs
      (if r.2 < bs.length then r.1 else [], r.2)
    let r := sample fr (getXof e (ctxOf a)) 256 more
    orExc (need256 e) e (sampled e a.vd.toNat (ctxOf a) 1 r)

/-- VDECOMP: the pair (r1, r0); vd is even. -/
def vdecomp (a : LF) (e : Engine) : KRes :=
  let p := a.p.toNat
  let c := if need256 e ≠ 0 then need256 e else if a.vd.toNat % 2 = 1 then 3 else 0
  if p ≥ 2 then .exc 1 0 e
  else
    let ds := (resOf e a.vs1.toNat 1).map (decompose (if p = 0 then 95232 else 261888))
    orExc c e (setRes (setRes e a.vd.toNat 1 (ds.map (·.1))) (a.vd.toNat + 1) 1 (ds.map (·.2)))

/-- VCOMPRESS and VDECOMPRESS over VL elements: d is p ∈ {1, 4, 5, 10, 11}. -/
def vcompress (inv : Bool) (a : LF) (e : Engine) : KRes :=
  let d := a.p.toNat
  if d ∉ [1, 4, 5, 10, 11] then .exc 1 0 e
  else
    let x := (getV e a.vs1.toNat).val
    let r := updEls (getV e a.vd.toNat).val 32 (fun i old =>
      if i < e.vl then (if inv then decompress d (elAt x 32 i) else compress d (elAt x 32 i % 3329)) else old)
    orExc (if e.sew ≠ 2 then 2 else 0) e (setV e a.vd.toNat r (.arithQ 0))

/-- The 16,384 bits of a register pair. -/
def pairVal (e : Engine) (v : Nat) : Nat := (getV e v).val.toNat + (getV e (v + 1)).val.toNat <<< 8192

/-- Write a register pair from 16,384 bits. -/
def setPair (e : Engine) (v n : Nat) (d : Dom) : Engine :=
  setV (setV e v (BitVec.ofNat 8192 n) d) (v + 1) (BitVec.ofNat 8192 (n >>> 8192)) d

/-- VPACK and VUNPACK: the low p+1 bits of VL elements, from bit X[Xo] of the stream pair; vd is even (R165). VUNPACK's
stream is the pair vs1, vs1+1, with vs1 even (DESIGN CHOICE, log 122). -/
def vpack (un : Bool) (a : LF) (e : Engine) : KRes :=
  let n := a.p.toNat + 1
  let xo := a.f2.toNat % 16
  let pos := (getX e xo).toNat
  let stream := if un then a.vs1.toNat else a.vd.toNat
  let w := 8 <<< e.sew
  let c := if e.sew ≠ 1 ∧ e.sew ≠ 2 then 2
    else if a.vd.toNat % 2 = 1 ∨ stream % 2 = 1 ∨ 16384 < pos + e.vl * n then 3 else 0
  let e' := setX e xo (BitVec.ofNat 64 (pos + e.vl * n))
  let t :=
    if un then
      let s := pairVal e stream
      let old := getV e a.vd.toNat
      setV e' a.vd.toNat (updEls old.val w (fun i d => if i < e.vl then bitsOf s (pos + i * n) n else d)) old.dom
    else
      let s := pairVal e stream
      let bits := (els (getV e a.vs1.toNat).val w e.vl).foldr (fun x r => x % 2 ^ n + r <<< n) 0
      let len := e.vl * n
      let keep := s % 2 ^ pos + (s >>> (pos + len)) <<< (pos + len)
      setPair e' stream (keep + bits <<< pos) .boolean
  orExc c e t

/-- VA2B and VB2A: the domain alone changes (R121); nothing does with VL = 0 (R155), and otherwise the whole register is
converted, its tail too (DESIGN CHOICE, log 122). -/
def vconv (toBool : Bool) (a : LF) (e : Engine) : KRes :=
  let w := 8 <<< e.sew
  retire (if e.vl = 0 then e else setV e a.vd.toNat ((getV e a.vs1.toNat).val) (if toBool then .boolean else .arith2 w))

/-- The requirement of a binary-field routine: sew 16 and a configured field. -/
def needGf (e : Engine) : Nat := if e.sew ≠ 1 then 2 else if e.gfM = 0 then 5 else 0

/-- VAFFT and VIAFFT: VL a power of 2. -/
def vafft (inv : Bool) (a : LF) (e : Engine) : KRes :=
  let c := if needGf e ≠ 0 then needGf e
    else if (List.range 11).any (fun i => e.vl == 2 ^ i) then 0 else 3
  let r := Config.additiveFft inv e.gfM e.gfPoly.toNat
    ((els (getV e a.vs1.toNat).val 16 e.vl).map (· % 2 ^ e.gfM))
  orExc c e (setV e a.vd.toNat (updEls (getV e a.vd.toNat).val 16 (fun i d =>
    if i < e.vl then r.getD i 0 % 2 ^ e.gfM else d)) .boolean)

/-- VGOPPA. -/
def vgoppa (a : LF) (e : Engine) : KRes :=
  let f := fun v => (els (getV e v).val 16 e.vl).map (· % 2 ^ e.gfM)
  let r := Config.goppaStep e.gfM e.gfPoly.toNat (f a.vs1.toNat) (f a.f2.toNat)
  orExc (needGf e) e (setV e a.vd.toNat (updEls (getV e a.vd.toNat).val 16 (fun i d =>
    if i < e.vl then r.getD i 0 % 2 ^ e.gfM else d)) .boolean)

/-- VXOF.INIT: empties context c and selects the function p. -/
def vxofInit (a : LF) (e : Engine) : KRes :=
  if a.p.toNat ≥ 6 then .exc 1 0 e
  else retire (setXof e (ctxOf a) { fn := some a.p.toNat })

/-- The first VL elements of a register as bytes. -/
def vlBytes (e : Engine) (v : Nat) : Bytes := leBytes (e.vl <<< e.sew) (getV e v).val.toNat

/-- VXOF.ABS. -/
def vxofAbs (a : LF) (e : Engine) : KRes :=
  let c := getXof e (ctxOf a)
  retire (setXof e (ctxOf a)
    { c with absorbed := c.absorbed ++ vlBytes e a.vs1.toNat, mixed := c.mixed || decide (c.pos ≠ 0) })

/-- VXOF.SQ. -/
def vxofSq (fr : Nat → Byte) (a : LF) (e : Engine) : KRes :=
  let c := getXof e (ctxOf a)
  let n := e.vl <<< e.sew
  let old := (getV e a.vd.toNat).val.toNat
  let v := ofLe (xofNext fr c n) + (old >>> (8 * n)) <<< (8 * n)
  retire (setV (setXof e (ctxOf a) { c with pos := c.pos + n }) a.vd.toNat (BitVec.ofNat 8192 v) .boolean)

/-- VKEY (R166): the key register into vd[511:0], zero above, share by share. -/
def vkey (a : LF) (e : Engine) : KRes :=
  match e.key with
  | none => .exc 9 0 e
  | some k =>
    let r : VReg := { val := k.key.setWidth 8192, masks := k.masks.map (fun m => m.setWidth 8192) }
    retire { e with v := Tbl.set {} e.v a.vd.toNat r }

/-- The size of the output FIFO (R115). -/
def fifoSize : Nat := 8192

/-- VUNMASK (R166): the first VL elements into the output FIFO; bytes past the maximum output length are
discarded where the opcode's output varies, and a window violation otherwise. -/
def vunmask (a : LF) (e : Engine) : KRes :=
  let bs := vlBytes e a.vs1.toNat
  let room := e.maxOut - e.outCount
  let out := bs.take room
  if fifoSize < e.fifo.length + out.length then .wait { e with stall := some (.unmask a) }
  else
    let t := { e with fifo := e.fifo ++ out, outCount := e.outCount + bs.length }
    if room < bs.length ∧ ¬ e.varOut then .exc 6 0 { e with fifo := e.fifo ++ out, outCount := e.maxOut }
    else retire t

/-- The multi-precision routines. -/
inductive MpKind where
  | mul | sqr | red | add | sub | cswap
deriving DecidableEq, Repr

/-- −n⁻¹ modulo 2^(2^k), for odd n. -/
def negInv (n : Nat) : Nat → Nat
  | 0 => 1
  | k + 1 =>
    let m := 2 ^ 2 ^ (k + 1)
    let x := negInv n k
    x * (2 + n * x) % m

/-- Montgomery reduction of `t` by odd `n` with R = 2^b. -/
def montRed (b n t : Nat) : Nat :=
  let r := 2 ^ b
  let m := t % r * (negInv n 13 % r) % r
  let u := (t + m * n) / r
  if n ≤ u then u - n else u

/-- VMPMUL to VMPCSWAP: single integers of VL × 64 bits (R165). Carry and borrow out of VMPADD and VMPSUB are dropped, VMPRED's
value is the pair vs1, vs1+1 with vs1 even, and VMPCSWAP swaps vd and vs1 (DESIGN CHOICE, log 122). -/
def vmp (f : MpKind) (a : LF) (e : Engine) : KRes :=
  let b := 64 * e.vl
  let m := 2 ^ b
  let x := (getV e a.vs1.toNat).val.toNat % m
  let y := (getV e a.f2.toNat).val.toNat % m
  let pair := f = .mul ∨ f = .sqr
  let vd := a.vd.toNat
  let keep := fun v n => BitVec.ofNat 8192 ((getV e v).val.toNat / m * m + n % m)
  let c := if e.sew ≠ 3 then 2
    else if (pair ∧ vd % 2 = 1) ∨ (f = .red ∧ a.vs1.toNat % 2 = 1) then 3 else 0
  let d : Dom := .arith2 64
  let t := match f with
    | .mul => setPair e vd (pairVal e vd / (m * m) * (m * m) + x * y) d
    | .sqr => setPair e vd (pairVal e vd / (m * m) * (m * m) + x * x) d
    | .red =>
      let v := pairVal e a.vs1.toNat % (m * m)
      setV e vd (keep vd (if y % 2 = 1 then montRed b y v else Config.mpReduceOpen e.vl v y)) d
    | .add => setV e vd (keep vd (x + y)) d
    | .sub => setV e vd (keep vd (x + (m - y))) d
    | .cswap =>
      if (getK e 1).getLsbD 0 then
        let z := (getV e vd).val.toNat % m
        setV (setV e vd (keep vd x) d) a.vs1.toNat (keep a.vs1.toNat z) d
      else e
  orExc c e t

end Sys2Proof.Machine
end

