-- ==== Sys2Proof/Machine/Micro.lean ====
section
/-! DEFINITION. The microwords of a routine that a patch redirects or matches (07 R169–R177, R185). What a ROM routine with
no patch does is Table 6-9's. -/
namespace Sys2Proof.Machine
open Sys2Proof

/-- Field `[lo + n - 1 : lo]` of a microword (Table 7-1). -/
def mw (w : BitVec 256) (lo n : Nat) : Nat := bitsOf w.toNat lo n

/-- Word `o` of patch RAM. -/
def patchWord (p : Patch) (o : Nat) : BitVec 256 := if o < p.words.length then p.words.getD o 0 else Config.patchOpen o

/-- The microword that a fetch from address `u` returns (R169, R185). -/
def microFetch (p : Patch) (u : Nat) : BitVec 256 :=
  if 0x1000 ≤ u then patchWord p (u - 0x1000)
  else match p.rmatches.find? (fun m => m.1 == u) with
    | some m => patchWord p m.2
    | none => Config.romWord u

/-- Where routine `r` starts: its redirect, or entry vector `r` (R169, R185). -/
def microEntry (p : Patch) (r : Nat) : Nat :=
  match p.redirects.find? (fun x => x.1 == r) with
  | some x => 0x1000 + x.2
  | none => r

/-- Does a patch change routine `r`: a redirect, or a match at a word that it fetches? -/
def patched (p : Patch) (r : Nat) : Bool :=
  p.loaded && (p.redirects.any (fun x => x.1 == r) || p.rmatches.any (fun m => m.1 == r || Config.romReaches r m.1))

/-- The conditions that may be awaited after the commit point (Table 7-3). -/
def condLate (c : Nat) : Bool := decide (32 ≤ c) && decide (c ≤ 44)

/-- The ceiling of a condition in cycles (Table 7-3); none for condition 12 and the reserved ones. -/
def condCeil (c : Nat) : Option Nat :=
  if c ≤ 8 then some 4096
  else match c with
    | 9 => some 2048
    | 10 => some 640
    | 11 => some 16
    | 13 => some 1024
    | 14 => some 1024
    | 15 => some 64
    | 16 => some 64
    | 17 => some 256
    | 18 => some 65520
    | 19 => some 65520
    | _ => if condLate c then some 8 else none

/-- The ceiling of a word's wait: ceil × 16 where it is not 0 and no more than the condition's (R171). -/
def waitCeil (w : BitVec 256) : Option Nat :=
  (condCeil (mw w 16 6)).map (fun n => if mw w 24 12 = 0 then n else min n (16 * mw w 24 12))

/-- Is there room in the output FIFO for VL elements (condition 12)? -/
def fifoRoom (e : Engine) : Bool := decide (e.fifo.length + (e.vl <<< e.sew) ≤ fifoSize)

/-- Is the mask generator ready (condition 9)? At order 0 it is not needed (R126). -/
def mgReady (e : Engine) : Bool := e.order == 0 || !e.mg.halted

/-- Does a condition hold (Table 7-3)? The conditions of other units' flow hold here: a wait for one of them that reaches
its ceiling is the row WAIT_CEILING_EXPIRY. -/
def microCond (fr : Nat → Byte) (a : LF) (e : Engine) (c : Nat) : Bool :=
  match c with
  | 0 => !e.mc.hfifo.isEmpty
  | 9 => mgReady e
  | 11 => e.key.isSome
  | 12 => fifoRoom e
  | 33 => e.mc.lc0 == 0
  | 34 => e.mc.lc1 == 0
  | 35 => a.p.getLsbD 0
  | 36 => a.p.getLsbD 1
  | 37 => a.p.getLsbD 2
  | 38 => a.p.getLsbD 3
  | 39 => e.order.testBit 0
  | 40 => e.order.testBit 1
  | 41 => (List.range 11).any (fun i => e.vl == 2 ^ i)
  | 42 => e.vl == vlmax e.sew
  | 43 => (fr e.mc.upc).getLsbD 0
  | 44 => decide (16384 < (getX e (a.f2.toNat % 16)).toNat + e.vl * (a.p.toNat + 1))
  | _ => true

/-- The value of an operand code (Table 7-2); a reserved code reads 0 (DESIGN CHOICE, log 121). -/
def microVal (a : LF) (w : BitVec 256) (e : Engine) (code : Nat) : BitVec 8192 :=
  if code < 0x20 then (getV e code).val
  else if 0x21 ≤ code ∧ code ≤ 0x27 then (getK e (code - 0x20)).setWidth 8192
  else if 0x40 ≤ code ∧ code ≤ 0x4F then (Tbl.get {} e.mc.scr (code - 0x40)).val
  else match code with
    | 0x30 => (getV e a.vd.toNat).val
    | 0x31 => (getV e (a.vd.toNat + 1)).val
    | 0x32 => (getV e a.vs1.toNat).val
    | 0x33 => (getV e a.f2.toNat).val
    | 0x34 => BitVec.ofNat 8192 (ofLe (e.mc.hfifo.take 1024))
    | 0x35 => if mw w 97 2 = 1 then ((e.key.map KeyReg.key).getD 0).setWidth 8192 else 0
    | 0x36 => BitVec.ofNat 8192 (ofLe ((List.range 1024).map (fun i => winByte e 3 (mw w 105 16 + i))))
    | 0x37 =>
      let at0 := 64 * Config.microLine (mw w 123 14)
      let win := match mw w 121 2 with | 1 => 1 | 3 => 2 | _ => 5
      BitVec.ofNat 8192 (ofLe ((List.range 1024).map (fun i => winByte e win (at0 + i))))
    | 0x38 => if e.order = 0 then 0 else BitVec.ofNat 8192 (ofLe (mgDraw (16 * mw w 89 8) e.mg).1)
    | 0x39 => BitVec.ofNat 8192 (mw w 137 32)
    | _ => 0

/-- Does a destination code name architectural state (Table 7-2)? -/
def archDst (code : Nat) : Bool :=
  decide (code < 0x20) || (decide (0x21 ≤ code) && decide (code ≤ 0x27)) || code == 0x30 || code == 0x31 || code == 0x37

/-- Does a word act on architectural state (R175)? -/
def microArch (w : BitVec 256) : Bool :=
  archDst (mw w 66 7) || (mw w 206 1 == 1 && archDst (mw w 199 7)) || mw w 169 2 != 0 || mw w 121 2 == 2

/-- Write a destination code (Table 7-2); a reserved or read-only one takes nothing. -/
def microPut (a : LF) (w : BitVec 256) (code : Nat) (x : BitVec 8192) (e : Engine) : Engine :=
  let d := modeDom (mw w 48 2) (mw w 50 2) (8 <<< e.sew)
  if code < 0x20 then setV e code x d
  else if 0x21 ≤ code ∧ code ≤ 0x27 then setK e (code - 0x20) (x.setWidth 1024)
  else if 0x40 ≤ code ∧ code ≤ 0x4F then
    { e with
      mc := { e.mc with scr := Tbl.set {} e.mc.scr (code - 0x40) { val := x, dom := d, masks := (freshMasks e 8192).1 } }
      mg := (freshMasks e 8192).2 }
  else match code with
    | 0x30 => setV e a.vd.toNat x d
    | 0x31 => setV e (a.vd.toNat + 1) x d
    | 0x37 =>
      if mw w 121 2 = 2 then
        let l := Config.microLine (mw w 123 14)
        (List.range 16).foldl (fun e i =>
          workWrite e (BitVec.ofNat 64 (2 ^ 60 + 64 * ((l + i) % (e.workSize / 64)))) 64 (bitsOf x.toNat (512 * i) 512)
            ((freshMasks e 512).1.map (fun m => m.toNat))) e
      else e
    | _ => e

/-- The loop counters a word loads (lcsel); a reserved code loads none (DESIGN CHOICE, log 121). -/
def microLc (w : BitVec 256) (e : Engine) : Engine :=
  match mw w 37 3 with
  | 1 => { e with mc := { e.mc with lc0 := mw w 137 12 } }
  | 2 => { e with mc := { e.mc with lc1 := mw w 137 12 } }
  | 3 => { e with mc := { e.mc with lc0 := e.vl } }
  | 4 => { e with mc := { e.mc with lc1 := e.vl } }
  | _ => e

/-- The hash-port action of a word (hport) on its context's shadow copy, made by the first such action (R175): init
empties it for function p, absorb takes the first VL elements of srcb, squeeze brings the next block to the hash FIFO. -/
def microHash (fr : Nat → Byte) (a : LF) (w : BitVec 256) (e : Engine) : Engine :=
  let c := mw w 84 2
  let x := (Tbl.get none e.mc.shadow c).getD (getXof e c)
  let put := fun y f => { e with mc := { e.mc with shadow := Tbl.set none e.mc.shadow c (some y), hfifo := f } }
  match mw w 81 3 with
  | 1 => put { fn := some a.p.toNat } e.mc.hfifo
  | 2 =>
    let b := leBytes (e.vl <<< e.sew) (microVal a w e (mw w 59 7)).toNat
    put { x with absorbed := x.absorbed ++ b, mixed := x.mixed || decide (x.pos ≠ 0) } e.mc.hfifo
  | 3 =>
    let n := match x.fn with | some 0 => 168 | some 1 => 136 | some 2 => 32 | some 3 => 64 | some 4 => 32 | _ => 64
    put { x with pos := x.pos + n } (e.mc.hfifo ++ xofNext fr x n)
  | _ => e

/-- The output action of a word (ofx). -/
def microOut (a : LF) (w : BitVec 256) (r : BitVec 8192) (e : Engine) : Engine :=
  match mw w 169 2 with
  | 1 =>
    let b := leBytes (e.vl <<< e.sew) (microVal a w e (mw w 52 7)).toNat
    { e with fifo := e.fifo ++ b.take (e.maxOut - e.outCount), outCount := e.outCount + b.length }
  | 2 => setX e (mw w 171 4) (r.setWidth 64)
  | 3 => setX e (a.f2.toNat % 16) (getX e (a.f2.toNat % 16) + BitVec.ofNat 64 (e.vl * (a.p.toNat + 1)))
  | _ => e

/-- The actions of a word: counters, hash port, the Spoke operations of both slots, the output. -/
def microAct (fr : Nat → Byte) (a : LF) (w : BitVec 256) (e0 : Engine) : Engine :=
  let v := microVal a w e0
  let r := Config.spokeOp (mw w 40 8) (mw w 48 2) (mw w 50 2) (v (mw w 52 7)) (v (mw w 59 7))
  let r2 := Config.spokeOp (mw w 177 8) (mw w 48 2) (mw w 50 2) (v (mw w 185 7)) (v (mw w 192 7))
  let e := microHash fr a w (microLc w e0)
  let e := if (mw w 52 7 = 0x34 ∨ mw w 59 7 = 0x34) then { e with mc := { e.mc with hfifo := e.mc.hfifo.drop 1024 } } else e
  let e := if e.order = 0 then e else { e with mg := (mgDraw (16 * mw w 89 8) e.mg).2 }
  let e := microPut a w (mw w 66 7) r e
  let e := if mw w 206 1 = 1 then microPut a w (mw w 199 7) r2 e else e
  microOut a w r e

/-- The next address of a word (seq); none is the routine's end. A call onto a full stack drops the oldest entry, and a
return from an empty one goes to no word (DESIGN CHOICE, log 121). -/
def microNext (t : Bool) (w : BitVec 256) (e : Engine) : Option (Nat × Engine) :=
  let m := e.mc
  let nx := mw w 0 13
  match mw w 13 3 with
  | 0 => some (m.upc + 1, e)
  | 1 => some (nx, e)
  | 2 => some (if t then nx else m.upc + 1, e)
  | 3 => some (nx, { e with mc := { m with stack := ((m.upc + 1) :: m.stack).take 4 } })
  | 4 => some (m.stack.headD 0x1FFF, { e with mc := { m with stack := m.stack.tail } })
  | 5 =>
    let n := (m.lc0 + 4095) % 4096
    some (if n ≠ 0 then nx else m.upc + 1, { e with mc := { m with lc0 := n } })
  | 6 =>
    let n := (m.lc1 + 4095) % 4096
    some (if n ≠ 0 then nx else m.upc + 1, { e with mc := { m with lc1 := n } })
  | _ => none

/-- The END word: every shadow copy becomes its context, and the hidden scratch is empty (R176). An interrupt held since the
commit point is taken now (R178). -/
def microEnd (e : Engine) : KRes :=
  let e := e.mc.shadow.foldl (fun e p => match p.2 with | some x => setXof e p.1 x | none => e) e
  retire { e with halted := e.halted || e.mc.held, mc := {} }

/-- Is everything reserved that the rest of the routine will consume (R176)? -/
def reserved (r : Nat) (e : Engine) : Bool := mgReady e && (r != 21 || fifoRoom e)

/-- Run a routine from its current word. It stops at END, at a guard fault (a step to no word, R169; an architectural
action before the commit point, R175; a wait after it that Table 7-3 does not allow, R176; more than 600 words since it,
R177), at a wait whose condition does not hold, and after `fuel` words, to go on at the row that follows. -/
def microGo (p : Patch) (r : Nat) (a : LF) (fr : Nat → Byte) : Nat → Engine → KRes
  | 0, e => .wait e
  | fuel + 1, e =>
    if 0x1200 ≤ e.mc.upc then .guard e
    else
      let w := microFetch p e.mc.upc
      let c := mw w 16 6
      let t := microCond fr a e c != decide (mw w 23 1 = 1)
      let late := e.uc.committed
      let com := mw w 36 1 = 1 ∧ late = false
      if mw w 22 1 = 1 ∧ late ∧ condLate c = false then .guard e
      else if mw w 22 1 = 1 ∧ t = false then .wait { e with mc := { e.mc with wait := some (c, (waitCeil w).getD 0) } }
      else if com ∧ reserved r e = false then
        .wait { e with mc := { e.mc with wait := some (if mgReady e then (12, 0) else (9, 2048)) } }
      else if late = false ∧ ¬ com ∧ microArch w then .guard e
      else
        let e := { e with
          uc := { e.uc with committed := late || decide com }
          mc := { e.mc with wait := none, hold := if late ∨ com then e.mc.hold + 1 else 0 } }
        if 600 < e.mc.hold then .guard e
        else
          let e := microAct fr a w e
          match microNext t w e with
          | none => microEnd e
          | some (u, e) => microGo p r a fr fuel { e with mc := { e.mc with upc := u } }

/-- The words that one row of a long instruction runs at most. -/
def microFuel : Nat := 4096

/-- Run a patched routine, from its first word or from where it stopped, with the operands it issued with (R179). -/
def microRun (p : Patch) (r : Nat) (a : LF) (fr : Nat → Byte) (e : Engine) : KRes :=
  if e.mc.live then microGo p r (e.mc.ops.getD a) fr microFuel e
  else microGo p r a fr microFuel { e with
    mc := { live := true, upc := microEntry p r, ops := some a }, uc := { e.uc with routine := r, running := true, committed := false } }

/-- A long instruction: the routine of the ROM does what Table 6-9 says and has passed its commit point; one that a patch
changes runs its words (R182, R185). -/
def runLong (p : Patch) (r : Nat) (a : LF) (fr : Nat → Byte) (f : Engine → KRes) (e : Engine) : KRes :=
  if patched p r then microRun p r a fr e
  else match f e with
    | .ok t => .ok { t with uc := { t.uc with committed := true } }
    | x => x

end Sys2Proof.Machine
end

