-- ==== Sys2Proof/Machine/Scalar.lean ====
section
/-! DEFINITION. The scalar instructions of a kernel (06 R167, Table 6-10). -/
namespace Sys2Proof.Machine
open Sys2Proof

/-- Is a word index inside the region of the current kernel (R167)? -/
def inRegion (e : Engine) (pc : Int) : Bool :=
  if e.owner then decide (0x3000 ≤ pc) && decide (pc ≤ 0x3FFF)
  else decide (0 ≤ pc) && decide (pc ≤ 0x2FFF)

/-- Go to a word, or a region fault (R167). -/
def jumpTo (t : Int) (e : Engine) : KRes :=
  if inRegion e t then .ok { e with pc := t.toNat, vstart := 0 } else .exc 11 0 e

/-- XOP (Table 6-10): register shift counts use the low 6 bits. -/
def xopVal (f : Nat) (a b : BitVec 64) : Option (BitVec 64) :=
  let n := b.toNat % 64
  match f with
  | 0 => some (a + b)
  | 1 => some (a - b)
  | 2 => some (a &&& b)
  | 3 => some (a ||| b)
  | 4 => some (a ^^^ b)
  | 5 => some (a <<< n)
  | 6 => some (a >>> n)
  | 7 => some (a.sshiftRight n)
  | 8 => some (a * b)
  | 9 => some (if a.slt b then 1 else 0)
  | 10 => some (if a.ult b then 1 else 0)
  | _ => none

/-- XOP. Bits of a scalar format that Table 6-10 does not name hold 0 here and below, or the encoding is reserved (DESIGN
CHOICE, log 122). -/
def xop (a : XF) (e : Engine) : KRes :=
  let f := a.f.toNat
  if bitsOf f 4 10 ≠ 0 then .exc 1 0 e
  else match xopVal (f % 16) (getX e a.xs1.toNat) (getX e (bitsOf f 14 4)) with
    | some v => retire (setX e a.xd.toNat v)
    | none => .exc 1 0 e

/-- XADDI. -/
def xaddi (a : XF) (e : Engine) : KRes :=
  retire (setX e a.xd.toNat (getX e a.xs1.toNat + a.f.signExtend 64))

/-- XSHI. -/
def xshi (a : XF) (e : Engine) : KRes :=
  let f := a.f.toNat
  let v := getX e a.xs1.toNat
  let n := f % 64
  if bitsOf f 6 10 ≠ 0 ∨ bitsOf f 16 2 = 3 then .exc 1 0 e
  else retire (setX e a.xd.toNat
    (match bitsOf f 16 2 with | 0 => v <<< n | 1 => v >>> n | _ => v.sshiftRight n))

/-- XLIH: s lies in [21:20], the immediate in [15:0]. -/
def xlih (a : XF) (e : Engine) : KRes :=
  let f := a.f.toNat
  if a.xs1.toNat % 4 ≠ 0 ∨ bitsOf f 16 2 ≠ 0 then .exc 1 0 e
  else retire (setX e a.xd.toNat (BitVec.ofNat 64 (f % 65536) <<< (16 * (a.xs1.toNat / 4))))

/-- BEQ, BNE, BLT, BLTU, by their place 0–3; xs1 lies in [25:22] and xs2 in [21:18]. -/
def xbranch (c : Nat) (a : XF) (e : Engine) : KRes :=
  let x := getX e a.xd.toNat
  let y := getX e a.xs1.toNat
  let t := match c with | 0 => x == y | 1 => x != y | 2 => x.slt y | _ => x.ult y
  if t then jumpTo ((e.pc : Int) + a.f.toInt) e else retire e

/-- PC + 1 as a jump-and-link writes it. -/
def linkVal (e : Engine) : BitVec 64 := BitVec.ofNat 64 (e.pc + 1)

/-- JAL: a signed 22-bit offset from the branch's own address. -/
def jal (xd : BitVec 4) (off : BitVec 22) (e : Engine) : KRes :=
  match jumpTo ((e.pc : Int) + off.toInt) e with
  | .ok t => .ok (setX t xd.toNat (linkVal e))
  | r => r

/-- JALR. -/
def jalr (a : XF) (e : Engine) : KRes :=
  if a.f ≠ 0 then .exc 1 0 e
  else match jumpTo ((getX e a.xs1.toNat).toNat : Int) e with
    | .ok t => .ok (setX t a.xd.toNat (linkVal e))
    | r => r

/-- SETVL: VL from an immediate or a register, at most VLMAX. -/
def setvl (a : XF) (e : Engine) : KRes :=
  let f := a.f.toNat
  let sew := f % 4
  let n := if f.testBit 17 then bitsOf f 6 11 else (getX e a.xs1.toNat).toNat
  let vl := Nat.min n (vlmax sew)
  if bitsOf f 2 4 ≠ 0 then .exc 1 0 e
  else retire (setX { e with vl := vl, sew := sew } a.xd.toNat (BitVec.ofNat 64 vl))

/-- VSETQ (R118): an even q or q < 3, or slot 0 or 1, is a modulus fault. -/
def vsetq (a : XF) (e : Engine) : KRes :=
  let f := a.f.toNat
  let q := BitVec.ofNat 32 (getX e a.xs1.toNat).toNat
  if a.xd ≠ 0 ∨ bitsOf f 2 16 ≠ 0 then .exc 1 0 e
  else if f % 4 < 2 ∨ q.toNat < 3 ∨ q.toNat % 2 = 0 then .exc 4 0 e
  else retire (if f % 4 = 2 then { e with q2 := q } else { e with q3 := q })

/-- VSETGF: HUB_GF_CFG from the low 32 bits; a degree outside 8–16 is a field fault. -/
def vsetgf (a : XF) (e : Engine) : KRes :=
  let v := getX e a.xs1.toNat
  let m := v.toNat % 32
  if a.xd ≠ 0 ∨ a.f ≠ 0 then .exc 1 0 e
  else if m < 8 ∨ 16 < m then .exc 5 0 e
  else retire { e with gfM := m, gfPoly := BitVec.ofNat 16 (v.toNat / 65536) }

end Sys2Proof.Machine
end

