-- ==== Sys2Proof/Machine/Flags.lean ====
section
/-! DEFINITION. The sequencers' flags and the results that set them (13 R289, R293–R295, Tables 13-5, 13-6). -/
namespace Sys2Proof.Machine
open Sys2Proof

/-- A 32-bit result with the flags it sets: C and V where the row of Table 13-5 gives them. -/
structure AluOut where
  val : Word
  c   : Option Bool := none
  v   : Option Bool := none
deriving DecidableEq, Repr

/-- F after a result: C and V where set, Z and N from the result, DZ and MS kept (R289). -/
def putFlags (f : BitVec 6) (o : AluOut) : BitVec 6 :=
  let c := o.c.getD (f.getLsbD 0)
  let v := o.v.getD (f.getLsbD 3)
  BitVec.ofNat 6 (b2n c + 2 * b2n (o.val == 0) + 4 * b2n (o.val.getLsbD 31) + 8 * b2n v
    + 16 * b2n (f.getLsbD 4) + 32 * b2n (f.getLsbD 5))

/-- Signed overflow of an exact value. -/
def ovf32 (i : Int) : Bool := decide (i < -(2 ^ 31)) || decide (2 ^ 31 - 1 < i)

/-- Addition with a carry in. -/
def addC (a b : Word) (cin : Bool) : AluOut :=
  let n := a.toNat + b.toNat + b2n cin
  ⟨BitVec.ofNat 32 n, some (decide (2 ^ 32 ≤ n)), some (ovf32 (a.toInt + b.toInt + b2n cin))⟩

/-- Subtraction with a borrow in; C is 1 when there is no borrow. -/
def subB (a b : Word) (borrow : Bool) : AluOut :=
  ⟨a - b - BitVec.ofNat 32 (b2n borrow), some (decide (b.toNat + b2n borrow ≤ a.toNat)),
   some (ovf32 (a.toInt - b.toInt - b2n borrow))⟩

/-- A result that sets Z and N alone. -/
def plain (v : Word) : AluOut := ⟨v, none, none⟩

/-- SHL by 0–63: C is the last bit out. -/
def shlF (a : Word) (n : Nat) : AluOut :=
  ⟨a <<< n, if n = 0 then none else some (decide (n ≤ 32) && a.getLsbD (32 - n)), none⟩

/-- SHR by 0–63. -/
def shrF (a : Word) (n : Nat) : AluOut :=
  ⟨a >>> n, if n = 0 then none else some (decide (n ≤ 32) && a.getLsbD (n - 1)), none⟩

/-- SAR by 0–63: C is the sign at any count of 32 or more. -/
def sarF (a : Word) (n : Nat) : AluOut :=
  ⟨a.sshiftRight n,
   if n = 0 then none else some (if 32 ≤ n then a.getLsbD 31 else a.getLsbD (n - 1)), none⟩

/-- ROL by 0–31: C is the bit rotated into bit 0. -/
def rolF (a : Word) (n : Nat) : AluOut :=
  let r := a.rotateLeft n
  ⟨r, if n = 0 then none else some (r.getLsbD 0), none⟩

/-- MUL: the low half; C and V say whether the unsigned and the signed product exceed 32 bits. -/
def mulF (a b : Word) : AluOut :=
  ⟨a * b, some (decide (2 ^ 32 ≤ a.toNat * b.toNat)), some (ovf32 (a.toInt * b.toInt))⟩

/-- NEG. -/
def negF (a : Word) : AluOut := subB 0 a false

/-- ABS: V at the most negative value. -/
def absF (a : Word) : AluOut :=
  ⟨if a.getLsbD 31 then 0 - a else a, none, some (a == 0x80000000)⟩

/-- Division: quotient and remainder (R291, Table 13-6). -/
def divF (signed : Bool) (a b : Word) : AluOut × Word :=
  if b = 0 then (⟨0xFFFFFFFF, none, some false⟩, a)
  else if signed then
    (⟨a.sdiv b, none, some (a == 0x80000000 && b == 0xFFFFFFFF)⟩, a.srem b)
  else (⟨a / b, none, some false⟩, a % b)

/-- Leading zeros of 32 bits. -/
def clz32 (a : Word) : Nat :=
  (List.range 32).foldl (fun r i => if a.getLsbD i then 31 - i else r) 32

/-- Ones among 32 bits. -/
def popc32 (a : Word) : Nat := (List.range 32).foldl (fun r i => r + b2n (a.getLsbD i)) 0

/-- The bytes of a word in the other order. -/
def bswap32 (a : Word) : Word := BitVec.ofNat 32 (ofBe (leBytes 4 a.toNat))

/-- A Bcc condition (R293). -/
def condHolds (f : BitVec 6) (cond : Nat) : Bool :=
  let c := f.getLsbD 0
  let z := f.getLsbD 1
  let n := f.getLsbD 2
  let v := f.getLsbD 3
  match cond with
  | 0 => z
  | 1 => !z
  | 2 => c
  | 3 => !c
  | 4 => n
  | 5 => !n
  | 6 => v
  | 7 => !v
  | 8 => c && !z
  | 9 => !c || z
  | 10 => n == v
  | 11 => n != v
  | 12 => !z && n == v
  | 13 => z || n != v
  | 14 => true
  | _ => f.getLsbD 4

end Sys2Proof.Machine
end

