-- ==== Sys2Proof/Machine/SeqAlu.lean ====
section
/-! DEFINITION. The sequencer instructions that touch only their own core, and the repeat prefixes over them
(13 R290–R299). -/
namespace Sys2Proof.Machine
open Sys2Proof

/-- A one-word instruction that a repeat prefix may take as its target (R297). -/
inductive Tgt where
  | alu (f : Nat) (dd ds : Nat)
  | quick (k : Nat) (dd v : Nat)
  | mem (o m an dd : Nat)
  | mac (o mx ds1 ds2 : Nat)
  | acc (o mx dd : Nat)
  | unary (o dd : Nat)
  | amov (an ds : Nat)
  | dmova (an dd : Nat)
  | aaddq (an : Nat) (v : BitVec 6)
deriving DecidableEq, Repr

/-- What a sequencer instruction does: it completes, traps with a cause and the saved PC of the core
given, or reaches the I/O window, which the block's own state alone cannot answer. -/
inductive SRes where
  | ok (c : Core)
  | trap (cause : Nat) (c : Core)
  | io (c : Core)
deriving DecidableEq, Repr

/-- Data register. -/
def getD (c : Core) (i : Nat) : Word := Tbl.get 0 c.d i
/-- Write a data register. -/
def setD (c : Core) (i : Nat) (v : Word) : Core := { c with d := Tbl.set 0 c.d (i % 16) v }
/-- Address register. -/
def getA (c : Core) (i : Nat) : BitVec 24 := Tbl.get 0 c.a i
/-- Write an address register. -/
def setA (c : Core) (i : Nat) (v : BitVec 24) : Core := { c with a := Tbl.set 0 c.a i v }
/-- Accumulator. -/
def getM (c : Core) (i : Nat) : BitVec 72 := Tbl.get 0 c.m i
/-- Write an accumulator. -/
def setM (c : Core) (i : Nat) (v : BitVec 72) : Core := { c with m := Tbl.set 0 c.m i v }

/-- Move the PC on by `n` words. -/
def adv (n : Nat) (c : Core) : Core := { c with pc := (c.pc + n) % 0x4000 }

/-- Write a result and its flags; `trapV` says whether R296 counts a V of 1. -/
def putRes (c : Core) (dd : Nat) (o : AluOut) : Core := { setD c dd o.val with f := putFlags c.f o }

/-- Complete an instruction of `n` words whose result set V as given (R296). -/
def endV (n : Nat) (v : Option Bool) (c : Core) : SRes :=
  if c.ovEn ∧ v = some true then .trap 5 (adv n c) else .ok (adv n c)

/-- A result into Dd, the flags, and the overflow trap. -/
def putOut (n dd : Nat) (o : AluOut) (c : Core) : SRes := endV n o.v (putRes c dd o)

/-- Flags alone (CMP, TST): no overflow trap (R296). -/
def flagsOnly (n : Nat) (o : AluOut) (c : Core) : SRes := .ok (adv n { c with f := putFlags c.f o })

/-- DIVS and DIVU (R291, Table 13-6). -/
def divide (signed : Bool) (dd ds : Nat) (c : Core) : SRes :=
  if dd % 2 = 1 then .trap 1 c
  else
    let r := divF signed (getD c dd) (getD c ds)
    let t := setD (putRes c dd r.1) (dd + 1) r.2
    if getD c ds = 0 then
      let t' := { t with f := t.f ||| 0x10 }
      if c.dzEn then .trap 4 (adv 1 t') else .ok (adv 1 t')
    else endV 1 r.1.v t

/-- Register ALU by function number (Table 13-3). -/
def aluF (f dd ds : Nat) (c : Core) : SRes :=
  let x := getD c dd
  let y := getD c ds
  let cy := c.f.getLsbD 0
  match f with
  | 0 => putOut 1 dd (plain y) c
  | 1 => putOut 1 dd (addC x y false) c
  | 2 => putOut 1 dd (subB x y false) c
  | 3 => putOut 1 dd (addC x y cy) c
  | 4 => putOut 1 dd (subB x y (!cy)) c
  | 5 => putOut 1 dd (plain (x &&& y)) c
  | 6 => putOut 1 dd (plain (x ||| y)) c
  | 7 => putOut 1 dd (plain (x ^^^ y)) c
  | 8 => flagsOnly 1 (subB x y false) c
  | 9 => flagsOnly 1 (plain (x &&& y)) c
  | 10 => putOut 1 dd (shlF x (y.toNat % 64)) c
  | 11 => putOut 1 dd (shrF x (y.toNat % 64)) c
  | 12 => putOut 1 dd (sarF x (y.toNat % 64)) c
  | 13 => putOut 1 dd (mulF x y) c
  | 14 => divide true dd ds c
  | _ => divide false dd ds c

/-- The 010 and 0110 groups: MOVQ, ADDQ, SHLI, SHRI, SARI, ROLI. -/
def quickF (k dd v : Nat) (c : Core) : SRes :=
  let x := getD c dd
  let s := (BitVec.ofNat 5 v).signExtend 32
  match k with
  | 0 => putOut 1 dd (plain s) c
  | 1 => putOut 1 dd (addC x s false) c
  | 2 => putOut 1 dd (shlF x v) c
  | 3 => putOut 1 dd (shrF x v) c
  | 4 => putOut 1 dd (sarF x v) c
  | _ => putOut 1 dd (rolF x v) c

/-- Two-word immediates by function number (Table 13-4). -/
def immF (f dd : Nat) (imm : BitVec 17) (c : Core) : SRes :=
  let x := getD c dd
  let s := imm.signExtend 32
  match f with
  | 0 => putOut 2 dd (plain s) c
  | 1 => putOut 2 dd (addC x s false) c
  | 2 => putOut 2 dd (plain (x &&& s)) c
  | 3 => putOut 2 dd (plain (x ||| s)) c
  | 4 => putOut 2 dd (plain (x ^^^ s)) c
  | 5 => flagsOnly 2 (subB x s false) c
  | 6 => if imm.getLsbD 16 then .trap 1 c
    else putOut 2 dd (plain (BitVec.ofNat 32 (imm.toNat * 65536 + x.toNat % 65536))) c
  | _ => flagsOnly 2 (plain (x &&& s)) c

/-- An exact accumulator result: wrapped, MS set where it leaves the signed 72-bit range (Table 13-5). -/
def accPut (mx : Nat) (i : Int) (c : Core) : Core :=
  let out := decide (i < -(2 ^ 71)) || decide (2 ^ 71 - 1 < i)
  let t := setM c mx (BitVec.ofInt 72 i)
  { t with f := if out then t.f ||| 0x20 else t.f }

/-- MAC, MACU, MSU, MULM. -/
def macF (o mx ds1 ds2 : Nat) (c : Core) : SRes :=
  let x := getD c ds1
  let y := getD c ds2
  let a := (getM c mx).toInt
  .ok (adv 1 (match o with
    | 0 => accPut mx (a + x.toInt * y.toInt) c
    | 1 => accPut mx (a + x.toNat * y.toNat) c
    | 2 => accPut mx (a - x.toInt * y.toInt) c
    | _ => accPut mx (x.toInt * y.toInt) c))

/-- Accumulator transfers (Table 13-4). -/
def accF (o mx dd : Nat) (c : Core) : SRes :=
  let x := getD c dd
  let a := getM c mx
  match o with
  | 0 => if dd ≠ 0 then .trap 1 c else .ok (adv 1 (setM c mx 0))
  | 1 => .ok (adv 1 (setM c mx (x.signExtend 72)))
  | 2 => .ok (adv 1 (putRes c dd (plain (a.setWidth 32))))
  | 3 => .ok (adv 1 (putRes c dd (plain ((a >>> 32).setWidth 32))))
  | 4 => .ok (adv 1 (putRes c dd (plain (((a >>> 64).setWidth 8).signExtend 32))))
  | 5 =>
    let sat := ovf32 a.toInt
    let v : Word := if sat then (if a.getLsbD 71 then 0x80000000 else 0x7FFFFFFF) else a.setWidth 32
    .ok (adv 1 (putRes c dd ⟨v, none, some sat⟩))
  | 6 => .ok (adv 1 (setM c mx (a.sshiftRight (x.toNat % 128))))
  | _ => .ok (adv 1 (setM c mx ((a <<< 32) ||| x.setWidth 72)))

/-- Unary functions (Table 13-4); MTW in extension mode is a privilege trap (R306). -/
def unaryF (o dd : Nat) (c : Core) : SRes :=
  let x := getD c dd
  match o with
  | 0 => putOut 1 dd (negF x) c
  | 1 => putOut 1 dd (plain (~~~ x)) c
  | 2 => putOut 1 dd (absF x) c
  | 3 => putOut 1 dd (plain ((x.setWidth 8).signExtend 32)) c
  | 4 => putOut 1 dd (plain ((x.setWidth 16).signExtend 32)) c
  | 5 => putOut 1 dd (plain (x &&& 0xFF)) c
  | 6 => putOut 1 dd (plain (x &&& 0xFFFF)) c
  | 7 => putOut 1 dd (plain (BitVec.ofNat 32 (clz32 x))) c
  | 8 => putOut 1 dd (plain (BitVec.ofNat 32 (popc32 x))) c
  | 9 => putOut 1 dd (plain (bswap32 x)) c
  | 10 => .ok (adv 1 (setD c dd (c.f.setWidth 32)))
  | 11 => .ok (adv 1 { c with f := x.setWidth 6 })
  | 12 => .ok (adv 1 (setD c dd (c.win.setWidth 32)))
  | 13 => if c.extMode then .trap 3 c else .ok (adv 1 { c with win := x.setWidth 3 })
  | 14 => .ok (adv 1 (setD c dd (BitVec.ofNat 32 ((c.pc + 1) % 0x4000))))
  | _ => .trap 1 c

/-- The address of a memory operand and the address register after the access, for an access of `n` bytes
(Table 13-4, modes 0–3). -/
def operandAddr (m an : Nat) (disp : BitVec 14) (n : Nat) (c : Core) : BitVec 24 × BitVec 24 :=
  let x := getA c an
  let y := x + BitVec.ofNat 24 n
  let ln := (Tbl.get 0 c.l an).toNat
  match m with
  | 0 => (x, x)
  | 1 => (x, y)
  | 2 => (x, if ln ≠ 0 ∧ (Tbl.get 0 c.b an).toNat + ln ≤ y.toNat then y - BitVec.ofNat 24 ln else y)
  | _ => (x + disp.signExtend 24, x)

/-- The parts of the data address space (Table 13-1). -/
inductive Area where
  | vendor | ext | mailbox | io | nowhere
deriving DecidableEq, Repr

/-- The part an address lies in. -/
def areaOf (a : Nat) : Area :=
  if a < 0x6000 then .vendor
  else if a < 0x8000 then .ext
  else if 0x10000 ≤ a ∧ a < 0x10040 then .mailbox
  else if 0x800000 ≤ a then .io
  else .nowhere

/-- The cause an access meets, 0 where it is granted (R287, R306). -/
def accessCause (store : Bool) (n a : Nat) (c : Core) : Nat :=
  match areaOf a with
  | .nowhere => 2
  | .mailbox => if store ∨ a % n ≠ 0 then 2 else 0
  | .ext => if a % n ≠ 0 then 2 else 0
  | .vendor => if c.extMode then 3 else if a % n ≠ 0 then 2 else 0
  | .io => if c.extMode then 3 else if n ≠ 4 ∨ a % 4 ≠ 0 ∨ 4 ≤ c.win.toNat then 2 else 0

/-- Data-memory or mailbox bytes. -/
def localRead (c : Core) (a n : Nat) : Word :=
  BitVec.ofNat 32 (ofLe (if a < 0x8000 then Tbl.getList 0 c.dmem a n else slice c.mbox (a - 0x10000) n))

/-- LD, ST, LDB, STB on data memory and the mailbox; an I/O-window address is handed on. -/
def memF (o m an dd : Nat) (disp : BitVec 14) (c : Core) : SRes :=
  let n := if o < 2 then 4 else 1
  let store := o % 2 = 1
  let p := operandAddr m an disp n c
  let len := if m = 3 then 2 else 1
  match accessCause store n p.1.toNat c with
  | 0 =>
    if areaOf p.1.toNat = .io then .io c
    else
      let t := if store then
          { c with dmem := Tbl.setList 0 c.dmem p.1.toNat (leBytes n (getD c dd).toNat) }
        else setD c dd (localRead c p.1.toNat n)
      .ok (adv len (setA t an p.2))
  | k => .trap k c

/-- AMOD: Bn ← An, Ln ← Ds[15:0]. -/
def amodF (an ds : Nat) (c : Core) : SRes :=
  .ok (adv 1 { c with b := Tbl.set 0 c.b an (getA c an), l := Tbl.set 0 c.l an ((getD c ds).setWidth 16) })

/-- One core-local instruction. -/
def runTgt (t : Tgt) (c : Core) : SRes :=
  match t with
  | .alu f dd ds => aluF f dd ds c
  | .quick k dd v => quickF k dd v c
  | .mem o m an dd => memF o m an dd 0 c
  | .mac o mx a b => macF o mx a b c
  | .acc o mx dd => accF o mx dd c
  | .unary o dd => unaryF o dd c
  | .amov an ds => .ok (adv 1 (setA c an ((getD c ds).setWidth 24)))
  | .dmova an dd => .ok (adv 1 (setD c dd ((getA c an).setWidth 32)))
  | .aaddq an v => .ok (adv 1 (setA c an (getA c an + v.signExtend 24)))

/-- The target a program word names, none where R297 does not allow it (Table 13-2). -/
def decodeTgt (w : BitVec 14) : Option Tgt :=
  let n := w.toNat
  let dd := n % 16
  if bitsOf n 12 2 = 0 then
    if 14 ≤ bitsOf n 8 4 then none else some (.alu (bitsOf n 8 4) (bitsOf n 4 4) dd)
  else if bitsOf n 11 3 = 2 then some (.quick (bitsOf n 9 2) (bitsOf n 5 4) (n % 32))
  else if bitsOf n 10 4 = 6 then some (.quick (4 + bitsOf n 9 1) (bitsOf n 5 4) (n % 32))
  else if bitsOf n 11 3 = 4 then
    if bitsOf n 7 2 = 3 then none else some (.mem (bitsOf n 9 2) (bitsOf n 7 2) (bitsOf n 4 3) dd)
  else if bitsOf n 10 4 = 13 then some (.mac (bitsOf n 8 2) (bitsOf n 6 2) (bitsOf n 3 3) (n % 8))
  else if bitsOf n 9 5 = 28 then
    if bitsOf n 6 3 = 0 ∧ dd ≠ 0 then none else some (.acc (bitsOf n 6 3) (bitsOf n 4 2) dd)
  else if bitsOf n 8 6 = 58 then
    if bitsOf n 4 4 = 13 ∨ bitsOf n 4 4 = 15 then none else some (.unary (bitsOf n 4 4) dd)
  else if bitsOf n 7 7 = 118 then some (.amov (bitsOf n 4 3) dd)
  else if bitsOf n 7 7 = 119 then some (.dmova (bitsOf n 4 3) dd)
  else if bitsOf n 9 5 = 30 then some (.aaddq (bitsOf n 6 3) (BitVec.ofNat 6 n))
  else none

/-- Does a target name A7 (R297)? -/
def namesA7 : Tgt → Bool
  | .mem _ _ an _ => an == 7
  | .amov an _ => an == 7
  | .dmova an _ => an == 7
  | .aaddq an _ => an == 7
  | _ => false

/-- Run a target `n` times with the PC held; a trap or an I/O address in an iteration ends the run. The
number of iterations not completed comes with the result. -/
def repeatTgt (t : Tgt) : Nat → Core → SRes × Nat
  | 0, c => (.ok c, 0)
  | n + 1, c =>
    match runTgt t c with
    | .ok c' => repeatTgt t n { c' with pc := c.pc }
    | .trap k c' => (.trap k { c' with pc := c.pc }, n + 1)
    | .io _ => (.trap 1 c, n + 1)

/-- Does a target access the I/O window as the registers stand (R297)? -/
def ioTgt (c : Core) : Tgt → Bool
  | .mem o m an _ => areaOf (operandAddr m an 0 (if o < 2 then 4 else 1) c).1.toNat == .io
  | _ => false

/-- The target of the repeat prefix at the PC (R297): none where the prefix takes the illegal-instruction trap. -/
def prefixTgt (c : Core) : Option Tgt :=
  (decodeTgt (Tbl.get 0 c.prog ((c.pc + 1) % 0x4000))).bind (fun t => if ioTgt c t then none else some t)

/-- A trap of a repeated target with `left` iterations not completed: the saved PC is the prefix (R298, R299). -/
def repTrap (k pc left : Nat) (c : Core) : SRes := .trap k { c with pc := pc, trap := { c.trap with repLeft := left } }

/-- REP: the target n + 1 times (R298). -/
def repF (n : Nat) (c : Core) : SRes :=
  match prefixTgt c with
  | none => .trap 1 c
  | some t =>
    match repeatTgt t (n + 1) (adv 1 c) with
    | (.ok c', _) => .ok (adv 1 c')
    | (.trap k c', left) => repTrap k c.pc left c'
    | (.io c', _) => .io c'

/-- REPI: one of A7 iterations (R297, R299); A7 outside 1–65,536 is the illegal-operand case of the access trap. -/
def repiF (c : Core) : SRes :=
  let n := (getA c 7).toNat
  match prefixTgt c with
  | none => .trap 1 c
  | some t =>
    if namesA7 t then .trap 1 c
    else if n = 0 ∨ 65536 < n then .trap 2 c
    else match runTgt t (adv 1 c) with
      | .ok c' =>
        let d := setA { c' with pc := c.pc } 7 (BitVec.ofNat 24 (n - 1))
        .ok (if n = 1 then adv 2 d else d)
      | .trap k c' => repTrap k c.pc n c'
      | .io _ => .trap 1 c

end Sys2Proof.Machine
end

