-- ==== Sys2Proof/Machine/Kernel.lean ====
section
/-! DEFINITION. Kernel instructions on an engine: their checks, completion and exceptions, and the micro-routine
events (chapters 06 and 07). -/
namespace Sys2Proof.Machine
open Sys2Proof

/-- Does a kernel run on an engine, ready for its next instruction? -/
def kernRuns (e : Engine) : Bool :=
  e.cmd.isSome && !e.halted && e.ended.isNone && e.stall.isNone && !e.inReset

/-- A fault of the hash FIFO or the hidden scratch, class CONTAINED (R178): before the commit point the routine re-executes
once; a second such fault in the same instruction, or one after the commit point, ends the command. The hash FIFO is read
before that point alone (Table 7-3); on which side of it the scratch fails is open. -/
def scratchFault (n chk : Nat) (dec : Bool) (inst : Nat) (id : Option Nat) (s : State) : State :=
  let f := fltU s .hub n
  let late := chk = 4 ∧ (Config.freeByte s.free).getLsbD 0
  if injArmed s .hub n chk ∧ ¬ (dec ∧ f.iMode = 0) ∧ (eng s n).uc.refaulted = false ∧ ¬ late then
    let r : FltRec := { blk := .hub, set := n, checker := chk, cls := 1, inst := inst, real := false, inj := true }
    let s := markInj id (record r (injUse .hub n { s with free := s.free + 1 }))
    let s := cadEvent .hub n 5 1 true inst (updEng n (fun e => { e with
      mc := {}
      uc := { e.uc with refaulted := true, cntRestarts := min 0xFFFF (e.uc.cntRestarts + 1) } }) s)
    access .hub n chk 1 dec 0 inst id s
  else access .hub n chk 1 dec 0 inst id s

/-- The accesses of one instruction that the engine's checkers see (R455, Table 22-2), each a checker, its
class and whether it decodes; they stop when one of them has ended the command. -/
def kAccess (n inst : Nat) (id : Option Nat) : List (Nat × Nat × Bool) → State → State
  | [], s => s
  | (chk, cls, dec) :: cs, s =>
    if (eng s n).cmd ≠ id then s
    else kAccess n inst id cs
      (if chk = 4 ∨ chk = 6 then scratchFault n chk dec inst id s else access .hub n chk cls dec 0 inst id s)

/-- The accesses of a scalar instruction: the kernel-memory fetch. -/
def chkFetch : List (Nat × Nat × Bool) := [(3, 2, true)]
/-- The accesses of a vector instruction: the fetch and the share file. -/
def chkVec : List (Nat × Nat × Bool) := chkFetch ++ [(5, 1, true)]
/-- The accesses of a long instruction: microwords and hidden scratch besides. -/
def chkLong : List (Nat × Nat × Bool) := chkVec ++ [(0, 2, true), (4, 1, true)]
/-- Those of an instruction that runs routine 12 or 13 for an operand in another domain (R121, R182). -/
def chkConv : List (Nat × Nat × Bool) := [(0, 2, true), (4, 1, true)]
/-- Those of a long instruction that reads the hash FIFO. -/
def chkHash : List (Nat × Nat × Bool) := chkLong ++ [(6, 1, false)]

/-- The core whose service call SVC_KERNEL runs on engine `n` (R307). -/
def svcCore (s : State) (n : Nat) : Option Nat :=
  match ((eng s n).cmd.bind (cmdU s)).bind (·.core) with
  | some k => if (coreU s k).svc.isSome ∧ (coreU s k).hub = some n then some k else none
  | none => none

/-- SVC_KERNEL returns to core `k` (Table 13-9): its status in D0, the bytes delivered in D1. The engine stays the command's
and is as at a kernel's entry (R147); the command's windows stay, for its next kernel (R149, R150). -/
def svcReturn (k n st len : Nat) (s : State) : State :=
  let s := updEng n (fun e => { engBoundary s.hub.kmem e with
    cmd := e.cmd, busy := e.busy, gang := e.gang, key := e.key, lend := e.lend, offline := e.offline, param := e.param, cache := e.cache
    work := e.work, workMasks := e.workMasks, lines := e.lines, workSize := e.workSize, recovery := e.recovery, kimg := e.kimg }) s
  updCore k (fun x => { setD (setD x 0 (BitVec.ofNat 32 st)) 1 (BitVec.ofNat 32 len) with svc := none }) s

/-- The end of the kernel once its output has drained (R167, R30, R52): the command's result. -/
def endKernel (n : Nat) (s : State) : State :=
  let e := eng s n
  match e.ended, e.cmd with
  | some code, some id =>
    if e.fifo = [] then
      let st := match code with | 0 => stsOk | 1 => stsVerifyFail | 2 => stsNotEqual | _ => stsBadParameter
      let r : Result := {
        status := st, outLen := if code = 0 then e.outCount else 0
        truncated := code == 0 && decide (e.maxOut < e.outCount) }
      match svcCore s n with
      | some k => svcReturn k n st (min e.outCount e.maxOut) s
      | none => finish id r s
    else s
  | _, _ => s

/-- The mask generator's blocks after an instruction (R125): at 983,040 it asks for a seed, at 2^20 without one it halts. -/
def mgSettle (n : Nat) (s : State) : State :=
  if (eng s n).mg.blocks < 983040 then s
  else
    let s := if (eng s n).mg.reseedReq then s else requestSeed false n s
    if (eng s n).mg.blocks < 2 ^ 20 ∨ (eng s n).mg.halted then s else mgHalt n s

/-- The outcome of an instruction on engine `n`: it retires, ends its command with a kernel exception (R168), a
memory error (R325) or a guard fault (R175), or waits. -/
def kApply (n : Nat) (long : Option Nat) (inst : Nat) (id : Option Nat) (owner : Bool) (r : KRes) (s : State) : State :=
  match r with
  | .ok e =>
    let s := cadEvent .hub n 3 1 (!owner) inst s
    let s := match long with
      | some _ => cadEvent .hub n 4 1 (!owner) inst s
      | none => s
    let uc := { e.uc with refaulted := false, issue := false, running := false, restarts := if e.uc.issue then e.uc.restarts else 0 }
    let e := match long with
      | some k => { e with uc := { uc with routine := k } }
      | none => if e.uc.issue then { e with uc := uc } else e
    mgSettle n (match xofJobs n e.order (eng s n).xof e.xof with
      | [] => setEng n e s
      | js => hashIssue (n / 4) js (setEng n e s))
  | .wait e => mgSettle n (setEng n e s)
  | .exc c w e => match svcCore s n with
    | some k =>
      svcReturn k n stsFault (min e.outCount e.maxOut)
        (record { blk := .hub, set := n, checker := 9, cls := 1, inst := inst } (setEng n (excAt e c w) s))
    | none => faultAt { blk := .hub, set := n, checker := 9, cls := 1, inst := inst } id (setEng n (excAt e c w) s)
  | .poison w l e =>
    let a := (poisonedAt s n e w l).getD 0 * 64
    faultAt { blk := .mem, checker := 0, cls := 1, unit := pseudoChannel a, inst := inst } id
      (memError 4 (regionOf a) a inst n false (setEng n e s))
  | .guard e =>
    faultAt { blk := .hub, set := n, checker := 1, cls := 2, inst := inst } id
      (setEng n { e with uc := { e.uc with guard := true, running := false } } s)

/-- The lines an instruction wrote for the first time hold no poison any more (R314). -/
def unpoison (n : Nat) (before : Tbl Bool) (s : State) : State :=
  let fresh := (eng s n).lines.filter (fun p => !Tbl.get false before p.1)
  if s.mem.poison = [] ∨ fresh = [] then s
  else { s with mem := { s.mem with poison := s.mem.poison.filter (fun l => !fresh.any (fun p => (winLines s n (eng s n) 1 p.1).contains l)) } }

/-- Open bytes for one instruction: what a context with no known output gives a sampler at first. -/
def openSpan : Nat := 8192

/-- The domain in which an element-wise function takes its operands and leaves its result: Boolean for bit operations and
shifts, the mode's for the rest (DEDUCED, log 119). -/
def operandDom (e : Engine) (a : VF) (bits : Bool) : Dom :=
  if bits then .boolean else modeDom a.mode.toNat a.w.toNat (8 <<< e.sew)

/-- Is a vector operand held in another domain, at an order that has shares (R121)? -/
def otherDom (e : Engine) (a : VF) (bits : Bool) : Bool :=
  let d := operandDom e a bits
  decide (0 < e.order) && ((getV e a.vs1.toNat).dom != d || (a.form == .v && (getV e a.f2.toNat).dom != d))

/-- Does an instruction convert an operand before use (R121)? The long instructions name their domain in their routines;
moves and permutations act share by share. -/
def converts (i : Instr) (e : Engine) : Bool :=
  match i with
  | .vadd _ a | .vsub _ a | .vmul _ a | .vmulh _ a | .vmac _ a | .vneg _ a | .vsqr _ a | .vclmul _ a | .vclmulh _ a
  | .vsadd _ a | .vssub _ a | .vsaddu _ a | .vssubu _ a | .vmin _ a | .vmax _ a | .vwmul _ _ a | .vwmacc _ _ a | .vwadd _ _ a
  | .vdot4 _ _ a | .vdot2 _ _ a | .vredsum _ a => otherDom e a false
  | .vand _ a | .vor _ a | .vxor _ a | .vsll _ a | .vsrl _ a | .vsra _ a | .vcmp _ _ a => otherDom e a true
  | _ => false

/-- The kernel word at the PC (R119). -/
def kWord (e : Engine) : Nat := ofLe ((List.range 4).map (fun i => winByte e 3 (4 * e.pc + i)))

/-- What the fetch at the PC says of an instruction (R153): kernel memory holds it, holds another, or holds a reserved
encoding. The spec does not give the vendor kernels' words: there the row is the instruction (log 119). -/
inductive Fetch where
  | this | other | reserved
deriving DecidableEq, Repr

/-- The fetch of engine `n`. -/
def kFetch (n : Nat) (e : Engine) (i : Instr) : Fetch :=
  if e.owner then
    match kDecode (Fin.ofNat 64 n) (kWord e) with
    | none => .reserved
    | some j => if j = i then .this else .other
  else .this

/-- May an instruction go on while an abandoned issue is open (R179)? Only the one that was abandoned; routines 12 and 13 run
for other instructions too (R182). -/
def sameIssue (long : Option Nat) (u : Uc) : Bool :=
  !u.issue || long == some u.routine || (long.isNone && (u.routine == 12 || u.routine == 13))

/-- One kernel instruction `i` on engine `n`: its fetch, its checkers' accesses, then its effect; `long` is its routine and
operands. `f` takes the open bytes and which lines of its windows are poisoned. A PC past the end of the kernel's region is a region fault
(R167). -/
def kStep (i : Instr) (n : Nat) (long : Option (Nat × LF)) (chk : List (Nat × Nat × Bool))
    (f : (Nat → Byte) → (Nat → Nat → Bool) → Engine → KRes) (s : State) : State :=
  let e := eng s n
  let fe := if inRegion e e.pc then kFetch n e i else .reserved
  if kernRuns e ∧ sameIssue (long.map (·.1)) e.uc ∧ fe ≠ .other ∧ dramReady i n s then
    let id := e.cmd
    let s := kAccess n e.inst id (if converts i e then chk ++ chkConv else chk) s
    let s := if (eng s n).cmd = id then dramAccess i n s else s
    if (eng s n).cmd = id ∧ ¬ (eng s n).inReset then
      let e := eng s n
      let base := s.free
      let fr := fun i => Config.freeByte (base + i)
      let g := f fr (fun w l => (poisonedAt s n e w l).isSome)
      unpoison n e.lines (kApply n (long.map (·.1)) e.inst id e.owner
        (if inRegion e e.pc = false then .exc 11 0 e
          else if fe = .reserved then .exc 1 0 e
          else match long with
            | some (r, a) => runLong s.hub.patch r a fr g e
            | none => g e)
        { s with free := s.free + openSpan })
    else s
  else s


/-- VADD (R155, Table 6-5). -/
def execVadd (e : Fin 64) (a : VF) (s : State)  : Res :=
  .next (kStep (.vadd e a) e none chkVec (fun _ _ e => vop .add a e) s)

/-- VSUB (R155, Table 6-5). -/
def execVsub (e : Fin 64) (a : VF) (s : State)  : Res :=
  .next (kStep (.vsub e a) e none chkVec (fun _ _ e => vop .sub a e) s)

/-- VMUL (R155, Table 6-5). -/
def execVmul (e : Fin 64) (a : VF) (s : State)  : Res :=
  .next (kStep (.vmul e a) e none chkVec (fun _ _ e => vop .mul a e) s)

/-- VMULH (R155, Table 6-5). -/
def execVmulh (e : Fin 64) (a : VF) (s : State)  : Res :=
  .next (kStep (.vmulh e a) e none chkVec (fun _ _ e => vop .mulh a e) s)

/-- VMAC (R155, Table 6-5). -/
def execVmac (e : Fin 64) (a : VF) (s : State)  : Res :=
  .next (kStep (.vmac e a) e none chkVec (fun _ _ e => vop .mac a e) s)

/-- VNEG (R155, Table 6-5). -/
def execVneg (e : Fin 64) (a : VF) (s : State)  : Res :=
  .next (kStep (.vneg e a) e none chkVec (fun _ _ e => vop .neg a e) s)

/-- VSQR (R155, Table 6-5). -/
def execVsqr (e : Fin 64) (a : VF) (s : State)  : Res :=
  .next (kStep (.vsqr e a) e none chkVec (fun _ _ e => vop .sqr a e) s)

/-- VCLMUL (R155, Table 6-5). -/
def execVclmul (e : Fin 64) (a : VF) (s : State)  : Res :=
  .next (kStep (.vclmul e a) e none chkVec (fun _ _ e => vop .clmul a e) s)

/-- VCLMULH (R155, Table 6-5). -/
def execVclmulh (e : Fin 64) (a : VF) (s : State)  : Res :=
  .next (kStep (.vclmulh e a) e none chkVec (fun _ _ e => vop .clmulh a e) s)

/-- VAND (R155, Table 6-5). -/
def execVand (e : Fin 64) (a : VF) (s : State)  : Res :=
  .next (kStep (.vand e a) e none chkVec (fun _ _ e => vop .and a e) s)

/-- VOR (R155, Table 6-5). -/
def execVor (e : Fin 64) (a : VF) (s : State)  : Res :=
  .next (kStep (.vor e a) e none chkVec (fun _ _ e => vop .or a e) s)

/-- VXOR (R155, Table 6-5). -/
def execVxor (e : Fin 64) (a : VF) (s : State)  : Res :=
  .next (kStep (.vxor e a) e none chkVec (fun _ _ e => vop .xor a e) s)

/-- VSLL (R159, Table 6-5). -/
def execVsll (e : Fin 64) (a : VF) (s : State)  : Res :=
  .next (kStep (.vsll e a) e none chkVec (fun _ _ e => vop .sll a e) s)

/-- VSRL (R159, Table 6-5). -/
def execVsrl (e : Fin 64) (a : VF) (s : State)  : Res :=
  .next (kStep (.vsrl e a) e none chkVec (fun _ _ e => vop .srl a e) s)

/-- VSRA (R159, Table 6-5). -/
def execVsra (e : Fin 64) (a : VF) (s : State)  : Res :=
  .next (kStep (.vsra e a) e none chkVec (fun _ _ e => vop .sra a e) s)

/-- VSADD (R159, Table 6-5). -/
def execVsadd (e : Fin 64) (a : VF) (s : State)  : Res :=
  .next (kStep (.vsadd e a) e none chkVec (fun _ _ e => vop .sadd a e) s)

/-- VSSUB (R159, Table 6-5). -/
def execVssub (e : Fin 64) (a : VF) (s : State)  : Res :=
  .next (kStep (.vssub e a) e none chkVec (fun _ _ e => vop .ssub a e) s)

/-- VSADDU (R159, Table 6-5). -/
def execVsaddu (e : Fin 64) (a : VF) (s : State)  : Res :=
  .next (kStep (.vsaddu e a) e none chkVec (fun _ _ e => vop .saddu a e) s)

/-- VSSUBU (R159, Table 6-5). -/
def execVssubu (e : Fin 64) (a : VF) (s : State)  : Res :=
  .next (kStep (.vssubu e a) e none chkVec (fun _ _ e => vop .ssubu a e) s)

/-- VMIN (R155, Table 6-5). -/
def execVmin (e : Fin 64) (a : VF) (s : State)  : Res :=
  .next (kStep (.vmin e a) e none chkVec (fun _ _ e => vop .min a e) s)

/-- VMAX (R155, Table 6-5). -/
def execVmax (e : Fin 64) (a : VF) (s : State)  : Res :=
  .next (kStep (.vmax e a) e none chkVec (fun _ _ e => vop .max a e) s)

/-- VWMUL, signed or unsigned (R158, Table 6-6). -/
def execVwmul (e : Fin 64) (u : Bool) (a : VF) (s : State)  : Res :=
  .next (kStep (.vwmul e u a) e none chkVec (fun _ _ e => vwop .mul u a e) s)

/-- VWMACC, signed or unsigned (R158, Table 6-6). -/
def execVwmacc (e : Fin 64) (u : Bool) (a : VF) (s : State)  : Res :=
  .next (kStep (.vwmacc e u a) e none chkVec (fun _ _ e => vwop .macc u a e) s)

/-- VWADD, signed or unsigned (R158, Table 6-6). -/
def execVwadd (e : Fin 64) (u : Bool) (a : VF) (s : State)  : Res :=
  .next (kStep (.vwadd e u a) e none chkVec (fun _ _ e => vwop .add u a e) s)

/-- VDOT4, signed or unsigned (R158, Table 6-6). -/
def execVdot4 (e : Fin 64) (u : Bool) (a : VF) (s : State)  : Res :=
  .next (kStep (.vdot4 e u a) e none chkVec (fun _ _ e => vwop .dot4 u a e) s)

/-- VDOT2, signed or unsigned (R158, Table 6-6). -/
def execVdot2 (e : Fin 64) (u : Bool) (a : VF) (s : State)  : Res :=
  .next (kStep (.vdot2 e u a) e none chkVec (fun _ _ e => vwop .dot2 u a e) s)

/-- VCMPEQ to VCMPGT (Table 6-7). -/
def execVcmp (e : Fin 64) (f : Fin 8) (a : VF) (s : State)  : Res :=
  .next (kStep (.vcmp e f a) e none chkVec (fun _ _ e => vcmp f a e) s)

/-- KAND, KOR, KXOR, KNOT (Table 6-7). -/
def execKLogic (e : Fin 64) (f : Fin 4) (a : VF) (s : State)  : Res :=
  .next (kStep (.kLogic e f a) e none chkVec (fun _ _ e => kmask f a e) s)

/-- KMOV (Table 6-7). -/
def execKmov (e : Fin 64) (a : VF) (s : State)  : Res :=
  .next (kStep (.kmov e a) e none chkVec (fun _ _ e => kmask 4 a e) s)

/-- VTEST (R148, Table 6-7). -/
def execVtest (e : Fin 64) (a : VF) (s : State)  : Res :=
  .next (kStep (.vtest e a) e none chkVec (fun _ _ e => vtest a e) s)

/-- VSLIDEUP (Table 6-7). -/
def execVslideup (e : Fin 64) (a : VF) (s : State)  : Res :=
  .next (kStep (.vslideup e a) e none chkVec (fun _ _ e => vperm .slideUp a e) s)

/-- VSLIDEDN (Table 6-7). -/
def execVslidedn (e : Fin 64) (a : VF) (s : State)  : Res :=
  .next (kStep (.vslidedn e a) e none chkVec (fun _ _ e => vperm .slideDn a e) s)

/-- VRGATHER (Table 6-7). -/
def execVrgather (e : Fin 64) (a : VF) (s : State)  : Res :=
  .next (kStep (.vrgather e a) e none chkVec (fun _ _ e => vperm .rgather a e) s)

/-- VBCAST (Table 6-7). -/
def execVbcast (e : Fin 64) (a : VF) (s : State)  : Res :=
  .next (kStep (.vbcast e a) e none chkVec (fun _ _ e => vperm .bcast a e) s)

/-- VMERGE (Table 6-7). -/
def execVmerge (e : Fin 64) (a : VF) (s : State)  : Res :=
  .next (kStep (.vmerge e a) e none chkVec (fun _ _ e => vperm .merge a e) s)

/-- VREDSUM (Table 6-7). -/
def execVredsum (e : Fin 64) (a : VF) (s : State)  : Res :=
  .next (kStep (.vredsum e a) e none chkVec (fun _ _ e => vperm .redsum a e) s)

/-- VMV (Table 6-7). -/
def execVmv (e : Fin 64) (a : VF) (s : State)  : Res :=
  .next (kStep (.vmv e a) e none chkVec (fun _ _ e => vperm .mv a e) s)

/-- VLD (R160). -/
def execVld (e : Fin 64) (a : MF) (s : State)  : Res :=
  .next (kStep (.vld e a) e none chkVec (fun _ bad e => vmem bad false a e) s)

/-- VST (R160). -/
def execVst (e : Fin 64) (a : MF) (s : State)  : Res :=
  .next (kStep (.vst e a) e none chkVec (fun _ bad e => vmem bad true a e) s)

/-- VGATHER (R161). -/
def execVgather (e : Fin 64) (a : GF) (s : State)  : Res :=
  .next (kStep (.vgather e a) e none chkVec (fun _ bad e => vgs bad false a e) s)

/-- VSCATTER (R161). -/
def execVscatter (e : Fin 64) (a : GF) (s : State)  : Res :=
  .next (kStep (.vscatter e a) e none chkVec (fun _ bad e => vgs bad true a e) s)

/-- VNTT, routine 0 (R165, Table 6-9). -/
def execVntt (e : Fin 64) (a : LF) (s : State)  : Res :=
  .next (kStep (.vntt e a) e (some (0, a)) chkLong (fun _ _ e => vntt false a e) s)

/-- VINTT, routine 1 (R165, Table 6-9). -/
def execVintt (e : Fin 64) (a : LF) (s : State)  : Res :=
  .next (kStep (.vintt e a) e (some (1, a)) chkLong (fun _ _ e => vntt true a e) s)

/-- VBMUL, routine 2 (R165, Table 6-9). -/
def execVbmul (e : Fin 64) (a : LF) (s : State)  : Res :=
  .next (kStep (.vbmul e a) e (some (2, a)) chkLong (fun _ _ e => vbmul a e) s)

/-- VSAMPLEU, routine 3 (R165, Table 6-9). -/
def execVsampleU (e : Fin 64) (a : LF) (s : State)  : Res :=
  .next (kStep (.vsampleU e a) e (some (3, a)) chkHash (fun fr _ e => vsampleU fr a e) s)

/-- VSAMPLECBD, routine 4 (R165, Table 6-9). -/
def execVsampleCbd (e : Fin 64) (a : LF) (s : State)  : Res :=
  .next (kStep (.vsampleCbd e a) e (some (4, a)) chkHash (fun fr _ e => vsampleCbd fr a e) s)

/-- VSAMPLEETA, routine 5 (R165, Table 6-9). -/
def execVsampleEta (e : Fin 64) (a : LF) (s : State)  : Res :=
  .next (kStep (.vsampleEta e a) e (some (5, a)) chkHash (fun fr _ e => vsampleEta fr a e) s)

/-- VSAMPLEBALL, routine 6 (R165, Table 6-9). -/
def execVsampleBall (e : Fin 64) (a : LF) (s : State)  : Res :=
  .next (kStep (.vsampleBall e a) e (some (6, a)) chkHash (fun fr _ e => vsampleBall fr a e) s)

/-- VDECOMP, routine 7 (R165, Table 6-9). -/
def execVdecomp (e : Fin 64) (a : LF) (s : State)  : Res :=
  .next (kStep (.vdecomp e a) e (some (7, a)) chkLong (fun _ _ e => vdecomp a e) s)

/-- VCOMPRESS, routine 8 (R165, Table 6-9). -/
def execVcompress (e : Fin 64) (a : LF) (s : State)  : Res :=
  .next (kStep (.vcompress e a) e (some (8, a)) chkLong (fun _ _ e => vcompress false a e) s)

/-- VDECOMPRESS, routine 9 (R165, Table 6-9). -/
def execVdecompress (e : Fin 64) (a : LF) (s : State)  : Res :=
  .next (kStep (.vdecompress e a) e (some (9, a)) chkLong (fun _ _ e => vcompress true a e) s)

/-- VPACK, routine 10 (R165, Table 6-9). -/
def execVpack (e : Fin 64) (a : LF) (s : State)  : Res :=
  .next (kStep (.vpack e a) e (some (10, a)) chkLong (fun _ _ e => vpack false a e) s)

/-- VUNPACK, routine 11 (R165, Table 6-9). -/
def execVunpack (e : Fin 64) (a : LF) (s : State)  : Res :=
  .next (kStep (.vunpack e a) e (some (11, a)) chkLong (fun _ _ e => vpack true a e) s)

/-- VA2B, routine 12 (R165, Table 6-9). -/
def execVa2b (e : Fin 64) (a : LF) (s : State)  : Res :=
  .next (kStep (.va2b e a) e (some (12, a)) chkLong (fun _ _ e => vconv true a e) s)

/-- VB2A, routine 13 (R165, Table 6-9). -/
def execVb2a (e : Fin 64) (a : LF) (s : State)  : Res :=
  .next (kStep (.vb2a e a) e (some (13, a)) chkLong (fun _ _ e => vconv false a e) s)

/-- VAFFT, routine 14 (R165, Table 6-9). -/
def execVafft (e : Fin 64) (a : LF) (s : State)  : Res :=
  .next (kStep (.vafft e a) e (some (14, a)) chkLong (fun _ _ e => vafft false a e) s)

/-- VIAFFT, routine 15 (R165, Table 6-9). -/
def execViafft (e : Fin 64) (a : LF) (s : State)  : Res :=
  .next (kStep (.viafft e a) e (some (15, a)) chkLong (fun _ _ e => vafft true a e) s)

/-- VGOPPA, routine 16 (R165, Table 6-9). -/
def execVgoppa (e : Fin 64) (a : LF) (s : State)  : Res :=
  .next (kStep (.vgoppa e a) e (some (16, a)) chkLong (fun _ _ e => vgoppa a e) s)

/-- VXOFINIT, routine 17 (R165, Table 6-9). -/
def execVxofInit (e : Fin 64) (a : LF) (s : State)  : Res :=
  .next (kStep (.vxofInit e a) e (some (17, a)) chkLong (fun _ _ e => vxofInit a e) s)

/-- VXOFABS, routine 18 (R165, Table 6-9). -/
def execVxofAbs (e : Fin 64) (a : LF) (s : State)  : Res :=
  .next (kStep (.vxofAbs e a) e (some (18, a)) chkLong (fun _ _ e => vxofAbs a e) s)

/-- VXOFSQ, routine 19 (R165, Table 6-9). -/
def execVxofSq (e : Fin 64) (a : LF) (s : State)  : Res :=
  .next (kStep (.vxofSq e a) e (some (19, a)) chkHash (fun fr _ e => vxofSq fr a e) s)

/-- VKEY, routine 20 (R165, Table 6-9). -/
def execVkey (e : Fin 64) (a : LF) (s : State)  : Res :=
  .next (kStep (.vkey e a) e (some (20, a)) (chkLong ++ [(7, 2, false)]) (fun _ _ e => vkey a e) s)

/-- VUNMASK, routine 21 (R165, Table 6-9). -/
def execVunmask (e : Fin 64) (a : LF) (s : State)  : Res :=
  .next (kStep (.vunmask e a) e (some (21, a)) (chkLong ++ [(8, 4, false)]) (fun _ _ e => vunmask a e) s)

/-- VMPMUL, routine 24 (R165, Table 6-9). -/
def execVmpmul (e : Fin 64) (a : LF) (s : State)  : Res :=
  .next (kStep (.vmpmul e a) e (some (24, a)) chkLong (fun _ _ e => vmp .mul a e) s)

/-- VMPSQR, routine 25 (R165, Table 6-9). -/
def execVmpsqr (e : Fin 64) (a : LF) (s : State)  : Res :=
  .next (kStep (.vmpsqr e a) e (some (25, a)) chkLong (fun _ _ e => vmp .sqr a e) s)

/-- VMPRED, routine 26 (R165, Table 6-9). -/
def execVmpred (e : Fin 64) (a : LF) (s : State)  : Res :=
  .next (kStep (.vmpred e a) e (some (26, a)) chkLong (fun _ _ e => vmp .red a e) s)

/-- VMPADD, routine 27 (R165, Table 6-9). -/
def execVmpadd (e : Fin 64) (a : LF) (s : State)  : Res :=
  .next (kStep (.vmpadd e a) e (some (27, a)) chkLong (fun _ _ e => vmp .add a e) s)

/-- VMPSUB, routine 28 (R165, Table 6-9). -/
def execVmpsub (e : Fin 64) (a : LF) (s : State)  : Res :=
  .next (kStep (.vmpsub e a) e (some (28, a)) chkLong (fun _ _ e => vmp .sub a e) s)

/-- VMPCSWAP, routine 29 (R165, Table 6-9). -/
def execVmpcswap (e : Fin 64) (a : LF) (s : State)  : Res :=
  .next (kStep (.vmpcswap e a) e (some (29, a)) chkLong (fun _ _ e => vmp .cswap a e) s)

/-- XOP (R167, Table 6-10). -/
def execXop (e : Fin 64) (a : XF) (s : State)  : Res :=
  .next (kStep (.xop e a) e none chkFetch (fun _ _ e => xop a e) s)

/-- XADDI (R167, Table 6-10). -/
def execXaddi (e : Fin 64) (a : XF) (s : State)  : Res :=
  .next (kStep (.xaddi e a) e none chkFetch (fun _ _ e => xaddi a e) s)

/-- XSHI (R167, Table 6-10). -/
def execXshi (e : Fin 64) (a : XF) (s : State)  : Res :=
  .next (kStep (.xshi e a) e none chkFetch (fun _ _ e => xshi a e) s)

/-- XLIH (R167, Table 6-10). -/
def execXlih (e : Fin 64) (a : XF) (s : State)  : Res :=
  .next (kStep (.xlih e a) e none chkFetch (fun _ _ e => xlih a e) s)

/-- XLD (R151). -/
def execXld (e : Fin 64) (a : XF) (s : State)  : Res :=
  .next (kStep (.xld e a) e none chkFetch (fun _ bad e => xld bad a e) s)

/-- BEQ, BNE, BLT, BLTU (R167). -/
def execXBranch (e : Fin 64) (f : Fin 4) (a : XF) (s : State)  : Res :=
  .next (kStep (.xBranch e f a) e none chkFetch (fun _ _ e => xbranch f a e) s)

/-- JAL (R167, Table 6-10). -/
def execJal (e : Fin 64) (xd : BitVec 4) (off : BitVec 22) (s : State)  : Res :=
  .next (kStep (.jal e xd off) e none chkFetch (fun _ _ e => jal xd off e) s)

/-- JALR (R167, Table 6-10). -/
def execJalr (e : Fin 64) (a : XF) (s : State)  : Res :=
  .next (kStep (.jalr e a) e none chkFetch (fun _ _ e => jalr a e) s)

/-- SETVL (R167, Table 6-10). -/
def execSetvl (e : Fin 64) (a : XF) (s : State)  : Res :=
  .next (kStep (.setvl e a) e none chkFetch (fun _ _ e => setvl a e) s)

/-- VSETQ (R118). -/
def execVsetq (e : Fin 64) (a : XF) (s : State)  : Res :=
  .next (kStep (.vsetq e a) e none chkFetch (fun _ _ e => vsetq a e) s)

/-- VSETGF (R167, Table 6-10). -/
def execVsetgf (e : Fin 64) (a : XF) (s : State)  : Res :=
  .next (kStep (.vsetgf e a) e none chkFetch (fun _ _ e => vsetgf a e) s)

/-- VEND (Table 6-10): a code above 3 is an end-code fault; otherwise the kernel has ended. -/
def vend (a : XF) (e : Engine) : KRes :=
  if a.xd ≠ 0 ∨ a.xs1 ≠ 0 ∨ bitsOf a.f.toNat 4 14 ≠ 0 then .exc 1 0 e
  else if 3 < a.f.toNat then .exc 10 0 e
  else .ok { e with ended := some a.f.toNat, vstart := 0 }

/-- VEND (R167): the reply waits for the output FIFO to drain (R30). -/
def execVend (e : Fin 64) (a : XF) (s : State)  : Res :=
  .next (endKernel e (kStep (.vend e a) e none chkFetch (fun _ _ x => vend a x) s))

/-- Execute again what an engine waits with, if it waits (R163, R166). -/
def kResume (n : Fin 64) (s : State) : State :=
  let e := eng s n
  match e.stall with
  | none => s
  | some t =>
    let s := setEng n { e with stall := none } s
    match t with
    | .mem st a => kStep (if st then .vst n a else .vld n a) n none chkVec (fun _ bad e => vmem bad st a e) s
    | .gs sc a => kStep (if sc then .vscatter n a else .vgather n a) n none chkVec (fun _ bad e => vgs bad sc a e) s
    | .xld a => kStep (.xld n a) n none chkFetch (fun _ bad e => xld bad a e) s
    | .unmask a => kStep (.vunmask n a) n (some (21, a)) (chkLong ++ [(8, 4, false)]) (fun _ _ e => vunmask a e) s

/-- STAGING_RESUME (R59, R163): staging reaches `upTo` bytes of the input, in ascending order; a failed read
ends the command with STS_DMA_ERROR, and a waiting memory instruction executes again. -/
def execStagingResume (e : Fin 64) (upTo : Nat) (s : State) : Res :=
  .next (
    let x := eng s e
    match x.cmd.bind (cmdU s) with
    | none => s
    | some c =>
      let have0 := x.staged.length
      if have0 < upTo ∧ upTo ≤ x.inLen ∧ x.halted = false then
        match readAt c (pInA c.pkt + have0) (upTo - have0) s with
        | none => abandon (some (justStatus stsDmaError)) c (aerReport c.port s)
        | some (b, s) => 
          let s := updEng e (fun y => { y with staged := y.staged ++ b }) s
          match x.stall with
          | some (.unmask _) => s
          | _ => kResume e s
      else s)

/-- OUTPUT_FIFO_DRAIN (R30, R59, R166; a guest's bytes go into its RSP, R364): host DMA takes up to `n` bytes of the FIFO to the output address in
order; a stalled VUNMASK goes on, and an ended kernel's result is known once the FIFO is empty. -/
def execOutputFifoDrain (e : Fin 64) (n : Nat) (s : State) : Res :=
  .next (
    let x := eng s e
    match x.cmd.bind (cmdU s) with
    | none => s
    | some c =>
      let b := x.fifo.take n
      if b = [] then s
      else
        let off := match svcCore s e with
          | some k => ((coreU s k).svc).getD 0
          | none => 0
        let a := pOutA c.pkt + off + (min x.outCount x.maxOut - x.fifo.length)
        match if c.port = 256 then some (setCmd { c with out := c.out ++ b } s) else dmaWrite c.port a b s with
        | none => abandon (some (justStatus stsDmaError)) c (spill c.port a b.length (aerReport c.port s))
        | some s =>
          let s := updEng e (fun y => { y with fifo := y.fifo.drop b.length }) s
          let s := match x.stall with
            | some (.unmask _) => kResume e s
            | _ => s
          endKernel e s)

/-! ### Micro-routine events (R173–R181) -/

/-- The conditions with a ceiling (Table 7-3): not 12, and no reserved one. -/
def hasCeiling (cond : Nat) : Bool := (decide (cond ≤ 19) && cond != 12) || (decide (32 ≤ cond) && decide (cond ≤ 44))

/-- The routines a kernel can issue (Table 7-5). -/
def kernelRoutine (r : Nat) : Bool := decide (r ≤ 21) || (decide (24 ≤ r) && decide (r ≤ 29))

/-- May a wait of routine `r` on a condition reach its ceiling (R173, R178)? A routine that runs microwords waits on what its
word names, before its commit point; any other has not committed while it waits. Condition 9 is waited for at order 1 and
above alone (R126). -/
def mayExpire (x : Engine) (routine cond : Nat) : Bool :=
  kernRuns x && hasCeiling cond && kernelRoutine routine && (!x.uc.issue || x.uc.routine == routine) &&
    (cond != 9 || decide (0 < x.order)) &&
    (!x.mc.live || (!x.uc.committed && x.uc.routine == routine && (x.mc.wait.map (·.1)) == some cond))

/-- WAIT_CEILING_EXPIRY (R173, R178, R180): the routine, whose words and scratch the checkers see (R170), is abandoned and
re-executes at most four times; on condition 9 the command ends under R126, and a fifth expiry is a CONTAINED fault of
checker 10. -/
def execWaitCeilingExpiry (e : Fin 64) (routine : Fin 128) (cond : Fin 64) (s : State) : Res :=
  .next (
    if mayExpire (eng s e) routine cond then
      let id := (eng s e).cmd
      let s := kAccess e (eng s e).inst id chkConv s
      let x := eng s e
      if x.cmd ≠ id ∨ x.inReset then s
      else
        let n := if x.uc.issue then x.uc.restarts else 0
        let u := { x.uc with
          routine := routine, running := true, issue := true, committed := false, lastWait := cond, ceilingExpired := true
          restarts := min 4 (n + 1), cntExpiries := min 0xFFFF (x.uc.cntExpiries + 1) }
        let s := cadEvent .hub e 6 1 (!x.owner) x.inst s
        if cond.val = 9 then
          let s := setEng e { x with mc := {}, uc := { u with restarts := n, running := false } } s
          match x.cmd.bind (cmdU s) with
          | some c => entropyFail { c with switched := true } s
          | none => s
        else if n = 4 then
          faultAt { blk := .hub, set := e, checker := 10, cls := 1, inst := x.inst } x.cmd
            (setEng e { x with mc := {}, uc := { u with running := false } } s)
        else
          cadEvent .hub e 5 1 (!x.owner) x.inst
            (setEng e { x with mc := {}, uc := { u with cntRestarts := min 0xFFFF (u.cntRestarts + 1) } } s)
    else s)

/-- HOLD_TIMER_EXPIRY (R177): a BLOCK fault of checker 1, recorded in HUB_UC_STATUS.guard. -/
def execHoldTimerExpiry (e : Fin 64) (s : State) : Res :=
  .next (
    let x := eng s e
    if kernRuns x then
      faultAt { blk := .hub, set := e, checker := 1, cls := 2, inst := x.inst } x.cmd
        (setEng e { x with uc := { x.uc with guard := true, committed := true, running := false } } s)
    else s)

/-- ENGINE_INTERRUPT (R178, R179, R181): kind 0 an abandonment, 1 a debug halt, 2 a LOCK response. An issue in
progress is abandoned at its first word, and one past its commit point goes on to END; a halt, which permission 3 of the
session grants (R426), then holds the engine at the boundary. -/
def execEngineInterrupt (e : Fin 64) (kind : Fin 3) (s : State) : Res :=
  .next (
    let ask := kind == 1 && s.dbg.session && s.dbg.perm.testBit 3
    let s := if ask then wake s else s
    let x := eng s e
    if x.cmd.isNone then s
    else if x.mc.live ∧ x.uc.committed then setEng e { x with mc := { x.mc with held := x.mc.held || ask } } s
    else
      let u := if x.uc.running then
          { x.uc with running := false, issue := true, cntRestarts := min 0xFFFF (x.uc.cntRestarts + 1)
                      restarts := if x.uc.issue then x.uc.restarts else 0 }
        else x.uc
      let s := if x.uc.running then cadEvent .hub e 5 1 (!x.owner) x.inst s else s
      setEng e { x with mc := {}, uc := u, halted := x.halted || ask } s)

end Sys2Proof.Machine
end

