-- ==== Sys2Proof/Machine/SWord.lean ====
section
/-! DEFINITION. The words of the Seryen-14 instructions (13 R290, Tables 13-2, 13-3 and 13-4). -/
namespace Sys2Proof.Machine
open Sys2Proof

/-- An instruction as its words spell it: a group of Table 13-2, the function in it, its operands. -/
inductive SIns where
  | alu (f : Nat) (dd ds : BitVec 4)
  | quick (k : Nat) (dd : BitVec 4) (v : BitVec 5)
  | imm (f : Nat) (dd : BitVec 4) (imm : BitVec 17)
  | mem (o : Nat) (m : BitVec 2) (an : BitVec 3) (dd : BitVec 4) (x : BitVec 14)
  | bit (o : Nat) (b : BitVec 8) (x : BitVec 14)
  | bcc (cond : BitVec 4) (off : BitVec 6) (x : BitVec 14)
  | mac (o : Nat) (mx : BitVec 2) (ds1 ds2 : BitVec 3)
  | acc (o : Nat) (mx : BitVec 2) (dd : BitVec 4)
  | unary (o : Nat) (dd : BitVec 4)
  | amov (an : BitVec 3) (ds : BitVec 4)
  | dmova (an : BitVec 3) (dd : BitVec 4)
  | aaddq (an : BitVec 3) (v : BitVec 6)
  | amod (an : BitVec 3) (ds : BitVec 4)
  | ctl (c : Nat) (x : BitVec 14)
  | rep (n : BitVec 8)
deriving DecidableEq, Repr

/-- A memory instruction: its extension word counts with mode 3 alone. -/
def sMemIns (o : Nat) (m : BitVec 2) (an : BitVec 3) (dd : BitVec 4) (x : BitVec 14) : SIns :=
  .mem o m an dd (if m = 3 then x else 0)
/-- A branch: its extension word counts with simm6 = 0 alone. -/
def sBccIns (cond : BitVec 4) (off : BitVec 6) (x : BitVec 14) : SIns := .bcc cond off (if off = 0 then x else 0)
/-- A control instruction: its extension word counts with JMP and CALL alone; 0x0C–0x0F and 0x40–0x7F are reserved. -/
def sCtlIns (k : Nat) (x : BitVec 14) : Option SIns :=
  if k < 0x0C then some (.ctl k (if k = 8 ∨ k = 9 then x else 0))
  else if 0x10 ≤ k ∧ k < 0x40 then some (.ctl k 0)
  else none

/-- The instruction that a program word and the word after it spell (Table 13-2); none is a reserved function. -/
def sDecode (w x : BitVec 14) : Option SIns :=
  let n := w.toNat
  let dd := BitVec.ofNat 4 n
  let a3 := BitVec.ofNat 3 (n / 16)
  if bitsOf n 12 2 = 0 then some (.alu (bitsOf n 8 4) (BitVec.ofNat 4 (n / 16)) dd)
  else if bitsOf n 11 3 = 2 then some (.quick (bitsOf n 9 2) (BitVec.ofNat 4 (n / 32)) (BitVec.ofNat 5 n))
  else if bitsOf n 10 4 = 6 then some (.quick (4 + bitsOf n 9 1) (BitVec.ofNat 4 (n / 32)) (BitVec.ofNat 5 n))
  else if bitsOf n 10 4 = 7 then
    some (.imm (bitsOf n 7 3) (BitVec.ofNat 4 (n / 8)) (BitVec.ofNat 17 (n % 8 * 16384 + x.toNat)))
  else if bitsOf n 11 3 = 4 then some (sMemIns (bitsOf n 9 2) (BitVec.ofNat 2 (n / 128)) a3 dd x)
  else if bitsOf n 11 3 = 5 then some (.bit (bitsOf n 8 3) (BitVec.ofNat 8 n) x)
  else if bitsOf n 10 4 = 12 then some (sBccIns (BitVec.ofNat 4 (n / 64)) (BitVec.ofNat 6 n) x)
  else if bitsOf n 10 4 = 13 then
    some (.mac (bitsOf n 8 2) (BitVec.ofNat 2 (n / 64)) (BitVec.ofNat 3 (n / 8)) (BitVec.ofNat 3 n))
  else if bitsOf n 9 5 = 28 then some (.acc (bitsOf n 6 3) (BitVec.ofNat 2 (n / 16)) dd)
  else if bitsOf n 8 6 = 58 then if bitsOf n 4 4 = 15 then none else some (.unary (bitsOf n 4 4) dd)
  else if bitsOf n 7 7 = 118 then some (.amov a3 dd)
  else if bitsOf n 7 7 = 119 then some (.dmova a3 dd)
  else if bitsOf n 9 5 = 30 then some (.aaddq (BitVec.ofNat 3 (n / 64)) (BitVec.ofNat 6 n))
  else if bitsOf n 7 7 = 124 then some (.amod a3 dd)
  else if bitsOf n 7 7 = 125 then sCtlIns (n % 128) x
  else some (.rep (BitVec.ofNat 8 n))

end Sys2Proof.Machine
end

