-- ==== Sys2Proof/Machine/Seq.lean ====
section
/-! DEFINITION. Instructions of the sequencer cores: traps, bit space, control, repeats (chapter 13). -/
namespace Sys2Proof.Machine
open Sys2Proof

/-- Does a core execute instructions? Its PLL runs and nothing stops it. -/
def coreRuns (s : State) (n : Nat) : Bool :=
  let c := coreU s n
  s.pwr.seqLock && c.st != .blockReset && !c.sleeping && !c.haltedI && !c.haltedD && c.waitb.isNone &&
    c.svc.isNone && !c.abortPend

/-! ### Traps (R300–R302, R306) -/

/-- A core through its reset vector with its program (R302). -/
def resetCore (n : Nat) (s : State) : State :=
  updCore n (fun c => { ({} : Core) with prog := s.seq.image, offline := c.offline, haltedD := c.haltedD }) s

/-- A fault of a core: the record, then its command ends with STS_FAULT (R302, R306). -/
def coreFault (n checker : Nat) (s : State) : State :=
  let c := coreU s n
  let s := record { blk := .seq, set := n, checker := checker, cls := 1, inst := c.inst } s
  let s := match c.cmd.bind (cmdU s) with
    | some k => conclude (some (justStatus stsFault)) k s
    | none => s
  updCore n (fun c => { c with abortPend := false }) s

/-- A seventeenth push, or a return with nothing to return to (R302). -/
def stackFault (n : Nat) (s : State) : State := resetCore n (coreFault n 2 s)

/-- Take a trap on core `n`, whose state with the saved PC is `c` (R300): push, IE off, vendor mode, the
vector. In extension mode every cause but 6 and 7 ends the command (R306). -/
def sTrap (n cause : Nat) (c : Core) (s : State) : State :=
  let s := cadEvent .seq n (if cause ≤ 6 then 6 else 7) 1 (!c.extMode) c.inst s
  if 16 ≤ c.stack.length then stackFault n (setCore n c s)
  else
    let info : TrapInfo := if cause ≤ 5 ∨ cause = 8 then
        { cause := cause, pc := c.pc, repLeft := c.trap.repLeft, ext := c.extMode }
      else (coreU s n).trap
    let t : Core := { c with
      stack := ⟨c.pc, c.f, c.extMode⟩ :: c.stack, ie := false, extMode := false, pc := 2 * cause, trap := info
      waitb := none, sleeping := false, intPend := c.intPend && cause != 7
      abortPend := c.abortPend && cause != 8 }
    let s := setCore n t s
    if c.extMode ∧ cause ≠ 6 ∧ cause ≠ 7 ∧ cause ≠ 8 then coreFault n 3 s else s

/-- A pending interrupt is taken at a boundary with IE = 1 (R301). -/
def takePending (n : Nat) (s : State) : State :=
  let c := coreU s n
  if c.ie ∧ c.intPend ∧ coreRuns s n then sTrap n 7 c s else s

/-! ### One instruction -/

/-- The words of extension data memory that read as the core's counters (R470), where CAD_USER_EN allows. -/
def counterBytes (s : State) (n : Nat) : Bytes :=
  (List.range 8).flatMap (fun k =>
    let c := cntU s .seq n k
    leBytes 8 (if c.scope = 2 then c.val else 0))

/-- Are the counters mapped for the core: an extension program with ext_read = 1 (R470)? -/
def countersSeen (s : State) (c : Core) : Bool := s.cad.extRead && c.extMode

/-- Branches and jumps that were taken count as event 0x03: the PC did not just move past the instruction. A REPI that is
not at its end and a WAITB that stalls are none. -/
def took (w : SIns) (c d : Core) : Bool :=
  d.pc != (c.pc + 1) % 0x4000 && d.pc != (c.pc + 2) % 0x4000 && d.waitb.isNone && w != .ctl 7 0

/-- What the fetch at the PC says of an instruction (R290). The spec does not give the words of vendor firmware: there the
row is the instruction (log 119). -/
def sFetch (c : Core) (w : SIns) : Fetch :=
  if c.extMode then
    match sDecode (Tbl.get 0 c.prog c.pc) (Tbl.get 0 c.prog ((c.pc + 1) % 0x4000)) with
    | none => .reserved
    | some x => if x = w then .this else .other
  else .this

/-- One instruction `w` of core `n`: its fetch, the accesses of its checkers, its effect `f`, traps, counting and a
pending interrupt. `io` completes an access to the I/O window; `data` says that data memory is accessed, `reps` how
many instructions retire. -/
def sStep (w : SIns) (n : Nat) (data : Bool) (reps : Nat) (f : Core → SRes) (io : State → State) (s : State) : State :=
  if coreRuns s n ∧ sFetch (coreU s n) w ≠ .other then
    let c0 := coreU s n
    let s := access .seq n 0 2 true 0 c0.inst c0.cmd s
    let s := if data ∧ (coreU s n).st ≠ .blockReset then access .seq n 1 2 true 0 c0.inst c0.cmd s else s
    if coreRuns s n = false then s
    else
      let c := coreU s n
      let seen := countersSeen s c
      let c1 : Core := { c with
        trap := {}, dmem := if seen then Tbl.setList 0 c.dmem 0x7FC0 (counterBytes s n) else c.dmem }
      let back (d : Core) : Core := { d with
        dmem := if seen then Tbl.setList 0 d.dmem 0x7FC0 (Tbl.getList 0 c.dmem 0x7FC0 64) else d.dmem }
      let done (s : State) : State := takePending n s
      match (if sFetch c w = .reserved then .trap 1 c1 else f c1) with
      | .ok d =>
        if c.extMode ∧ d.extMode ∧ d.pc < 0x3000 then sTrap n 3 c s
        else
          let s := if d.waitb.isSome then s else cadEvent .seq n 2 reps (!c.extMode) c.inst s
          let s := if took w c d then cadEvent .seq n 3 1 (!c.extMode) c.inst s else s
          done (setCore n { back d with trap := c.trap, intPend := (coreU s n).intPend } s)
      | .trap k d => sTrap n k (back d) s
      | .io _ => done (cadEvent .seq n 2 reps (!c.extMode) c.inst (io s))
  else s

/-- A core-local instruction. -/
def sLocal (w : SIns) (n : Nat) (f : Core → SRes) (s : State) : State := sStep w n false 1 f id s

/-! ### Bit space (R292, R303, R304) -/

/-- The cause a bit access meets, 0 where Table 13-8 grants it. -/
def bitCause (c : Core) (write : Bool) (b : Nat) : Nat :=
  if 3072 ≤ b then 2
  else if c.extMode then
    if 768 ≤ b ∧ b < 1024 then 0
    else if 2048 ≤ b ∧ ¬ write ∧ (b - 2048) / 4 = c.inst then 0
    else 3
  else if write ∧ 1024 ≤ b ∧ b < 2048 then 2
  else 0

/-- Has instance `i` a submission ring with commands (B:1280 + i)? -/
def ringPending (s : State) (i : Nat) : Bool :=
  (List.range 64).any (fun q => (qpU s i q).active && (qpU s i q).sqHead != (qpU s i q).sqTail)

/-- The value of a bit (Table 13-8). -/
def bitRead (s : State) (n b : Nat) : Bool :=
  if b < 1024 then Tbl.get false (coreU s n).bits b
  else if b < 1088 then !(eng s (b - 1024)).busy
  else if b < 1152 then (eng s (b - 1088)).key.isSome
  else if b < 1168 then (dgeU s (b - 1152)).st == .done || (dgeU s (b - 1152)).st == .aborted
  else if b < 1176 then
    (cvuU s (b - 1168)).st == .done || (cvuU s (b - 1168)).st == .stopped || (cvuU s (b - 1168)).st == .aborted
  else if b < 1192 then !(coreU s (b - 1176)).mbox.isEmpty
  else if 1280 ≤ b ∧ b < 1536 then ringPending s (b - 1280)
  else if b = 1536 then entReady s
  else if b = 1537 then decide (3 ≤ s.ent.fifo.length)
  else if b = 1538 then allFailed s
  else if b = 1539 then s.kvt.recovered
  else if b = 1540 then s.pwr.mode == .drain
  else if b = 1541 then s.pwr.mode == .locked
  else if 2048 ≤ b ∧ b < 3072 then permBit s ((b - 2048) / 4) ((b - 2048) % 4)
  else false

/-- Write a bit; B:2048–2051 ignore writes (R304). -/
def bitWrite (n b : Nat) (v : Bool) (s : State) : State :=
  if b < 1024 then updCore n (fun c => { c with bits := Tbl.set false c.bits b v }) s
  else if 2052 ≤ b ∧ b < 3072 then setPerm ((b - 2048) / 4) ((b - 2048) % 4) v s
  else s

/-- The effective bit address (R292). -/
def bitAddr (c : Core) (x : BitVec 8) (ext : BitVec 14) : Nat :=
  let b := ext.toNat % 4096
  if x.getLsbD 7 then (b + (getD c (bitsOf x.toNat 4 3)).toNat) % 4096 else b

/-- The functions of the bit-space group. -/
inductive BitOp where
  | set | clr | inv | ld | st | jb | jnb | wait
deriving DecidableEq, Repr

/-- The function numbers of the bit-space group (Table 13-4). -/
def bitCode : BitOp → Nat
  | .set => 0 | .clr => 1 | .inv => 2 | .ld => 3 | .st => 4 | .jb => 5 | .jnb => 6 | .wait => 7

/-- Are the reserved bits of a bit-space instruction 0 (Table 13-4)? -/
def bitRsv (o : BitOp) (x : BitVec 8) (ext : BitVec 14) : Bool :=
  decide (4096 ≤ ext.toNat) || (match o with
    | .set | .clr | .inv => x.toNat % 16 != 0
    | .wait => bitsOf x.toNat 1 3 != 0
    | _ => false)

/-- A bit-space instruction (R290–R292): its effect on the core, and the bit to write, if any. -/
def bitF (s : State) (n : Nat) (o : BitOp) (x : BitVec 8) (ext : BitVec 14) (c : Core) : SRes × Option (Nat × Bool) :=
  if bitRsv o x ext then (.trap 1 c, none)
  else
    let jump := o = .jb ∨ o = .jnb
    let b := if jump then ext.toNat % 4096 else bitAddr c x ext
    let dd := x.toNat % 16
    let write := match o with | .set | .clr | .inv | .st => true | _ => false
    match bitCause c write b with
    | 0 =>
      let v := bitRead s n b
      match o with
      | .set => (.ok (adv 2 c), some (b, true))
      | .clr => (.ok (adv 2 c), some (b, false))
      | .inv => (.ok (adv 2 c), some (b, !v))
      | .ld => (.ok (adv 2 (setD c dd (if v then 1 else 0))), none)
      | .st => (.ok (adv 2 c), some (b, (getD c dd).getLsbD 0))
      | .jb => (.ok (if v then { c with pc := (c.pc + (x.signExtend 14).toNat) % 0x4000 } else adv 2 c), none)
      | .jnb => (.ok (if v then adv 2 c else { c with pc := (c.pc + (x.signExtend 14).toNat) % 0x4000 }), none)
      | .wait =>
        if v = x.getLsbD 0 then (.ok (adv 2 c), none)
        else (.ok { c with waitb := some (b, x.getLsbD 0) }, none)
    | k => (.trap k c, none)

/-- A bit-space instruction on core `n`: the write, where one is due, is one read-modify-write (R292). -/
def sBit (n : Nat) (o : BitOp) (x : BitVec 8) (ext : BitVec 14) (s : State) : State :=
  let w := SIns.bit (bitCode o) x ext
  let t := sLocal w n (fun c => (bitF s n o x ext c).1) s
  if coreRuns s n ∧ sFetch (coreU s n) w = .this ∧ (coreU t n).st ≠ .blockReset then
    match (bitF s n o x ext (coreU s n)).2 with
    | some (b, v) => bitWrite n b v t
    | none => t
  else t

/-! ### Control -/

/-- A jump target, as the PC. -/
def goto (t : Nat) (c : Core) : SRes := .ok { c with pc := t % 0x4000 }

/-- CALL and CALLA (R300): push the address of the next instruction; a push too many is a stack fault, which
the caller makes. -/
def callF (t len : Nat) (c : Core) : SRes :=
  .ok { c with stack := ⟨(c.pc + len) % 0x4000, c.f, c.extMode⟩ :: c.stack, pc := t % 0x4000 }

/-- A CALL on core `n`. -/
def sCall (w : SIns) (n t len : Nat) (s : State) : State :=
  let c := coreU s n
  if coreRuns s n ∧ sFetch c w = .this ∧ 16 ≤ c.stack.length ∧ ¬ (c.extMode ∧ t % 0x4000 < 0x3000) then stackFault n s
  else sLocal w n (callF t len) s

/-- Bcc: simm6, or the extension word as simm14 where simm6 is 0. -/
def bccF (cond : BitVec 4) (off : BitVec 6) (ext : BitVec 14) (c : Core) : SRes :=
  let d : BitVec 14 := if off = 0 then ext else off.signExtend 14
  if condHolds c.f cond.toNat then goto (c.pc + d.toNat) c else .ok (adv (if off = 0 then 2 else 1) c)

/-- An instruction that extension mode may not execute (R306). -/
def vendorOnly (f : Core → SRes) (c : Core) : SRes := if c.extMode then .trap 3 c else f c

/-- A return with nothing to return to (R302). -/
def emptyReturn (w : SIns) (n : Nat) (s : State) : Bool :=
  coreRuns s n && sFetch (coreU s n) w == .this && (coreU s n).stack.isEmpty

/-- RET on core `n` (R300, R302). -/
def sRet (n : Nat) (s : State) : State :=
  if emptyReturn (.ctl 1 0) n s then stackFault n s
  else sLocal (.ctl 1 0) n (fun c => match c.stack with
    | [] => .ok c
    | fr :: rest => .ok { c with stack := rest, pc := fr.pc }) s

/-- RETI on core `n` (R300, R302, R306). -/
def sReti (n : Nat) (s : State) : State :=
  if emptyReturn (.ctl 2 0) n s ∧ (coreU s n).extMode = false then stackFault n s
  else sLocal (.ctl 2 0) n (vendorOnly (fun c => match c.stack with
    | [] => .ok c
    | fr :: rest => .ok { c with stack := rest, pc := fr.pc, f := fr.f, extMode := fr.ext, ie := true })) s

/-- The statuses an extension program may give (R308). -/
def doneStatus (st : Nat) : Bool := [stsOk, stsBadLength, stsBadParameter, stsVerifyFail, stsNotEqual].contains st

/-- DONE on core `n` (R308): the command ends with D0[15:0] and D1; a value an extension program may not give
ends it with STS_FAULT. Where vendor firmware goes on after an extension program is open. -/
def sDone (n : Nat) (s : State) : State :=
  let w := SIns.ctl 10 0
  if coreRuns s n ∧ sFetch (coreU s n) w = .this then
    let c := coreU s n
    match c.cmd.bind (cmdU s) with
    | none => sLocal w n (fun c => .ok (adv 1 c)) s
    | some k =>
      let st := (getD c 0).toNat % 65536
      let len := (getD c 1).toNat
      let (pc, s) := if c.extMode then freeNumber 0x3000 s else ((c.pc + 1) % 0x4000, s)
      let s := cadEvent .seq n 2 1 (!c.extMode) c.inst s
      let s := if c.extMode ∧ ¬ (doneStatus st ∧ len ≤ pMax k.pkt) then coreFault n 3 s
        else conclude (some { status := st, outLen := len }) k s
      updCore n (fun c => { c with pc := pc }) s
  else sLocal w n (fun c => .ok (adv 1 c)) s

/-! ### The rows -/

/-- MOV (Table 13-3). -/
def execSMov (c : Fin 16) (dd ds : BitVec 4) (s : State) : Res :=
  .next (sLocal (.alu 0 dd ds) c (aluF 0 dd.toNat ds.toNat) s)

/-- ADD (Table 13-3). -/
def execSAdd (c : Fin 16) (dd ds : BitVec 4) (s : State) : Res :=
  .next (sLocal (.alu 1 dd ds) c (aluF 1 dd.toNat ds.toNat) s)

/-- SUB (Table 13-3). -/
def execSSub (c : Fin 16) (dd ds : BitVec 4) (s : State) : Res :=
  .next (sLocal (.alu 2 dd ds) c (aluF 2 dd.toNat ds.toNat) s)

/-- ADC (Table 13-3). -/
def execSAdc (c : Fin 16) (dd ds : BitVec 4) (s : State) : Res :=
  .next (sLocal (.alu 3 dd ds) c (aluF 3 dd.toNat ds.toNat) s)

/-- SBC (Table 13-3). -/
def execSSbc (c : Fin 16) (dd ds : BitVec 4) (s : State) : Res :=
  .next (sLocal (.alu 4 dd ds) c (aluF 4 dd.toNat ds.toNat) s)

/-- AND (Table 13-3). -/
def execSAnd (c : Fin 16) (dd ds : BitVec 4) (s : State) : Res :=
  .next (sLocal (.alu 5 dd ds) c (aluF 5 dd.toNat ds.toNat) s)

/-- OR (Table 13-3). -/
def execSOr (c : Fin 16) (dd ds : BitVec 4) (s : State) : Res :=
  .next (sLocal (.alu 6 dd ds) c (aluF 6 dd.toNat ds.toNat) s)

/-- XOR (Table 13-3). -/
def execSXor (c : Fin 16) (dd ds : BitVec 4) (s : State) : Res :=
  .next (sLocal (.alu 7 dd ds) c (aluF 7 dd.toNat ds.toNat) s)

/-- CMP (Table 13-3). -/
def execSCmp (c : Fin 16) (dd ds : BitVec 4) (s : State) : Res :=
  .next (sLocal (.alu 8 dd ds) c (aluF 8 dd.toNat ds.toNat) s)

/-- TST (Table 13-3). -/
def execSTst (c : Fin 16) (dd ds : BitVec 4) (s : State) : Res :=
  .next (sLocal (.alu 9 dd ds) c (aluF 9 dd.toNat ds.toNat) s)

/-- SHL (Table 13-3). -/
def execSShl (c : Fin 16) (dd ds : BitVec 4) (s : State) : Res :=
  .next (sLocal (.alu 10 dd ds) c (aluF 10 dd.toNat ds.toNat) s)

/-- SHR (Table 13-3). -/
def execSShr (c : Fin 16) (dd ds : BitVec 4) (s : State) : Res :=
  .next (sLocal (.alu 11 dd ds) c (aluF 11 dd.toNat ds.toNat) s)

/-- SAR (Table 13-3). -/
def execSSar (c : Fin 16) (dd ds : BitVec 4) (s : State) : Res :=
  .next (sLocal (.alu 12 dd ds) c (aluF 12 dd.toNat ds.toNat) s)

/-- MUL (Table 13-3). -/
def execSMul (c : Fin 16) (dd ds : BitVec 4) (s : State) : Res :=
  .next (sLocal (.alu 13 dd ds) c (aluF 13 dd.toNat ds.toNat) s)

/-- DIVS (Table 13-3). -/
def execSDivs (c : Fin 16) (dd ds : BitVec 4) (s : State) : Res :=
  .next (sLocal (.alu 14 dd ds) c (aluF 14 dd.toNat ds.toNat) s)

/-- DIVU (Table 13-3). -/
def execSDivu (c : Fin 16) (dd ds : BitVec 4) (s : State) : Res :=
  .next (sLocal (.alu 15 dd ds) c (aluF 15 dd.toNat ds.toNat) s)

/-- MOVQ (Table 13-2). -/
def execSMovq (c : Fin 16) (dd : BitVec 4) (v : BitVec 5) (s : State) : Res :=
  .next (sLocal (.quick 0 dd v) c (quickF 0 dd.toNat v.toNat) s)

/-- ADDQ (Table 13-2). -/
def execSAddq (c : Fin 16) (dd : BitVec 4) (v : BitVec 5) (s : State) : Res :=
  .next (sLocal (.quick 1 dd v) c (quickF 1 dd.toNat v.toNat) s)

/-- SHLI (Table 13-2). -/
def execSShli (c : Fin 16) (dd : BitVec 4) (v : BitVec 5) (s : State) : Res :=
  .next (sLocal (.quick 2 dd v) c (quickF 2 dd.toNat v.toNat) s)

/-- SHRI (Table 13-2). -/
def execSShri (c : Fin 16) (dd : BitVec 4) (v : BitVec 5) (s : State) : Res :=
  .next (sLocal (.quick 3 dd v) c (quickF 3 dd.toNat v.toNat) s)

/-- SARI (Table 13-2). -/
def execSSari (c : Fin 16) (dd : BitVec 4) (v : BitVec 5) (s : State) : Res :=
  .next (sLocal (.quick 4 dd v) c (quickF 4 dd.toNat v.toNat) s)

/-- ROLI (Table 13-2). -/
def execSRoli (c : Fin 16) (dd : BitVec 4) (v : BitVec 5) (s : State) : Res :=
  .next (sLocal (.quick 5 dd v) c (quickF 5 dd.toNat v.toNat) s)

/-- MOVI (Table 13-4). -/
def execSMovi (c : Fin 16) (dd : BitVec 4) (imm : BitVec 17) (s : State) : Res :=
  .next (sLocal (.imm 0 dd imm) c (immF 0 dd.toNat imm) s)

/-- ADDI (Table 13-4). -/
def execSAddi (c : Fin 16) (dd : BitVec 4) (imm : BitVec 17) (s : State) : Res :=
  .next (sLocal (.imm 1 dd imm) c (immF 1 dd.toNat imm) s)

/-- ANDI (Table 13-4). -/
def execSAndi (c : Fin 16) (dd : BitVec 4) (imm : BitVec 17) (s : State) : Res :=
  .next (sLocal (.imm 2 dd imm) c (immF 2 dd.toNat imm) s)

/-- ORI (Table 13-4). -/
def execSOri (c : Fin 16) (dd : BitVec 4) (imm : BitVec 17) (s : State) : Res :=
  .next (sLocal (.imm 3 dd imm) c (immF 3 dd.toNat imm) s)

/-- XORI (Table 13-4). -/
def execSXori (c : Fin 16) (dd : BitVec 4) (imm : BitVec 17) (s : State) : Res :=
  .next (sLocal (.imm 4 dd imm) c (immF 4 dd.toNat imm) s)

/-- CMPI (Table 13-4). -/
def execSCmpi (c : Fin 16) (dd : BitVec 4) (imm : BitVec 17) (s : State) : Res :=
  .next (sLocal (.imm 5 dd imm) c (immF 5 dd.toNat imm) s)

/-- MOVH (Table 13-4). -/
def execSMovh (c : Fin 16) (dd : BitVec 4) (imm : BitVec 17) (s : State) : Res :=
  .next (sLocal (.imm 6 dd imm) c (immF 6 dd.toNat imm) s)

/-- TSTI (Table 13-4). -/
def execSTsti (c : Fin 16) (dd : BitVec 4) (imm : BitVec 17) (s : State) : Res :=
  .next (sLocal (.imm 7 dd imm) c (immF 7 dd.toNat imm) s)

/-- BSET (R292). -/
def execSBset (c : Fin 16) (x : BitVec 8) (ext : BitVec 14) (s : State) : Res :=
  .next (sBit c .set x ext s)

/-- BCLR (R292). -/
def execSBclr (c : Fin 16) (x : BitVec 8) (ext : BitVec 14) (s : State) : Res :=
  .next (sBit c .clr x ext s)

/-- BNOT (R292). -/
def execSBnot (c : Fin 16) (x : BitVec 8) (ext : BitVec 14) (s : State) : Res :=
  .next (sBit c .inv x ext s)

/-- BLD (R292). -/
def execSBld (c : Fin 16) (x : BitVec 8) (ext : BitVec 14) (s : State) : Res :=
  .next (sBit c .ld x ext s)

/-- BST (R292). -/
def execSBst (c : Fin 16) (x : BitVec 8) (ext : BitVec 14) (s : State) : Res :=
  .next (sBit c .st x ext s)

/-- JB (R292). -/
def execSJb (c : Fin 16) (x : BitVec 8) (ext : BitVec 14) (s : State) : Res :=
  .next (sBit c .jb x ext s)

/-- JNB (R292). -/
def execSJnb (c : Fin 16) (x : BitVec 8) (ext : BitVec 14) (s : State) : Res :=
  .next (sBit c .jnb x ext s)

/-- WAITB (R292). -/
def execSWaitb (c : Fin 16) (x : BitVec 8) (ext : BitVec 14) (s : State) : Res :=
  .next (sBit c .wait x ext s)

/-- WAITB_RELEASE (R292): the bit has come to equal the polarity and the core goes on. -/
def execWaitbRelease (c : Fin 16) (s : State) : Res :=
  .next (match (coreU s c).waitb with
  | none => s
  | some (b, v) =>
    if bitRead s c b = v ∧ coreRuns (updCore c (fun k => { k with waitb := none }) s) c then
      let k := coreU s c
      takePending c (updCore c (fun k => adv 2 { k with waitb := none }) (cadEvent .seq c 2 1 (!k.extMode) k.inst s))
    else s)

/-- Bcc (R293). -/
def execSBcc (c : Fin 16) (cond : BitVec 4) (off : BitVec 6) (ext : BitVec 14) (s : State) : Res :=
  .next (sLocal (sBccIns cond off ext) c (bccF cond off ext) s)

/-- MAC (Table 13-2). -/
def execSMac (c : Fin 16) (mx : BitVec 2) (ds1 ds2 : BitVec 3) (s : State) : Res :=
  .next (sLocal (.mac 0 mx ds1 ds2) c (macF 0 mx.toNat ds1.toNat ds2.toNat) s)

/-- MACU (Table 13-2). -/
def execSMacu (c : Fin 16) (mx : BitVec 2) (ds1 ds2 : BitVec 3) (s : State) : Res :=
  .next (sLocal (.mac 1 mx ds1 ds2) c (macF 1 mx.toNat ds1.toNat ds2.toNat) s)

/-- MSU (Table 13-2). -/
def execSMsu (c : Fin 16) (mx : BitVec 2) (ds1 ds2 : BitVec 3) (s : State) : Res :=
  .next (sLocal (.mac 2 mx ds1 ds2) c (macF 2 mx.toNat ds1.toNat ds2.toNat) s)

/-- MULM (Table 13-2). -/
def execSMulm (c : Fin 16) (mx : BitVec 2) (ds1 ds2 : BitVec 3) (s : State) : Res :=
  .next (sLocal (.mac 3 mx ds1 ds2) c (macF 3 mx.toNat ds1.toNat ds2.toNat) s)

/-- MCLR (Table 13-4). -/
def execSMclr (c : Fin 16) (mx : BitVec 2) (dd : BitVec 4) (s : State) : Res :=
  .next (sLocal (.acc 0 mx dd) c (accF 0 mx.toNat dd.toNat) s)

/-- MLD (Table 13-4). -/
def execSMld (c : Fin 16) (mx : BitVec 2) (dd : BitVec 4) (s : State) : Res :=
  .next (sLocal (.acc 1 mx dd) c (accF 1 mx.toNat dd.toNat) s)

/-- MRDL (Table 13-4). -/
def execSMrdl (c : Fin 16) (mx : BitVec 2) (dd : BitVec 4) (s : State) : Res :=
  .next (sLocal (.acc 2 mx dd) c (accF 2 mx.toNat dd.toNat) s)

/-- MRDH (Table 13-4). -/
def execSMrdh (c : Fin 16) (mx : BitVec 2) (dd : BitVec 4) (s : State) : Res :=
  .next (sLocal (.acc 3 mx dd) c (accF 3 mx.toNat dd.toNat) s)

/-- MRDG (Table 13-4). -/
def execSMrdg (c : Fin 16) (mx : BitVec 2) (dd : BitVec 4) (s : State) : Res :=
  .next (sLocal (.acc 4 mx dd) c (accF 4 mx.toNat dd.toNat) s)

/-- MSAT (Table 13-4). -/
def execSMsat (c : Fin 16) (mx : BitVec 2) (dd : BitVec 4) (s : State) : Res :=
  .next (sLocal (.acc 5 mx dd) c (accF 5 mx.toNat dd.toNat) s)

/-- MSAR (Table 13-4). -/
def execSMsar (c : Fin 16) (mx : BitVec 2) (dd : BitVec 4) (s : State) : Res :=
  .next (sLocal (.acc 6 mx dd) c (accF 6 mx.toNat dd.toNat) s)

/-- MINS (Table 13-4). -/
def execSMins (c : Fin 16) (mx : BitVec 2) (dd : BitVec 4) (s : State) : Res :=
  .next (sLocal (.acc 7 mx dd) c (accF 7 mx.toNat dd.toNat) s)

/-- NEG (Table 13-4). -/
def execSNeg (c : Fin 16) (dd : BitVec 4) (s : State) : Res :=
  .next (sLocal (.unary 0 dd) c (unaryF 0 dd.toNat) s)

/-- NOT (Table 13-4). -/
def execSNot (c : Fin 16) (dd : BitVec 4) (s : State) : Res :=
  .next (sLocal (.unary 1 dd) c (unaryF 1 dd.toNat) s)

/-- ABS (Table 13-4). -/
def execSAbs (c : Fin 16) (dd : BitVec 4) (s : State) : Res :=
  .next (sLocal (.unary 2 dd) c (unaryF 2 dd.toNat) s)

/-- SEXTB (Table 13-4). -/
def execSSextb (c : Fin 16) (dd : BitVec 4) (s : State) : Res :=
  .next (sLocal (.unary 3 dd) c (unaryF 3 dd.toNat) s)

/-- SEXTH (Table 13-4). -/
def execSSexth (c : Fin 16) (dd : BitVec 4) (s : State) : Res :=
  .next (sLocal (.unary 4 dd) c (unaryF 4 dd.toNat) s)

/-- ZEXTB (Table 13-4). -/
def execSZextb (c : Fin 16) (dd : BitVec 4) (s : State) : Res :=
  .next (sLocal (.unary 5 dd) c (unaryF 5 dd.toNat) s)

/-- ZEXTH (Table 13-4). -/
def execSZexth (c : Fin 16) (dd : BitVec 4) (s : State) : Res :=
  .next (sLocal (.unary 6 dd) c (unaryF 6 dd.toNat) s)

/-- CLZ (Table 13-4). -/
def execSClz (c : Fin 16) (dd : BitVec 4) (s : State) : Res :=
  .next (sLocal (.unary 7 dd) c (unaryF 7 dd.toNat) s)

/-- POPC (Table 13-4). -/
def execSPopc (c : Fin 16) (dd : BitVec 4) (s : State) : Res :=
  .next (sLocal (.unary 8 dd) c (unaryF 8 dd.toNat) s)

/-- BSWAP (Table 13-4). -/
def execSBswap (c : Fin 16) (dd : BitVec 4) (s : State) : Res :=
  .next (sLocal (.unary 9 dd) c (unaryF 9 dd.toNat) s)

/-- MFF (Table 13-4). -/
def execSMff (c : Fin 16) (dd : BitVec 4) (s : State) : Res :=
  .next (sLocal (.unary 10 dd) c (unaryF 10 dd.toNat) s)

/-- MTF (Table 13-4). -/
def execSMtf (c : Fin 16) (dd : BitVec 4) (s : State) : Res :=
  .next (sLocal (.unary 11 dd) c (unaryF 11 dd.toNat) s)

/-- MFW (Table 13-4). -/
def execSMfw (c : Fin 16) (dd : BitVec 4) (s : State) : Res :=
  .next (sLocal (.unary 12 dd) c (unaryF 12 dd.toNat) s)

/-- MTW (Table 13-4). -/
def execSMtw (c : Fin 16) (dd : BitVec 4) (s : State) : Res :=
  .next (sLocal (.unary 13 dd) c (unaryF 13 dd.toNat) s)

/-- MFPC (Table 13-4). -/
def execSMfpc (c : Fin 16) (dd : BitVec 4) (s : State) : Res :=
  .next (sLocal (.unary 14 dd) c (unaryF 14 dd.toNat) s)

/-- AMOV (Table 13-2). -/
def execSAmov (c : Fin 16) (an : BitVec 3) (ds : BitVec 4) (s : State) : Res :=
  .next (sLocal (.amov an ds) c (runTgt (.amov an.toNat ds.toNat)) s)

/-- DMOVA (Table 13-2). -/
def execSDmova (c : Fin 16) (an : BitVec 3) (dd : BitVec 4) (s : State) : Res :=
  .next (sLocal (.dmova an dd) c (runTgt (.dmova an.toNat dd.toNat)) s)

/-- AADDQ (Table 13-2). -/
def execSAaddq (c : Fin 16) (an : BitVec 3) (v : BitVec 6) (s : State) : Res :=
  .next (sLocal (.aaddq an v) c (runTgt (.aaddq an.toNat v)) s)

/-- AMOD (Table 13-2). -/
def execSAmod (c : Fin 16) (an : BitVec 3) (ds : BitVec 4) (s : State) : Res :=
  .next (sLocal (.amod an ds) c (amodF an.toNat ds.toNat) s)

/-- NOP. -/
def execSNop (c : Fin 16) (s : State) : Res :=
  .next (sLocal (.ctl 0 0) c (fun k => .ok (adv 1 k)) s)

/-- RET (R300). -/
def execSRet (c : Fin 16) (s : State) : Res :=
  .next (sRet c s)

/-- RETI (R300). -/
def execSReti (c : Fin 16) (s : State) : Res :=
  .next (sReti c s)

/-- EI (Table 13-4). -/
def execSEi (c : Fin 16) (s : State) : Res :=
  .next (sLocal (.ctl 3 0) c (vendorOnly (fun k => .ok (adv 1 { k with ie := true }))) s)

/-- DI (Table 13-4). -/
def execSDi (c : Fin 16) (s : State) : Res :=
  .next (sLocal (.ctl 4 0) c (vendorOnly (fun k => .ok (adv 1 { k with ie := false }))) s)

/-- SLEEP (Table 13-4): until an interrupt. -/
def execSSleep (c : Fin 16) (s : State) : Res :=
  .next (sLocal (.ctl 5 0) c (vendorOnly (fun k => .ok (adv 1 { k with sleeping := !k.intPend }))) s)

/-- FENCE (R309): an I/O-window write takes effect at once in this model, so none is outstanding. -/
def execSFence (c : Fin 16) (s : State) : Res :=
  .next (sLocal (.ctl 6 0) c (fun k => .ok (adv 1 k)) s)

/-- Does the target of a repeat prefix at the PC access data memory? -/
def tgtData (c : Core) : Bool :=
  match decodeTgt (Tbl.get 0 c.prog ((c.pc + 1) % 0x4000)) with
  | some (.mem ..) => true
  | _ => false

/-- REP (R297, R298). -/
def execSRep (c : Fin 16) (n : BitVec 8) (s : State) : Res :=
  .next (sStep (.rep n) c (tgtData (coreU s c)) (n.toNat + 1) (repF n.toNat) id s)

/-- REPI (R297, R299): one iteration, so that interrupts and aborts are taken between two; the PC stays at the prefix, which
issues again with the count left in A7, until A7 is 0. -/
def execSRepi (c : Fin 16) (s : State) : Res :=
  .next (sStep (.ctl 7 0) c (tgtData (coreU s c)) 1 repiF id s)

/-- JMP. -/
def execSJmp (c : Fin 16) (ext : BitVec 14) (s : State) : Res :=
  .next (sLocal (.ctl 8 ext) c (goto ext.toNat) s)

/-- CALL (R300). -/
def execSCall (c : Fin 16) (ext : BitVec 14) (s : State) : Res :=
  .next (sCall (.ctl 9 ext) c ext.toNat 2 s)

/-- JMPA: the PC takes An[13:0]. -/
def execSJmpa (c : Fin 16) (an : BitVec 3) (s : State) : Res :=
  .next (sLocal (.ctl (0x10 + an.toNat) 0) c (fun k => goto (getA k an.toNat).toNat k) s)

/-- CALLA (R300). -/
def execSCalla (c : Fin 16) (an : BitVec 3) (s : State) : Res :=
  .next (sCall (.ctl (0x18 + an.toNat) 0) c (getA (coreU s c) an.toNat).toNat 1 s)

/-- DONE (R308). -/
def execSDone (c : Fin 16) (s : State) : Res :=
  .next (sDone c s)

/-- HALT (Table 13-4). -/
def execSHalt (c : Fin 16) (s : State) : Res :=
  .next (sLocal (.ctl 11 0) c (vendorOnly (fun k => .ok (adv 1 { k with haltedI := true }))) s)

/-- TRAP #n (R300, R307): the service-call trap; above 5 in extension mode an illegal instruction. -/
def execSTrap (c : Fin 16) (n : BitVec 5) (s : State) : Res :=
  .next (sLocal (.ctl (0x20 + n.toNat) 0) c (fun k => if k.extMode ∧ 6 ≤ n.toNat then .trap 1 k else .trap 6 (adv 1 k)) s)

/-- SEQ_INTERRUPT (R300, R301): kind 0 the command mailbox, 1 the Cadence skid interrupt, 2 the SEQ timer. With
IE = 0 it stays pending; it ends SLEEP, and a WAITB stalled is the saved PC. Kind 3 is a debug halt, which permission 2 of
the session grants (R426): the core is held at the boundary. -/
def execSeqInterrupt (c : Fin 16) (kind : Fin 4) (s : State) : Res :=
  .next (
    if kind = 3 then
      if s.dbg.session ∧ s.dbg.perm.testBit 2 then updCore c (fun k => { k with haltedD := true }) (wake s) else s
    else
    let k := coreU s c
    let due := if kind.val = 0 then !k.mbox.isEmpty else if kind.val = 1 then k.intPend else true
    if s.pwr.seqLock ∧ due ∧ k.st ≠ .blockReset ∧ k.haltedD = false ∧ k.haltedI = false ∧ k.abortPend = false ∧
        k.svc = none then
      if k.ie then sTrap c 7 { k with waitb := none, sleeping := false } s
      else setCore c { k with intPend := true, sleeping := false } s
    else s)

/-- SEQ_ABORT (R300, R301): the abort of an abandoned command is taken, whatever IE is. -/
def execSeqAbort (c : Fin 16) (s : State) : Res :=
  .next (
    let k := coreU s c
    if s.pwr.seqLock ∧ k.abortPend ∧ k.st ≠ .blockReset ∧ k.haltedD = false then
      sTrap c 8 { k with haltedI := false, svc := none } s
    else s)

/-- EXT_TIME_LIMIT (R306): the core takes an abort and the command ends with STS_FAULT. -/
def execExtTimeLimit (c : Fin 16) (s : State) : Res :=
  .next (
    let k := coreU s c
    if k.st = .ext ∧ k.cmd.isSome then
      let t := coreFault c 3 s
      sTrap c 8 { coreU t c with f := k.f, extMode := k.extMode, svc := none, haltedI := false } t
    else s)

end Sys2Proof.Machine
end

