-- ==== Sys2Proof/Machine/MemBlk.lean ====
section
/-! DEFINITION. The stacked memory: regions, pages, initialisation, errors, scrub and sparing (chapter 14). -/
namespace Sys2Proof.Machine
open Sys2Proof

/-! ### The Pannier pool (R322): pages of 1 MiB, page to instance number plus one -/

/-- MiB of the pool in use. -/
def reservedMib (s : State) : Nat := s.mem.pannierPages.length
/-- Reserve `n` MiB for an instance. -/
def reserveMib (i n : Nat) (s : State) : State :=
  { s with
    mem := { s.mem with
      pannierPages := (freePages s.mem.pannierPages 98304 0 n).foldl (fun m k => Tbl.set 0 m k (i + 1)) s.mem.pannierPages } }

/-- Return an instance's pages. -/
def returnMib (i : Nat) (s : State) : State :=
  { s with mem := { s.mem with pannierPages := s.mem.pannierPages.filter (fun p => p.2 != i + 1) } }

/-- The instance that owns a line: by its page in the Pannier store, by its command in staging and WORK; none
for the rest. -/
def lineOwner (s : State) (a : Nat) : Option Nat :=
  match regionOf a with
  | 0 => match Tbl.get 0 s.mem.pannierPages (a / 0x100000) with
    | 0 => none
    | k + 1 => some k
  | 1 => match Tbl.get 0 s.mem.stagePages ((a - 0x1800000000) / 0x200000) with
    | 0 => none
    | k + 1 => (cmdU s k).map cmdInst
  | 4 => (eng s ((a - 0x1F00000000) / 0x1000000)).cmd.map (fun _ => (eng s ((a - 0x1F00000000) / 0x1000000)).inst)
  | _ => none

/-- Bytes of an instance's Pannier region (R322): zeros where nothing is resident or no key is held (R317). -/
def pannierBytes (s : State) (i off n : Nat) : Bytes :=
  let mine := s.kvt.res.filter (fun p => hInst p.1 == i)
  if mine.isEmpty ∨ ¬ s.mem.keys then zeros n
  else
    let what := s.kvt.pannierKey ++ mine.flatMap (fun p => leBytes 8 p.1 ++ (match p.2 with
      | some r => (match r.cur with | some k => k.secret | none => []) ++ (match r.pend with | some k => k.secret | none => [])
      | none => []))
    (List.range n).map (fun o => Config.pannierByte what (off + o))

/-- The device line of a byte of an instance's Pannier region. -/
def pannierLine (s : State) (i off : Nat) : Nat :=
  ((pagesOfInst s i).getD (off / 0x100000) 0 * 0x100000 + off % 0x100000) / 64

/-- Is a line of a stretch of an instance's Pannier region poisoned? -/
def pannierPoison (s : State) (i off n : Nat) : Option Nat :=
  s.mem.poison.find? (fun l => decide (∃ k < (off + n + 63) / 64 - off / 64, pannierLine s i (off + 64 * k) = l))

/-! ### Corrections, poison, sparing (R314, R323–R325) -/

/-- Count a correction of a line among the last 1,024 distinct lines (R324). -/
def countLine (l : Nat) (xs : List (Nat × Nat)) : List (Nat × Nat) :=
  let n := match xs.find? (fun p => p.1 == l) with
    | some p => p.2
    | none => 0
  ((l, n + 1) :: xs.filter (fun p => p.1 != l)).take 1024

/-- Start sparing a line's segment when its count has reached the threshold (R324). -/
def maybeSpare (l : Nat) (s : State) : State :=
  let m := s.mem
  let seg := l * 64 / 0x20000
  let n := match m.lineCount.find? (fun p => p.1 == l) with
    | some p => p.2
    | none => 0
  if m.spareEn ∧ max 1 m.spareThr ≤ n ∧ m.copying = none ∧ m.remaps.length < 16384 ∧ m.remaps.all (fun p => p.1 != seg) then
    { s with mem := { m with copying := some ⟨seg, m.remaps.length⟩ } }
  else s

/-- A corrected read (Table 14-2). -/
def correctedRead (l inst : Nat) (id : Option Nat) (s : State) : State :=
  let p := pseudoChannel (l * 64)
  let m := s.mem
  let s : State := { s with mem := { m with
    ceCount := Tbl.set 0 m.ceCount p (min 0xFFFF (Tbl.get 0 m.ceCount p + 1)), lineCount := countLine l m.lineCount } }
  let s := blkEvent .mem 0x12 1 s
  faultAt { blk := .mem, checker := 0, cls := 0, unit := p, inst := inst } id (maybeSpare l s)

/-- Poison a line; a full table is a DEVICE fault (R314). -/
def poisonLine (l inst : Nat) (s : State) : State :=
  if s.mem.poison.contains l then s
  else if 4096 ≤ s.mem.poison.length then
    faultAt { blk := .mem, checker := 2, cls := 3, unit := pseudoChannel (l * 64), inst := inst } none s
  else { s with mem := { s.mem with poison := l :: s.mem.poison } }

/-- What an uncorrectable line costs beside its command (Table 14-5): the key of a Pannier record stops being resident, the
caches of a stateful key are discarded. Which key the line held is open; the instance that owns the line comes with it. -/
def lineLoss (a : Nat) (s : State) : Option Nat × State :=
  let pick (ks : List Nat) (drop : Nat → Kvt → Kvt) : Option Nat × State :=
    let r := freeNumber (ks.length + 1) s
    match ks[r.1]? with
    | some h => (some (hInst h), { r.2 with kvt := drop h r.2.kvt })
    | none => (lineOwner s a, r.2)
  match regionOf a with
  | 0 => pick ((s.kvt.res.map (·.1)).filter (fun h => some (hInst h) == lineOwner s a))
      (fun h k => { k with res := Tbl.del k.res h, cache := k.cache.filter (· != h) })
  | 2 => pick (s.kvt.trees.map (·.1)) (fun h k => { k with trees := Tbl.del k.trees h })
  | _ => (lineOwner s a, s)

/-- An uncorrectable or tag-failed read of a line for a requester (Table 14-2, Table 14-5). -/
def badRead (kind l inst requester : Nat) (id : Option Nat) (s : State) : State :=
  let a := 64 * l
  let code := regionOf a
  let x := lineLoss a s
  let own := x.1.getD inst
  let s := poisonLine l own (memError kind code a own requester false x.2)
  let cls := if kind = 3 then 3 else regionClass code
  faultAt { blk := .mem, checker := if kind = 3 then 1 else 0, cls := cls, unit := pseudoChannel a, inst := own } id s

/-- A read of the migration region for an export or import (requester 0x51): injections, and a poisoned line, which may be
one that it reads; `f` goes on unless it has ended the command (Table 14-5). -/
def migRead (c : Cmd) (inst : Nat) (s : State) (f : State → State) : State :=
  let t := if memArmed s then
      let r := freeNumber (2 ^ 26) s
      memAccess 3 (0x1E00000000 + 64 * r.1) inst 0x51 (some c.id) r.2
    else s
  match s.mem.poison.find? (fun l => regionOf (64 * l) == 3) with
  | none => if (cmdU t c.id).isSome then f t else t
  | some l =>
    let r := freeNumber 2 t
    if (cmdU t c.id).isNone then t
    else if r.1 = 1 then badRead 4 l inst 0x51 (some c.id) r.2
    else f r.2

/-- The staged input bytes that a line of the staging pool holds (R320). -/
def stagedAt (a : Nat) (s : State) : Bytes :=
  let g := (a - 0x1800000000) / 0x200000
  let m := Tbl.get 0 s.mem.stagePages g
  match if m = 0 then none else cmdU s (m - 1) with
  | some c =>
    let at0 := (markedPages s.mem.stagePages m).idxOf g * 0x200000 + a % 0x200000
    if c.kind = .hub ∧ c.phase = .running then ((eng s c.unit).staged.drop at0).take 64 else []
  | none => []

/-- The plaintext of a device line: a written line of a WORK window holds the bytes of its share bank (R319), one of the
staging pool the input brought so far (R320); what other lines hold is open, and the counter of free values moves on. -/
def linePlain (l : Nat) (s : State) : Bytes × State :=
  let a := 64 * l
  let e := eng s ((a - 0x1F00000000) / 0x1000000)
  let b := a % 0x1000000 / 0x400000
  let x := a % 0x400000
  if regionOf a = 4 ∧ Tbl.get false e.lines (x / 64) then
    ((List.range 64).map (fun i =>
      let ms := Tbl.get [] e.workMasks (x + i)
      if b = 0 then ms.foldl (· ^^^ ·) (Tbl.get 0 e.work (x + i)) else ms.getD (b - 1) 0), s)
  else
    let b := if regionOf a = 1 then stagedAt a s else []
    let r := freeBytes (64 - b.length) s
    (b ++ r.1, r.2)

/-- What reading a line gives where its cells give these errors (R314). -/
def lineSeen (s : State) (l : Nat) (es : List CellErr) : LineRead := lineOutcome s.mem.keyVal l (linePlain l s).1 es

/-- PATROL_SCRUB_READ (R323): the next line is read, with the errors its cells give, and checked; requester 0x50. -/
def execPatrolScrubRead (line : Nat) (errs : List CellErr) (s : State) : Res :=
  .next (
    let m := s.pwr.mode
    if s.mem.scrubEn ∧ (m = .service ∨ m = .surge ∨ m = .drain) ∧ s.mem.keys ∧ line = s.mem.scrubPos ∧
        line < 2 ^ 31 ∧ regionReady s (regionOf (line * 64)) then
      let inst := (lineOwner s (line * 64)).getD 0
      let s : State := { s with mem := { s.mem with scrubPos := (line + 1) % 2 ^ 31 } }
      let s := blkEvent .mem 0x10 1 (blkEvent .mem 0x13 1 s)
      let s := memAccess (regionOf (line * 64)) (line * 64) inst 0x50 none s
      if s.mem.poison.contains line then badRead 4 line inst 0x50 none s
      else
        let t := (linePlain line s).2
        match lineSeen s line errs with
        | .clean => t
        | .corrected => correctedRead line inst none t
        | .badEcc => badRead 1 line inst 0x50 none t
        | .badFix => badRead 2 line inst 0x50 none t
        | .badTag => badRead 3 line inst 0x50 none t
    else s)

/-- SPARING_COPY_END (R324): the copy ends and the remap takes effect. -/
def execSparingCopyEnd (seg : Nat) (s : State) : Res :=
  .next (match s.mem.copying with
  | some c =>
    if c.seg = seg then { s with mem := { s.mem with copying := none, remaps := s.mem.remaps ++ [(seg, c.spare)] } }
    else s
  | none => s)

/-- MEM_KEY_LOAD (R315): in BOOT, once data_ready is set and the DRAM rails are there, MEM takes Kx and Kt, 96 bytes, from
the ENT_DATA register FIFO; with fewer there it still waits. -/
def execMemKeyLoad (s : State) : Res :=
  .next (if s.pwr.mode = .boot ∧ ¬ s.mem.keys ∧ ¬ s.glb.memDrawn ∧ s.pwr.dramRails ∧ s.pwr.fabLock ∧ entReady s ∧
      96 ≤ s.ent.fifo.length then
    { s with
      mem := { s.mem with keys := true, keyVal := s.ent.fifo.take 96 }, glb := { s.glb with memDrawn := true }
      ent := { s.ent with fifo := s.ent.fifo.drop 96 }, pwr := { s.pwr with dramLock := true } }
  else s)

/-- MEM_REGION_INIT_DONE (R316): regions complete in the order of Table 14-3, as their init_done bits are
numbered. -/
def execMemRegionInitDone (region : Fin 7) (s : State) : Res :=
  .next (if s.mem.keys ∧ s.mem.initDone = 2 ^ region.val - 1 then
    { s with mem := { s.mem with initDone := 2 ^ (region.val + 1) - 1 } }
  else s)

/-- MEM_CE_CNT_READ (R7): the count is returned and cleared. -/
def execMemCeCntRead (src : Src) (p : Fin 64) (s : State) : Res :=
  let s := touch src s
  .next (if regOpen src s then { s with mem := { s.mem with ceCount := Tbl.set 0 s.mem.ceCount p 0 } } else s)

end Sys2Proof.Machine
end

