-- ==== Sys2Proof/Machine/Units.lean ====
section
/-! DEFINITION. The digest engines and check-value units on their register paths (chapters 10 and 17). -/
namespace Sys2Proof.Machine
open Sys2Proof

/-! ### Digest engines -/

/-- The owner a register access speaks for: a core, or manager firmware. -/
def srcOwner : Src → UnitOwner
  | .core c => .core c
  | _ => .manager

/-- Slots of digest engines an instance holds (R234). -/
def dgeHeld (s : State) (i : Nat) : Nat := ((List.range 16).filter (fun u => (dgeU s u).owner != .none && (dgeU s u).inst == i)).length
/-- Slots of check-value units an instance holds (R375). -/
def cvuHeld (s : State) (i : Nat) : Nat := ((List.range 8).filter (fun u => (cvuU s u).owner != .none && (cvuU s u).inst == i)).length

/-- Can a digest engine be given to an owner? -/
def dgeFree (s : State) (u : Nat) : Bool := (dgeU s u).owner == .none && !(dgeU s u).offline && !(dgeU s u).inReset
/-- Can a check-value unit be given to an owner? -/
def cvuFree (s : State) (u : Nat) : Bool := (cvuU s u).owner == .none && !(cvuU s u).offline && !(cvuU s u).inReset

/-- DGE_CLAIM (R235): manager firmware claims an idle unit while instance 0 has a free slot; a refused claim
changes nothing. -/
def execDgeClaim (src : Src) (u : Fin 16) (s : State) : Res :=
  let s := touch src s
  .next (if regOpen src s ∧ srcOwner src = .manager ∧ dgeFree s u ∧ dgeHeld s 0 < (instU s 0).dgeSlots then
    setDge u { dgeU s u with owner := .manager, inst := 0, st := .owned } s
  else s)

/-- DGE_RELEASE (R243): by the owner. -/
def execDgeRelease (src : Src) (u : Fin 16) (s : State) : Res :=
  let s := touch src s
  .next (if regOpen src s ∧ (dgeU s u).owner = srcOwner src then releaseDge u s else s)

/-- A write by someone who does not own the unit is ignored (R233). -/
def dgeOwned (src : Src) (u : Nat) (f : State → State) (s : State) : State :=
  if ¬ regOpen src s then s
  else if (dgeU s u).owner = srcOwner src then f s
  else setDge u { dgeU s u with foreign := true } s

/-- A short message or a timeout under a sequencer serving a command ends it with STS_FAULT and a CONTAINED
record (R239). -/
def dgeAbortFault (u : Nat) (s : State) : State :=
  let d := dgeU s u
  match d.owner, d.cmd with
  | .core _, some id => faultAt { blk := .dge, set := u, checker := 1, cls := 1, inst := d.inst } (some id) s
  | _, _ => s

/-- An aborted message's work on core 31 ends. -/
def dgeStop (u : Nat) (s : State) : State :=
  if (dgeU s u).offloaded then setHsa u (dropDgeJobs (hsaU s u)) s else s

/-- Arm the unit (R236); a DMA feed reads its message once, in order (R240). -/
def dgeStart (u len : Nat) (s : State) : State :=
  let d := dgeArm len (dgeU s u)
  if d.source ∧ d.st = .absorbing then
    match dmaRead d.inst d.dmaIn.toNat len s with
    | some (b, s) => dgePump u (setDge u (dgeAppend b d) s)
    | none =>
      let s := aerReport d.inst (setDge u { d with st := .aborted, dmaError := true, msg := [] } s)
      match d.cmd.bind (cmdU s) with
      | some c => abandon (some (justStatus stsDmaError)) c s
      | none => s
  else dgePump u (setDge u d s)

/-- DGE_LEN (R236): the declared length arms the unit; it is static while a message is under way. -/
def execDgeLen (src : Src) (u : Fin 16) (v : Word) (s : State) : Res :=
  let s := touch src s
  .next (dgeOwned src u (fun s =>
    let d := dgeU s u
    if d.st = .absorbing ∨ d.st = .finishing then
      setDge u { d with cfgIgnored := d.cfgIgnored || decide (d.len ≠ v.toNat) } s
    else dgeStart u v.toNat s) s)

/-- DGE_DATA_WORD (R237): the DGE_DATA_HI write completes one data word. -/
def execDgeDataWord (src : Src) (u : Fin 16) (v : Word) (s : State) : Res :=
  let s := touch src s
  .next (dgeOwned src u (fun s => dgePump u (setDge u (dgeWord (dgeU s u).dataLo v (dgeU s u)) s)) s)

/-- DGE_LAST_COUNT (R238). -/
def execDgeLastCount (src : Src) (u : Fin 16) (v : Word) (s : State) : Res :=
  let s := touch src s
  .next (dgeOwned src u (fun s =>
    let d := dgeLast (fld v 0 3) (dgeU s u)
    if d.st = .aborted ∧ (dgeU s u).st = .absorbing then dgeAbortFault u (dgeStop u (setDge u d s))
    else dgePump u (setDge u d s)) s)

/-- Engine `n` streams its key shares into unit `u` for core `k`, and its part of the command ends (R242). -/
def keyFeed (k n u : Nat) (kr : KeyReg) (s : State) : State :=
  let d := dgeU s u
  let e := eng s n
  let s := access .dge u 2 4 false 0 d.inst d.cmd s
  let start := match e.cmd.bind (cmdU s) with
    | some c => c.start
    | none => s.now
  let s := setDge u { dgeU s u with key := some kr.material, keyMasks := kr.masks, keyOrder := kr.order } s
  let s := updCore k (fun x => { x with hub := if x.hub = some n then none else x.hub }) s
  updEng n (fun x => { x with key := none }) (releaseEngine e.inst start n s)

/-- DGE_KEYFEED_GO (R242): the engine's key goes to the unit and the engine's part of the command ends. -/
def execDgeKeyfeedGo (src : Src) (u : Fin 16) (v : Word) (s : State) : Res :=
  let s := touch src s
  .next (dgeOwned src u (fun s =>
    let d := dgeU s u
    let n := fld v 0 6
    let e := eng s n
    match src, e.key with
    | .core k, some kr =>
      if d.keyed ∧ flag v 6 ∧ d.st ≠ .absorbing ∧ d.st ≠ .finishing ∧ e.cmd.isSome ∧ e.cmd = (coreU s k).cmd then
        keyFeed k n u kr s
      else s
    | _, _ => s) s)

/-- DGE_TIMEOUT_EXPIRY (R239): the register path aborts and its state is discarded. -/
def execDgeTimeoutExpiry (u : Fin 16) (s : State) : Res :=
  .next (
    let d := dgeU s u
    if d.st = .absorbing ∧ ¬ d.source then
      dgeAbortFault u (dgeStop u (setDge u { d with st := .aborted, timeout := true, msg := [] } s))
    else s)

/-- DGE_FINISH (R240, R241): the result is compared, written by DMA, or held in DGE_RESULT. A message on core 31 finishes
when its last block is done. -/
def execDgeFinish (u : Fin 16) (s : State) : Res :=
  .next (
    let d := dgeU s u
    if d.st = .finishing ∧ (d.offloaded → d.total ≤ d.done) then
      let t := dgeFinish d
      let s := blkEvent .dge 0x11 1 (blkEvent .dge 0x10 (blocksOf d.alg d.len) s)
      if d.source ∧ ¬ d.compare then
        match dmaWrite d.inst d.dmaOut.toNat t.result s with
        | some s => setDge u t s
        | none =>
          let s := aerReport d.inst (setDge u { t with st := .aborted, dmaError := true, result := [] } s)
          match d.cmd.bind (cmdU s) with
          | some c => abandon (some (justStatus stsDmaError)) c s
          | none => s
      else setDge u t s
    else s)

/-! ### Check-value units -/

/-- CVU_CLAIM (R375). -/
def execCvuClaim (src : Src) (u : Fin 8) (s : State) : Res :=
  let s := touch src s
  .next (if regOpen src s ∧ srcOwner src = .manager ∧ cvuFree s u ∧ cvuHeld s 0 < (instU s 0).cvuSlots then
    setCvu u { cvuU s u with owner := .manager, inst := 0, st := .owned } s
  else s)

/-- A write by someone who does not own the unit is ignored (R375). -/
def cvuOwned (src : Src) (u : Nat) (f : State → State) (s : State) : State :=
  if ¬ regOpen src s then s
  else if (cvuU s u).owner = srcOwner src then f s
  else setCvu u { cvuU s u with foreign := true } s

/-- CVU_RELEASE (R375, R376). -/
def execCvuRelease (src : Src) (u : Fin 8) (s : State) : Res :=
  let s := touch src s
  .next (cvuOwned src u (releaseCvu u) s)

/-- Is the configuration one that starting accepts (CVU_CFG, CVU_LEN, R374)? An Adler-32 running value out of
range is refused as R372 refuses it. -/
def cvuCfgOk (c : Cvu) : Bool :=
  decide (c.alg ≤ 4) && decide (c.guard ≤ 2) && decide (1 ≤ c.len) &&
    (match c.source with
      | 0 => true
      | 1 => true
      | 2 => (match c.owner with | .core _ => true | _ => false)
      | _ => false) && !(c.cont && adlerBad c.alg c.run.toNat)

/-- CVU_START (R374): DONE and the error bits are cleared; a configuration that is refused aborts. -/
def execCvuStart (src : Src) (u : Fin 8) (s : State) : Res :=
  let s := touch src s
  .next (cvuOwned src u (fun s =>
    let c := cvuU s u
    if c.st = .running then s
    else
      let t := { c with bytes := 0, dmaError := false, memError := false, result := 0, stopReq := false }
      setCvu u (if cvuCfgOk c then { t with
        st := .running, run := if c.cont then c.run else BitVec.ofNat 64 (cvInit c.alg) }
        else { t with st := .aborted }) s) s)

/-- CVU_STOP (R377): a running scan is to stop at the next 64-byte boundary. -/
def execCvuStop (src : Src) (u : Fin 8) (s : State) : Res :=
  let s := touch src s
  .next (cvuOwned src u (fun s =>
    let c := cvuU s u
    if c.st = .running then setCvu u { c with stopReq := true } s else s) s)

/-- What a read of a scan's data gives. -/
inductive ScanRead where
  | ok (b : Bytes) (s : State)
  | dmaErr (s : State)
  | memErr (s : State)

/-- Read `n` bytes of a scan's source from byte `off` on (R374). -/
def scanRead (u off n : Nat) (s : State) : ScanRead :=
  let c := cvuU s u
  match c.source with
  | 0 => match dmaRead c.inst (c.addr.toNat + off) n s with
    | some (b, s) => .ok b s
    | none => .dmaErr (aerReport c.inst s)
  | 1 =>
    let a := c.addr.toNat + off
    let dev := pannierLine s c.inst a * 64
    let t := memAccess 0 dev c.inst (0x48 + u) c.cmd s
    if (pagesOfInst s c.inst).length * 0x100000 < a + n then .memErr s
    else if injArmed s .mem 0 1 ∨ (injArmed s .mem 0 0 ∧ (fltU s .mem 0).iMode ≠ 0) then .memErr t
    else match pannierPoison s c.inst a n with
      | some l => .memErr (badRead 4 l c.inst (0x48 + u) c.cmd t)
      | none => .ok (pannierBytes s c.inst a n) (blkEvent .mem 0x10 ((a + n + 63) / 64 - a / 64) t)
  | _ => match c.owner with
    | .core k => .ok (Tbl.getList 0 (coreU s k).dmem (c.addr.toNat + off) n) s
    | _ => .ok (zeros n) s

/-- A scan's error (R374): the unit aborts; a host-memory error ends a command with STS_DMA_ERROR, a memory
error has ended it already. -/
def scanAbort (u : Nat) (dma : Bool) (s : State) : State :=
  let c := cvuU s u
  let s := if c.owner = .none then s
    else setCvu u { c with st := .aborted, dmaError := dma, memError := !dma } s
  match c.cmd.bind (cmdU s) with
  | some k => if dma then abandon (some (justStatus stsDmaError)) k s else abandon (some (justStatus stsFault)) k s
  | none => s

/-- A scan of the Pannier store waits until it is initialised (R316). -/
def scanReady (s : State) (u : Nat) : Bool := (cvuU s u).source != 1 || regionReady s 0

/-- CVU_STOPPED (R377): the scan stops with `done` bytes processed, a multiple of 64 before the end. -/
def execCvuStopped (u : Fin 8) (done : Nat) (s : State) : Res :=
  .next (
    let c := cvuU s u
    if c.st = .running ∧ scanReady s u ∧ c.stopReq ∧ done % 64 = 0 ∧ c.bytes ≤ done ∧ done < c.len then
      match scanRead u c.bytes (done - c.bytes) s with
      | .ok b s =>
        let r := cvRun c.alg c.run.toNat b
        bytesEvent .cvu 0x10 b.length
          (setCvu u { c with run := BitVec.ofNat 64 r, bytes := done, st := .stopped, stopReq := false } s)
      | .dmaErr s => scanAbort u true s
      | .memErr s => scanAbort u false s
    else s)

/-- The end of a scan: the running and the final value (R372, R373). -/
def cvuEnd (b : Bytes) (c : Cvu) : Cvu :=
  let r := cvRun c.alg c.run.toNat b
  { c with
    run := BitVec.ofNat 64 r, bytes := c.len, st := .done, stopReq := false
    result := BitVec.ofNat 64 (cvFinal c.alg r (guardBytes c.guard c.alive c.fold.toNat c.seq.toNat)) }

/-- CVU_SCAN_DONE (R372): the last byte is processed; an end in the cycle of a stop wins (R377). -/
def execCvuScanDone (u : Fin 8) (s : State) : Res :=
  .next (
    let c := cvuU s u
    if c.st = .running ∧ scanReady s u then
      match scanRead u c.bytes (c.len - c.bytes) s with
      | .ok b s => bytesEvent .cvu 0x10 b.length (setCvu u (cvuEnd b c) s)
      | .dmaErr s => scanAbort u true s
      | .memErr s => scanAbort u false s
    else s)

end Sys2Proof.Machine
end

