-- ==== Sys2Proof/Machine/Opcode.lean ====
section
/-! DEFINITION. The opcodes: what each one is, its version, unit, reserved bytes and lengths (chapters 03 and
04). -/
namespace Sys2Proof.Machine
open Sys2Proof

/-- What an opcode names: a KEM set and operation, a signature set and operation, a digest, a keyed digest, and
so on; the numbers are the tables' own. -/
inductive Op where
  | kem (s op : Nat) | sig (s op : Nat) | dig (alg : Nat) | keyed (alg : Nat) | rnd | rndPr
  | sym (o : Nat) | cv | key (o : Nat) | sfs (o : Nat) | adm (o : Nat) | ext (o : Nat)
deriving DecidableEq, Repr

/-- The symmetric opcodes (Table 3-7). -/
def symOps : List Nat :=
  [0x0610, 0x0611, 0x0620, 0x0621, 0x0630, 0x0640, 0x0641, 0x0650, 0x0651, 0x0660, 0x0661, 0x0670, 0x0671,
   0x0680, 0x0681]
/-- The key-management opcodes (Table 4-2). -/
def keyOps : List Nat :=
  [0x0501, 0x0502, 0x0503, 0x0504, 0x0505, 0x0506, 0x0507, 0x0508, 0x0509, 0x050A, 0x050B, 0x050C, 0x0510]
/-- The stateful-signature opcodes (Table 4-5). -/
def sfsOps : List Nat := [0x0801, 0x0802, 0x0810, 0x0811, 0x0812, 0x0813]
/-- The administration opcodes (Table 4-6). -/
def admOps : List Nat :=
  [0x0F01, 0x0F02, 0x0F10, 0x0F11, 0x0F12, 0x0F13, 0x0F14, 0x0F15, 0x0F16, 0x0F17, 0x0F18, 0x0F19, 0x0F1A,
   0x0F20, 0x0F21, 0x0F22, 0x0F23, 0x0F30, 0x0F31, 0x0F40, 0x0F41]

/-- The digest algorithm of a keyed opcode, by DGE_CFG.alg. -/
def keyedAlg : Nat → Option Nat
  | 0x0310 => some 1
  | 0x0311 => some 2
  | 0x0312 => some 3
  | 0x0318 => some 7
  | 0x0319 => some 8
  | _ => none

/-- What a 16-bit opcode names, none where it is unassigned (R68, R73, R89). -/
def opOf (o : Nat) : Option Op :=
  let s := bitsOf o 4 4
  let op := o % 16
  match o / 256 with
  | 1 => if (kemSet s).isSome ∧ op ≤ 2 ∧ (isAgree s → op = 2) then some (.kem s op) else none
  | 2 => if s ≠ 0 ∧ op ≤ 2 then some (.sig s op) else none
  | 3 => if 0x0301 ≤ o ∧ o ≤ 0x0308 then some (.dig (o - 0x0300)) else (keyedAlg o).map .keyed
  | 4 => if o = 0x0401 then some .rnd else if o = 0x0402 then some .rndPr else none
  | 5 => if keyOps.contains o then some (.key o) else none
  | 6 => if symOps.contains o then some (.sym o) else none
  | 7 => if o = 0x0701 then some .cv else none
  | 8 => if sfsOps.contains o then some (.sfs o) else none
  | 0xF => if admOps.contains o then some (.adm o) else none
  | _ => if 0x8000 ≤ o then some (.ext o) else none

/-- The first minor version of major 3 that has an opcode; 0 where every version has it (R66). -/
def opFirst : Op → Nat
  | .kem s _ => if 5 ≤ s ∧ s ≤ 8 then 2 else 0
  | .keyed alg => if 7 ≤ alg then 1 else 0
  | _ => 0

/-- Is a feature that comes with minor version `need` of major 3 there for a packet (R38, R66)? -/
def hasVersion (major minor need : Nat) : Bool := need == 0 || (major == 3 && decide (need ≤ minor))

/-! ### Units and paths (R45, R54, R65) -/

/-- The operations that run on the fast path, without a sequencer core. -/
def opFast : Op → Bool
  | .kem _ op => op != 2
  | .sig _ op => op != 2
  | .dig _ => true
  | .rnd => true
  | .sym _ => true
  | .cv => true
  | .key o => o == 0x050A || o == 0x050B
  | .sfs o => o == 0x0801 || o == 0x0802 || o == 0x0812
  | .adm o => [0x0F01, 0x0F02, 0x0F12, 0x0F14, 0x0F16, 0x0F17, 0x0F31].contains o
  | _ => false

/-- The extension program bound to an opcode for an instance; one that is being unloaded takes no further command (R114). -/
def extOf (s : State) (o i : Nat) : Option ExtDecl :=
  s.seq.exts.find? (fun e => decide (e.first ≤ o) && decide (o ≤ e.last) && e.insts.contains i && !e.unloading)

/-- The program that a dispatched extension command runs: one that is being unloaded stays for it (R114, R120). -/
def extRunning (s : State) (o i : Nat) : Option ExtDecl :=
  s.seq.exts.find? (fun e => decide (e.first ≤ o) && decide (o ≤ e.last) && e.insts.contains i)

/-- The unit that executes an operation (R54). Installs and evaluations with a key run on a Hub engine where
they use one, and so do LC_ADVANCE, UNLOCK and REPROVISION (R111); the vault's own operations name their sequencer core. -/
def opKind (s : State) (i : Nat) : Op → UnitKind
  | .kem _ _ => .hub
  | .sig _ _ => .hub
  | .dig _ => .dge
  | .keyed _ => .dge
  | .rnd => .parser
  | .rndPr => .seq
  | .sym _ => .aes
  | .cv => .cvu
  | .key o => if o = 0x050A ∨ o = 0x050B then .parser
    else if [0x0501, 0x0502, 0x0503, 0x0510].contains o then .hub else .seq
  | .sfs o => if o = 0x0812 then .parser else if o = 0x0813 then .seq else .hub
  | .adm o => if opFast (.adm o) then .parser else if o = 0x0F20 ∨ o = 0x0F21 ∨ o = 0x0F23 then .hub else .seq
  | .ext o => match extOf s o i with
    | some d => if d.hub then .hub else if d.dge then .dge else if d.cvu then .cvu else .seq
    | none => .seq

/-- Does a command load a key of its handle into an engine's key register (R131)? -/
def loadsKey : Op → Bool
  | .kem _ op => op == 2
  | .sig _ op => op == 2
  | .keyed _ => true
  | .sym _ => true
  | .sfs o => o == 0x0811
  | .key o => o == 0x0510
  | _ => false

/-- The operations that an engine accepts while its key register is lent, and may run while it lends (R131): verify,
encapsulate to a given key, stateful verify. -/
def keyless : Op → Bool
  | .kem _ op => op == 0
  | .sig _ op => op == 0 || op == 1
  | .sfs o => o == 0x0801 || o == 0x0802
  | _ => false

/-- The group of permissions an operation needs (Table 4-1), none for family 0x0F. -/
def opGroup : Op → Option Nat
  | .key o => if o = 0x050A ∨ o = 0x050B then some 0 else some 1
  | .sfs o => if o = 0x0801 ∨ o = 0x0802 then some 0 else some 2
  | .ext _ => some 3
  | .adm _ => none
  | _ => some 0

/-! ### Reserved bytes (check 3; Tables 3-5, 3-8, 3-9, 4-3, 4-7, R100, R340, R343, R346) -/

/-- The bits that are not reserved in bytes 40–63, as runs of bytes with one mask. -/
def parMask (p : Bytes) (gen : Bool) : Op → List (Nat × Nat × Nat)
  | .sig _ _ => [(40, 1, 0x03), (41, 2, 0xFF), (43, 1, 0x07)]
  | .dig _ => [(40, 1, 0x01)]
  | .keyed _ => [(40, 1, 0x01), (41, 2, 0xFF)]
  | .sym o => match o / 16 with
    | 0x062 => [(40, 16, 0xFF)]
    | 0x063 => [(40, 17, 0xFF)]
    | 0x064 => [(40, 17, 0xFF), (57, 1, if gen ∧ o = 0x0640 then 1 else 0)]
    | 0x065 => [(40, 16, 0xFF)]
    | 0x066 => [(40, 1, 0xFF)]
    | _ => []
  | .cv => [(40, 1, 0xFF), (41, 1, 0x1F), (42, 1, 0x0F), (44, 20, 0xFF)]
  | .key o => match o with
    | 0x0501 => [(40, 2, 0xFF), (42, 1, 3), (47, 1, 0xFF)]
    | 0x0502 => [(40, 2, 0xFF), (42, 1, 3), (48, 8, 0xFF)]
    | 0x0503 => [(43, 1, 0xFF), (48, 8, if byteAt p 43 = 0 then 0 else 0xFF)]
    | 0x0509 => [(48, 8, 0xFF)]
    | 0x050C => [(44, 2, 0xFF)]
    | 0x0510 => [(40, 2, 0xFF), (42, 1, 3), (46, 10, 0xFF)]
    | _ => []
  | .sfs o =>
    if o = 0x0801 ∨ o = 0x0802 ∨ o = 0x0810 then
      match byteAt p 40 with
      | 1 =>
        let l := if 1 ≤ byteAt p 41 ∧ byteAt p 41 ≤ 8 then byteAt p 41 else 8
        [(40, 2, 0xFF), (42, l, 0xFF), (50, l, 0xFF)]
      | 2 => [(40, 1, 0xFF), (44, 4, 0xFF)]
      | 3 => [(40, 1, 0xFF), (44, 4, 0xFF)]
      | _ => [(40, 18, 0xFF)]
    else []
  | .adm o => match o with
    | 0x0F10 => [(40, 4, 0xFF), (44, 1, 0x0F), (45, 2, 0xFF), (47, 1, 0x7F), (48, 5, 0xFF), (56, 8, 0xFF)]
    | 0x0F11 => [(40, 2, 0xFF)]
    | 0x0F12 => [(40, 4, 0xFF)]
    | 0x0F13 => [(40, 1, 0xFF)]
    | 0x0F14 => [(40, 1, 0xFF)]
    | 0x0F15 => [(40, 1, 0xFF)]
    | 0x0F16 => [(40, 1, 0xFF), (45, 1, 0xFF)]
    | 0x0F17 => [(40, 2, 0xFF), (48, 12, 0xFF)]
    | 0x0F18 => [(41, 2, 0xFF)]
    | 0x0F19 => [(40, 1, 0xFF)]
    | 0x0F1A => [(40, 1, 0xFF)]
    | 0x0F20 => [(40, 1, 0xFF)]
    | 0x0F40 => [(41, 23, 0xFF)]
    | _ => []
  | .ext _ => [(40, 24, 0xFF)]
  | _ => []

/-- The bits of byte `i` that are not reserved. -/
def maskAt (m : List (Nat × Nat × Nat)) (i : Nat) : Nat :=
  match m.find? (fun x => decide (x.1 ≤ i) && decide (i < x.1 + x.2.1)) with
  | some x => x.2.2
  | none => 0

/-- Check 3 of Table 2-4: every reserved flag bit and parameter bit is 0. -/
def reservedOk (p : Bytes) (gen : Bool) (op : Op) : Bool :=
  decide (pFlags p / 4 = 0) &&
    (List.range 24).all (fun i => byteAt p (40 + i) &&& maskAt (parMask p gen op) (40 + i) == byteAt p (40 + i))

/-! ### Key forms and their lengths (Table 8-2, Table 11-5) -/

/-- The secret bytes of a class, with the length field of byte 47 for HMAC and KMAC keys (R93). -/
def secretLen (cls keylen : Nat) : Nat :=
  clsSecret cls (if keylen = 0 then 32 else keylen)

/-- The public part of a key of a class: its set's public key for private and public classes. -/
def publicLen (cls : Nat) : Nat :=
  match clsFam cls with
  | 1 => clsPub cls
  | 2 => clsPub cls
  | _ => 0

/-- The stored body of an extended class with its 32-byte tag (R189). -/
def bodyLen (cls : Nat) : Nat := if clsExt cls then clsBody cls + 32 else 0

/-- The length of a class's wrapped blob (R253). -/
def blobLenOf (cls keylen : Nat) : Nat :=
  if ¬ clsListed cls then 0 else 96 + secretLen cls keylen + publicLen cls + bodyLen cls

/-- Does an install output the public key (Table 4-2): is its class private? -/
def hasPublic (cls : Nat) : Bool := (clsRole cls == 0 || clsRole cls == 3) && decide (0 < publicLen cls)

/-- The RSA size code of a key class. -/
def rsaSize (cls : Nat) : Nat := clsSet cls / 16

/-- The pre-hash output length of a selector (R75). -/
def phLen (set sel : Nat) : Option Nat :=
  match sel with
  | 0 => if set = 0xE then some 48 else if set = 0xD ∨ set = 0xF then some 32 else none
  | 1 => some 32
  | 2 => some 48
  | 3 => some 64
  | 4 => some 32
  | 5 => some 64
  | _ => none

/-- The tag length T of a keyed digest (R82). -/
def tagLen (alg t : Nat) : Nat :=
  if t ≠ 0 then t else if alg = 7 then 32 else if alg = 8 then 64 else digestLen alg

/-- The tag length of AES-GCM or AES-CMAC: 0 means 16. -/
def tag16 (t : Nat) : Nat := if t = 0 then 16 else t

/-- The material that KEY_EXPORT carries, in a form that import accepts (R265, Table 8-2). -/
def exportMaterial (k : KeyObj) (plainBody : Bytes) : Bytes :=
  if clsRole k.cls = 1 then k.pub
  else if k.ext then plainBody
  else if clsFam k.cls = 2 ∧ 4 ≤ clsSet k.cls % 16 ∧ clsSet k.cls % 16 ≤ 0xB then k.secret ++ k.pub
  else k.secret

/-- The length of the exported material of a key. -/
def exportLen (k : KeyObj) : Nat :=
  if clsRole k.cls = 1 then k.pub.length
  else if k.ext then k.body.length - 32
  else if clsFam k.cls = 2 ∧ 4 ≤ clsSet k.cls % 16 ∧ clsSet k.cls % 16 ≤ 0xB then k.secret.length + k.pub.length
  else k.secret.length

/-- The length of an export record under a transport class (R265). -/
def carriedLen (transport m : Nat) : Nat :=
  if transport = 0x3620 then roundUp (6 + m) 8 + 8
  else ((kemSet (clsSet transport)).getD (0, 0, 0)).2.1 + 12 + (6 + m) + 16

/-! ### Lengths (check 7) -/

/-- What check 7 says: pass, a bad input length, or the output length the opcode requires. -/
inductive LenCheck where
  | ok | badIn | badOut (need : Nat)
deriving DecidableEq, Repr

/-- A fixed output length against the maximum output length. -/
def outCheck (p : Bytes) (need : Nat) : LenCheck := if pMax p < need then .badOut need else .ok

/-- An input condition, then a fixed output length. -/
def lenCheck (p : Bytes) (inOk : Bool) (need : Nat) : LenCheck := if inOk then outCheck p need else .badIn

/-- A requested length that is the maximum output length itself (R61). -/
def reqCheck (p : Bytes) (inOk : Bool) (hi : Nat) : LenCheck :=
  if ¬ inOk then .badIn else if pMax p = 0 then .badOut 1 else if hi < pMax p then .badOut hi else .ok

/-- Check 7 of a signature opcode (R73–R75); `size` is the RSA size. -/
def sigLens (p : Bytes) (set op size : Nat) : LenCheck :=
  let d := (sigSet set size).getD (0, 0)
  let lead := (if op = 0 then d.1 + d.2 else if op = 1 then d.2 else 0) + byteAt p 42
  let sup := (byteAt p 40).testBit 1 && set != 0xC
  let inOk := decide (lead ≤ pInL p) && (match sup, phLen set (byteAt p 41) with
    | true, some n => pInL p == lead + n
    | _, _ => true)
  lenCheck p inOk (if op = 2 then d.2 else 0)

/-- Check 7 of a symmetric opcode (Table 3-7). -/
def symLens (p : Bytes) (o : Nat) : LenCheck :=
  let n := pInL p
  let t := tag16 (byteAt p 56)
  let a := leAt p 52 4
  match o with
  | 0x0630 => lenCheck p (decide (1 ≤ n)) n
  | 0x0640 => lenCheck p true ((if byteAt p 57 = 1 then 12 else 0) + (n - a) + t)
  | 0x0641 => lenCheck p (decide (t ≤ n)) (n - a - t)
  | 0x0650 => lenCheck p (decide (16 ≤ n) && decide (n ≤ 16777216)) n
  | 0x0651 => lenCheck p (decide (16 ≤ n) && decide (n ≤ 16777216)) n
  | 0x0660 => lenCheck p true (tag16 (byteAt p 40))
  | 0x0661 => lenCheck p true (tag16 (byteAt p 40))
  | 0x0670 => lenCheck p (n % 8 == 0 && decide (16 ≤ n) && decide (n ≤ 65536)) (n + 8)
  | 0x0671 => lenCheck p (n % 8 == 0 && decide (24 ≤ n) && decide (n ≤ 65544)) (n - 8)
  | 0x0680 => lenCheck p (decide (1 ≤ n) && decide (n ≤ 65536)) (roundUp n 8 + 8)
  | 0x0681 => lenCheck p (n % 8 == 0 && decide (16 ≤ n) && decide (n ≤ 65544)) 0
  | _ => lenCheck p (n % 16 == 0 && decide (16 ≤ n)) n

/-- Check 7 of a key-management opcode (Table 4-2); `k` is the key its handle names and `t` the transport key,
where they are known. -/
def keyLens (p : Bytes) (o : Nat) (k t : Option KeyObj) : LenCheck :=
  let n := pInL p
  let cls := leAt p 40 2
  let none0 := n == 0
  match o with
  | 0x0501 => lenCheck p none0 (8 + blobLenOf cls (byteAt p 47) + (if hasPublic cls then publicLen cls else 0))
  | 0x0502 => lenCheck p (n != 0) (8 + blobLenOf cls 16)
  | 0x0503 => lenCheck p ((n == 0) == (byteAt p 43 == 0)) (match k with | some k => blobLen k | none => 0)
  | 0x0506 => lenCheck p (n != 0) 8
  | 0x0508 => lenCheck p none0 2
  | 0x0509 => lenCheck p none0 (match k, t with | some k, some t => carriedLen t.cls (exportLen k) | _, _ => 0)
  | 0x050A => lenCheck p none0 (match k with | some k => k.pub.length | none => 0)
  | 0x050B => lenCheck p none0 32
  | 0x0510 =>
    let inOk := match k with
      | some k => match kemSet (clsSet k.cls) with
        | some d =>
          let m := if isAgree (clsSet k.cls) then d.1 else d.2.1
          clsFam k.cls != 1 || (decide (m ≤ n) && decide (n ≤ m + 64))
        | none => true
      | none => true
    lenCheck p inOk (8 + blobLenOf cls (byteAt p 47))
  | _ => lenCheck p none0 0

/-- Check 7 of a stateful-signature opcode (Table 4-5). -/
def sfsLens (p : Bytes) (o : Nat) (k : Option KeyObj) : LenCheck :=
  let par := sfsParams (p.drop 40)
  match o with
  | 0x0810 => lenCheck p (pInL p == 0) (match par with | some d => 8 + (96 + 2 * d.n + d.pub) + d.pub | none => 0)
  | 0x0811 => outCheck p (match k with
    | some k => match sfsParams k.par with | some d => d.sig | none => 0
    | none => 0)
  | 0x0812 => lenCheck p (pInL p == 0) 24
  | 0x0813 => .ok
  | _ => lenCheck p (match par with | some d => decide (d.pub + d.sig ≤ pInL p) | none => true) 0

/-- The input length an LC_ADVANCE takes for a target (Table 4-9); `st` is the state in force and `digest` says
that BBRAM holds an owner key digest. -/
def lcInput (st : LcState) (target : Nat) (digest : Bool) : Option Nat :=
  let owner := 2592 + (if digest then 0 else 4627)
  match st, target with
  | .maker, 1 => some (32 + 4627)
  | .integrator, 2 => some 13530
  | .fielded, 3 => some (owner + 2 * 4627)
  | .integrator, 4 => some (owner + 4627)
  | .fielded, 4 => some (owner + 4627)
  | .returned, 4 => some 4627
  | _, _ => none

/-- Check 7 of an administration opcode (Table 4-6). -/
def admLens (s : State) (p : Bytes) (o : Nat) : LenCheck :=
  let n := pInL p
  match o with
  | 0x0F01 => lenCheck p (n == 0) 64
  | 0x0F02 => lenCheck p (n == 0) 32
  | 0x0F10 => lenCheck p (n == 0) 8
  | 0x0F18 => lenCheck p (n == 0) (if byteAt p 41 = 1 then 0 else 1568 + (Config.certificate (identity s)).length)
  | 0x0F19 => lenCheck p (decide (1568 ≤ n)) 0
  | 0x0F1A => lenCheck p (decide (64 ≤ n)) 8
  | 0x0F20 => lenCheck p (match lcInput s.lcs.st (byteAt p 40) s.bbram.ownDigest.isSome with
    | some k => n == k
    | none => true) 0
  | 0x0F21 => lenCheck p (n == 11878) 0
  | 0x0F23 => lenCheck p (n == 13530) 0
  | 0x0F30 => lenCheck p (decide (128 ≤ n) && decide (n ≤ 0x200000)) 16
  | 0x0F31 => lenCheck p (n == 0) 64
  | 0x0F40 => lenCheck p (n != 0) 0
  | _ => lenCheck p (n == 0) 0

/-- Check 7 of Table 2-4; `k` and `t` are the keys that the two handles name, where they are known: lengths that
depend on a key's class are checked when the key is known. -/
def opLens (s : State) (i : Nat) (p : Bytes) (k t : Option KeyObj) : Op → LenCheck
  | .kem set op =>
    let d := (kemSet set).getD (0, 0, 0)
    let need := if op = 2 then d.2.2 else d.2.1 + d.2.2
    lenCheck p (pInL p == (if op = 0 then d.1 else if op = 1 then 0 else if isAgree set then d.1 else d.2.1)) need
  | .sig set op => if op ≠ 0 ∧ set = 0xF ∧ k.isNone then .ok else sigLens p set op (if op = 0 then bitsOf (byteAt p 43) 1 2 else
      match k with | some k => rsaSize k.cls | none => 0)
  | .dig alg =>
    let cmp := (byteAt p 40).testBit 0
    if 7 ≤ alg then reqCheck p true (if cmp then 64 else 16777216) else outCheck p (digestLen alg)
  | .keyed alg => lenCheck p (decide (byteAt p 41 ≤ pInL p)) (tagLen alg (byteAt p 42))
  | .rnd => reqCheck p (pInL p == 0) 1048576
  | .rndPr => reqCheck p (pInL p == 0) 65536
  | .sym o => symLens p o
  | .cv =>
    let quota := (if i = 0 then s.mem.mgrQuota else (instU s i).quota) * 0x100000
    lenCheck p (decide (1 ≤ pInL p) && (!(byteAt p 41).testBit 0 || decide (pInA p + pInL p ≤ quota)))
      (if (byteAt p 41).testBit 1 then 8 else 16)
  | .key o => keyLens p o k t
  | .sfs o => sfsLens p o k
  | .adm o => admLens s p o
  | .ext _ => .ok

end Sys2Proof.Machine
end

