-- ==== Sys2Proof/Machine/Checks.lean ====
section
/-! DEFINITION. The parser's checks 1–8 of Table 2-4 (R43, R44; chapters 02–04). -/
namespace Sys2Proof.Machine
open Sys2Proof

/-- Do two buffers of `n` and `m` bytes overlap? -/
def buffersMeet (a n b m : Nat) : Bool := n != 0 && m != 0 && decide (a < b + m) && decide (b < a + n)

/-- The opcodes that can work in place (R67). -/
def inPlace : Op → Bool
  | .sym o => [0x0610, 0x0611, 0x0620, 0x0621, 0x0630, 0x0650, 0x0651].contains o
  | _ => false

/-- R42: input and output do not overlap, or start together and the opcode works in place. -/
def buffersOk (p : Bytes) (op : Op) : Bool :=
  !(buffersMeet (pInA p) (pInL p) (pOutA p) (pMax p)) || (decide (pInA p = pOutA p) && inPlace op)

/-- The inline parameters of a signature opcode in range (R74, R75). -/
def sigParams (p : Bytes) (set op : Nat) : Bool :=
  let det := (byteAt p 40).testBit 0
  let sup := (byteAt p 40).testBit 1
  let ph := byteAt p 41
  (op == 2 || !det) && !(det && set == 0xC) &&
    decide (ph ≤ (if set ≤ 0xB then 5 else if set = 0xC then 0 else 3)) &&
    !(sup && (set == 0xC || (decide (set ≤ 0xB) && ph == 0))) &&
    (decide (set ≤ 0xB) || byteAt p 42 == 0) &&
    (set == 0xF || byteAt p 43 == 0) && decide (bitsOf (byteAt p 43) 1 2 ≤ 2) &&
    (op == 0 || bitsOf (byteAt p 43) 1 2 == 0)

/-- The inline parameters of a symmetric opcode in range (Table 3-8). -/
def symParams (p : Bytes) (o : Nat) : Bool :=
  match o with
  | 0x0630 =>
    let w := if byteAt p 56 = 0 then 128 else byteAt p 56
    (w == 32 || w == 64 || w == 128) && decide (ceilDiv (pInL p) 16 ≤ 2 ^ w - ofBe (slice p 40 16) % 2 ^ w)
  | 0x0640 =>
    let t := byteAt p 56
    (t == 0 || (decide (12 ≤ t) && decide (t ≤ 16))) && decide (leAt p 52 4 ≤ pInL p) &&
      (byteAt p 57 == 0 || allZero (slice p 40 12))
  | 0x0641 =>
    let t := byteAt p 56
    (t == 0 || (decide (12 ≤ t) && decide (t ≤ 16))) && decide (leAt p 52 4 + tag16 t ≤ pInL p)
  | 0x0660 => byteAt p 40 == 0 || (decide (4 ≤ byteAt p 40) && decide (byteAt p 40 ≤ 16))
  | 0x0661 => byteAt p 40 == 0 || (decide (4 ≤ byteAt p 40) && decide (byteAt p 40 ≤ 16))
  | _ => true

/-- Is a class one that R249 lists and the packet's version has (R515)? -/
def classKnown (major minor cls : Nat) : Bool := clsListed cls && hasVersion major minor (clsMinor cls)

/-- Byte 47 (R93): a length of 16–64 for HMAC and KMAC keys, 0 for every other class. -/
def keylenOk (cls n : Nat) : Bool := n == 0 || (clsFam cls == 3 && clsRole cls == 0 && decide (16 ≤ n) && decide (n ≤ 64))

/-- The inline parameters of a key-management opcode in range (Table 4-3, R99, R515). -/
def keyParams (s : State) (i major minor : Nat) (p : Bytes) (o : Nat) : Bool :=
  let cls := leAt p 40 2
  match o with
  | 0x0501 => classKnown major minor cls && keylenOk cls (byteAt p 47)
  | 0x0502 => classKnown major minor cls
  | 0x0503 => decide (byteAt p 43 ≤ 1)
  | 0x050C => decide (byteAt p 45 ≤ 1) && byteAt p 44 != i && (instU s (byteAt p 44)).st != .absent
  | 0x0510 => classKnown major minor cls && keylenOk cls (byteAt p 47) &&
      decide (byteAt p 46 ≤ (if hasVersion major minor 1 then 2 else 1)) &&
      (byteAt p 46 != 0 || secretLen cls (byteAt p 47) == 32)
  | _ => true

/-- Tables 4-7 and the ranges of INST_* (R104, R105, R340, R343, R346). -/
def admParams (p : Bytes) (o : Nat) : Bool :=
  let t := byteAt p 40
  let qps := byteAt p 41
  match o with
  | 0x0F10 => t != 0 && decide (1 ≤ qps) && decide (qps ≤ 64) && decide (1 ≤ leAt p 42 2) && decide (byteAt p 45 ≤ 3) &&
      decide (1 ≤ byteAt p 46) && decide (byteAt p 46 ≤ 64) && decide (1 ≤ leAt p 48 4) && decide (leAt p 48 4 ≤ 98304) &&
      decide (byteAt p 52 ≤ 4)
  | 0x0F11 => t != 0 && decide (byteAt p 41 ≤ 1)
  | 0x0F12 => t != 0 && decide (1 ≤ qps) && decide (qps ≤ 64) && decide (1 ≤ leAt p 42 2)
  | 0x0F13 => t != 0
  | 0x0F14 => t != 0
  | 0x0F15 => t != 0
  | 0x0F16 => t != 0 && decide (byteAt p 45 ≤ 3)
  | 0x0F17 => t != 0 && decide (byteAt p 41 ≤ 1) && (byteAt p 41 == 0 ||
      (leAt p 48 8 % 4096 == 0 && leAt p 56 4 % 8 == 0 && decide (8 ≤ leAt p 56 4) && decide (leAt p 56 4 ≤ 0x10000000)))
  | 0x0F18 => decide (byteAt p 41 ≤ 1) && decide (byteAt p 42 ≤ (if byteAt p 41 = 1 then 7 else 0))
  | 0x0F19 => t != 0
  | 0x0F1A => t != 0
  | 0x0F20 => decide (t ≤ 4)
  | 0x0F40 => decide (byteAt p 41 ≤ 22)
  | _ => true

/-- A CV_SCAN of the Pannier region: its input address is an offset there, no host address (R87). -/
def pannierIn (p : Bytes) (op : Op) : Bool := op == .cv && (byteAt p 41).testBit 0

/-- Check 8 of Table 2-4. -/
def paramsOk (s : State) (i major : Nat) (p : Bytes) (op : Op) : Bool :=
  (pannierIn p op || buffersOk p op) && match op with
  | .sig set o => sigParams p set o
  | .keyed alg =>
    let t := byteAt p 42
    (decide (7 ≤ alg) || byteAt p 41 == 0) &&
      (t == 0 || (decide (16 ≤ t) && decide (t ≤ (if 7 ≤ alg then 64 else digestLen alg))))
  | .sym o => symParams p o
  | .cv => decide (byteAt p 40 ≤ 4) && bitsOf (byteAt p 41) 2 2 != 3 &&
      !((byteAt p 41).testBit 4 && adlerBad (byteAt p 40) (leAt p 48 8))
  | .key o => keyParams s i major (pMinor p) p o
  | .sfs o =>
    if o = 0x0801 then byteAt p 40 == 1 && (sfsParams (p.drop 40)).isSome
    else if o = 0x0802 then (byteAt p 40 == 2 || byteAt p 40 == 3) && (sfsParams (p.drop 40)).isSome
    else if o = 0x0810 then (match sfsParams (p.drop 40) with | some d => decide (d.height ≤ 60) | none => false) else true
  | .adm o => admParams p o
  | _ => true

/-- Check 4 (Table 2-4, Table 4-6): the status of an opcode that the mode does not admit, none if it does. -/
def modeRefuses (m : Mode) (i : Nat) (op : Op) : Option Nat :=
  let o := match op with | .adm o => o | _ => 0
  match m with
  | .locked => if i = 0 ∧ [0x0F01, 0x0F02, 0x0F21].contains o then none else some stsLocked
  | .zeroized => if i = 0 ∧ [0x0F01, 0x0F23, 0x0F20].contains o then none else some stsZeroized
  | .drain => some stsDraining
  | _ => none

/-- Check 5 (R91, Table 4-6): does the life-cycle state admit the opcode? -/
def lifeAdmits (st : LcState) (op : Op) : Bool :=
  match st, op with
  | .scrapped, .adm o => o == 0x0F01
  | .scrapped, _ => false
  | .maker, .adm o => !([0x0F18, 0x0F19, 0x0F1A, 0x0F21, 0x0F23, 0x0F40, 0x0F41].contains o)
  | .returned, .adm o => !([0x0F18, 0x0F19, 0x0F1A, 0x0F21, 0x0F23, 0x0F40, 0x0F41].contains o)
  | _, _ => true

/-- Check 6 (R88, R89). -/
def permitted (s : State) (i : Nat) (op : Op) : Bool :=
  match opGroup op, op with
  | some g, _ => permBit s i g
  | none, .adm o => i == 0 || o == 0x0F01 || o == 0x0F02
  | none, _ => true

/-- The bit of GLB_KAT_STATUS of a family and set number (R209). -/
def suiteBit (fam set : Nat) : Option Nat :=
  match fam with
  | 1 => if set ≤ 3 then some 0 else if set ≤ 5 then some 3 else if set ≤ 8 then some 4 else some 5
  | 2 => if set ≤ 3 then some 1 else if set ≤ 0xB then some 2 else if set ≤ 0xE then some 6 else some 7
  | 3 => some 9
  | 8 => some 8
  | _ => none

/-- Is an opcode of a suite whose self-test failed, or a key-management opcode that names one of its classes (R209)? -/
def suiteFailed (s : State) (p : Bytes) (op : Op) : Bool :=
  let cls := leAt p 40 2
  let bit := match op with
    | .kem set _ => suiteBit 1 set
    | .sig set _ => suiteBit 2 set
    | .keyed _ => suiteBit 3 0
    | .sfs _ => suiteBit 8 0
    | .key o => if [0x0501, 0x0502, 0x0510].contains o then suiteBit (clsFam cls) (clsSet cls % 16) else none
    | _ => none
  match bit with
  | some b => s.glb.katDone && !s.glb.katBits.testBit b
  | none => false

/-- The key a handle names, where it is resident: for lengths that depend on the key's class. -/
def residentKey (s : State) (h : Nat) : Option KeyObj := (Tbl.get none s.kvt.res h).bind (·.cur)

/-- Does an operation have a key handle in its packet (R62)? -/
def takesKey : Op → Bool
  | .kem _ op => op != 0
  | .sig _ op => op != 0
  | .keyed _ => true
  | .sym _ => true
  | .key o => o != 0x0506
  | .sfs o => o != 0x0801 && o != 0x0802
  | _ => false

/-- The checks 1–8 of a packet of instance `i` on a queue pair of accepted version `major`.`minor` (Table 2-4):
the result of the first that fails. -/
def parserCheck (s : State) (i major minor : Nat) (p : Bytes) : Option Result :=
  if minor < pMinor p then some (justStatus stsVersion)
  else match opOf (pOp p) with
  | none => some (justStatus stsBadOpcode)
  | some op =>
    let extBad : Bool := match op with
      | .ext o => (extOf s o i).isNone
      | _ => false
    if ¬ hasVersion major (pMinor p) (opFirst op) ∨ extBad then some (justStatus stsBadOpcode)
    else if ¬ reservedOk p (hasVersion major (pMinor p) 1) op then some (justStatus stsReserved)
    else match modeRefuses s.pwr.mode i op with
    | some st => some (justStatus st)
    | none =>
      if ¬ lifeAdmits s.lcs.st op then some (justStatus stsLifecycle)
      else if ¬ permitted s i op then some (justStatus stsNotPermitted)
      else
        let k := if takesKey op then residentKey s (pKey p) else none
        match opLens s i p k (residentKey s (leAt p 48 8)) op with
        | .badIn => some (justStatus stsBadLength)
        | .badOut n => some { status := stsBadLength, outLen := n }
        | .ok =>
          if ¬ paramsOk s i major p op then some (justStatus stsBadParameter)
          else if suiteFailed s p op then some (justStatus stsFault)
          else none

end Sys2Proof.Machine
end

