-- ==== Sys2Proof/Machine/StdMath.lean ====
section
/-! DEFINITION. Modular arithmetic, bit packing and message hashing that the standards of Table 8-1 share
(08 R187, R192, R194). -/
namespace Sys2Proof.Machine
open Sys2Proof

/-- `b ^ e mod m`, `e` given by its low `n` bits. -/
def powBits (b m : Nat) : Nat → Nat → Nat
  | 0, _ => 1 % m
  | n + 1, e =>
    let h := powBits b m n (e / 2)
    if e % 2 = 1 then h * h % m * b % m else h * h % m

/-- `b ^ e mod m`. -/
def powM (b e m : Nat) : Nat := powBits (b % m) m (e.log2 + 1) e

/-- Euclid's algorithm from two remainders and the factors of the second number in them. -/
def egcd : Nat → Int → Int → Int → Int → Int × Int
  | 0, r, _, t, _ => (r, t)
  | n + 1, r, r', t, t' => if r' = 0 then (r, t) else egcd n r' (r % r') t' (t - r / r' * t')

/-- The greatest common divisor and the inverse of `a` modulo `m`. -/
def gcdInv (a m : Nat) : Nat × Nat :=
  let x := egcd (2 * m.log2 + 4) m (a % m : Nat) 0 1
  (x.1.toNat, (x.2 % m).toNat)

/-- The inverse of `a` modulo `m`, where it has one. -/
def invMod (a m : Nat) : Nat := (gcdInv a m).2

/-- `a - b` modulo `m`. -/
def subM (a b m : Nat) : Nat := (a % m + (m - b % m)) % m

/-- Numbers of `w` bits each in a row of bytes, the first in the lowest bits (BitPack of FIPS 203 and FIPS 204). -/
def packBits (w : Nat) (xs : List Nat) : Bytes :=
  leBytes (ceilDiv (w * xs.length) 8) (xs.foldr (fun x a => x % 2 ^ w + 2 ^ w * a) 0)

/-- `n` numbers of `w` bits each from a row of bytes. -/
def unpackBits (w n : Nat) (b : Bytes) : List Nat :=
  let v := ofLe b
  (List.range n).map (fun i => bitsOf v (w * i) w)

/-- The number of 1 bits among the low `w` bits of a number. -/
def popBits : Nat → Nat → Nat
  | 0, _ => 0
  | w + 1, v => v % 2 + popBits w (v / 2)

/-- The positions of the 1 bits among the low `w` bits of a number. -/
def onesAt (w v : Nat) : List Nat := (List.range w).filter v.testBit

/-- The hash of a pre-hash selector (Table 8-3). -/
def phHash (sel : Nat) (m : Bytes) : Bytes :=
  match sel with
  | 1 => sha256 m
  | 2 => sha384 m
  | 3 => sha512 m
  | 4 => shake128 m 32
  | _ => shake256 m 64

/-- The DER encoding of the object identifier of a selector (Table 8-3). -/
def phOid (sel : Nat) : Bytes :=
  [0x06, 0x09, 0x60, 0x86, 0x48, 0x01, 0x65, 0x03, 0x04, 0x02, BitVec.ofNat 8 (if sel ≤ 3 then sel else sel + 7)]

/-- The hash of the message that parameter bytes 40–43 give, or the supplied value (R75, R194). -/
def preHash (par : Bytes) (sel : Nat) (m : Bytes) : Bytes := if (byteAt par 0).testBit 1 then m else phHash sel m

/-- The message representative M′ of ML-DSA and SLH-DSA (R192, R194). -/
def msgRep (par ctx m : Bytes) : Bytes :=
  let sel := byteAt par 1
  if sel = 0 then 0 :: leBytes 1 ctx.length ++ ctx ++ m
  else 1 :: leBytes 1 ctx.length ++ ctx ++ phOid sel ++ preHash par sel m

/-- MGF1 over a hash of `h` bytes: `n` bytes. -/
def mgf1 (hash : Bytes → Bytes) (h : Nat) (seed : Bytes) (n : Nat) : Bytes :=
  ((List.range (ceilDiv n h)).flatMap (fun i => hash (seed ++ beBytes 4 i))).take n

/-- Are all numbers of a list different? -/
def distinct : List Nat → Bool
  | [] => true
  | x :: t => !t.contains x && distinct t

end Sys2Proof.Machine
end

