-- ==== Sys2Proof/Machine/StdSlh.lean ====
section
/-! DEFINITION. SLH-DSA as FIPS 205 defines it (08 R187, R192, R195; 03 R76). -/
namespace Sys2Proof.Machine
open Sys2Proof

/-- A parameter set of SLH-DSA: SHA-2 or SHAKE, n, d, h′, a, k and m; lg w is 4. -/
structure SlhPar where
  sha2 : Bool
  n    : Nat
  d    : Nat
  hp   : Nat
  a    : Nat
  k    : Nat
  m    : Nat
deriving DecidableEq, Repr

/-- The sets 0x4 to 0xB of Table 3-4. -/
def slhPar : Nat → SlhPar
  | 0x4 => ⟨true, 16, 7, 9, 12, 14, 30⟩
  | 0x5 => ⟨true, 16, 22, 3, 6, 33, 34⟩
  | 0x6 => ⟨false, 16, 7, 9, 12, 14, 30⟩
  | 0x7 => ⟨false, 16, 22, 3, 6, 33, 34⟩
  | 0x8 => ⟨false, 24, 7, 9, 14, 17, 39⟩
  | 0x9 => ⟨false, 24, 22, 3, 8, 33, 42⟩
  | 0xA => ⟨false, 32, 8, 8, 14, 22, 47⟩
  | _ => ⟨false, 32, 17, 4, 9, 35, 49⟩

/-- An address: layer, tree, type and three type-specific words. -/
structure SlhAdrs where
  layer : Nat := 0
  tree  : Nat := 0
  typ   : Nat := 0
  w1    : Nat := 0
  w2    : Nat := 0
  w3    : Nat := 0
deriving DecidableEq, Repr

/-- An address as bytes; the SHA-2 sets compress it. -/
def adrsBytes (p : SlhPar) (x : SlhAdrs) : Bytes :=
  (if p.sha2 then beBytes 1 x.layer ++ beBytes 8 x.tree ++ beBytes 1 x.typ
   else beBytes 4 x.layer ++ beBytes 12 x.tree ++ beBytes 4 x.typ) ++ beBytes 4 x.w1 ++ beBytes 4 x.w2 ++ beBytes 4 x.w3

/-- F, H and T_l, and PRF with SK.seed as its message. -/
def slhT (p : SlhPar) (seed : Bytes) (x : SlhAdrs) (m : Bytes) : Bytes :=
  if p.sha2 then (sha256 (seed ++ zeros (64 - p.n) ++ adrsBytes p x ++ m)).take p.n
  else shake256 (seed ++ adrsBytes p x ++ m) p.n

/-- PRF_msg. -/
def slhPrfMsg (p : SlhPar) (prf opt m : Bytes) : Bytes :=
  if p.sha2 then (hmac sha256 64 prf (opt ++ m)).take p.n else shake256 (prf ++ opt ++ m) p.n

/-- H_msg. -/
def slhMsg (p : SlhPar) (r pk m : Bytes) : Bytes :=
  if p.sha2 then mgf1 sha256 32 (r ++ pk.take p.n ++ sha256 (r ++ pk ++ m)) p.m else shake256 (r ++ pk ++ m) p.m

/-- `n` numbers of `b` bits from a byte string, most significant first (base_2b). -/
def base2b (b n : Nat) (x : Bytes) : List Nat :=
  let v := ofBe x
  (List.range n).map (fun i => bitsOf v (8 * x.length - b * (i + 1)) b)

/-- `s` steps of a chain from step `i`. -/
def wotsChain (p : SlhPar) (seed : Bytes) (x : SlhAdrs) : Nat → Nat → Bytes → Bytes
  | 0, _, v => v
  | s + 1, i, v => wotsChain p seed x s (i + 1) (slhT p seed { x with w3 := i } v)

/-- The 2n + 3 digits of a message of n bytes with its checksum, in base 16. -/
def wotsDigits (n : Nat) (m : Bytes) : List Nat :=
  let ds := base2b 4 (2 * n) m
  let sum := ds.foldl (fun a x => a + (15 - x)) 0
  ds ++ [sum / 256 % 16, sum / 16 % 16, sum % 16]

/-- The secret element of chain `i`. -/
def wotsSk (p : SlhPar) (sk seed : Bytes) (x : SlhAdrs) (i : Nat) : Bytes :=
  slhT p seed { x with typ := 5, w2 := i, w3 := 0 } sk

/-- wots_pkGen: the compressed public key of the key pair in `x`. -/
def wotsPk (p : SlhPar) (sk seed : Bytes) (x : SlhAdrs) : Bytes :=
  let ends := (List.range (2 * p.n + 3)).flatMap (fun i => wotsChain p seed { x with typ := 0, w2 := i } 15 0 (wotsSk p sk seed x i))
  slhT p seed { x with typ := 1, w2 := 0, w3 := 0 } ends

/-- wots_sign. -/
def wotsSign (p : SlhPar) (sk seed : Bytes) (x : SlhAdrs) (m : Bytes) : Bytes :=
  ((wotsDigits p.n m).zipIdx).flatMap (fun d => wotsChain p seed { x with typ := 0, w2 := d.2 } d.1 0 (wotsSk p sk seed x d.2))

/-- wots_pkFromSig. -/
def wotsFrom (p : SlhPar) (seed : Bytes) (x : SlhAdrs) (sig m : Bytes) : Bytes :=
  let ends := ((wotsDigits p.n m).zipIdx).flatMap (fun d =>
    wotsChain p seed { x with typ := 0, w2 := d.2 } (15 - d.1) d.1 (slice sig (p.n * d.2) p.n))
  slhT p seed { x with typ := 1, w2 := 0, w3 := 0 } ends

/-- A node of height `z` and index `i` of the Merkle tree of a layer (xmss_node). -/
def slhNode (p : SlhPar) (sk seed : Bytes) (x : SlhAdrs) : Nat → Nat → Bytes
  | 0, i => wotsPk p sk seed { x with w1 := i }
  | z + 1, i => slhT p seed { x with typ := 2, w1 := 0, w2 := z + 1, w3 := i }
      (slhNode p sk seed x z (2 * i) ++ slhNode p sk seed x z (2 * i + 1))

/-- A node of height `z` and index `i` of the FORS trees of a key pair (fors_node). -/
def forsNode (p : SlhPar) (sk seed : Bytes) (x : SlhAdrs) : Nat → Nat → Bytes
  | 0, i => slhT p seed { x with typ := 3, w2 := 0, w3 := i } (slhT p seed { x with typ := 6, w2 := 0, w3 := i } sk)
  | z + 1, i => slhT p seed { x with typ := 3, w2 := z + 1, w3 := i }
      (forsNode p sk seed x z (2 * i) ++ forsNode p sk seed x z (2 * i + 1))

/-- The sibling of a node at height `j` above leaf `i`. -/
def sibling (i j : Nat) : Nat := (i / 2 ^ j) ^^^ 1

/-- Climb from a node with its siblings: `f` names the parent's address by height and index. -/
def slhClimb (p : SlhPar) (seed : Bytes) (f : Nat → Nat → SlhAdrs) (auth : Bytes) : Nat → Nat → Nat → Bytes → Bytes
  | 0, _, _, v => v
  | h + 1, j, i, v =>
    let s := slice auth (p.n * j) p.n
    slhClimb p seed f auth h (j + 1) (i / 2) (slhT p seed (f (j + 1) (i / 2)) (if i % 2 = 0 then v ++ s else s ++ v))

/-- xmss_sign: the one-time signature and the authentication path of leaf `i`. -/
def slhXmss (p : SlhPar) (sk seed : Bytes) (x : SlhAdrs) (i : Nat) (m : Bytes) : Bytes :=
  wotsSign p sk seed { x with w1 := i } m ++ (List.range p.hp).flatMap (fun j => slhNode p sk seed x j (sibling i j))

/-- xmss_pkFromSig: the root that a signature of leaf `i` gives. -/
def slhXmssRoot (p : SlhPar) (seed : Bytes) (x : SlhAdrs) (i : Nat) (sig m : Bytes) : Bytes :=
  let len := p.n * (2 * p.n + 3)
  slhClimb p seed (fun z j => { x with typ := 2, w1 := 0, w2 := z, w3 := j }) (sig.drop len) p.hp 0 i
    (wotsFrom p seed { x with w1 := i } sig m)

/-- The bytes of one layer's signature. -/
def slhLayerLen (p : SlhPar) : Nat := p.n * (2 * p.n + 3 + p.hp)

/-- ht_sign over `d` layers from layer `j`. -/
def slhHt (p : SlhPar) (sk seed : Bytes) : Nat → Nat → Nat → Nat → Bytes → Bytes
  | 0, _, _, _, _ => []
  | d + 1, j, tree, leaf, m =>
    let x : SlhAdrs := { layer := j, tree := tree }
    let sig := slhXmss p sk seed x leaf m
    sig ++ slhHt p sk seed d (j + 1) (tree / 2 ^ p.hp) (tree % 2 ^ p.hp) (slhXmssRoot p seed x leaf sig m)

/-- The root that a hypertree signature gives, over `d` layers from layer `j`. -/
def slhHtRoot (p : SlhPar) (seed sig : Bytes) : Nat → Nat → Nat → Nat → Bytes → Bytes
  | 0, _, _, _, m => m
  | d + 1, j, tree, leaf, m =>
    slhHtRoot p seed sig d (j + 1) (tree / 2 ^ p.hp) (tree % 2 ^ p.hp)
      (slhXmssRoot p seed { layer := j, tree := tree } leaf (slice sig (j * slhLayerLen p) (slhLayerLen p)) m)

/-- The parts of a message digest: the FORS indices, the tree and the leaf. -/
def slhSplit (p : SlhPar) (dg : Bytes) : List Nat × Nat × Nat :=
  let f := ceilDiv (p.k * p.a) 8
  let h := p.hp * p.d - p.hp
  let t := ceilDiv h 8
  (base2b p.a p.k (dg.take f), ofBe (slice dg f t) % 2 ^ h, ofBe (slice dg (f + t) (ceilDiv p.hp 8)) % 2 ^ p.hp)

/-- fors_sign. -/
def forsSign (p : SlhPar) (sk seed : Bytes) (x : SlhAdrs) (idx : List Nat) : Bytes :=
  (idx.zipIdx).flatMap (fun d =>
    let i := d.2 * 2 ^ p.a + d.1
    slhT p seed { x with typ := 6, w2 := 0, w3 := i } sk ++
      (List.range p.a).flatMap (fun j => forsNode p sk seed x j (d.2 * 2 ^ (p.a - j) + sibling d.1 j)))

/-- fors_pkFromSig. -/
def forsFrom (p : SlhPar) (seed : Bytes) (x : SlhAdrs) (sig : Bytes) (idx : List Nat) : Bytes :=
  let roots := (idx.zipIdx).flatMap (fun d =>
    let i := d.2 * 2 ^ p.a + d.1
    let part := sig.drop (d.2 * (p.a + 1) * p.n)
    slhClimb p seed (fun z j => { x with typ := 3, w2 := z, w3 := j }) (part.drop p.n) p.a 0 i
      (slhT p seed { x with typ := 3, w2 := 0, w3 := i } (part.take p.n)))
  slhT p seed { x with typ := 4, w2 := 0, w3 := 0 } roots

/-- PK.root of SK.seed and PK.seed (R195). -/
def slhRoot (p : SlhPar) (sk seed : Bytes) : Bytes := slhNode p sk seed { layer := p.d - 1 } p.hp 0

/-- slh_sign_internal of M′: secret SK.seed ‖ SK.prf, public key PK.seed ‖ PK.root, opt_rand. -/
def slhSign (p : SlhPar) (sec pk m opt : Bytes) : Bytes :=
  let sk := sec.take p.n
  let seed := pk.take p.n
  let r := slhPrfMsg p (slice sec p.n p.n) opt m
  let s := slhSplit p (slhMsg p r pk m)
  let x : SlhAdrs := { tree := s.2.1, w1 := s.2.2 }
  let f := forsSign p sk seed x s.1
  r ++ f ++ slhHt p sk seed p.d 0 s.2.1 s.2.2 (forsFrom p seed x f s.1)

/-- slh_verify_internal: the root of the signature equals PK.root in every byte (R195). -/
def slhVerify (p : SlhPar) (pk m sig : Bytes) : Bool :=
  let seed := pk.take p.n
  let s := slhSplit p (slhMsg p (sig.take p.n) pk m)
  let x : SlhAdrs := { tree := s.2.1, w1 := s.2.2 }
  let ht := p.n * (1 + p.k * (p.a + 1))
  decide (slhHtRoot p seed (sig.drop ht) p.d 0 s.2.1 s.2.2 (forsFrom p seed x (slice sig p.n (ht - p.n)) s.1) = slice pk p.n p.n)

end Sys2Proof.Machine
end

