-- ==== Sys2Proof/Machine/StdHbs.lean ====
section
/-! DEFINITION. LMS/HSS, XMSS and XMSS^MT as RFC 8554, RFC 8391 and SP 800-208 define them (08 R187, R203, R519; 03 R63;
04 R103). -/
namespace Sys2Proof.Machine
open Sys2Proof

/-! ### LMS and HSS -/

/-- One level: its typecodes, n, SHAKE256 or SHA-256, the height, and w, p and ls of its one-time signature. -/
structure LmsPar where
  typ : Nat
  ots : Nat
  n   : Nat
  shake : Bool
  h   : Nat
  w   : Nat
  p   : Nat
  ls  : Nat
deriving DecidableEq, Repr

/-- A level from its two typecodes. -/
def lmsPar (a b : Nat) : LmsPar :=
  let l := (lmsCode a).getD (32, 0, 5)
  let o := (otsCode b).getD (32, 0, 265)
  let i := (b - 1) % 4
  { typ := a, ots := b, n := l.1, shake := decide (2 ≤ l.2.1), h := l.2.2, w := 2 ^ i, p := o.2.2
    ls := ((if o.1 = 32 then [7, 6, 4, 0] else [8, 6, 4, 0]) : List Nat).getD i 0 }

/-- The levels that the parameter bytes of R100 name. -/
def hssPars (par : Bytes) : List LmsPar :=
  (List.range (byteAt par 1)).map (fun i => lmsPar (byteAt par (2 + i)) (byteAt par (10 + i)))

/-- The hash of a level. -/
def lmsH (p : LmsPar) (m : Bytes) : Bytes := if p.shake then shake256 m p.n else (sha256 m).take p.n

/-- The digits of a message hash with its checksum. -/
def lmsDigits (p : LmsPar) (q : Bytes) : List Nat :=
  let ds := base2b p.w (8 * p.n / p.w) q
  let sum := ds.foldl (fun a x => a + (2 ^ p.w - 1 - x)) 0 <<< p.ls
  ds ++ base2b p.w (p.p - 8 * p.n / p.w) (beBytes 2 sum)

/-- `s` steps of chain `i` of leaf `q` from step `j`. -/
def lmsChain (p : LmsPar) (pre : Bytes) (i : Nat) : Nat → Nat → Bytes → Bytes
  | 0, _, v => v
  | s + 1, j, v => lmsChain p pre i s (j + 1) (lmsH p (pre ++ beBytes 2 i ++ beBytes 1 j ++ v))

/-- The identifier of a leaf: I, then q. -/
def lmsPre (id : Bytes) (q : Nat) : Bytes := id ++ beBytes 4 q

/-- The secret of chain `i` of a leaf (SP 800-208, section 6.1). -/
def lmsX (p : LmsPar) (pre seed : Bytes) (i : Nat) : Bytes := lmsH p (pre ++ beBytes 2 i ++ [0xFF] ++ seed)

/-- The public key of a one-time key. -/
def lmsK (p : LmsPar) (pre seed : Bytes) : Bytes :=
  lmsH p (pre ++ [0x80, 0x80] ++ (List.range p.p).flatMap (fun i => lmsChain p pre i (2 ^ p.w - 1) 0 (lmsX p pre seed i)))

/-- The value of node `r` from the public key of a leaf. -/
def lmsLeaf (p : LmsPar) (id : Bytes) (q : Nat) (k : Bytes) : Bytes := lmsH p (lmsPre id (2 ^ p.h + q) ++ [0x82, 0x82] ++ k)

/-- The value of an inner node. -/
def lmsInner (p : LmsPar) (id : Bytes) (r : Nat) (a b : Bytes) : Bytes := lmsH p (lmsPre id r ++ [0x83, 0x83] ++ a ++ b)

/-- Node of height `z` and index `i` of the tree. -/
def lmsNode (p : LmsPar) (id seed : Bytes) : Nat → Nat → Bytes
  | 0, i => lmsLeaf p id i (lmsK p (lmsPre id i) seed)
  | z + 1, i => lmsInner p id (2 ^ (p.h - (z + 1)) + i) (lmsNode p id seed z (2 * i)) (lmsNode p id seed z (2 * i + 1))

/-- The public key of a level. -/
def lmsPub (p : LmsPar) (id root : Bytes) : Bytes := beBytes 4 p.typ ++ beBytes 4 p.ots ++ id ++ root

/-- The message hash of a leaf with its randomiser. -/
def lmsQ (p : LmsPar) (pre c m : Bytes) : Bytes := lmsH p (pre ++ [0x81, 0x81] ++ c ++ m)

/-- The signature of leaf `q` with randomiser `c`. -/
def lmsSign (p : LmsPar) (id seed c : Bytes) (q : Nat) (m : Bytes) : Bytes :=
  let pre := lmsPre id q
  beBytes 4 q ++ beBytes 4 p.ots ++ c ++
    ((lmsDigits p (lmsQ p pre c m)).zipIdx).flatMap (fun d => lmsChain p pre d.2 d.1 0 (lmsX p pre seed d.2)) ++
    beBytes 4 p.typ ++ (List.range p.h).flatMap (fun j => lmsNode p id seed j (sibling q j))

/-- Climb `h` levels from node `r` with the path that follows. -/
def lmsClimb (p : LmsPar) (id path : Bytes) : Nat → Nat → Bytes → Bytes
  | 0, _, v => v
  | h + 1, r, v =>
    let s := path.take p.n
    lmsClimb p id (path.drop p.n) h (r / 2) (lmsInner p id (r / 2) (if r % 2 = 0 then v else s) (if r % 2 = 0 then s else v))

/-- The root that a signature of one level gives for an identifier. -/
def lmsRoot (p : LmsPar) (id sig m : Bytes) : Bytes :=
  let q := ofBe (sig.take 4)
  let pre := lmsPre id q
  let y := sig.drop (8 + p.n)
  let ends := ((lmsDigits p (lmsQ p pre (slice sig 8 p.n) m)).zipIdx).flatMap (fun d =>
    lmsChain p pre d.2 (2 ^ p.w - 1 - d.1) d.1 (slice y (p.n * d.2) p.n))
  lmsClimb p id (sig.drop (12 + p.n * (p.p + 1))) p.h (2 ^ p.h + q) (lmsLeaf p id q (lmsH p (pre ++ [0x80, 0x80] ++ ends)))

/-- Does one level's signature verify? A leaf beyond the tree does not (R103). -/
def lmsVerify (p : LmsPar) (pub sig m : Bytes) : Bool :=
  let id := slice pub 8 16
  decide (ofBe (pub.take 4) = p.typ) && decide (ofBe (slice pub 4 4) = p.ots) && decide (ofBe (slice sig 4 4) = p.ots) &&
    decide (ofBe (slice sig (8 + p.n * (p.p + 1)) 4) = p.typ) && decide (ofBe (sig.take 4) < 2 ^ p.h) &&
    decide (lmsRoot p id sig m = pub.drop 24)

/-- HSS verification over the levels that remain. -/
def hssLevelsOk : List LmsPar → Bytes → Bytes → Bytes → Bool
  | [], _, _, _ => false
  | [p], pub, sig, m => lmsVerify p pub sig m
  | p :: t, pub, sig, m =>
    let n := lmsSig p.n p.p p.h
    let next := slice sig n (24 + p.n)
    lmsVerify p pub (sig.take n) next && hssLevelsOk t next (sig.drop (n + 24 + p.n)) m

/-- HSS verification (RFC 8554, section 6.3). -/
def hssVerify (ps : List LmsPar) (pub sig m : Bytes) : Bool :=
  decide (ofBe (pub.take 4) = ps.length) && decide (ofBe (sig.take 4) + 1 = ps.length) && hssLevelsOk ps (pub.drop 4) (sig.drop 4) m

/-- The code of a lower level's typecodes within its group: 1 + 4 × height index + width index. -/
def levelCode (p : LmsPar) : Byte := BitVec.ofNat 8 (1 + 4 * ((p.typ - 5) % 5) + (p.ots - 1) % 4)

/-- The secret of an HSS key of 2n bytes: the top tree's SEED and I, then the codes of levels 1–7 in the last bytes, 0
where there is no such level (DESIGN CHOICE, log 124: the spec says only that the held seeds determine the key). -/
def hssSecret (par r : Bytes) : Bytes :=
  let ps := hssPars par
  let n := ((ps.head?).map (·.n)).getD 32
  fit (2 * n - 8) r ++ [0] ++ (List.range 7).map (fun i => ((ps.drop (i + 1)).head?.map levelCode).getD 0)

/-- The parameter bytes of R100 that an HSS public key and its secret name. -/
def hssParOf (pub sec : Bytes) : Bytes :=
  let a := byteAt pub 7
  let b := byteAt pub 11
  let n := ((lmsCode a).map (·.1)).getD 32
  let low := ((List.range 7).map (fun i => byteAt sec (2 * n - 7 + i))).filter (· != 0)
  let lms := leBytes 1 a ++ low.map (fun x => BitVec.ofNat 8 (5 + (a - 5) / 5 * 5 + (x - 1) / 4 % 5))
  let ots := leBytes 1 b ++ low.map (fun x => BitVec.ofNat 8 (1 + (b - 1) / 4 * 4 + (x - 1) % 4))
  fit 24 ([1, BitVec.ofNat 8 (low.length + 1)] ++ fit 8 lms ++ fit 8 ots)

/-- The identifier and seed of a tree: level and tree number within it. The top tree's stand in the key's secret; how the
device derives those of the trees below it is open. -/
def hssTree (p : LmsPar) (sec : Bytes) (level tree : Nat) : Bytes × Bytes :=
  if level = 0 ∧ tree = 0 then (slice sec p.n 16, sec.take p.n)
  else
    let b := Config.hssSeed sec level tree
    (fit 16 b, fit p.n (b.drop 16))

/-- The public key of a tree. -/
def hssTreePub (p : LmsPar) (sec : Bytes) (level tree : Nat) : Bytes :=
  let x := hssTree p sec level tree
  lmsPub p x.1 (lmsNode p x.1 x.2 p.h 0)

/-- The HSS public key. -/
def hssPublic (ps : List LmsPar) (sec : Bytes) : Bytes :=
  match ps with
  | [] => []
  | p :: _ => beBytes 4 ps.length ++ hssTreePub p sec 0 0

/-- The levels' signatures from level `i`, whose leaf numbers all levels below it share in `leaf`. -/
def hssSigs (sec m : Bytes) : List LmsPar → Nat → Nat → Bytes
  | [], _, _ => []
  | p :: t, i, leaf =>
    let below := (t.map (·.h)).foldl (· + ·) 0
    let q := leaf / 2 ^ below % 2 ^ p.h
    let tree := leaf / 2 ^ below / 2 ^ p.h
    let x := hssTree p sec i tree
    let c := fit p.n (Config.lmsRandomiser sec i tree q)
    match t with
    | [] => lmsSign p x.1 x.2 c q m
    | p' :: _ =>
      let next := hssTreePub p' sec (i + 1) (leaf / 2 ^ below)
      lmsSign p x.1 x.2 c q next ++ next ++ hssSigs sec m t (i + 1) leaf

/-- The HSS signature of a leaf, the global index over the bottom level (R211). -/
def hssSign (ps : List LmsPar) (sec : Bytes) (leaf : Nat) (m : Bytes) : Bytes :=
  beBytes 4 (ps.length - 1) ++ hssSigs sec m ps 0 leaf

/-! ### XMSS and XMSS^MT -/

/-- A parameter set: OID, n, SHAKE256 or SHA-256, total height and layers. -/
structure XmssPar where
  oid : Nat
  n   : Nat
  shake : Bool
  h   : Nat
  d   : Nat
  idx : Nat
deriving DecidableEq, Repr

/-- The parameter set of the bytes of R100; `idx` is the length of an index in a signature. -/
def xmssPar (par : Bytes) : XmssPar :=
  let o := leAt par 4 4
  if byteAt par 0 = 2 then
    let x := (xmssCode o).getD (32, 10)
    { oid := o, n := x.1, shake := decide (0x10 ≤ o), h := x.2, d := 1, idx := 4 }
  else
    let x := (xmssmtCode o).getD (20, 2)
    { oid := o, n := 32, shake := false, h := x.1, d := x.2, idx := ceilDiv x.1 8 }

/-- The keyed hash with function number `f`. -/
def xmssF (p : XmssPar) (f : Nat) (key m : Bytes) : Bytes :=
  let b := beBytes (if p.n = 32 then 32 else 4) f ++ key ++ m
  if p.shake then shake256 b p.n else (sha256 b).take p.n

/-- The chains of a one-time key. -/
def xmssLen (p : XmssPar) : Nat := 2 * p.n + 3

/-- An address as bytes: `w1` to `w3` and the key-and-mask number follow the type. -/
def xmssAdrs (a : SlhAdrs) (km : Nat) : Bytes :=
  beBytes 4 a.layer ++ beBytes 8 a.tree ++ beBytes 4 a.typ ++ beBytes 4 a.w1 ++ beBytes 4 a.w2 ++ beBytes 4 a.w3 ++ beBytes 4 km

/-- The PRF with an address. -/
def xmssPrf (p : XmssPar) (seed : Bytes) (a : SlhAdrs) (km : Nat) : Bytes := xmssF p 3 seed (xmssAdrs a km)

/-- `s` steps of a chain from step `i`. -/
def xmssChain (p : XmssPar) (seed : Bytes) (a : SlhAdrs) : Nat → Nat → Bytes → Bytes
  | 0, _, v => v
  | s + 1, i, v =>
    let a := { a with w3 := i }
    xmssChain p seed a s (i + 1) (xmssF p 0 (xmssPrf p seed a 0) (xorB v (xmssPrf p seed a 1)))

/-- RAND_HASH. -/
def xmssHash (p : XmssPar) (seed : Bytes) (a : SlhAdrs) (l r : Bytes) : Bytes :=
  xmssF p 1 (xmssPrf p seed a 0) (xorB l (xmssPrf p seed a 1) ++ xorB r (xmssPrf p seed a 2))

/-- The parents of a row of nodes of an L-tree; a last odd node moves up. -/
def ltreeRow (f : Nat → Bytes → Bytes → Bytes) : Nat → List Bytes → List Bytes
  | i, a :: b :: t => f i a b :: ltreeRow f (i + 1) t
  | _, t => t

/-- The root of an L-tree, at most `n` rows from height `z`. -/
def ltree (p : XmssPar) (seed : Bytes) (a : SlhAdrs) : Nat → Nat → List Bytes → Bytes
  | 0, _, t => t.headD []
  | n + 1, z, t =>
    if t.length ≤ 1 then t.headD []
    else ltree p seed a n (z + 1) (ltreeRow (fun i => xmssHash p seed { a with typ := 1, w2 := z, w3 := i }) 0 t)

/-- The leaf of a one-time public key. -/
def xmssLeaf (p : XmssPar) (seed : Bytes) (a : SlhAdrs) (pk : List Bytes) : Bytes := ltree p seed { a with typ := 1 } 8 0 pk

/-- The secret of chain `i` (SP 800-208, PRF_keygen). -/
def xmssSk (p : XmssPar) (sk seed : Bytes) (a : SlhAdrs) (i : Nat) : Bytes :=
  xmssF p 4 sk (seed ++ xmssAdrs { a with w2 := i, w3 := 0 } 0)

/-- Node of height `z` and index `i` of the tree of an address. -/
def xmssNode (p : XmssPar) (sk seed : Bytes) (a : SlhAdrs) : Nat → Nat → Bytes
  | 0, i =>
    let a := { a with typ := 0, w1 := i }
    xmssLeaf p seed a ((List.range (xmssLen p)).map (fun j =>
      xmssChain p seed { a with w2 := j } 15 0 (xmssSk p sk seed a j)))
  | z + 1, i =>
    xmssHash p seed { a with typ := 2, w1 := 0, w2 := z, w3 := i } (xmssNode p sk seed a z (2 * i)) (xmssNode p sk seed a z (2 * i + 1))

/-- The height of one layer's tree. -/
def xmssHp (p : XmssPar) : Nat := p.h / p.d

/-- The one-time signature and the path of leaf `i` of one layer's tree. -/
def xmssTreeSig (p : XmssPar) (sk seed : Bytes) (a : SlhAdrs) (i : Nat) (m : Bytes) : Bytes :=
  let b := { a with typ := 0, w1 := i }
  ((wotsDigits p.n m).zipIdx).flatMap (fun d => xmssChain p seed { b with w2 := d.2 } d.1 0 (xmssSk p sk seed b d.2)) ++
    (List.range (xmssHp p)).flatMap (fun j => xmssNode p sk seed a j (sibling i j))

/-- Climb `h` levels from height `z` and index `i`. -/
def xmssClimb (p : XmssPar) (seed : Bytes) (a : SlhAdrs) (path : Bytes) : Nat → Nat → Nat → Bytes → Bytes
  | 0, _, _, v => v
  | h + 1, z, i, v =>
    let s := slice path (p.n * z) p.n
    let a' := { a with typ := 2, w1 := 0, w2 := z, w3 := i / 2 }
    xmssClimb p seed a path h (z + 1) (i / 2) (if i % 2 = 0 then xmssHash p seed a' v s else xmssHash p seed a' s v)

/-- The root that one layer's signature gives. -/
def xmssTreeRoot (p : XmssPar) (seed : Bytes) (a : SlhAdrs) (i : Nat) (sig m : Bytes) : Bytes :=
  let b := { a with typ := 0, w1 := i }
  let pk := ((wotsDigits p.n m).zipIdx).map (fun d => xmssChain p seed { b with w2 := d.2 } (15 - d.1) d.1 (slice sig (p.n * d.2) p.n))
  xmssClimb p seed a (sig.drop (p.n * xmssLen p)) (xmssHp p) 0 i (xmssLeaf p seed b pk)

/-- The bytes of one layer's signature. -/
def xmssLayerLen (p : XmssPar) : Nat := p.n * (xmssLen p + xmssHp p)

/-- The signatures of `d` layers from layer `j`. -/
def xmssSigs (p : XmssPar) (sk seed : Bytes) : Nat → Nat → Nat → Bytes → Bytes
  | 0, _, _, _ => []
  | d + 1, j, idx, m =>
    let i := idx % 2 ^ xmssHp p
    let a : SlhAdrs := { layer := j, tree := idx / 2 ^ xmssHp p }
    xmssTreeSig p sk seed a i m ++ xmssSigs p sk seed d (j + 1) (idx / 2 ^ xmssHp p) (xmssNode p sk seed a (xmssHp p) 0)

/-- The root that the signatures of `d` layers from layer `j` give. -/
def xmssRoots (p : XmssPar) (seed sig : Bytes) : Nat → Nat → Nat → Bytes → Bytes
  | 0, _, _, m => m
  | d + 1, j, idx, m =>
    xmssRoots p seed sig d (j + 1) (idx / 2 ^ xmssHp p)
      (xmssTreeRoot p seed { layer := j, tree := idx / 2 ^ xmssHp p } (idx % 2 ^ xmssHp p) (slice sig (j * xmssLayerLen p) (xmssLayerLen p)) m)

/-- The message hash of an index. -/
def xmssMsg (p : XmssPar) (r root : Bytes) (idx : Nat) (m : Bytes) : Bytes := xmssF p 2 (r ++ root ++ beBytes p.n idx) m

/-- The public key of a secret SK_SEED ‖ SK_PRF and a public seed: the OID, the root of the top tree, the seed. -/
def xmssPublic (p : XmssPar) (sec seed : Bytes) : Bytes :=
  beBytes 4 p.oid ++ xmssNode p (sec.take p.n) seed { layer := p.d - 1 } (xmssHp p) 0 ++ seed

/-- The signature of a leaf; the randomiser is the PRF of SK_PRF and the leaf (R63). -/
def xmssSign (p : XmssPar) (sec pub : Bytes) (leaf : Nat) (m : Bytes) : Bytes :=
  let seed := slice pub (4 + p.n) p.n
  let r := xmssF p 3 (slice sec p.n p.n) (beBytes 32 leaf)
  beBytes p.idx leaf ++ r ++ xmssSigs p (sec.take p.n) seed p.d 0 leaf (xmssMsg p r (slice pub 4 p.n) leaf m)

/-- XMSS and XMSS^MT verification; a leaf beyond the tree does not verify (R103). -/
def xmssVerify (p : XmssPar) (pub sig m : Bytes) : Bool :=
  let idx := ofBe (sig.take p.idx)
  let root := slice pub 4 p.n
  decide (ofBe (pub.take 4) = p.oid) && decide (idx < 2 ^ p.h) &&
    decide (xmssRoots p (slice pub (4 + p.n) p.n) (sig.drop (p.idx + p.n)) p.d 0 idx (xmssMsg p (slice sig p.idx p.n) root idx m) = root)

/-! ### The stateful schemes of Table 8-4 -/

/-- The public key of a stateful key: parameter bytes of R100, secret, and the public seed of XMSS. -/
def sfsPublic (par sec seed : Bytes) : Bytes :=
  if byteAt par 0 = 1 then hssPublic (hssPars par) sec else xmssPublic (xmssPar par) sec seed

/-- The signature of a leaf. -/
def sfsSign (par sec pub : Bytes) (leaf : Nat) (m : Bytes) : Bytes :=
  if byteAt par 0 = 1 then hssSign (hssPars par) sec leaf m else xmssSign (xmssPar par) sec pub leaf m

/-- Is a stateful signature valid (R103)? -/
def sfsVerify (par pub sig m : Bytes) : Bool :=
  if byteAt par 0 = 1 then hssVerify (hssPars par) pub sig m else xmssVerify (xmssPar par) pub sig m

/-- The root that leaf 0 of the top tree gives: its one-time public key and its authentication path (R519). -/
def sfsRoot0 (par sec seed : Bytes) : Bytes :=
  if byteAt par 0 = 1 then
    match hssPars par with
    | [] => []
    | p :: _ =>
      let x := hssTree p sec 0 0
      lmsClimb p x.1 ((List.range p.h).flatMap (fun j => lmsNode p x.1 x.2 j (sibling 0 j))) p.h (2 ^ p.h)
        (lmsLeaf p x.1 0 (lmsK p (lmsPre x.1 0) x.2))
  else
    let p := xmssPar par
    let a : SlhAdrs := { layer := p.d - 1 }
    xmssClimb p seed a ((List.range (xmssHp p)).flatMap (fun j => xmssNode p (sec.take p.n) seed a j (sibling 0 j))) (xmssHp p) 0 0
      (xmssNode p (sec.take p.n) seed a 0 0)

end Sys2Proof.Machine
end

