-- ==== Sys2Proof/Machine/Vault.lean ====
section
/-! DEFINITION. The key vault: roots, generations, resolution, the install journal, lineage broadcasts
(chapter 11) and counter records (chapter 09). -/
namespace Sys2Proof.Machine
open Sys2Proof

/-! ### Generations and parents (R247, R250, R251, R346) -/

/-- A generation-table entry. -/
def genE (s : State) (n : Nat) : GenEntry := Tbl.get {} s.bbram.gens n
/-- BBRAM words written by the vault and read back (R213, R250): the count, and KVT checker 0. -/
def wordsOut (n : Nat) (s : State) : State := access .kvt 0 0 3 false 0 0 none (blkEvent .kvt 0x13 n s)
/-- Has an injection hit a word written between two states (R456)? -/
def kvtHit (s t : State) : Bool := injArmed s .kvt 0 0 && (fltU t .kvt 0).iLeft != (fltU s .kvt 0).iLeft

/-- Write a generation-table entry; the vault reads it back. -/
def setGen (n : Nat) (e : GenEntry) (s : State) : State :=
  wordsOut 1 (dropCuts (fun x => x.gens.any (·.1 == n)) { s with bbram := { s.bbram with gens := Tbl.set {} s.bbram.gens n e } })

/-- The adopted domain an instance runs on, if any (R346). -/
def adoptedOf (s : State) (i : Nat) : Option AdoptDom :=
  (instU s i).adopted.map (fun k => Tbl.get {} s.bbram.adopted k)

/-- The generation-table entry that a nominal class entry of an instance stands for (R346). -/
def entryOf (s : State) (i n : Nat) : Nat :=
  match (adoptedOf s i).bind (fun a => a.aliases.find? (fun p => p.1 == n)) with
  | some p => p.2
  | none => n

/-- The domain key of an instance under the generation in force, none without a root (R247, R346). -/
def domainSecret (s : State) (i : Nat) : Option Bytes :=
  match s.kvt.root with
  | none => none
  | some r => match adoptedOf s i with
    | some a => some (a.key.take 32)
    | none => some (domainKey r i (fit 8 (instU s i).label) (genE s i).gen)

/-- The header key of an instance; an adopted domain keeps its source's. -/
def headerSecret (s : State) (i : Nat) : Option Bytes :=
  match s.kvt.root with
  | none => none
  | some r => match adoptedOf s i with
    | some a => some (a.key.drop 32)
    | none => some (headerKey r i)

/-- The domain handle of an instance under its current generation. -/
def domainHandle (s : State) (i : Nat) : Nat := mkHandle s.tlk.position i 1 0 (genE s i).gen

/-- Is a class entry stale or free, and neither retired nor unreadable (R250, R251)? -/
def entryOpen (s : State) (n : Nat) : Bool :=
  let e := genE s n
  !e.unreadable && e.gen != 0xFFFF && (e.st != 1 || e.parentGen != (genE s e.inst).gen)

/-- The lowest class entry an install can claim (R251). -/
def claimEntry (s : State) : Option Nat :=
  let aliased := s.bbram.adopted.flatMap (fun p => p.2.aliases.map (·.1))
  ((List.range 7936).map (· + 256)).find? (fun n => entryOpen s n && !s.kvt.claims.contains n && !aliased.contains n)

/-- The status of a key's generation checks (R250, R256 step 6): none where they pass. -/
def genCheck (s : State) (k : KeyObj) : Option Nat :=
  let i := hInst k.handle
  let d := genE s i
  let nominal := if k.level = 2 then hIndex k.handle else bitsOf k.tag 43 13
  let e := genE s (entryOf s i nominal)
  if d.unreadable ∨ (1 < k.level ∧ nominal ≠ 0 ∧ e.unreadable) then some stsFault
  else
    let ok := match k.level with
      | 1 => hGen k.handle == d.gen
      | 2 => hGen k.handle == d.gen && e.parentGen == d.gen
      | _ => if nominal = 0 then hGen k.handle == d.gen else hGen k.handle == e.gen && e.parentGen == d.gen
    if ok then none else some stsKeyOrphaned

/-- The generation checks of a pending key: the entry of a new class key has its parent's generation from KEY_COMMIT on
(R251, R259). -/
def pendCheck (s : State) (k : KeyObj) : Option Nat :=
  if k.level = 2 then
    let d := genE s (hInst k.handle)
    if d.unreadable then some stsFault else if hGen k.handle = d.gen then none else some stsKeyOrphaned
  else genCheck s k

/-- The instances granted use of a handle (R99). -/
def grantsOf (s : State) (h : Nat) : List Nat := Tbl.get [] s.kvt.grants h
/-- Write the grants of a handle. -/
def setGrants (h : Nat) (l : List Nat) (s : State) : State :=
  { s with kvt := { s.kvt with grants := Tbl.set [] s.kvt.grants h l } }

/-! ### Residency -/

/-- The resident record of a handle. -/
def resU (s : State) (h : Nat) : Option Resident := Tbl.get none s.kvt.res h
/-- Write a resident record, or take it away. -/
def setResident (h : Nat) (r : Option Resident) (s : State) : State :=
  { s with kvt := { s.kvt with res := Tbl.set none s.kvt.res h r } }

/-- The Pannier bytes of a record (R255): its current, superseded and pending keys. -/
def recordBytes (r : Resident) : Nat :=
  (((r.cur.toList ++ r.pend.toList) ++ r.old.map (·.2)).map residentBytes).sum

/-- The Pannier bytes an instance uses. -/
def usedBytes (s : State) (i : Nat) : Nat :=
  ((s.kvt.res.filter (fun p => hInst p.1 == i)).map (fun p => match p.2 with
    | some r => recordBytes r
    | none => 0)).sum

/-- The Pannier quota of an instance in bytes; instance 0 has MEM_MGR_QUOTA (Table 15-1). -/
def quotaBytes (s : State) (i : Nat) : Nat := (if i = 0 then s.mem.mgrQuota else (instU s i).quota) * 0x100000

/-- Can an instance's quota take a key more? -/
def quotaFits (s : State) (i : Nat) (k : KeyObj) : Bool := decide (usedBytes s i + residentBytes k ≤ quotaBytes s i)

/-- A record with nothing left is gone. -/
def tidyRes (r : Resident) : Option Resident :=
  if r.cur.isNone ∧ r.old.isEmpty ∧ r.pend.isNone then none else some r

/-- Superseded records that no waiting command can use are freed (R258, R260). -/
def freeOld (s : State) : State :=
  let used (x : Nat × KeyObj) : Bool := x.1 == 2 ^ 64 || s.hif.cmds.any (fun c => c.phase == .waiting && decide (c.subm < x.1))
  { s with
    kvt := { s.kvt with
      res := s.kvt.res.map (fun p => (p.1, p.2.map (fun r => { r with old := r.old.filter used }))) } }

/-- The key a command of submission stamp `subm` uses (R96, R260). With no earlier key of the handle, a command submitted
before the commit's reply and dispatched after it uses the new key (DESIGN CHOICE, log 116). -/
def keyFor (r : Resident) (subm : Nat) : Option KeyObj :=
  match r.old.find? (fun x => decide (subm < x.1)) with
  | some x => some x.2
  | none => if r.oldCmd.isSome then none else r.cur

/-! ### Resolution (R256) -/

/-- What a resolution finds. -/
inductive Found where
  | key (k : KeyObj)
  | fail (r : Result)
  | remote (p : Nat)
deriving DecidableEq, Repr

/-- What an opcode asks of a handle: the levels it accepts, whether a share suffices, whether a pending install
is accepted, whether it is the pending install that is meant (R95, R97), whether an orphan is accepted, and the classes. -/
structure Want where
  levels  : List Nat
  shared  : Bool := false
  pending : Bool := false
  install : Bool := false
  orphan  : Bool := false
  ok      : KeyObj → Bool := fun _ => true

/-- Where a handle's home is (R256 step 1, R365, R369): here, on a member, unknown, or lost. -/
def homeFind (s : State) (major h : Nat) : Option Found :=
  let p := hHome h
  if major = 2 ∧ p ≠ 0 then some (.fail (justStatus stsKeyUnknown))
  else if p = s.tlk.position then none
  else if s.tlk.lost.testBit p ∨ (s.tlk.isolated ∧ s.tlk.present.testBit p) then some (.fail (withHint stsRemoteLost 0xFFFF))
  else if s.tlk.formed ∧ s.tlk.present.testBit p then some (.remote p)
  else some (.fail (justStatus stsKeyUnknown))

/-- Steps 2–7 of R256, for a command of instance `i` with submission stamp `subm`. -/
def resolveHere (s : State) (i subm : Nat) (w : Want) (h : Nat) : Found :=
  let bad (st : Nat) : Found := .fail (justStatus st)
  if ¬ w.levels.contains (hLevel h) then bad stsKeyClass
  else
    let r := resU s h
    let shared : Bool := w.shared && (grantsOf s h).contains i
    if hInst h ≠ i ∧ ¬ shared then bad stsKeyForeign
    else if hLevel h = 1 then
      match domainSecret s i with
      | none => bad stsKeyUnknown
      | some sec =>
        let k : KeyObj := { handle := h, level := 1, cls := 0x2001, tag := mkTag i 0 (hGen h) 0 0, secret := sec }
        if hIndex h ≠ 0 then bad stsKeyUnknown
        else match genCheck s k with
          | some st => bad st
          | none => if w.ok k then .key k else bad stsKeyClass
    else match r with
    | none => bad stsKeyUnknown
    | some r =>
      match (if w.pending ∧ (w.install ∨ (keyFor r subm).isNone) then r.pend else none), keyFor r subm with
      | some k, _ => match (if w.install then none else pendCheck s k) with
        | some st => bad st
        | none => if w.ok k then .key k else bad stsKeyClass
      | none, none => .fail (withHint stsKeyPending 0xFFFF)
      | none, some k => match (if w.orphan then none else genCheck s k) with
        | some st => bad st
        | none => if w.ok k then .key k else bad stsKeyClass

/-- Resolve a handle for a command (R256). -/
def resolve (s : State) (c : Cmd) (w : Want) (h : Nat) : Found :=
  match homeFind s (qpU s c.port c.q).accMajor h with
  | some f => f
  | none => resolveHere s (cmdInst c) c.subm w h

/-- The classes an operation accepts for the key of its handle (R64, Tables 3-3 to 3-7, R516). -/
def classOk (op : Op) (p : Bytes) (k : KeyObj) : Bool :=
  let c := k.cls
  match op with
  | .kem s 1 => c == 0x1100 + s
  | .kem s _ => c == 0x0100 + s
  | .sig s o =>
    let base := if o = 1 then 0x1200 else 0x0200
    if s = 0xF then c == base + 0x0F || c == base + 0x1F || c == base + 0x2F else c == base + s
  | .keyed alg => if alg ≤ 3 then c == 0x0310 else c == 0x0318
  | .sym o => if o / 16 = 0x065 then c == 0x0630 || c == 0x0640 else c == 0x0610 || c == 0x0618 || c == 0x0620
  | .key o => match o with
    | 0x0501 => genAccepts (leAt p 40 2) && (leAt p 40 2 != 0x2000 || k.level == 1)
    | 0x0502 => importAccepts (leAt p 40 2)
    | 0x0503 => !k.stateful && (if byteAt p 43 = 0 then genAccepts c else importAccepts c)
    | 0x0509 => k.attr.testBit 0 && !k.stateful
    | 0x050A => clsRole c == 0 && (k.stateful || decide (0 < publicLen c))
    | 0x050C => k.attr.testBit 1 && !k.stateful
    | 0x0510 => clsRole c == 0 && clsFam c == 1 && agreeAccepts (leAt p 40 2)
    | _ => true
  | .sfs o => if o = 0x0810 then true else clsFam c == 8
  | _ => true

/-- What each operation asks of the key handle in its packet (R256 step 2). -/
def wantOf (op : Op) (p : Bytes) : Want :=
  let g := opGroup op == some 0
  let ok := classOk op p
  match op with
  | .key o => match o with
    | 0x0501 => { levels := [1, 2], ok := ok }
    | 0x0502 => { levels := [1, 2], ok := ok }
    | 0x0508 => { levels := [1, 2], ok := ok }
    | 0x0504 => { levels := [2, 3], pending := true, install := true, ok := ok }
    | 0x0505 => { levels := [2, 3], pending := true, install := true, ok := ok }
    | 0x0507 => { levels := [2, 3], ok := ok }
    | 0x050B => { levels := [1, 2, 3], shared := true, pending := true, ok := ok }
    | _ => { levels := [3], shared := g, ok := ok }
  | .sfs o => match o with
    | 0x0810 => { levels := [1, 2], ok := ok }
    | 0x0813 => { levels := [3], orphan := true, ok := ok }
    | _ => { levels := [3], ok := ok }
  | _ => { levels := [3], shared := g, ok := ok }

/-- The parent key that a key is wrapped under: the domain key, or the class key of its tag; none where a class
key is not resident. -/
def parentKey (s : State) (k : KeyObj) : Option KeyObj :=
  let i := hInst k.handle
  let dg := (genE s i).gen
  let n := if k.level = 2 then 0 else bitsOf k.tag 43 13
  if n = 0 then
    (domainSecret s i).map (fun sec =>
      { handle := mkHandle (hHome k.handle) i 1 0 dg, level := 1, cls := 0x2001, tag := mkTag i 0 dg 0 0, secret := sec })
  else (resU s (mkHandle (hHome k.handle) i 2 n dg)).bind (·.cur)

/-- The generation a child of a parent carries: the domain's, or the class entry's. -/
def childGen (s : State) (p : KeyObj) : Nat :=
  let i := hInst p.handle
  if p.level = 1 then (genE s i).gen else (genE s (entryOf s i (hIndex p.handle))).gen

/-- The wrapped blob of a key (R253), with its IV from open bytes. -/
def blobOf (k : KeyObj) (s : State) : Option (Bytes × State) :=
  match headerSecret s (hInst k.handle), parentKey s k with
  | some hk, some p =>
    let r := freeBytes 12 s
    some (mkBlob hk (wrapKey p.secret (childGen s p)) r.1 k, r.2)
  | _, _ => none

/-! ### Lineage broadcasts (R129, R262, R264) -/

/-- Every engine whose key matches is marked; an idle one clears its key (R129, R264). -/
def markEngines (c : Cast) (s : State) : State :=
  (List.range 64).foldl (fun s n => match (eng s n).key with
    | some k =>
      if castHit c k.tag.toNat then
        if (eng s n).cmd.isNone ∧ ¬ (eng s n).lend then updEng n (fun e => { e with key := none }) s
        else updEng n (fun e => { e with key := some { k with marked := true } }) s
      else s
    | none => s) s

/-- The other members of the cascade that a route reaches. -/
def reachableOthers (s : State) : List Nat :=
  (List.range 8).filter (fun p => p != s.tlk.position && s.tlk.present.testBit p && !s.tlk.lost.testBit p &&
    !s.tlk.isolated && hasRoute s p)

/-- The BCAST of a broadcast to every reachable device, whose acknowledgement the command's reply waits for (R366). -/
def castOthers (id : Nat) (c : Cast) (s : State) : State :=
  let others := if s.tlk.formed then reachableOthers s else []
  if others.isEmpty then s
  else
    let s := others.foldl (fun s p =>
      sendTo p 0x23 id (leBytes 8 c.value ++ leBytes 8 c.mask) s) s
    { s with tlk := { s.tlk with bcasts := s.tlk.bcasts ++ [(id, others)] } }

/-- The vault's broadcast: the engines here and in every reachable device. -/
def broadcast (id : Nat) (c : Cast) (s : State) : State := castOthers id c (markEngines c s)

/-- The key versions that the commit of command `id` supersedes (R96). -/
def supersededBy (s : State) (id : Nat) : List KeyObj :=
  s.kvt.res.flatMap (fun p => match p.2 with
    | some r => if r.oldCmd = some id then (r.old.filter (fun x => x.1 == 2 ^ 64)).map (·.2) else []
    | none => [])

/-! ### The install journal (R258–R261) -/

/-- A journal slot. -/
def slotU (s : State) (n : Nat) : JSlot := Tbl.get {} s.bbram.journal n
/-- Write a journal slot. -/
def setSlot (n : Nat) (j : JSlot) (s : State) : State :=
  dropCuts (fun x => x.slots.any (·.1 == n)) { s with bbram := { s.bbram with journal := Tbl.set {} s.bbram.journal n j } }

/-- Is a record valid: its check byte is correct and its kind is not 0? -/
def jValid (r : JRec) : Bool := r.valid && r.kind != 0
/-- Is a slot committed: a valid COMMIT record for the handle and version of its PENDING record? -/
def jCommitted (j : JSlot) : Bool :=
  jValid j.pend && j.pend.kind == 1 && jValid j.commit && j.commit.handle == j.pend.handle && j.commit.version == j.pend.version
/-- Is a slot PENDING: an install waits for its commit? -/
def jPending (j : JSlot) : Bool := jValid j.pend && j.pend.kind == 1 && !jCommitted j
/-- Is a slot empty? -/
def jEmpty (j : JSlot) : Bool := !jValid j.pend && !jValid j.commit

/-- The sequence number of a slot's newest record (R259). -/
def jNewest (j : JSlot) (now : Nat) : Nat :=
  let age (x : Nat) := (now + 2 ^ 24 - x) % 2 ^ 24
  if jValid j.commit ∧ age j.commit.jseq < age j.pend.jseq then j.commit.jseq else j.pend.jseq
/-- The age of a slot (R259). -/
def jAge (s : State) (n : Nat) : Nat := (s.kvt.jseq + 2 ^ 24 - jNewest (slotU s n) s.kvt.jseq) % 2 ^ 24

/-- The pending installs of the device (R94). -/
def pendingCount (s : State) : Nat := ((List.range 256).filter (fun n => jPending (slotU s n))).length

/-- The slot an install takes: an empty one, else the oldest that is not PENDING; ties go to the lower number. -/
def takeSlot (s : State) : Option Nat :=
  match (List.range 256).find? (fun n => jEmpty (slotU s n)) with
  | some n => some n
  | none =>
    ((List.range 256).filter (fun n => !jPending (slotU s n))).foldl (fun b n => match b with
      | none => some n
      | some m => if jAge s m < jAge s n then some n else some m) none

/-- Is there room for another pending install (R94)? -/
def installRoom (s : State) : Bool := decide (pendingCount s < 256) && (takeSlot s).isSome

/-- The Pannier bytes of a new key (R255): secret, public part and extended body. -/
def newBytes (secret pub body : Nat) : Nat := 64 * ceilDiv (32 + secret + pub + body) 64 + 22

/-- The Pannier bytes that an install will need as its class gives them; 0 for an operation that installs nothing. -/
def installBytes (op : Op) (p : Bytes) (k : Option KeyObj) : Nat :=
  let ofClass (cls n : Nat) : Nat :=
    newBytes (if cls = 0x2000 then 32 else secretLen cls n) (publicLen cls) (if clsExt cls then clsBody cls + 32 else 0)
  match op with
  | .key 0x0501 => ofClass (leAt p 40 2) (byteAt p 47)
  | .key 0x0502 => ofClass (leAt p 40 2) (byteAt p 47)
  | .key 0x0510 => ofClass (leAt p 40 2) (byteAt p 47)
  | .key 0x0503 => (k.map (fun k => ofClass k.cls k.secret.length)).getD 0
  | .sfs 0x0810 => ((sfsParams (p.drop 40)).map (fun d => newBytes (2 * d.n) d.pub 0)).getD 0
  | _ => 0

/-- Check 10 of Table 2-4 for an install (R94, R251): a pending slot, a class entry for a class key, Pannier space. -/
def quotaCheck (s : State) (i : Nat) (op : Op) (p : Bytes) (k : Option KeyObj) : Option Result :=
  let n := installBytes op p k
  let busy := (match op with | .key 0x0503 => true | _ => false) && ((resU s (pKey p)).bind (·.pend)).isSome
  if n = 0 ∨ busy then none
  else if ¬ installRoom s ∨ (op = .key 0x0501 ∧ leAt p 40 2 = 0x2000 ∧ (claimEntry s).isNone) then some (withHint stsQuota 0xFFFF)
  else if quotaBytes s i < usedBytes s i + n then some (justStatus stsQuota)
  else none

/-- A journal record for a key, with the next sequence number. -/
def jRec (kind install entry : Nat) (k : KeyObj) (blob : Bytes) (s : State) : JRec × State :=
  let q := (s.kvt.jseq + 1) % 2 ^ 24
  ({ kind := kind, install := install, version := k.version, handle := k.handle, cls := k.cls, entry := entry,
     digest := (sha3_256 blob).take 12, jseq := q, valid := true },
   { s with kvt := { s.kvt with jseq := q } })

/-- The journal stages of a new PENDING record (R259): nothing written, a torn record, the new record with the slot's old
COMMIT record. -/
def pendStages (n : Nat) (old : JSlot) (r : JRec) : List BbStage :=
  [{ slots := [(n, old)] }, { slots := [(n, { old with pend := {} })] }, { slots := [(n, { old with pend := r })] }]

/-- PENDING_REWRITE (R259): a PENDING record that reaches age 2^22 is rewritten with a new sequence number. -/
def execPendingRewrite (slot : Fin 256) (s : State) : Res :=
  .next (
    let j := slotU s slot
    if jPending j then
      let q := (s.kvt.jseq + 1) % 2 ^ 24
      setSlot slot { j with pend := { j.pend with jseq := q } } { s with kvt := { s.kvt with jseq := q } }
    else s)

/-- Recovery of one slot at BOOT (Table 11-8). -/
def recoverSlot (s : State) (n : Nat) : State :=
  let j := slotU s n
  let keep : JSlot := { j with commit := {} }
  if jValid j.pend ∧ j.pend.kind = 3 then s
  else if jCommitted j then s
  else if jPending j then
    let s := if j.pend.install = 1 ∧ (genE s j.pend.entry).st = 1 ∧ (genE s j.pend.entry).inst = hInst j.pend.handle ∧
        (genE s j.pend.entry).parentGen = hGen j.pend.handle then
        setGen j.pend.entry { genE s j.pend.entry with st := 0 } s
      else s
    setSlot n { keep with pend := { j.pend with kind := 3 } } s
  else if jValid j.commit then setSlot n {} s
  else s

/-- The newest sequence number of the journal, read at recovery. -/
def journalTop (s : State) : Nat :=
  (List.range 256).foldl (fun m n =>
    let j := slotU s n
    let f (m : Nat) (r : JRec) := if jValid r ∧ (m = 0 ∨ (r.jseq + 2 ^ 24 - m) % 2 ^ 24 < 2 ^ 23) then r.jseq else m
    f (f m j.pend) j.commit) 0

/-! ### Leaf indices (R252) -/

/-- The cursor of a parent entry: the reserved mark until its first use since BOOT. -/
def cursorOf (s : State) (entry : Nat) : Nat :=
  match Tbl.get 0 s.kvt.cursor entry with
  | 0 => (genE s entry).nextIndex
  | n + 1 => n

/-- The next index from the cursor on that no resident handle has. -/
def freeIndex (s : State) (h : Nat → Nat) : Nat → Nat → Nat
  | 0, n => n
  | fuel + 1, n => if (resU s (h n)).isSome then freeIndex s h fuel (n + 1) else n

/-- Take a leaf index under a parent entry; none past 2^35 − 1. Blocks of 65,536 are reserved first. -/
def takeIndex (entry : Nat) (h : Nat → Nat) (s : State) : Option (Nat × State) :=
  let c := freeIndex s h (s.kvt.res.length + 1) (cursorOf s entry)
  if 2 ^ 35 ≤ c then none
  else
    let e := genE s entry
    let s := if e.nextIndex ≤ c then setGen entry { e with nextIndex := min (2 ^ 35) (max (e.nextIndex + 65536) (c + 1)) } s else s
    some (c, { s with kvt := { s.kvt with cursor := Tbl.set 0 s.kvt.cursor entry (c + 2) } })

/-! ### Counter records (R211–R222) -/

/-- The slot whose record holds a state identifier. A damaged record counts where either copy names it. -/
def recFind (s : State) (sid : Nat) : Option Nat :=
  (List.range 1024).find? (fun n => match viewRec (recU s n) with
    | .held c _ => c.stateId == sid
    | .lost => (recU s n).a.stateId == sid || (recU s n).b.stateId == sid
    | .free => false)

/-- The live record of a state identifier: its slot and copy in force. -/
def recLive (s : State) (sid : Nat) : Option (Nat × RecCopy) :=
  match recFind s sid with
  | some n => match viewRec (recU s n) with
    | .held c _ => if c.closed then none else some (n, c)
    | _ => none
  | none => none

/-- The slot a stateful KEY_COMMIT claims (R214): a free one, else the lowest-numbered closed one. -/
def recClaim (s : State) : Option Nat :=
  match (List.range 1024).find? (fun n => viewRec (recU s n) == .free) with
  | some n => some n
  | none => (List.range 1024).find? (fun n => match viewRec (recU s n) with
    | .held c _ => c.closed
    | _ => false)

/-- A record found damaged (R212): TMP checker 0, and KVT_SFS_STATUS.records_lost. -/
def noteLost (n : Nat) (s : State) : State :=
  let s := record { blk := .tmp, checker := 0, cls := 1 } s
  if s.kvt.recsLost.contains n then s else { s with kvt := { s.kvt with recsLost := n :: s.kvt.recsLost } }

/-- Write words of a record and read them back (R213; KVT checker 0). Where the cells do not take the write, the copy
written is void and the mismatch is a DEVICE fault. -/
def putPair (n words : Nat) (p : RecPair) (s : State) : State :=
  if s.bbram.badRecs.contains n then
    let inj := injArmed s .kvt 0 0
    let s := blkEvent .kvt 0x13 words (setRec n (voidOther (recU s n)) s)
    faultAt { blk := .kvt, checker := 0, cls := 3, inj := inj } none (if inj then injUse .kvt 0 s else s)
  else wordsOut words (setRec n p s)

/-- Write a record's next copy (R213). -/
def putRec (n : Nat) (c : RecCopy) (s : State) : State := putPair n 2 (writeCopy (recU s n) c) s

/-- Close a record: the same identifier and mark, live 0, closed 1 (R222). -/
def closeRec (n : Nat) (s : State) : State :=
  match viewRec (recU s n) with
  | .held c _ => putRec n (closedCopy c) s
  | _ => s

/-- Clear a closed or lost record (R213); its cursor goes with it. -/
def clearRec (n : Nat) (s : State) : State :=
  let s := putPair n 4 {} s
  { s with
    bbram := { s.bbram with recOwner := Tbl.set 0 s.bbram.recOwner n 0 }
    kvt := { s.kvt with sfsCursor := Tbl.del s.kvt.sfsCursor n, recsLost := s.kvt.recsLost.filter (· != n) } }

/-- Start a record in a free or closed slot for a key of an instance (R214, step 3): the slot is cleared first, and no
cursor of an earlier key stays with it. -/
def startRec (n inst : Nat) (c : RecCopy) (s : State) : State :=
  let s := if viewRec (recU s n) = .free then s else clearRec n s
  let s := putPair n 2 { a := sealCopy { c with seq := 1, live := true } } s
  { s with
    bbram := { s.bbram with recOwner := Tbl.set 0 s.bbram.recOwner n (inst + 1) }
    kvt := { s.kvt with sfsCursor := Tbl.del s.kvt.sfsCursor n } }

/-- The pairs that an outage can leave of closing and clearing a record (R222). -/
def retireStages (p : RecPair) : List RecPair :=
  match viewRec p with
  | .held c _ => if c.closed then [p, voidOther p] else
      let q := writeCopy p (closedCopy c)
      [p, q, voidOther q]
  | _ => [p, voidOther p]

/-- The pairs that an outage can leave of starting a record in a slot (R214). -/
def startStages (p : RecPair) : List RecPair := if viewRec p = .free then [p] else [p, voidOther p, {}]

/-- The cursor of a state identifier's slot: its mark until the first use since BOOT (R215). -/
def sfsCursor (s : State) (n : Nat) (c : RecCopy) : Nat := (Tbl.get none s.kvt.sfsCursor n).getD c.hwm

/-- Leaves total of a stateful key (R211). -/
def leavesTotal (par : Bytes) : Nat := match sfsParams par with | some d => 2 ^ d.height | none => 0

/-- What taking a leaf gives. -/
inductive LeafTake where
  | leaf (n : Nat) (s : State)
  | fail (st : Nat) (s : State)

/-- The height of a stateful key's bottom trees (R225). -/
def bottomHeight (par : Bytes) : Nat :=
  if byteAt par 0 = 1 then ((hssPars par).getLast?.map (·.h)).getD 0 else xmssHp (xmssPar par)

/-- The leaf factor of a set in hundredths of a hundredth (Table 8-10): Winternitz factor times hash factor. -/
def leafFactor (par : Bytes) : Nat :=
  if byteAt par 0 = 1 then
    match (hssPars par).getLast? with
    | none => 10000
    | some p =>
      (match p.n, p.w with
        | 32, 1 => 26 | 32, 2 => 40 | 32, 4 => 100 | 32, _ => 860
        | _, 1 => 20 | _, 2 => 30 | _, 4 => 76 | _, _ => 660) * (if p.shake then 125 else 100)
  else (if (xmssPar par).n = 32 then 100 else 76) * (if (xmssPar par).shake then 125 else 100)

/-- The engine time of a tree-cache build in 10 ns ticks (R225, R519): 1.3 µs times the leaf factor a leaf for LMS and
1.95 µs for XMSS at order 1; 0.80 of it at order 0, the divisors of R19 above. -/
def buildTicks (par : Bytes) (order : Nat) : Nat :=
  2 ^ bottomHeight par * (if byteAt par 0 = 1 then 130 else 195) * leafFactor par *
    (match order with | 0 => 8 | 1 => 10 | 2 => 28 | _ => 50) / 100000

/-- The caches of the bottom tree that a leaf lies in are there, or are built on the hash array and charged (R225). -/
def buildTree (k : KeyObj) (leaf inst order : Nat) (s : State) : State :=
  let t := leaf / 2 ^ bottomHeight k.par + 1
  if Tbl.get 0 s.kvt.trees k.handle = t then s
  else
    let n := buildTicks k.par order
    let s := instEvent inst 4 n (blkEvent .hsa 0x10 (Config.treeJobs k.par) s)
    { s with
      kvt := { s.kvt with trees := Tbl.set 0 s.kvt.trees k.handle t }
      drl := { s.drl with hub := chargeLedger inst n s.drl.hub } }

/-- Take the next leaf of a stateful key for a command of an instance (R215); the tree caches it needs are built first
(R225). A reservation that does not read back takes no leaf. -/
def takeLeaf (k : KeyObj) (inst order : Nat) (s : State) : LeafTake :=
  match recFind s k.stateId with
  | none => .fail stsStateLost s
  | some n => match viewRec (recU s n) with
    | .held c _ =>
      if c.closed then .fail stsStateLost s
      else
        let cur := sfsCursor s n c
        let total := leavesTotal k.par
        if cur = c.hwm ∧ c.hwm = total then .fail stsLeafExhausted s
        else
          let hwm := min (c.hwm + 256) total
          let s := buildTree k cur inst order s
          let t := if cur = c.hwm then putRec n { c with hwm := hwm, exhausted := decide (hwm = total) } s else s
          if cur = c.hwm ∧ s.bbram.badRecs.contains n then .fail stsFault t
          else .leaf cur { t with kvt := { t.kvt with sfsCursor := Tbl.set none t.kvt.sfsCursor n (some (cur + 1)) } }
    | .lost => .fail stsStateLost (noteLost n s)
    | .free => .fail stsStateLost s

/-- The trims at DRAIN (R218): every key whose cursor lies below its mark gets a copy with the cursor. -/
def trimRec (s : State) (n : Nat) : State :=
  match trimCopy s n with
  | some c => putRec n c s
  | none => s

/-- PANNIER_SWEEP (R264): the sweep of an instance's index frees its orphaned resident records. -/
def execPannierSweep (inst : Fin 256) (s : State) : Res :=
  .next (if s.kvt.sweep.contains inst.val then
    let gone (p : Nat × Option Resident) : Bool := hInst p.1 == inst.val && (match p.2 with
      | some r => match r.cur with
        | some k => (genCheck s k).isSome
        | none => false
      | none => true)
    { s with
      kvt := { s.kvt with
        sweep := s.kvt.sweep.filter (· != inst.val), res := s.kvt.res.filterMap (fun p =>
          if gone p then match p.2 with
            | some r => (tidyRes { r with cur := none, old := [] }).map (fun r => (p.1, some r))
            | none => none
          else some p) } }
  else s)

end Sys2Proof.Machine
end

