-- ==== Sys2Proof/Machine/Hif.lean ====
section
/-! DEFINITION. Host ports: doorbells, queue pairs, interrupts and the fetch of packets (chapter 02, R504). -/
namespace Sys2Proof.Machine
open Sys2Proof

/-- Do the port pages answer (R407): the link has trained and BOOT has begun? A fatal stop closes them (R209). -/
def portsOpen (s : State) : Bool := s.hif.reach && fltOpen s.pwr.mode && !s.glb.katFatal

/-- A ring error (R32): fetching stops and vector 0 is signalled. -/
def ringError (p q : Nat) (s : State) : State := signal p 0 (setQp p q { qpU s p q with ringError := true } s)

/-- A write to HIF_SQ_DB (R31): the slots up to the new tail become available, with one submission stamp (R48). The value
is kept in every case (R7); a queue pair that a ring error stopped does nothing else with it. -/
def sqDoorbell (port q : Nat) (v : Word) (s : State) : State :=
  let qp := qpU s port q
  let t := fld v 0 12
  if ¬ qp.active ∨ qp.ringError then setQp port q { qp with sqTail := t } s
  else if qp.sqEntries ≤ t then ringError port q (setQp port q { qp with sqTail := t } s)
  else
    let n := (t + qp.sqEntries - qp.sqTail) % qp.sqEntries
    let s := setQp port q { qp with
      sqTail := t, subm := if t = qp.sqHead then [] else qp.subm ++ List.replicate n s.hif.stamp } s
    { s with hif := { s.hif with stamp := s.hif.stamp + 1 } }

/-- SQ_DOORBELL (R31), with the wake of R33. -/
def execSqDoorbell (port : Fin 256) (q : Fin 64) (v : Word) (s : State) : Res :=
  let s := wake s
  .next (if portsOpen s then sqDoorbell port q v s else s)

/-- A write to HIF_CQ_DB (R31): the slots before the new head are the device's again. The value
is kept in every case (R7). -/
def cqDoorbell (port q : Nat) (v : Word) (s : State) : State :=
  let qp := qpU s port q
  let h := fld v 0 12
  let n := qp.cqEntries
  let t := setQp port q { qp with cqHead := h } s
  if ¬ qp.active ∨ qp.ringError then t
  else if n ≤ h then ringError port q t
  else if (qp.cqTail + n - qp.cqHead) % n < (h + n - qp.cqHead) % n then ringError port q t
  else t

/-- CQ_DOORBELL (R31). -/
def execCqDoorbell (port : Fin 256) (q : Fin 64) (v : Word) (s : State) : Res :=
  let s := wake s
  .next (if portsOpen s then cqDoorbell port q v s else s)

/-- enable written 1 (R35). While the earlier commands of a retired pair still complete the 1 is kept, and the checks
follow when active has cleared (R7, R32). -/
def qpEnable (port q : Nat) (s : State) : State :=
  let qp := qpU s port q
  if qp.enable then s
  else if qp.active then setQp port q { qp with enable := true } s
  else qpCheck port q s

/-- QP_ENABLE (R35). -/
def execQpEnable (port : Fin 256) (q : Fin 64) (s : State) : Res :=
  let s := wake s
  .next (if portsOpen s then qpEnable port q s else s)

/-- enable written 0 (R36). -/
def qpDisable (port q : Nat) (s : State) : State :=
  let qp := qpU s port q
  if qp.enable then settleQp port q (setQp port q { qp with enable := false, retiring := qp.active } s) else s

/-- QP_DISABLE (R36). -/
def execQpDisable (port : Fin 256) (q : Fin 64) (s : State) : Res :=
  let s := wake s
  .next (if portsOpen s then qpDisable port q s else s)

/-- Send a vector's pending message where nothing masks it (R504). -/
def deliver (fn vec : Nat) (s : State) : State :=
  let m := msixU s fn vec
  if m.pend ∧ ¬ m.mask ∧ ¬ (portU s fn).fnMask ∧ (portU s fn).msixEnable then
    signal fn vec (setMsix fn vec { m with pend := false } s)
  else s

/-- MSIX_VECTOR_UNMASK (R504): a vector's Mask, or the Function Mask, becomes 0. -/
def execMsixVectorUnmask (fn : Fin 256) (vec : Option (Fin 128)) (s : State) : Res :=
  .next (match vec with
  | some v =>
    let s := wake s
    if portsOpen s ∧ v.val < vectors fn then deliver fn v (setMsix fn v { msixU s fn v with mask := false } s) else s
  | none =>
    if s.hif.reach then
      (List.range (vectors fn)).foldl (fun s v => deliver fn v s) (setPort fn { portU s fn with fnMask := false } s)
    else s)

/-- COAL_TIME_EXPIRY (R26, HIF_QP_IRQ): the oldest unsignalled reply is coal_time old. -/
def execCoalTimeExpiry (port : Fin 256) (q : Fin 64) (s : State) : Res :=
  .next (
    let qp := qpU s port q
    if qp.irqOn ∧ qp.unsig ≠ 0 then signal port qp.vector (setQp port q { qp with unsig := 0 } s) else s)

/-! ### Fetch (R28, R40, R46, R48) -/

/-- Does the parser fetch in a mode (R51, R407, Table 18-7)? -/
def fetches (m : Mode) : Bool :=
  match m with
  | .service | .surge | .test | .locked | .zeroized => true
  | _ => false

/-- Is the instance of a port one whose commands are fetched (Table 15-2)? In LOCKED only the manager port. -/
def instFetches (s : State) (p : Nat) : Bool :=
  p == 0 || ((instU s p).st == .active && s.pwr.mode != .locked && s.pwr.mode != .zeroized)

/-- Commands fetched from a queue pair that wait for a reply slot. -/
def outstanding (s : State) (p q : Nat) : Nat :=
  (s.hif.cmds.filter (fun c => c.port == p && c.q == q)).length

/-- Can a completion slot be reserved (R28)? -/
def slotFree (s : State) (p q : Nat) : Bool :=
  let qp := qpU s p q
  decide ((qp.cqTail + qp.cqEntries - qp.cqHead) % qp.cqEntries + outstanding s p q + 1 < qp.cqEntries)

/-- Is there a packet to fetch from a queue pair? -/
def canFetch (s : State) (p q : Nat) : Bool :=
  let qp := qpU s p q
  fetches s.pwr.mode && instFetches s p && qp.active && qp.enable && !qp.retiring && !qp.ringError && qp.sqHead != qp.sqTail && slotFree s p q

/-- The command a fetched packet makes. -/
def mkCmd (s : State) (p q : Nat) (pkt : Bytes) : Cmd :=
  { id := s.hif.nextId, port := p, q := q, subm := (qpU s p q).subm.headD 0, pkt := pkt, start := s.now }

/-- The host address of the packet at sq_head. -/
def packetAt (s : State) (p q : Nat) : Nat := (qpU s p q).sqBase.toNat + 64 * (qpU s p q).sqHead

/-- The packet at sq_head is read: sq_head moves on and the command is in flight. -/
def fetched (port q : Nat) (s : State) : State :=
  let qp := qpU s port q
  let c := mkCmd s port q (hostBytes s (packetAt s port q) 64)
  let head := (qp.sqHead + 1) % qp.sqEntries
  let s := setQp port q { qp with sqHead := head, subm := if head = qp.sqTail then [] else qp.subm.drop 1 } s
  let s := instEvent port 1 1 (blkEvent .hif 0x10 1 (bytesEvent .hif 0x12 64 s))
  { s with hif := { s.hif with nextId := s.hif.nextId + 1, cmds := s.hif.cmds ++ [c] } }

/-- PACKET_FETCH (R43): the packet at sq_head is read once; a failed check completes the command at once. -/
def execPacketFetch (port : Fin 256) (q : Fin 64) (s : State) : Res :=
  .next (if canFetch s port q then
    let qp := qpU s port q
    if hostOk s port (packetAt s port q) 64 then
      let id := s.hif.nextId
      let pkt := hostBytes s (packetAt s port q) 64
      let s := access .hif 0 0 1 true 0 port (some id) (fetched port q s)
      match cmdU s id with
      | none => s
      | some c => match parserCheck s port qp.accMajor qp.accMinor pkt with
        | some r => refuse c r s
        | none => s
    else ringError port q (aerReport port s)
  else s)

end Sys2Proof.Machine
end

