-- ==== Sys2Proof/Machine/Derail.lean ====
section
/-! DEFINITION. The Derailleur: which command gets which unit, checks 9 and 10, and the start of a command
(chapter 05, R234, R235, R256, R364, R375). -/
namespace Sys2Proof.Machine
open Sys2Proof

/-! ### Power (R389, R390) -/

/-- The bits set in the low 8 of a number. -/
def popCount8 (n : Nat) : Nat := ((List.range 8).filter (fun i => n.testBit i)).length

/-- Engines running or reserved for a command (HIF_DRL_STATUS.engines_busy). -/
def engBusy (s : State) : Nat :=
  ((List.range 64).filter (fun n => (eng s n).cmd.isSome || (eng s n).reservedBy.isSome)).length
/-- AES cores that run a command. -/
def aesBusy (s : State) : Nat := ((List.range 32).filter (fun n => (aesCore s n).cmd.isSome)).length
/-- The reserved power in 0.01 W (R389). -/
def pRes (s : State) : Nat := 800 + 50 * s.pwr.groups.length + 42 * engBusy s + 30 * aesBusy s + 55 * popCount8 s.pwr.links
/-- The cap in force in 0.01 W (R390, R392). -/
def capNow (s : State) : Nat :=
  match s.pwr.mode with
  | .surge => if s.pwr.windDown then 100 * s.pwr.capW else 5500
  | .test => 5500
  | .drain => 100 * s.pwr.drainCap
  | _ => 100 * s.pwr.capW
/-- HIF_DRL_CAP.engines_allowed (R390). -/
def engAllowed (s : State) : Nat :=
  (List.range 65).foldl (fun m n =>
    if 800 + 50 * ceilDiv n 4 + 42 * n + 30 * aesBusy s + 55 * popCount8 s.pwr.links ≤ capNow s then n else m) 0

/-- Is an engine in the pool: powered and not offline? -/
def engAvail (e : Engine) : Bool :=
  e.powered && !e.offline && !e.heldByFault && !e.failedTest && !e.inReset && !e.testing
/-- HIF_DRL_STATUS.engines_avail. -/
def availEngines (s : State) : Nat := ((List.range 64).filter (fun n => engAvail (eng s n))).length

/-! ### Commands without the DRAM (R111) -/

/-- LOCKED and ZEROIZED. -/
def recoveryMode (s : State) : Bool := s.pwr.mode == .locked || s.pwr.mode == .zeroized
/-- UNLOCK, LC_ADVANCE and REPROVISION. -/
def recoveryOp (op : Op) : Bool := op == .adm 0x0F20 || op == .adm 0x0F21 || op == .adm 0x0F23
/-- The lowest-numbered engine that passed its engine test. -/
def recoveryEngine (s : State) : Option Nat := (List.range 64).find? (fun n => !(eng s n).failedTest)

/-! ### What a command needs -/

/-- The operation of a command. -/
def cmdOp (c : Cmd) : Op := (opOf (pOp c.pkt)).getD (.ext (pOp c.pkt))
/-- The unit kind of a command. -/
def cmdKind (s : State) (c : Cmd) : UnitKind := opKind s (cmdInst c) (cmdOp c)
/-- The Shield order a command would be dispatched at; without the DRAM it is 1 (R111). -/
def cmdOrder (s : State) (c : Cmd) : Nat :=
  if c.port = 256 then c.order else if recoveryMode s ∧ recoveryOp (cmdOp c) then 1 else (instU s c.port).order

/-- Does a command run as a gang (R140): Classic McEliece key generation? -/
def isGang (s : State) (c : Cmd) : Bool :=
  match cmdOp c with
  | .key 0x0501 => leAt c.pkt 40 2 == 0x0104 || leAt c.pkt 40 2 == 0x0105
  | .key 0x0503 => byteAt c.pkt 43 == 0 && (match residentKey s (pKey c.pkt) with
    | some k => k.cls == 0x0104 || k.cls == 0x0105
    | none => false)
  | _ => false

/-- Does a command load its handle's key into an engine? An extension's does where it names one (R305). -/
def wantsKey (s : State) (c : Cmd) : Bool :=
  match cmdOp c with
  | .ext o => pKey c.pkt != 0 && (match extOf s o (cmdInst c) with | some d => d.hub | none => false)
  | op => loadsKey op

/-- Do the parts of a key register match what a command at an order would load (R130)? -/
def keyMatch (s : State) (c : Cmd) (k : KeyReg) : Bool :=
  !k.marked && k.inst == cmdInst c && k.order == cmdOrder s c && k.handle.toNat == pKey c.pkt && wantsKey s c &&
    (match residentKey s (pKey c.pkt) with | some o => o.version == k.gen | none => false)

/-- Can an engine be given to a command (R111, R116, R131, R281)? -/
def hubUsable (s : State) (c : Cmd) (n : Nat) : Bool :=
  let e := eng s n
  engAvail e && !e.offlineReq && e.cmd.isNone && (e.reservedBy.isNone || e.reservedBy == some c.id) && !e.halted &&
    (cmdOrder s c == 0 || !e.mg.halted) && (!e.lend || keyless (cmdOp c)) && (!recoveryMode s || recoveryEngine s == some n)

/-- The engine the Derailleur prefers (R138): one that holds the key, else the lowest-numbered. -/
def hubChoice (s : State) (c : Cmd) : Option Nat :=
  let ns := (List.range 64).filter (fun n => hubUsable s c n && (eng s n).reservedBy.isNone)
  match ns.find? (fun n => s.drl.affinity && (match (eng s n).key with | some k => keyMatch s c k | none => false)) with
  | some n => some n
  | none => ns.head?

/-- Can an engine lend to a command on its AES core (R131)? -/
def canLend (s : State) (c : Cmd) (n : Nat) : Bool :=
  let e := eng s n
  engAvail e && !e.offlineReq && !e.lend && (cmdOrder s c == 0 || !e.mg.halted) &&
    (match e.cmd with
      | none => e.reservedBy.isNone
      | some id => e.key.isNone && ((cmdU s id).map (fun x => keyless (cmdOp x))).getD false)

/-- The lender of AES core `k` for a command: under affinity one that holds its key, else the lower-numbered (R138). -/
def lenderOf (s : State) (c : Cmd) (k : Nat) : Option Nat :=
  let ns := [2 * k, 2 * k + 1].filter (canLend s c)
  match ns.find? (fun n => s.drl.affinity && (eng s n).cmd.isNone && (match (eng s n).key with | some r => keyMatch s c r | none => false)) with
  | some n => some n
  | none => ns.head?

/-- Is an AES core free? -/
def aesFree (s : State) (k : Nat) : Bool :=
  let a := aesCore s k
  decide (k < 32) && a.cmd.isNone && !a.held && !a.inReset

/-- The lowest-numbered idle sequencer core (chapter 13). -/
def idleCore (s : State) : Option Nat :=
  (List.range 16).find? (fun n => (coreU s n).st == .idle && (coreU s n).cmd.isNone && !(coreU s n).offline)

/-- Does a command need a sequencer core? -/
def needsCore (c : Cmd) : Bool := !opFast (cmdOp c)

/-- The further units of a command besides the one it is named for: Hub engine, digest engine, check-value unit
(R82, R305). -/
def extraUnits (s : State) (c : Cmd) : Bool × Bool × Bool :=
  match cmdOp c with
  | .keyed _ => (true, false, false)
  | .ext o => match extOf s o (cmdInst c) with
    | some d => (false, d.dge && d.hub, d.cvu && (d.hub || d.dge))
    | none => (false, false, false)
  | _ => (false, false, false)

/-- A free digest engine. -/
def anyDge (s : State) : Option Nat := (List.range 16).find? (dgeFree s)
/-- A free check-value unit. -/
def anyCvu (s : State) : Option Nat := (List.range 8).find? (cvuFree s)

/-! ### Ordering (R46, R47, R133) -/

/-- Is a waiting command at the head of its ring, and do fences let it start? -/
def ringHead (s : State) (c : Cmd) : Bool :=
  let earlier := s.hif.cmds.filter (fun x => x.port == c.port && x.q == c.q && decide (x.id < c.id))
  earlier.all (fun x => x.phase != .waiting && !pFence x.pkt) && (!pFence c.pkt || earlier.isEmpty)

/-- A gang that forms keeps its instance's other commands waiting (R140). -/
def gangForming (s : State) (c : Cmd) : Bool :=
  s.hif.cmds.any (fun x => x.port == c.port && x.id != c.id && x.phase == .waiting &&
    (List.range 64).any (fun n => (eng s n).reservedBy == some x.id))

/-- Does a command wait for key shares from another member (R365)? -/
def awaitsShare (s : State) (c : Cmd) : Bool := s.tlk.origins.any (fun t => t.cmd == c.id && t.rsp.isNone)

/-- May a command of this instance be dispatched in the mode (Table 15-2, Table 18-7)? -/
def mayStart (s : State) (c : Cmd) : Bool :=
  fetches s.pwr.mode && (c.port == 0 || c.port == 256 || (instU s c.port).st == .active)

/-- Does the power cap let one more Hub engine or AES core run (R390)? -/
def capLets (s : State) (aes : Bool) : Bool :=
  if aes then decide (pRes s + 30 ≤ capNow s)
  else decide (pRes s + 42 ≤ capNow s) && decide (engBusy s < engAllowed s)

/-- The pages of 2 MiB of the staging pool that a command takes at dispatch (R320): one whose input reaches the INPUT
window of a Hub engine. -/
def stageNeed (s : State) (c : Cmd) : Nat :=
  if cmdKind s c = .hub then min 2048 (ceilDiv (pInL c.pkt) 0x200000) else 0

/-- The free pages of the staging pool (Table 14-4: 16 GiB). -/
def stageFree (s : State) : Nat := 8192 - s.mem.stagePages.length

/-- May a command take its pages now, the pool being initialised (R316)? An older command that is short of pages has the freed ones first (R320). -/
def stageLets (s : State) (c : Cmd) : Bool :=
  let n := stageNeed s c
  n == 0 || (regionReady s 1 && decide (n ≤ stageFree s) && s.hif.cmds.all (fun x =>
    !(x.phase == .waiting && decide (x.subm < c.subm) && decide (stageFree s < stageNeed s x))))

/-- A command takes its pages, the lowest free ones (DESIGN CHOICE, log 132); the whole lines that its input fills hold no
poison any more (R314). -/
def stageInput (c : Cmd) (s : State) : State :=
  let ps := freePages s.mem.stagePages 8192 0 (stageNeed s c)
  let s : State := { s with mem := { s.mem with
    stagePages := ps.foldl (fun m k => Tbl.set 0 m k (c.id + 1)) s.mem.stagePages } }
  if s.mem.poison = [] ∨ ps = [] then s
  else { s with mem := { s.mem with
    poison := s.mem.poison.filter (fun l => !(List.range (pInL c.pkt / 64)).any (fun k => stageLine s c.id (64 * k) == l)) } }

/-! ### Shares (R134–R137, R364) -/

/-- The share weight of an instance; 256 stands for guests. -/
def weightOf (s : State) (i : Nat) : Nat :=
  if i = 0 then max 1 s.drl.mgrLive else if i = 256 then s.drl.lendLive else (instU s i).weight

/-- Units of a ledger an instance holds. -/
def unitsHeld (s : State) (aes : Bool) (i : Nat) : Nat :=
  if aes then ((List.range 32).filter (fun n => match (aesCore s n).cmd.bind (cmdU s) with
    | some c => cmdInst c == i
    | none => false)).length
  else ((List.range 64).filter (fun n =>
    ((eng s n).cmd.isSome && (eng s n).inst == i) || (match (eng s n).reservedBy.bind (cmdU s) with
      | some c => cmdInst c == i
      | none => false))).length

/-- The available units of a ledger: engines under the cap, or AES cores whose group is powered. -/
def availUnits (s : State) (aes : Bool) : Nat :=
  if aes then ((List.range 32).filter (fun k =>
    !(aesCore s k).held && !(aesCore s k).inReset && s.pwr.groups.contains (k / 2))).length
  else min (availEngines s) (engAllowed s)

/-- The ledger of a unit kind. -/
def ledger (s : State) (aes : Bool) : Ledger := if aes then s.drl.aes else s.drl.hub

/-- Does the engine cap let an instance have one more unit (R137; lend_max for guests, R364)? -/
def shareLets (s : State) (aes : Bool) (c : Cmd) : Bool :=
  let i := cmdInst c
  let held := unitsHeld s aes i
  if i = 256 ∧ (s.tlk.lendWeight = 0 ∨ s.tlk.lendMax ≤ held) then false
  else
    let others := s.hif.cmds.any (fun x => x.phase == .waiting && cmdInst x != i)
    if ¬ others ∨ isGang s c then true
    else
      let act := if (ledger s aes).present.contains i then (ledger s aes).present else i :: (ledger s aes).present
      let total := max 1 (act.map (weightOf s)).sum
      decide (held < max 1 (ceilDiv (availUnits s aes * weightOf s i) total))

/-- Is command `a` offered a unit before `b` (R136)? -/
def before (s : State) (aes : Bool) (a b : Cmd) : Bool :=
  let l := ledger s aes
  let pos (c : Cmd) : Bool := decide (0 < Tbl.get 0 l.credit (cmdInst c)) && l.present.contains (cmdInst c)
  let cr (c : Cmd) : Int := Tbl.get 0 l.credit (cmdInst c)
  if pos a != pos b then pos a
  else if cr a ≠ cr b then decide (cr b < cr a)
  else if cmdInst a ≠ cmdInst b then decide (cmdInst a < cmdInst b)
  else decide (a.id < b.id)

/-- The first in an order. -/
def firstOf (lt : Cmd → Cmd → Bool) (cs : List Cmd) : Option Cmd :=
  cs.foldl (fun b c => match b with
    | none => some c
    | some x => if lt c x then some c else some x) none

/-! ### The choice of command and unit (R133–R138, R235, R242, R375) -/

/-- The AES core that a command would run on: under affinity one whose lender holds its key, else the lowest-numbered
free core with an engine to lend (R131, R138). -/
def aesChoice (s : State) (c : Cmd) : Option Nat :=
  let ks := (List.range 32).filter (fun k => aesFree s k && (lenderOf s c k).isSome)
  let holds (k : Nat) : Bool := s.drl.affinity && (lenderOf s c k).any (fun n =>
    (eng s n).cmd.isNone && (match (eng s n).key with | some r => keyMatch s c r | none => false))
  match ks.find? holds with
  | some k => some k
  | none => ks.head?

/-- Does a command take a Hub engine: its own unit, or the engine of a keyed digest (R242)? -/
def takesHub (s : State) (c : Cmd) : Bool := cmdKind s c == .hub || (extraUnits s c).1

/-- The unit that a command would be dispatched to. A digest engine or check-value unit is the one that became free
(`u`); a command that all slots of its instance block is dispatched, and refused (R81, R375). -/
def unitFor (s : State) (k : UnitKind) (u : Nat) (c : Cmd) : Option Nat :=
  match k with
  | .hub => hubChoice s c
  | .aes => aesChoice s c
  | .dge => if u < 16 ∧ (dgeFree s u ∨ (instU s (cmdInst c)).dgeSlots ≤ dgeHeld s (cmdInst c)) then some u else none
  | .cvu => if u < 8 ∧ (cvuFree s u ∨ (instU s (cmdInst c)).cvuSlots ≤ cvuHeld s (cmdInst c)) then some u else none
  | .parser => some 0
  | .seq => idleCore s
  | .none => none

/-- Can a command be dispatched now: it waits at the head of its ring, every unit it takes is there, and power, staging
and its instance's engine cap let it start? -/
def fits (s : State) (k : UnitKind) (u : Nat) (c : Cmd) : Bool :=
  let x := extraUnits s c
  c.phase == .waiting && cmdKind s c == k && ringHead s c && mayStart s c && !gangForming s c && !awaitsShare s c &&
    (unitFor s k u c).isSome && stageLets s c && (!needsCore c || (idleCore s).isSome) && (!x.2.1 || (anyDge s).isSome) &&
    (!x.2.2 || (anyCvu s).isSome) &&
    (!takesHub s c || ((hubChoice s c).isSome && capLets s false && shareLets s false c)) &&
    (k != .aes || (capLets s true && shareLets s true c))

/-- Oldest first across all instances; ties go to the lower instance number (R235, R375). -/
def older (a b : Cmd) : Bool :=
  decide (a.subm < b.subm) || (a.subm == b.subm &&
    (decide (cmdInst a < cmdInst b) || (cmdInst a == cmdInst b && decide (a.id < b.id))))

/-- The command that the next free digest engine goes to. -/
def nextDigest (s : State) (u : Nat) : Option Cmd := firstOf older (s.hif.cmds.filter (fits s .dge u))

/-- The command that the next free Hub engine goes to, by credit (R136): a keyed digest stands in this order with the
digest engine it would get. -/
def nextHub (s : State) : Option Cmd :=
  let hubs := s.hif.cmds.filter (fits s .hub 0)
  let keyed := ((anyDge s).bind (nextDigest s)).toList.filter (takesHub s)
  firstOf (before s false) (hubs ++ keyed)

/-- The command that unit `u` of a kind goes to. The Derailleur has chosen the unit with the command: with another free
unit named nothing is dispatched (log 114). -/
def pick (s : State) (k : UnitKind) (u : Nat) : Option Cmd :=
  let c := match k with
    | .hub => nextHub s
    | .aes => firstOf (before s true) (s.hif.cmds.filter (fits s .aes u))
    | .dge => nextDigest s u
    | _ => firstOf older (s.hif.cmds.filter (fits s k u))
  c.filter (fun c => cmdKind s c == k && unitFor s k u c == some u &&
    (k != .dge || !takesHub s c || (nextHub s).any (fun x => x.id == c.id)))

/-! ### Checks 9 and 10 -/

/-- What the checks at dispatch give: the keys, a failure, or another member that must resolve the handle. -/
inductive Checked where
  | pass (k t : Option KeyObj)
  | fail (r : Result)
  | remote (p : Nat)
deriving DecidableEq, Repr

/-- The second handle of an operation (R93), with the status that replaces a foreign one (R265). -/
def secondWant (op : Op) (p : Bytes) : Option Want :=
  let transport : Want := { levels := [3], ok := fun k => clsRole k.cls == 3 }
  match op with
  | .key 0x0502 => some transport
  | .key 0x0503 => if byteAt p 43 = 1 then some transport else none
  | .key 0x0509 => some transport
  | .key 0x0510 => some { levels := [1, 2] }
  | _ => none

/-- Resolve the handles of a command (check 9). -/
def resolveAll (s : State) (c : Cmd) : Checked :=
  let op := cmdOp c
  let p := c.pkt
  let first : Checked :=
    if c.key.isSome ∨ c.served.isSome then .pass c.key none
    else
      let needs : Bool := match op with
        | .ext _ => wantsKey s c
        | .sfs 0x0813 => pInL p == 0 || (resU s (pKey p)).isSome || (homeFind s (qpU s c.port c.q).accMajor (pKey p)).isSome
        | _ => takesKey op
      if ¬ needs then .pass none none
      else match resolve s c (wantOf op p) (pKey p) with
        | .key k => .pass (some k) none
        | .fail r => .fail r
        | .remote q => .remote q
  match first with
  | .pass k _ =>
    let under : Bool := match op, k with
      | .key 0x0503, some k => (parentKey s k).isSome
      | _, _ => true
    if ¬ under then .fail (justStatus stsKeyUnknown)
    else match secondWant op p with
      | none => .pass k none
      | some w => match resolve s c w (leAt p 48 8) with
        | .key t => .pass k (some t)
        | .fail r => .fail (if r.status = stsKeyForeign ∧ op ≠ .key 0x0510 then { r with status := stsKeyClass } else r)
        | .remote _ => .fail (justStatus stsKeyUnknown)
  | r => r

/-- Check 9, with the lengths that depend on the key. -/
def dispatchCheck (s : State) (c : Cmd) : Checked :=
  match resolveAll s c with
  | .pass k t => match opLens s (cmdInst c) c.pkt k t (cmdOp c) with
    | .ok => .pass k t
    | .badIn => .fail (justStatus stsBadLength)
    | .badOut n => .fail { status := stsBadLength, outLen := n }
  | r => r

/-! ### Messages over Tandem links (R364–R367) -/

/-- A key as the members carry it. -/
def encKey (k : KeyObj) : Bytes :=
  leBytes 8 k.handle ++ [BitVec.ofNat 8 k.level] ++ leBytes 2 k.cls ++ leBytes 8 k.tag ++ leBytes 2 k.version ++
  [BitVec.ofNat 8 k.attr, BitVec.ofNat 8 (b2n k.ext + 2 * b2n k.stateful)] ++ leBytes 5 k.stateId ++ fit 24 k.par ++
  leBytes 4 k.secret.length ++ leBytes 4 k.pub.length ++ leBytes 4 k.body.length ++ k.secret ++ k.pub ++ k.body

/-- The key that a message carries. -/
def decKey (b : Bytes) : KeyObj :=
  let n := leAt b 52 4
  let m := leAt b 56 4
  { handle := leAt b 0 8, level := byteAt b 8, cls := leAt b 9 2, tag := leAt b 11 8, version := leAt b 19 2,
    attr := byteAt b 21, ext := (byteAt b 22).testBit 0, stateful := (byteAt b 22).testBit 1, stateId := leAt b 23 5,
    par := slice b 28 24, secret := slice b 64 n, pub := slice b (64 + n) m,
    body := slice b (64 + n + m) (leAt b 60 4) }

/-- A new transaction of a command with a member (R367): its REQ goes out. -/
def sendReq (c : Cmd) (p : Nat) (m : Bytes) (s : State) : State :=
  let t : Txn := { id := s.tlk.nextTxn, cmd := c.id, peer := p, pkt := m }
  let s : State := { s with tlk := { s.tlk with nextTxn := (s.tlk.nextTxn + 1) % 2 ^ 32, origins := s.tlk.origins ++ [t] } }
  sendTo p 0x20 t.id m s

/-- The message that asks a key's home for its resolution (R365): instance and packet. -/
def keyRequest (c : Cmd) : Bytes := [0, BitVec.ofNat 8 (cmdInst c)] ++ c.pkt

/-! ### The start of a command -/

/-- The key register's contents for a key (R127). -/
def loadKey (s : State) (c : Cmd) (k : KeyObj) : KeyReg :=
  { key := BitVec.ofNat 512 (ofLe k.secret), tag := BitVec.ofNat 64 k.tag, order := cmdOrder s c, inst := cmdInst c,
    handle := BitVec.ofNat 64 k.handle, gen := k.version, cls := k.cls, material := k.secret }

/-- Load an engine's key for a command: a retained key that matches stays (R130), any other is cleared first; a
transfer passes the vault's and the engine's checkers. -/
def keyInto (n : Nat) (c : Cmd) (k : Option KeyObj) (s : State) : State :=
  let e := eng s n
  match k with
  | none => updEng n (fun e => if e.lend then e else { e with key := none }) s
  | some k =>
    if (match e.key with | some r => keyMatch s c r && r.tag.toNat == k.tag | none => false) then
      cadEvent .hub n 0x0B 1 true (cmdInst c) (updEng n (fun e => refreshKey { e with key := e.key.map (fun r => { r with retained := true }) }) s)
    else
      let hit := s.kvt.cache.contains k.handle
      let s := setEng n (refreshKey { e with key := some (loadKey s c k) }) s
      let s := cadEvent .hub n 0x0A 1 true (cmdInst c) (blkEvent .kvt 0x10 1 s)
      let s := if hit then blkEvent .kvt 0x11 1 s else instEvent (cmdInst c) 9 1 s
      let s : State := { s with kvt := { s.kvt with cache := (k.handle :: s.kvt.cache.filter (· != k.handle)).take 16384 } }
      let s := if hit then access .kvt 0 2 1 true 0 (cmdInst c) (some c.id) s else vaultRead (cmdInst c) (some c.id) s
      access .hub n 7 2 false 0 (cmdInst c) (some c.id) (access .kvt 0 3 4 false 0 (cmdInst c) (some c.id) s)

/-- Give an engine to a command (R147, R305): its entry state with its windows (Table 6-2) and cleared status (R168,
HUB_UC_STATUS), with the vendor kernel's first word open. -/
def takeEngine (n : Nat) (c : Cmd) (s : State) : State :=
  let w := freeNumber 0x3000 s
  cadEvent .hub n 0x02 0 true (cmdInst c) (blkEvent .hub 0x10 1 (updEng n (fun e => { e with
    busy := true, cmd := some c.id, kimg := s.hub.kmem, recovery := recoveryMode s
    workSize := if recoveryMode s then 0x30000 else 0x400000, reservedBy := none, reservedAt := if e.reservedBy = some c.id then e.reservedAt else s.now
    order := cmdOrder s c, inst := cmdInst c, gang := isGang s c, pc := w.1, vl := 0, sew := 2, inLen := pInL c.pkt, maxOut := pMax c.pkt
    param := slice c.pkt 40 24, cache := match c.key with | some k => Config.cacheWindow k.handle k.pub (Tbl.get 0 s.kvt.trees k.handle) c.leaf | none => []
    uc := { e.uc with restarts := 0, lastWait := 0, ceilingExpired := false, guard := false, refaulted := false }
    ended := none, kexc := {}, x := [(13, BitVec.ofNat 64 (pInL c.pkt)), (14, BitVec.ofNat 64 (pMax c.pkt)),
      (15, BitVec.ofNat 64 (pOp c.pkt))].filter (fun p => p.2 != 0) }) w.2))

/-- Give a sequencer core to a command: the packet is in its mailbox and its command interrupt raised. -/
def takeCore (n : Nat) (c : Cmd) (s : State) : State :=
  cadEvent .seq n 8 1 true (cmdInst c) (blkEvent .seq 0x10 1 (updCore n (fun k => { k with
    cmd := some c.id, prog := s.seq.image, mbox := c.pkt, st := .vendor, inst := cmdInst c, intPend := true }) s))

/-- The entry of an extension program (R305). -/
def enterExt (n : Nat) (c : Cmd) (d : ExtDecl) (s : State) : State :=
  let num (k v : Nat) (t : Tbl (BitVec 32)) := Tbl.set 0 t k (BitVec.ofNat 32 v)
  cadEvent .seq n 9 1 false (cmdInst c) (updCore n (fun k => { k with
    st := .ext, extMode := true, pc := d.entry, f := 0, m := [], intPend := false, ie := true, stack := [], svc := none
    a := Tbl.set 0 (Tbl.set 0 [] 0 (BitVec.ofNat 24 0x10000)) 1 (BitVec.ofNat 24 0x6000)
    d := num 0 (pOp c.pkt) (num 1 (cmdInst c) (num 2 (pInL c.pkt) (num 3 (pMax c.pkt) [])))
    dmem := k.dmem.filter (fun p => decide (p.1 < 0x6000)), bits := k.bits.filter (fun p => decide (p.1 < 768)) }) s)

/-- Give a digest engine to a command. -/
def takeDge (u : Nat) (o : UnitOwner) (c : Cmd) (s : State) : State :=
  setDge u { dgeU s u with owner := o, inst := cmdInst c, cmd := some c.id, st := .owned } s

/-- Give a check-value unit to a command. -/
def takeCvu (u : Nat) (o : UnitOwner) (c : Cmd) (s : State) : State :=
  setCvu u { cvuU s u with owner := o, inst := cmdInst c, cmd := some c.id, st := .owned } s

/-- The sequencer core of a command with the further units it drives. -/
def startCore (c : Cmd) (k : UnitKind) (u : Nat) (key : Option KeyObj) (s : State) : State :=
  match c.core with
  | none => s
  | some n =>
    let x := extraUnits s c
    let s := takeCore n c s
    let s := match x.1, hubChoice s c with
      | true, some e => updCore n (fun r => { r with hub := some e }) (keyInto e c key (takeEngine e c s))
      | _, _ => s
    let s := match x.2.1, anyDge s with
      | true, some d => updCore n (fun r => { r with dge := some d }) (takeDge d (.core n) c s)
      | _, _ => s
    let s := match x.2.2, anyCvu s with
      | true, some v => updCore n (fun r => { r with cvu := some v }) (takeCvu v (.core n) c s)
      | _, _ => s
    let s := updCore n (fun r => match k with
      | .hub => { r with hub := some u }
      | .dge => { r with dge := some u }
      | .cvu => { r with cvu := some u }
      | _ => r) s
    match cmdOp c with
    | .ext _ => updCore n (fun r => { r with intPend := false }) s
    | _ => s

/-- A command that has passed checks 9 and 10 starts on its unit. -/
def startCmd (c0 : Cmd) (k : UnitKind) (u : Nat) (key key2 : Option KeyObj) (s : State) : State :=
  let c : Cmd := { c0 with
    phase := .running, kind := k, unit := u, start := s.now, began := s.now, order := cmdOrder s c0, key := key, key2 := key2
    core := if needsCore c0 then idleCore s else none }
  let wait := s.now - c0.start
  let s := stageInput c0 (instEvent (cmdInst c) 5 wait (blkEvent .hif 0x14 1 s))
  let lent := match k with | .aes => lenderOf s c0 u | _ => none
  let load := if wantsKey s c then key else none
  let s := match k, lent with
    | .hub, _ => keyInto u c load (takeEngine u c (setCmd c s))
    | .aes, some l =>
      let s := setCmd { c with lender := l } s
      let s := keyInto l c key s
      updEng l (fun e => { e with lend := true }) (setAes u { aesCore s u with busy := true, cmd := some c.id, lender := l } s)
    | .dge, _ => takeDge u (match c.core with | some n => .core n | none => .parser) c (setCmd c s)
    | .cvu, _ => takeCvu u (match c.core with | some n => .core n | none => .parser) c (setCmd c s)
    | _, _ => setCmd c s
  startCore c k u key s

/-- The last engine of a gang starts its command on all eight; the lowest-numbered names it (R140). -/
def startGang (c : Cmd) (key key2 : Option KeyObj) (s : State) : State :=
  match (List.range 64).filter (fun n => (eng s n).reservedBy == some c.id) with
  | [] => s
  | u :: rest =>
    let s := startCmd c .hub u key key2 s
    match cmdU s c.id with
    | none => s
    | some c => rest.foldl (fun s n => keyInto n c none (takeEngine n c s)) (setCmd { c with gang := rest } s)

/-- Does an LC_ADVANCE run, or its burn (R414)? -/
def lcBusy (s : State) : Bool :=
  (s.lcs.lcCmd.bind (cmdU s)).isSome || (match s.lcs.burning with | some (n, _) => decide (n ≤ 4) | none => false)

/-- Every other command without a reply ends when ZEROIZE is dispatched (R110). -/
def zeroizeOthers (c : Cmd) (s : State) : State :=
  if cmdOp c = .adm 0x0F22 ∧ lcBusy s = false then abandonAll (fun d => d.id != c.id) (some (justStatus stsTamper)) s else s

/-- All slots of the instance are held (R81, R87): the command completes with STS_RETRY, the hint an estimate. -/
def slotsHeld (s : State) (k : UnitKind) (c : Cmd) : Bool :=
  let i := cmdInst c
  match k with
  | .dge => decide ((instU s i).dgeSlots ≤ dgeHeld s i)
  | .cvu => decide ((instU s i).cvuSlots ≤ cvuHeld s i)
  | _ => (extraUnits s c).2.1 && decide ((instU s i).dgeSlots ≤ dgeHeld s i) ||
      ((extraUnits s c).2.2 && decide ((instU s i).cvuSlots ≤ cvuHeld s i))

/-- An extension command whose program has been unloaded since it was fetched (R114). -/
def extGone (s : State) (c : Cmd) : Bool :=
  match cmdOp c with
  | .ext o => (extOf s o (cmdInst c)).isNone
  | _ => false

/-- Ask a key's home for its resolution (R365); an SFS_RETIRE with a blob sends it along (R222, R226). -/
def askHome (p : Nat) (c : Cmd) (s : State) : State :=
  match cmdOp c with
  | .sfs 0x0813 => match dmaRead c.port (pInA c.pkt) (pInL c.pkt) s with
    | none => refuse c (justStatus stsDmaError) (aerReport c.port s)
    | some (b, s) => sendReq c p (keyRequest c ++ b) s
  | _ => sendReq c p (keyRequest c) s

/-- Refuse a command that a fault has not already ended (R446). -/
def refuseLeft (c : Cmd) (st : Nat) (s : State) : State :=
  if (cmdU s c.id).isSome then refuse c (justStatus st) s else s

/-- The BBRAM words that a command's checks read pass their ECC checkers: generation entries (R250), a counter record
(R212). -/
def bbramRead (c : Cmd) (s : State) : State :=
  let keyed := c.key.isNone && c.served.isNone && (takesKey (cmdOp c) || wantsKey s c)
  let s := if keyed then access .tmp 0 1 3 true 0 (cmdInst c) (some c.id) s else s
  match cmdOp c with
  | .sfs o => if o = 0x0810 then s else access .tmp 0 0 1 true 0 (cmdInst c) (some c.id) s
  | _ => s

/-- Has an injection hit a BBRAM word read between two states (R456)? -/
def tmpHit (s t : State) : Bool := (fltU t .tmp 0).iLeft != (fltU s .tmp 0).iLeft

/-- Check 9 fails. STS_FAULT is an unreadable generation entry, a DEVICE fault of the BBRAM ECC (R250). -/
def refuseNine (c : Cmd) (r : Result) (s : State) : State :=
  if r.status = stsFault then refuseLeft c stsFault (faultAt { blk := .tmp, checker := 1, cls := 3, inst := cmdInst c } (some c.id) s)
  else refuse c r s

/-- Dispatch a chosen command to a unit, its BBRAM words read. -/
def dispatchTo (k : UnitKind) (u : Nat) (c : Cmd) (s : State) : State :=
  match dispatchCheck s c with
  | .fail r => refuseNine c r (unreserve c.id s)
  | .remote p => askHome p c s
  | .pass key key2 =>
    if slotsHeld s k c then
      let h := freeNumber 0x10000 s
      refuse c (withHint stsRetry h.1) h.2
    else match quotaCheck s (cmdInst c) (cmdOp c) c.pkt key with
    | some r => refuse c r (unreserve c.id s)
    | none => if (match cmdOp c with | .sfs 0x0811 => c.leaf.isNone | _ => false) then
      match takeLeaf (key.getD {}) (cmdInst c) (cmdOrder s c) s with
      | .fail st t => refuseLeft { c with inj := c.inj || kvtHit s t } st t
      | .leaf n t => startCmd { c with leaf := some n, inj := c.inj || kvtHit s t } k u key key2 t
    else if isGang s c then
      let s := updEng u (fun e => { e with reservedBy := some c.id, reservedAt := s.now }) s
      if ((List.range 64).filter (fun n => (eng s n).reservedBy == some c.id)).length = 8 then startGang c key key2 s else s
    else startCmd c k u key key2 (zeroizeOthers c s)

/-- Dispatch a chosen command to a unit. -/
def dispatch (k : UnitKind) (u : Nat) (c : Cmd) (s : State) : State :=
  if extGone s c then refuse c (justStatus stsBadOpcode) s
  else
    let t := bbramRead c s
    if (cmdU t c.id).isNone then t else dispatchTo k u { c with inj := c.inj || tmpHit s t } t

/-! ### Widening (R364) -/

/-- May a waiting Hub command run on another member? -/
def widens (s : State) (p : Nat) (c : Cmd) : Bool :=
  c.phase == .waiting && cmdKind s c == .hub && c.port != 256 && ringHead s c && mayStart s c && !gangForming s c &&
    !awaitsShare s c && !isGang s c && (!needsCore c || (idleCore s).isSome) && (hubChoice s c).isNone && stageLets s c &&
    (match cmdOp c with
      | .sfs 0x0811 => s.tlk.verMajor == 1 && decide (2 ≤ s.tlk.verMinor)
      | .ext _ => false
      | .key _ => false
      | .sfs 0x0810 => false
      | _ => true) &&
    s.drl.hub.present.contains (cmdInst c) && decide (0 < Tbl.get 0 s.drl.hub.credit (cmdInst c)) &&
    (reachableOthers s).contains p

/-- The message of a widened command: order, packet, leaf, key, input. -/
def guestMessage (s : State) (c : Cmd) (k : Option KeyObj) (input : Bytes) : Bytes :=
  let kb := match k with | some k => encKey k | none => []
  [1, BitVec.ofNat 8 (cmdOrder s c)] ++ c.pkt ++ leBytes 8 (c.leaf.getD 0) ++ leBytes 4 kb.length ++ kb ++ input

/-- Send a checked command to a member (R364): its input is staged here, its key comes from the vault. -/
def sendGuest (p : Nat) (c : Cmd) (key key2 : Option KeyObj) (s : State) : State :=
  match dmaRead c.port (pInA c.pkt) (pInL c.pkt) s with
  | none => refuse c (justStatus stsDmaError) (aerReport c.port s)
  | some (input, s) =>
    let core := if needsCore c then idleCore s else none
    let t : Cmd := { c with
      phase := .running, kind := .hub, unit := 0, start := s.now, began := s.now, order := cmdOrder s c, key := key, key2 := key2
      core := core, remote := some p }
    let s := stageInput c (blkEvent .hif 0x14 1 (setCmd t s))
    let s := match core with
      | some n => takeCore n t s
      | none => s
    sendReq t p (guestMessage s c key input) s

/-- Dispatch a command to a member, its BBRAM words read: the checks, the leaf of an SFS_SIGN, the REQ. -/
def dispatchRemoteTo (p : Nat) (c : Cmd) (s : State) : State :=
  match dispatchCheck s c with
  | .fail r => refuseNine c r s
  | .remote q => askHome q c s
  | .pass key key2 =>
    if (match cmdOp c with | .sfs 0x0811 => c.leaf.isNone | _ => false) then
      match takeLeaf (key.getD {}) (cmdInst c) (cmdOrder s c) s with
      | .fail st t => refuseLeft { c with inj := c.inj || kvtHit s t } st t
      | .leaf n t => sendGuest p { c with leaf := some n, inj := c.inj || kvtHit s t } key key2 t
    else sendGuest p c key key2 s

/-- Dispatch a command to a member. -/
def dispatchRemote (p : Nat) (c : Cmd) (s : State) : State :=
  let t := bbramRead c s
  if (cmdU t c.id).isNone then t else dispatchRemoteTo p { c with inj := c.inj || tmpHit s t } t

/-- DERAILLEUR_DISPATCH (R136): the unit that became available goes to a waiting command. A Hub unit of 64 or
above names a member of the cascade: 64 × (p + 1) is position p (R364). -/
def execDerailleurDispatch (kind : UnitKind) (unit : Nat) (s : State) : Res :=
  .next (
    let s := freeOld s
    if kind = .hub ∧ 64 ≤ unit then
      let p := unit / 64 - 1
      match firstOf (before s false) (s.hif.cmds.filter (widens s p)) with
      | some c => dispatchRemote p c s
      | none => s
    else match pick s kind unit with
      | some c => dispatch kind unit c s
      | none => s)

/-- ENT_WAIT_EXPIRY (R278, R281): a command that waits for DRBG output, or that waits at order 1 or above while
every powered engine's generator is halted, ends after ENT_WAIT. -/
def execEntWaitExpiry (cmd : Nat) (s : State) : Res :=
  .next (match cmdU s cmd with
  | none => s
  | some c =>
    let halted := (List.range 64).all (fun n => !(eng s n).powered || (eng s n).mg.halted)
    if c.phase ≠ .finished ∧ ((c.phase = .running ∧ drawWaits s c) ∨
        (c.phase = .waiting ∧ 0 < cmdOrder s c ∧ halted ∧ (takesHub s c ∨ cmdKind s c = .aes) ∧ ringHead s c ∧ mayStart s c)) then entropyFail c s
    else s)

end Sys2Proof.Machine
end

