-- ==== Sys2Proof/Machine/CmdIo.lean ====
section
/-! DEFINITION. A running command: its input, its output, its randomness, its end (R59–R63, R364). -/
namespace Sys2Proof.Machine
open Sys2Proof

/-- The regions of the memory that a row of a command works on are initialised; it waits until they are (R316). -/
def storeReady (s : State) (c : Cmd) : Bool :=
  match cmdOp c with
  | .key 0x0501 | .key 0x0502 | .key 0x0503 | .key 0x0506 | .key 0x0510 | .sfs 0x0810 => regionReady s 0
  | .adm 0x0F19 => regionReady s 3
  | .cv => !(byteAt c.pkt 41).testBit 0 || regionReady s 0
  | .adm 0x0F1A => regionReady s 3 && regionReady s 0
  | _ => true

/-- The command of a row, where it runs on this device and its operation is the row's. -/
def running (s : State) (id : Nat) (ok : Op → Bool) : Option Cmd :=
  match cmdU s id with
  | some c => if c.phase = .running ∧ c.remote.isNone ∧ ok (cmdOp c) ∧ storeReady s c then some c else none
  | none => none

/-- Go on with the running command of a row that writes vault words: where an injection hits one, the command continues
and its reply says so (R456). -/
def withRow (cmd : Nat) (s : State) (ok : Op → Bool) (f : Cmd → State) : State :=
  match running s cmd ok with
  | none => s
  | some c =>
    let t := f c
    if kvtHit s t then markInj (some c.id) t else t

/-- The bytes of a command's input that have been read: staged at its Hub engine, or held by its unit. -/
def inputRead (s : State) (c : Cmd) : Bytes :=
  if c.kind = .hub ∧ c.remote.isNone ∧ c.port ≠ 256 then (eng s c.unit).staged else c.input
/-- Keep the bytes of a command's input that have been read. -/
def keepInput (c : Cmd) (b : Bytes) (s : State) : State :=
  if c.kind = .hub ∧ c.remote.isNone ∧ c.port ≠ 256 then updEng c.unit (fun e => { e with staged := b }) s
  else match cmdU s c.id with
    | some d => setCmd { d with input := b } s
    | none => s

/-- The input of a command: each byte is read once, in ascending order (R59). -/
def readIn (c : Cmd) (s : State) : Option (Bytes × State) :=
  let have0 := (inputRead s c).take (pInL c.pkt)
  match readAt c (pInA c.pkt + have0.length) (pInL c.pkt - have0.length) s with
  | some (b, s) => some (have0 ++ b, keepInput c (have0 ++ b) s)
  | none => none

/-- Write the output of a command (R60); a guest's goes back in its RSP. -/
def writeOut (c : Cmd) (b : Bytes) (s : State) : Option State :=
  if c.port = 256 then some (setCmd { (cmdU s c.id).getD c with out := b } s) else dmaWrite c.port (pOutA c.pkt) b s

/-- A host-memory error ends the command with STS_DMA_ERROR, reported to its function alone (R336). -/
def dmaEnd (c : Cmd) (s : State) : State := finish c.id (justStatus stsDmaError) (aerReport c.port s)

/-- A host-memory error in a command that may have written output: the bytes of its buffer are open (R60). -/
def dmaSpill (c : Cmd) (s : State) : State :=
  dmaEnd c (if c.port = 256 then s else spill c.port (pOutA c.pkt) (pMax c.pkt) s)

/-- Does an operation write output before it has read all of its input: the symmetric ones with an output? -/
def streams (c : Cmd) : Bool :=
  match cmdOp c with
  | .sym o => o != 0x0661
  | _ => false

/-- The command's result is known, with no output. -/
def endWith (c : Cmd) (st : Nat) (s : State) : State := finish c.id (justStatus st) s

/-- Write the output and finish with STS_OK. -/
def endOut (c : Cmd) (b : Bytes) (s : State) : State :=
  match writeOut c b s with
  | some s => finish c.id { status := stsOk, outLen := b.length } s
  | none => dmaSpill c s

/-- Go on with the input, or end with STS_DMA_ERROR. -/
def withIn (c : Cmd) (s : State) (f : Bytes → State → State) : State :=
  match readIn c s with
  | some (b, s) => f b s
  | none => if streams c then dmaSpill c s else dmaEnd c s

/-- Go on with `n` bytes of DRBG output; while no DRBG can generate the command waits, as in `s0` (R278). -/
def withDraw (c : Cmd) (n : Nat) (s0 s : State) (f : Bytes → State → State) : State :=
  match draw c.id n s with
  | some (b, s) => f b s
  | none => awaitDraw c.id s0

/-- Draws of `n` bytes until one is as wanted, at most `k` of them; none while no DRBG can generate. -/
def drawUntil (id n : Nat) (ok : Bytes → Bool) : Nat → State → Option (Bytes × State)
  | 0, _ => none
  | k + 1, s => match draw id n s with
    | none => none
    | some (b, s) => if ok b then some (b, s) else drawUntil id n ok k s

/-- Go on with the first draw of `n` bytes that is as wanted; while no DRBG can generate the command waits, as in `s0`. -/
def withDrawUntil (c : Cmd) (n : Nat) (ok : Bytes → Bool) (s0 s : State) (f : Bytes → State → State) : State :=
  match drawUntil c.id n ok 4096 s with
  | some (b, s) => f b s
  | none => awaitDraw c.id s0

/-- The decrypted body in an engine's WORK, in shares at the engine's order (R189). -/
def bodyToWork (b : Bytes) (e : Engine) : Engine :=
  let n := b.length
  let r := if e.order = 0 then ([], e.mg) else mgDraw (e.order * n) e.mg
  let masks := (List.range n).map (fun k => (List.range e.order).map (fun j => r.1.getD (j * n + k) 0))
  { e with
    work := Tbl.setList 0 e.work 0 b, workMasks := Tbl.setList [] e.workMasks 0 masks
    lines := Tbl.setList false e.lines 0 (List.replicate (ceilDiv n 64) true), mg := r.2 }

/-- Go on with the plain body of an extended key, empty for any other: it stands in the engine's WORK from offset 0 (R189);
a tag that fails is a CONTAINED fault of the engine. -/
def withBody (c : Cmd) (k : KeyObj) (s : State) (f : Bytes → State → State) : State :=
  if ¬ k.ext then f [] s
  else
    let s := access .hub c.unit 13 1 false 0 (cmdInst c) (some c.id) s
    if (cmdU s c.id).isNone then s
    else match unsealBody k.secret k.body with
      | some b => f b (if c.kind = .hub then updEng c.unit (bodyToWork b) s else s)
      | none => faultAt { blk := .hub, set := c.unit, checker := 13, cls := 1, inst := cmdInst c } (some c.id) s

/-- Compare with the expected value at the output address (R61). -/
def endCompare (c : Cmd) (v : Bytes) (bad : Nat) (s : State) : State :=
  match readAt c (pOutA c.pkt) v.length s with
  | some (e, s) => endWith c (if e = v then stsOk else bad) s
  | none => dmaEnd c s

/-- A checker's access on the path of a command: an injection there is recorded, and a CONTAINED or BLOCK class ends
the command. -/
def cmdAccess (b : Blk) (set checker cls : Nat) (dec : Bool) (c : Cmd) (s : State) : State :=
  access b set checker cls dec 0 (cmdInst c) (some c.id) s

/-- Go on after a checker's access while the command still runs. -/
def withCheck (b : Blk) (set checker cls : Nat) (dec : Bool) (c : Cmd) (s : State) (f : Cmd → State → State) : State :=
  let s := cmdAccess b set checker cls dec c s
  match cmdU s c.id with
  | some c => f c s
  | none => s

end Sys2Proof.Machine
end

