-- ==== Sys2Proof/Machine/Boundary.lean ====
section
/-! DEFINITION. Command boundaries, epochs, resets and pauses of instances, and the power of engine groups (chapters 05,
15 and 18). -/
namespace Sys2Proof.Machine
open Sys2Proof

/-! ### Engine groups (R141, R142, R388) -/

/-- Power a group up: its engines ask for seeds and reload the patch copy, which is checked (R141, R186). -/
def powerGroup (g : Nat) (s : State) : State :=
  if s.pwr.groups.contains g then s
  else
    let s : State := { s with pwr := { s.pwr with groups := g :: s.pwr.groups } }
    (List.range 4).foldl (fun s i =>
      let n := 4 * g + i
      let s := updEng n (fun e => { e with kimg := s.hub.kmem, mg := {} }) s
      let s := requestSeed true n s
      if s.hub.patch.loaded then reloadPatch n s else s) s

/-- Is an engine idle: no command, no reservation, nothing lent? -/
def engIdle (e : Engine) : Bool := e.cmd.isNone && e.reservedBy.isNone && !e.lend

/-- Can the seed reserve or the conditioner seed a group (R280)? -/
def canSeed (s : State) : Bool := !allFailed s || decide (4 ≤ s.ent.reserve)

/-- Does a dispatchable command wait with no powered engine free for it (R142)? -/
def groupDemand (s : State) : Bool :=
  s.hif.cmds.any (fun c => c.phase == .waiting && ringHead s c && mayStart s c &&
    (match cmdKind s c with
      | .hub => (hubChoice s c).isNone
      | .aes => (aesChoice s c).isNone
      | .dge => (extraUnits s c).1 && (hubChoice s c).isNone
      | _ => false))

/-- OFFLINE_REQ (R116): a write to HUB_CTRL.offline_req; an engine that runs nothing is at its boundary, and leaves a gang
that it was reserved for (R140). A lent one is withdrawn when its AES command has ended. -/
def execOfflineReq (e : Fin 64) (on : Bool) (s : State) : Res :=
  .next (if fltOpen s.pwr.mode ∧ s.pwr.mode ≠ .boot then
    let s := if on then freeReserved e s else s
    updEng e (fun x => { x with offlineReq := on, offline := if on then x.offline || engIdle x else false }) s
  else s)

/-- Does a dispatchable command wait only because of the power cap (R390)? -/
def capBlocked (s : State) : Bool :=
  let free : State := { s with pwr := { s.pwr with mode := .test, groups := [], links := 0 } }
  s.hif.cmds.any (fun c => c.phase == .waiting &&
    ((cmdKind s c == .hub && !capLets s false && fits free .hub 0 c) ||
     (cmdKind s c == .aes && !capLets s true && fits free .aes 0 c) ||
     (cmdKind s c == .dge && takesHub s c && !capLets s false && (List.range 16).any (fun u => fits free .dge u c))))

/-- Is an idle group to be gated: in SERVICE by idle_gate (R142), or to make room under the cap (R390)? -/
def gateWanted (s : State) : Bool :=
  s.pwr.mode == .service && s.drl.idleGate != 0 ||
    (s.pwr.mode == .service || s.pwr.mode == .surge || s.pwr.mode == .test) && capBlocked s

/-- ENGINE_GROUP_GATE (R142, R390): all four engines have been idle for idle_gate µs, or are idle while a command waits
for room under the cap; not in the all-failed state (R280). -/
def execEngineGroupGate (g : Fin 16) (s : State) : Res :=
  .next (if gateWanted s ∧ ¬ allFailed s ∧ s.pwr.groups.contains g.val ∧
      (List.range 4).all (fun i => engIdle (eng s (4 * g.val + i))) then gateGroup g s else s)

/-- ENGINE_GROUP_WAKE (R141, R142, R280, R390): demand, a group that is off, and room under the cap. In DISCOVER the
start of a cascade wakes every group (R360); in LOCKED and ZEROIZED a command of R111 wakes the one it runs in. -/
def execEngineGroupWake (g : Fin 16) (s : State) : Res :=
  .next (
    let want : Bool := match s.pwr.mode with
      | .service | .surge | .test => groupDemand s
      | .discover => s.tlk.startAt.isSome || s.pins.cascRole == 0
      | .boot => s.glb.katRunning
      | .locked | .zeroized => (recoveryEngine s).any (fun n => n / 4 == g.val) &&
          s.hif.cmds.any (fun c => c.phase == .waiting && recoveryOp (cmdOp c))
      | _ => false
    if want ∧ ¬ s.pwr.groups.contains g.val ∧ canSeed s ∧ pRes s + 50 ≤ capNow s then powerGroup g s else s)

/-- ENGINE_READY (R141): the later of 4 µs and the seed's arrival has come. -/
def execEngineReady (e : Fin 64) (s : State) : Res :=
  .next (if s.pwr.groups.contains (e.val / 4) ∧ (eng s e).mg.seeded then
    updEng e (fun x => { x with powered := true }) s
  else s)

/-! ### The boundary of a command (R120, R132, R263) -/

/-- The images without a program: the owner regions it took are zero (R120, R286). -/
def eraseExt (e : ExtDecl) (s : State) : State :=
  let s : State := { s with seq := { s.seq with image := Tbl.setList 0 s.seq.image e.codeAt (e.code.map (fun _ => 0)) } }
  match e.kernel with
  | some (a, n) => { s with hub := { s.hub with kmem := Tbl.setList 0 s.hub.kmem a (zeros n) } }
  | none => s

/-- Extension programs that are being unloaded go at the boundary of their last running command (R114). -/
def dropExts (s : State) : State :=
  { s with seq := { s.seq with exts := s.seq.exts.filter (fun e => !(e.unloading && !s.hif.cmds.any (fun c =>
      c.phase != .waiting && decide (e.first ≤ pOp c.pkt) && decide (pOp c.pkt ≤ e.last)))) } }

/-- A completed INST_SET_SHIELD sets the order of the commands dispatched from now on (R106). -/
def setShield (c : Cmd) (s : State) : State :=
  let i := byteAt c.pkt 40
  match (instU s i).st with
  | .absent => s
  | .exported => s
  | _ => setInst i { instU s i with order := byteAt c.pkt 45 } s

/-- A completed INST_MIGRATE_LOG turns logging on, switches its bitmap or turns it off (R108, R340–R342); a change signals
vector 0 (R25). -/
def setLog (c : Cmd) (s : State) : State :=
  let i := byteAt c.pkt 40
  let x := instU s i
  let on := byteAt c.pkt 41 == 1
  if x.st = .absent ∨ x.st = .exported then s
  else
    let s := setInst i (if on then { x with logging := true, dirty := [], bitmap := leAt c.pkt 48 8, bitmapLen := leAt c.pkt 56 4 }
      else { x with logging := false, logOver := false, dirty := [], bitmap := 0, bitmapLen := 0 }) s
    if x.logging = on then s else signal i 0 s

/-- Bytes 24–31 of DEV_STATUS: the timestamp at the reply (R113). -/
def stampStatus (c : Cmd) (s : State) : State :=
  if cmdOp c = .adm 0x0F02 ∧ c.res.status = stsOk then
    (dmaWrite c.port (pOutA c.pkt + 24) (leBytes 8 s.hif.ts) s).getD s
  else s

/-- What follows the reply of a command: KEY_INVALIDATE lifts its stop (R263), LC_ADVANCE
and UNLOCK enter RESET (R381), the recovery buffer is zeroed and its group gated again (R111). -/
def afterReply (c : Cmd) (s : State) : State :=
  let s := dropExts (freeOld s)
  let s := if recoveryMode s ∧ c.kind = .hub then
      gateGroup (c.unit / 4) { s with hub := { s.hub with recovery := [] } }
    else s
  let s := if s.kvt.stops.contains c.id then
      { s with kvt := { s.kvt with
          stops := s.kvt.stops.filter (· != c.id), invalidations := min 0xFFFF (s.kvt.invalidations + 1) } }
    else s
  match cmdOp c, c.res.status with
  | .adm 0x0F16, 0 => setShield c s
  | .adm 0x0F17, 0 => setLog c s
  | .adm 0x0F20, 0 => enterReset 5 s
  | .adm 0x0F21, 0 => enterReset 6 s
  | _, _ => s

/-- ENGINE_COMMAND_BOUNDARY (R132): a command whose result is known, and whose broadcasts are acknowledged (R366),
ends: its units are cleared and released and its reply is written. A commit's old version is then marked in the engines
(R259, step 6). -/
def execEngineCommandBoundary (cmd : Nat) (s : State) : Res :=
  .next (match cmdU s cmd with
  | none => s
  | some c =>
    if c.phase = .finished ∧ s.tlk.bcasts.all (fun b => b.1 != c.id) ∧ s.lcs.lcCmd ≠ some c.id ∧
        (liveInsts s).all (fun i => (instU s i).pauseCmd != some c.id) then
      let olds := supersededBy s c.id
      afterReply c (olds.foldl (fun s k => markEngines (castKey k.tag) s) (conclude (some c.res) c (stampStatus c s)))
    else s)

/-! ### Epochs (R134–R137, R391, R392) -/

/-- Charge what the running commands have used so far and start the new epoch's charge. -/
def chargeCmd (s : State) (c : Cmd) : State :=
  let i := cmdInst c
  let hubs := match c.kind with
    | .hub => if c.remote.isSome then [] else c.unit :: c.gang
    | _ => match c.core.bind (fun n => (coreU s n).hub) with
      | some e => [e]
      | none => []
  match c.phase, c.kind with
  | .waiting, _ => s
  | _, .aes => setCmd { c with start := s.now } (charge true i c.start s)
  | _, _ =>
    let s := if c.remote.isSome then charge false i c.start s else
      hubs.foldl (fun s n => updEng n (fun e => { e with reservedAt := s.now })
        (charge false i (if c.gang.isEmpty then c.start else (eng s n).reservedAt) s)) s
    setCmd { c with start := s.now } s

/-- Charge the engines that a forming gang holds (R140). -/
def chargeReserved (s : State) (n : Nat) : State :=
  match (eng s n).reservedBy.bind (cmdU s) with
  | some c => updEng n (fun e => { e with reservedAt := s.now }) (charge false (cmdInst c) (eng s n).reservedAt s)
  | none => s

/-- The instances with a command running or waiting; 256 stands for guests. -/
def activeInsts (s : State) : List Nat := uniq (s.hif.cmds.map cmdInst)

/-- A ledger at an epoch boundary (R134, R135). -/
def newLedger (s : State) (aes : Bool) : Ledger :=
  let l := ledger s aes
  let act := activeInsts s
  let b := availUnits s aes * 10000
  let sum := (act.map (weightOf s)).sum
  let ent (i : Nat) : Nat := if act.contains i ∧ sum ≠ 0 then b * weightOf s i / sum else 0
  let debt (i : Nat) : Nat := (-(Tbl.get 0 l.credit i)).toNat
  let all := uniq (act ++ l.credit.map (·.1))
  { credit := all.foldl (fun m i => Tbl.set 0 m i ((ent i : Int) - (min (debt i) (ent i) : Nat))) []
    charged := []
    lastUsed := l.charged
    lastHeld := (uniq (act ++ liveInsts s)).foldl (fun m i => Tbl.set 0 m i (unitsHeld s aes i)) []
    indebted := all.foldl (fun m i => Tbl.set false m i (decide (0 < min (debt i) (ent i)))) []
    present := act }

/-- The SURGE rules at an epoch boundary (R391, R392), after the sensors were read. -/
def surgeEpoch (s : State) : State :=
  let blocked := capBlocked s
  let p := s.pwr
  let s := if p.mode = .surge then blkEvent .pwr 0x11 1 s else s
  let s := if blocked then blkEvent .pwr 0x12 1 s else s
  let p := { p with fullEpochs := if blocked then p.fullEpochs + 1 else 0, idleEpochs := if blocked then 0 else p.idleEpochs + 1 }
  if p.mode = .service ∧ p.surgeEn ∧ 2 ≤ p.fullEpochs then
    let cool : Bool := decide (sgn 8 p.tj + 5 ≤ (p.surgeTj : Int))
    let gap : Bool := match p.lastSurgeEnd with
      | some t => decide (t + p.gapMs * 100000 ≤ s.now)
      | none => true
    if cool ∧ gap then
      setMode .surge { s with pwr := { p with
        windDown := false, blockedThermal := false, blockedGap := false, windows := min 0xFFFF (p.windows + 1)
        idleEpochs := 0 } }
    else { s with pwr := { p with blockedThermal := !cool, blockedGap := cool && !gap } }
  else if p.mode = .surge ∧ ¬ p.windDown ∧
      (10 ≤ p.idleEpochs ∨ ¬ p.surgeEn ∨ (p.surgeTj : Int) ≤ sgn 8 p.tj) then
    { s with pwr := { p with windDown := true } }
  else { s with pwr := p }

/-- Do epochs run in the mode (Table 18-7)? -/
def epochsRun (s : State) : Bool := s.hif.counting && s.pwr.mode != .freewheel && s.pwr.mode != .drain

/-- EPOCH_BOUNDARY (R134): charges up to now, weights in force, both ledgers, the sensors, the SURGE rules. -/
def execEpochBoundary (s : State) : Res :=
  .next (if epochsRun s then
    let s := s.hif.cmds.foldl chargeCmd s
    let s := (List.range 64).foldl chargeReserved s
    let s : State := { s with
      hif := { s.hif with inst := s.hif.inst.map (fun p => (p.1, { p.2 with weight := p.2.nextWeight })) }
      drl := { s.drl with mgrLive := s.drl.mgrWeight, lendLive := s.tlk.lendWeight } }
    let hub := newLedger s false
    let aes := newLedger s true
    let t := freeNumber 256 s
    let w := freeNumber 551 t.2
    let s := w.2
    surgeEpoch { s with
      drl := { s.drl with hub := hub, aes := aes, epoch := s.drl.epoch + 1 }
      pwr := { s.pwr with tj := t.1, power := w.1 } }
  else s)

/-! ### Resets of instances (R107, R334, R335) -/

/-- Pause and migration logging end with a reset. -/
def clearPause (x : Inst) : Inst :=
  { x with logging := false, logOver := false, dirty := [], bitmap := 0, bitmapLen := 0, pauseCmd := none, pauseAt := 0 }

/-- The commands of an instance that has been reset end, replied or not; the INST_PAUSE that drains it ends with it. -/
def abandonInst (i : Nat) (r : Option Result) (s : State) : State :=
  let s := match (instU s i).pauseCmd with
    | some id => setInst i { instU s i with pauseCmd := none } (finish id (justStatus stsOk) s)
    | none => s
  abandonAll (fun c => c.port == i) r s

/-- A function-level reset of function `i` (Table 15-3), queue pairs and MSI-X table included. -/
def flr (i : Nat) (s : State) : State :=
  let s := revokeGrants i (zeroCounters i (resetPort i (abandonInst i none s)))
  if i = 0 then s
  else
    let x := instU s i
    if x.st = .absent ∨ x.st = .exported then s else setInst i { clearPause x with st := .resetting } s

/-- FUNCTION_LEVEL_RESET (R334). -/
def execFunctionLevelReset (fn : Fin 256) (s : State) : Res :=
  .next (if s.hif.reach ∧ fn.val ≠ 0 then flr fn s else s)

/-- Release the digest engines and check-value units that manager firmware owns (R244, R376). -/
def releaseManager (s : State) : State :=
  let s := (List.range 16).foldl (fun s u => if (dgeU s u).owner = .manager then releaseDge u s else s) s
  (List.range 8).foldl (fun s u => if (cvuU s u).owner = .manager then releaseCvu u s else s) s

/-- FUNCTION0_RESET (R335): the manager port is reset and every instance destroyed, without replies. -/
def execFunction0Reset (cause : Fin 3) (s : State) : Res :=
  .next (if s.hif.reach then
    let s := (liveInsts s).foldl (fun s i => if i = 0 then s else
      returnMib i (destroyInst i (abandonInst i none s))) s
    let s := releaseManager (flr 0 s)
    if cause.val = 2 then { s with hif := { s.hif with reach := false } } else s
  else s)

/-- INSTANCE_RESET_COMPLETE (R334). -/
def execInstanceResetComplete (inst : Fin 256) (s : State) : Res :=
  .next (if (instU s inst).st = .resetting ∧ s.hif.cmds.all (fun c => c.port != inst.val) then
    setInst inst { instU s inst with st := .active } s
  else s)

/-! ### Pausing (R337, R338) -/

/-- Commands of an instance that have been dispatched. -/
def runningOf (s : State) (i : Nat) : Nat := (s.hif.cmds.filter (fun c => c.port == i && c.phase != .waiting)).length

/-- PAUSE_DRAIN_END (R337): nothing runs any more, or 2 ms have passed; the instance is paused and INST_PAUSE replies. -/
def execPauseDrainEnd (inst : Fin 256) (s : State) : Res :=
  .next (
    let x := instU s inst
    if x.st = .pausing ∧ (runningOf s inst = 0 ∨ x.pauseAt + 200000 ≤ s.now) then
      let s := setInst inst { x with st := .paused, pauseCmd := none } s
      match x.pauseCmd.bind (cmdU s) with
      | some c => conclude (some (justStatus stsOk)) c s
      | none => s
    else s)

end Sys2Proof.Machine
end

