-- ==== Sys2Proof/Machine/StdCurve.lean ====
section
/-! DEFINITION. X25519, ECDH, ECDSA and Ed25519 as their standards define them (08 R187, R198–R200; 03 R72, R76,
R78). -/
namespace Sys2Proof.Machine
open Sys2Proof

/-! ### P-256 and P-384 -/

/-- A short Weierstrass curve with a = −3: field, b, base point, order, bytes of a coordinate. -/
structure Curve where
  p  : Nat
  b  : Nat
  gx : Nat
  gy : Nat
  n  : Nat
  len : Nat
deriving DecidableEq, Repr

/-- P-256. -/
def p256 : Curve :=
  { p := 2 ^ 256 - 2 ^ 224 + 2 ^ 192 + 2 ^ 96 - 1
    b := 0x5AC635D8AA3A93E7B3EBBD55769886BC651D06B0CC53B0F63BCE3C3E27D2604B
    gx := 0x6B17D1F2E12C4247F8BCE6E563A440F277037D812DEB33A0F4A13945D898C296
    gy := 0x4FE342E2FE1A7F9B8EE7EB4A7C0F9E162BCE33576B315ECECBB6406837BF51F5
    n := 0xFFFFFFFF00000000FFFFFFFFFFFFFFFFBCE6FAADA7179E84F3B9CAC2FC632551
    len := 32 }

/-- P-384. -/
def p384 : Curve :=
  { p := 2 ^ 384 - 2 ^ 128 - 2 ^ 96 + 2 ^ 32 - 1
    b := 0xB3312FA7E23EE7E4988E056BE3F82D19181D9C6EFE8141120314088F5013875AC656398D8A2ED19D2A85C8EDD3EC2AEF
    gx := 0xAA87CA22BE8B05378EB1C71EF320AD746E1D3B628BA79B9859F741E082542A385502F25DBF55296C3A545E3872760AB7
    gy := 0x3617DE4A96262C6F5D9E98BF9292DC29F8F41DBD289A147CE9DA3113B5F0B8C00A60B1CE1D7E819D7A431D7C90EA0E5F
    n := 0xFFFFFFFFFFFFFFFFFFFFFFFFFFFFFFFFFFFFFFFFFFFFFFFFC7634D81F4372DDF581A0DB248B0A77AECEC196ACCC52973
    len := 48 }

/-- A point: none is the point at infinity. -/
abbrev Point := Option (Nat × Nat)

/-- The sum of two points. -/
def ptAdd (c : Curve) : Point → Point → Point
  | none, q => q
  | p, none => p
  | some (x1, y1), some (x2, y2) =>
    if x1 = x2 ∧ (y1 + y2) % c.p = 0 then none
    else
      let l := if x1 = x2 then (3 * x1 * x1 + (c.p - 3)) * invMod (2 * y1) c.p % c.p
        else subM y2 y1 c.p * invMod (subM x2 x1 c.p) c.p % c.p
      let x := subM (l * l) (x1 + x2) c.p
      some (x, subM (l * subM x1 x c.p) y1 c.p)

/-- A multiple of a point by the low `n` bits of a scalar. -/
def ptMulBits (c : Curve) (q : Point) : Nat → Nat → Point
  | 0, _ => none
  | n + 1, k =>
    let h := ptMulBits c q n (k / 2)
    let d := ptAdd c h h
    if k % 2 = 1 then ptAdd c d q else d

/-- A multiple of a point. -/
def ptMul (c : Curve) (k : Nat) (q : Point) : Point := ptMulBits c q (8 * c.len) k

/-- The base point. -/
def basePt (c : Curve) : Point := some (c.gx, c.gy)

/-- A point as x then y (R69). -/
def ptBytes (c : Curve) : Point → Bytes
  | some (x, y) => beBytes c.len x ++ beBytes c.len y
  | none => []

/-- Full check of a point given as x then y: coordinates of the field, on the curve; infinity has no such form (R72). -/
def ptOf (c : Curve) (b : Bytes) : Point :=
  let x := ofBe (b.take c.len)
  let y := ofBe (b.drop c.len)
  if b.length = 2 * c.len ∧ x < c.p ∧ y < c.p ∧ y * y % c.p = (x * x * x + (c.p - 3) * x + c.b) % c.p then some (x, y) else none

/-- The ECC CDH primitive: the x-coordinate of the shared point (R69, R198). -/
def ecCdh (c : Curve) (sec peer : Bytes) : Option Bytes :=
  match ptOf c peer with
  | none => none
  | q => (ptMul c (ofBe sec) q).map (fun z => beBytes c.len z.1)

/-- The public key of a scalar. -/
def ecPublic (c : Curve) (sec : Bytes) : Bytes := ptBytes c (ptMul c (ofBe sec) (basePt c))

/-! ### ECDSA -/

/-- The hash of an ECDSA command: the selected one, or the curve's default (R194). -/
def ecSel (c : Curve) (sel : Nat) : Nat := if sel ≠ 0 then sel else if c.len = 32 then 1 else 2

/-- HMAC with the hash of a selector 1–3. -/
def hmacSel (sel : Nat) (k m : Bytes) : Bytes := hmac (phHash sel) (if sel = 1 then 64 else 128) k m

/-- The leftmost bits of the order's length of a hash, as a number (R200). -/
def bits2int (c : Curve) (h : Bytes) : Nat := ofBe h >>> (8 * h.length - 8 * c.len)

/-- Bytes of output of the RFC 6979 generator until a candidate is full. -/
def nonceFill (sel : Nat) (k : Bytes) : Nat → Bytes → Bytes × Bytes
  | 0, v => (v, [])
  | n + 1, v =>
    let v := hmacSel sel k v
    let r := nonceFill sel k n v
    (r.1, v ++ r.2)

/-- r and s for a nonce, none where one of them is 0. -/
def ecdsaTry (c : Curve) (x z k : Nat) : Option (Nat × Nat) :=
  match ptMul c k (basePt c) with
  | none => none
  | some g =>
    let r := g.1 % c.n
    let s := invMod k c.n * ((z + r * x) % c.n) % c.n
    if r = 0 ∨ s = 0 then none else some (r, s)

/-- The candidates of RFC 6979 section 3.2 in turn, at most `n`. -/
def ecdsaLoop (c : Curve) (sel x z : Nat) : Nat → Bytes → Bytes → Bytes
  | 0, _, _ => []
  | n + 1, k, v =>
    let h := (phHash sel []).length
    let t := nonceFill sel k (ceilDiv c.len h) v
    let i := bits2int c t.2
    match if 1 ≤ i ∧ i < c.n then ecdsaTry c x z i else none with
    | some (r, s) => beBytes c.len r ++ beBytes c.len s
    | none =>
      let k := hmacSel sel k (t.1 ++ [0])
      ecdsaLoop c sel x z n k (hmacSel sel k t.1)

/-- ECDSA signature of a message hash, the nonce derived as in RFC 6979; `extra` is the additional data of its section
3.6, empty for deterministic signing (R76). -/
def ecdsaSign (c : Curve) (sel : Nat) (sec h extra : Bytes) : Bytes :=
  let z := bits2int c h
  let seed := sec ++ beBytes c.len (z % c.n) ++ extra
  let n := (phHash sel []).length
  let v := List.replicate n 1
  let k := hmacSel sel (zeros n) (v ++ [0] ++ seed)
  let v := hmacSel sel k v
  let k := hmacSel sel k (v ++ [1] ++ seed)
  ecdsaLoop c sel (ofBe sec) z 1000 k (hmacSel sel k v)

/-- ECDSA verification: r and s in [1, n − 1], a valid public key, the equation (R78, R200). -/
def ecdsaVerify (c : Curve) (pk h sig : Bytes) : Bool :=
  let r := ofBe (sig.take c.len)
  let s := ofBe (sig.drop c.len)
  match ptOf c pk with
  | none => false
  | q =>
    if 1 ≤ r ∧ r < c.n ∧ 1 ≤ s ∧ s < c.n then
      let w := invMod s c.n
      match ptAdd c (ptMul c (bits2int c h * w % c.n) (basePt c)) (ptMul c (r * w % c.n) q) with
      | some x => decide (x.1 % c.n = r)
      | none => false
    else false

/-! ### X25519 -/

/-- 2^255 − 19. -/
def p25519 : Nat := 2 ^ 255 - 19

/-- One step of the Montgomery ladder on (x2, z2, x3, z3) for the u-coordinate `u` and one scalar bit. -/
def ladderStep (u : Nat) (b : Bool) (s : Nat × Nat × Nat × Nat) : Nat × Nat × Nat × Nat :=
  let p := p25519
  let (x2, z2, x3, z3) := if b then (s.2.2.1, s.2.2.2, s.1, s.2.1) else s
  let a := x2 + z2
  let aa := a * a % p
  let m := subM x2 z2 p
  let bb := m * m % p
  let e := subM aa bb p
  let da := subM x3 z3 p * a % p
  let cb := (x3 + z3) * m % p
  let d := subM da cb p
  let x3 := (da + cb) * (da + cb) % p
  let z3 := u * (d * d % p) % p
  let x2 := aa * bb % p
  let z2 := e * ((aa + 121665 * e) % p) % p
  if b then (x3, z3, x2, z2) else (x2, z2, x3, z3)

/-- The scalar clamped (RFC 7748, R198). -/
def clampScalar (k : Bytes) : Nat := ofLe k % 2 ^ 254 / 8 * 8 + 2 ^ 254

/-- X25519 of a scalar and a u-coordinate whose bit 255 is masked (RFC 7748, R198). -/
def x25519 (k u : Bytes) : Bytes :=
  let u := ofLe u % 2 ^ 255 % p25519
  let k := clampScalar k
  let r := (List.range 255).foldl (fun s i => ladderStep u (k.testBit (254 - i)) s) (1, 0, u, 1)
  leBytes 32 (r.1 * powM r.2.1 (p25519 - 2) p25519 % p25519)

/-- The u-coordinate of the base point. -/
def x25519Base : Bytes := 9 :: zeros 31

/-! ### Ed25519 -/

/-- The order of the base point. -/
def edL : Nat := 2 ^ 252 + 27742317777372353535851937790883648493

/-- The constant d. -/
def edD : Nat := subM 0 (121665 * invMod 121666 p25519) p25519

/-- The sum of two points (X : Y : Z : T). -/
def edAdd (a b : Nat × Nat × Nat × Nat) : Nat × Nat × Nat × Nat :=
  let p := p25519
  let (x1, y1, z1, t1) := a
  let (x2, y2, z2, t2) := b
  let u := subM y1 x1 p * subM y2 x2 p % p
  let v := (y1 + x1) * (y2 + x2) % p
  let c := 2 * t1 * edD % p * t2 % p
  let d := 2 * z1 * z2 % p
  let e := subM v u p
  let f := subM d c p
  let g := d + c
  let h := v + u
  (e * f % p, g * h % p, f * g % p, e * h % p)

/-- A multiple of a point by the low `n` bits of a scalar. -/
def edMulBits (q : Nat × Nat × Nat × Nat) : Nat → Nat → Nat × Nat × Nat × Nat
  | 0, _ => (0, 1, 1, 0)
  | n + 1, k =>
    let h := edMulBits q n (k / 2)
    let d := edAdd h h
    if k % 2 = 1 then edAdd d q else d

/-- A multiple of a point. -/
def edMul (k : Nat) (q : Nat × Nat × Nat × Nat) : Nat × Nat × Nat × Nat := edMulBits q 256 k

/-- The point of a y-coordinate and the low bit of x, where the curve has one (RFC 8032, 5.1.3). -/
def edPoint (y sign : Nat) : Option (Nat × Nat × Nat × Nat) :=
  let p := p25519
  let x2 := subM (y * y) 1 p * invMod ((edD * (y * y % p) + 1) % p) p % p
  let r := powM x2 ((p + 3) / 8) p
  let x := if r * r % p = x2 then r else r * powM 2 ((p - 1) / 4) p % p
  if x * x % p ≠ x2 ∨ (x = 0 ∧ sign = 1) then none
  else
    let x := if x % 2 = sign then x else p - x
    some (x, y, 1, x * y % p)

/-- Decode a point; an encoding with y of 2^255 − 19 or greater is rejected (R199). -/
def edDecode (b : Bytes) : Option (Nat × Nat × Nat × Nat) :=
  let v := ofLe b
  if p25519 ≤ v % 2 ^ 255 then none else edPoint (v % 2 ^ 255) (v / 2 ^ 255)

/-- Encode a point. -/
def edEncode (q : Nat × Nat × Nat × Nat) : Bytes :=
  let i := powM q.2.2.1 (p25519 - 2) p25519
  leBytes 32 (q.2.1 * i % p25519 + q.1 * i % p25519 % 2 * 2 ^ 255)

/-- The base point: y = 4/5 and even x. -/
def edBase : Nat × Nat × Nat × Nat := (edPoint (4 * invMod 5 p25519 % p25519) 0).getD (0, 1, 1, 0)

/-- The public key of a seed. -/
def edPublic (sec : Bytes) : Bytes := edEncode (edMul (clampScalar ((sha512 sec).take 32)) edBase)

/-- Ed25519 signature (RFC 8032). -/
def edSign (sec m : Bytes) : Bytes :=
  let h := sha512 sec
  let a := clampScalar (h.take 32)
  let pk := edEncode (edMul a edBase)
  let r := ofLe (sha512 (h.drop 32 ++ m)) % edL
  let rb := edEncode (edMul r edBase)
  rb ++ leBytes 32 ((r + ofLe (sha512 (rb ++ pk ++ m)) % edL * a) % edL)

/-- Is a point the neutral one? -/
def edZero (q : Nat × Nat × Nat × Nat) : Bool := q.1 == 0 && q.2.1 == q.2.2.1

/-- Ed25519 verification with the rejections and the cofactored equation of R199. -/
def edVerify (pk m sig : Bytes) : Bool :=
  let s := ofLe (sig.drop 32)
  match edDecode (sig.take 32), edDecode pk with
  | some r, some a =>
    if edL ≤ s ∨ edZero (edMul 8 a) then false
    else
      let k := ofLe (sha512 (sig.take 32 ++ pk ++ m)) % edL
      decide (edEncode (edMul 8 (edMul s edBase)) = edEncode (edAdd (edMul 8 r) (edMul 8 (edMul k a))))
  | _, _ => false

end Sys2Proof.Machine
end

