-- ==== Sys2Proof/Machine/StdKem.lean ====
section
/-! DEFINITION. ML-KEM as FIPS 203 defines it (08 R187, R191; 03 R70, R71). -/
namespace Sys2Proof.Machine
open Sys2Proof

/-- A parameter set of ML-KEM. -/
structure KemPar where
  k    : Nat
  eta1 : Nat
  du   : Nat
  dv   : Nat
deriving DecidableEq, Repr

/-- ML-KEM-512, -768 and -1024, for sets 1 to 3. -/
def kemPar : Nat → KemPar
  | 1 => ⟨2, 3, 10, 4⟩
  | 2 => ⟨3, 2, 10, 4⟩
  | _ => ⟨4, 2, 11, 5⟩

/-- The sum of two polynomials modulo `q`. -/
def polyAdd (q : Nat) (f g : List Nat) : List Nat := List.zipWith (fun a b => (a + b) % q) f g
/-- The difference of two polynomials modulo `q`. -/
def polySub (q : Nat) (f g : List Nat) : List Nat := List.zipWith (fun a b => subM a b q) f g
/-- The zero polynomial. -/
def polyZero : List Nat := List.replicate 256 0

/-- 256 uniform coefficients from a stream (`p` = 0: SampleNTT, `p` = 1: RejNTTPoly); a long stream where a short one
does not suffice. -/
def rejPoly (p : Nat) (seed : Bytes) : List Nat :=
  let r := (sampleU p 256 0 (shake128 seed 1008)).1
  if r.length = 256 then r else (sampleU p 256 0 (shake128 seed 16128)).1

/-- The inner product of two vectors in the transform domain. -/
def kemDot (f g : List (List Nat)) : List Nat := (List.zipWith baseMul f g).foldl (polyAdd 3329) polyZero

/-- Row `i` of the matrix Â, or of its transpose. -/
def kemRow (k : Nat) (rho : Bytes) (transposed : Bool) (i : Nat) : List (List Nat) :=
  (List.range k).map (fun j => rejPoly 0 (rho ++ (if transposed then leBytes 1 i ++ leBytes 1 j else leBytes 1 j ++ leBytes 1 i)))

/-- `n` noise polynomials from the counter `at` on. -/
def kemNoise (eta n at' : Nat) (seed : Bytes) : List (List Nat) :=
  (List.range n).map (fun i => sampleCbd eta (shake256 (seed ++ leBytes 1 (at' + i)) (64 * eta)))

/-- K-PKE.KeyGen from d: encryption key and decryption key. -/
def pkeGen (k : KemPar) (d : Bytes) : Bytes × Bytes :=
  let g := sha3_512 (d ++ leBytes 1 k.k)
  let rho := g.take 32
  let sg := g.drop 32
  let s := (kemNoise k.eta1 k.k 0 sg).map (ntt kemNtt)
  let e := (kemNoise k.eta1 k.k k.k sg).map (ntt kemNtt)
  let t := (List.range k.k).map (fun i => polyAdd 3329 (kemDot (kemRow k.k rho false i) s) (e.getD i []))
  (t.flatMap (packBits 12) ++ rho, s.flatMap (packBits 12))

/-- `k` polynomials of `w` bits a coefficient from a row of bytes. -/
def polysOf (w k : Nat) (b : Bytes) : List (List Nat) :=
  (List.range k).map (fun i => unpackBits w 256 (slice b (32 * w * i) (32 * w)))

/-- K-PKE.Encrypt. -/
def pkeEnc (k : KemPar) (ek m r : Bytes) : Bytes :=
  let t := (polysOf 12 k.k ek).map (fun f => f.map (· % 3329))
  let rho := slice ek (384 * k.k) 32
  let y := (kemNoise k.eta1 k.k 0 r).map (ntt kemNtt)
  let e1 := kemNoise 2 k.k k.k r
  let e2 := (kemNoise 2 1 (2 * k.k) r).headD []
  let u := (List.range k.k).map (fun i => polyAdd 3329 (intt kemNtt (kemDot (kemRow k.k rho true i) y)) (e1.getD i []))
  let mu := (unpackBits 1 256 m).map (decompress 1)
  let v := polyAdd 3329 (polyAdd 3329 (intt kemNtt (kemDot t y)) e2) mu
  u.flatMap (fun f => packBits k.du (f.map (compress k.du))) ++ packBits k.dv (v.map (compress k.dv))

/-- K-PKE.Decrypt. -/
def pkeDec (k : KemPar) (dk c : Bytes) : Bytes :=
  let u := (polysOf k.du k.k c).map (fun f => f.map (decompress k.du))
  let v := (unpackBits k.dv 256 (c.drop (32 * k.du * k.k))).map (decompress k.dv)
  let w := polySub 3329 v (intt kemNtt (kemDot (polysOf 12 k.k dk) (u.map (ntt kemNtt))))
  packBits 1 (w.map (compress 1))

/-- ML-KEM.KeyGen_internal: encapsulation key and decapsulation key from d ‖ z. -/
def kemGen (k : KemPar) (dz : Bytes) : Bytes × Bytes :=
  let p := pkeGen k (dz.take 32)
  (p.1, p.2 ++ p.1 ++ sha3_256 p.1 ++ slice dz 32 32)

/-- The expanded decapsulation key of a held key: a 64-byte seed is expanded (Table 8-2). -/
def kemExpanded (k : KemPar) (m : Bytes) : Bytes := if m.length = 64 then (kemGen k m).2 else m

/-- ML-KEM.Encaps_internal: ciphertext and shared secret. -/
def mlkemEncaps (k : KemPar) (ek m : Bytes) : Bytes × Bytes :=
  let g := sha3_512 (m ++ sha3_256 ek)
  (pkeEnc k ek m (g.drop 32), g.take 32)

/-- ML-KEM.Decaps_internal; a ciphertext that does not re-encrypt gives the implicit-rejection secret (R71). -/
def mlkemDecaps (k : KemPar) (m c : Bytes) : Bytes :=
  let dk := kemExpanded k m
  let ek := slice dk (384 * k.k) (384 * k.k + 32)
  let m' := pkeDec k (dk.take (384 * k.k)) c
  let g := sha3_512 (m' ++ slice dk (768 * k.k + 32) 32)
  if pkeEnc k ek m' (g.drop 32) = c then g.take 32 else shake256 (slice dk (768 * k.k + 64) 32 ++ c) 32

/-- The encapsulation key of a held key. -/
def mlkemPublic (k : KemPar) (m : Bytes) : Bytes :=
  if m.length = 64 then (pkeGen k (m.take 32)).1 else slice m (384 * k.k) (384 * k.k + 32)

/-- The hash check of FIPS 203 section 7.3 on an expanded key (R190). -/
def mlkemKeyOk (k : KemPar) (m : Bytes) : Bool :=
  decide (sha3_256 (slice m (384 * k.k) (384 * k.k + 32)) = slice m (768 * k.k + 32) 32)

end Sys2Proof.Machine
end

