-- ==== Sys2Proof/Machine/StdDsa.lean ====
section
/-! DEFINITION. ML-DSA as FIPS 204 defines it (08 R187, R192, R193; 03 R76, R78). -/
namespace Sys2Proof.Machine
open Sys2Proof

/-- A parameter set of ML-DSA: rows, columns, η, bits of a packed η value, τ, γ1 as a power of 2, γ2, ω and the
length of c̃. -/
structure DsaPar where
  k    : Nat
  l    : Nat
  eta  : Nat
  tau  : Nat
  g1   : Nat
  g2   : Nat
  omega : Nat
  ct   : Nat
deriving DecidableEq, Repr

/-- ML-DSA-44, -65 and -87, for sets 1 to 3. -/
def dsaPar : Nat → DsaPar
  | 1 => ⟨4, 4, 2, 39, 17, 95232, 80, 32⟩
  | 2 => ⟨6, 5, 4, 49, 19, 261888, 55, 48⟩
  | _ => ⟨8, 7, 2, 60, 19, 261888, 75, 64⟩

/-- The modulus of ML-DSA. -/
def dsaQ : Nat := 8380417

/-- The bits of a packed coefficient in [−η, η]. -/
def etaBits (p : DsaPar) : Nat := if p.eta = 2 then 3 else 4

/-- β = τ · η. -/
def dsaBeta (p : DsaPar) : Nat := p.tau * p.eta

/-- The distance of a residue from 0. -/
def absQ (x : Nat) : Nat := min x (dsaQ - x)

/-- The largest distance from 0 in a vector. -/
def normQ (v : List (List Nat)) : Nat := v.flatten.foldl (fun a x => max a (absQ x)) 0

/-- BitPack of residues in [−a, b], as b minus the value. -/
def packDown (w b : Nat) (f : List Nat) : Bytes := packBits w (f.map (fun x => subM b x dsaQ))

/-- BitUnpack of 256 coefficients stored as b minus the value. -/
def unpackDown (w b : Nat) (x : Bytes) : List Nat := (unpackBits w 256 x).map (fun v => subM b v dsaQ)

/-- `n` polynomials in [−a, b] from a row of bytes. -/
def unpackVec (w b n : Nat) (x : Bytes) : List (List Nat) :=
  (List.range n).map (fun i => unpackDown w b (slice x (32 * w * i) (32 * w)))

/-- 256 bounded coefficients (RejBoundedPoly); a long stream where a short one does not suffice. -/
def rejBounded (eta : Nat) (seed : Bytes) : List Nat :=
  let r := (sampleEta eta 256 0 (shake256 seed 544)).1
  if r.length = 256 then r else (sampleEta eta 256 0 (shake256 seed 16320)).1

/-- Row `i` of the matrix Â. -/
def dsaRow (p : DsaPar) (rho : Bytes) (i : Nat) : List (List Nat) :=
  (List.range p.l).map (fun j => rejPoly 1 (rho ++ leBytes 1 j ++ leBytes 1 i))

/-- The product of two polynomials in the transform domain. -/
def dsaMul (f g : List Nat) : List Nat := List.zipWith (fun a b => a * b % dsaQ) f g

/-- Â times a vector in the transform domain. -/
def dsaMat (p : DsaPar) (rho : Bytes) (v : List (List Nat)) : List (List Nat) :=
  (List.range p.k).map (fun i => (List.zipWith dsaMul (dsaRow p rho i) v).foldl (polyAdd dsaQ) polyZero)

/-- The sum of two vectors. -/
def vecAdd (u v : List (List Nat)) : List (List Nat) := List.zipWith (polyAdd dsaQ) u v
/-- The difference of two vectors. -/
def vecSub (u v : List (List Nat)) : List (List Nat) := List.zipWith (polySub dsaQ) u v

/-- Power2Round: t1 and t0 of a coefficient. -/
def power2Round (r : Nat) : Nat × Nat :=
  let lo := r % 8192
  if 4096 < lo then (r / 8192 + 1, subM lo 8192 dsaQ) else (r / 8192, lo)

/-- t = A s1 + s2 for a seed ρ and the secret vectors. -/
def dsaT (p : DsaPar) (rho : Bytes) (s1 s2 : List (List Nat)) : List (List Nat) :=
  vecAdd ((dsaMat p rho (s1.map (ntt dsaNtt))).map (intt dsaNtt)) s2

/-- The public key of ρ and t. -/
def dsaPk (rho : Bytes) (t : List (List Nat)) : Bytes :=
  rho ++ t.flatMap (fun f => packBits 10 (f.map (fun x => (power2Round x).1)))

/-- The private key from its parts. -/
def dsaSk (p : DsaPar) (rho kk : Bytes) (s1 s2 t : List (List Nat)) : Bytes :=
  let packS := fun (v : List (List Nat)) => v.flatMap (packDown (etaBits p) p.eta)
  rho ++ kk ++ shake256 (dsaPk rho t) 64 ++ packS s1 ++ packS s2 ++
    t.flatMap (fun f => packDown 13 4096 (f.map (fun x => (power2Round x).2)))

/-- ML-DSA.KeyGen_internal: public and private key from ξ. -/
def dsaGen (p : DsaPar) (xi : Bytes) : Bytes × Bytes :=
  let h := shake256 (xi ++ leBytes 1 p.k ++ leBytes 1 p.l) 128
  let rho := h.take 32
  let s := (List.range (p.l + p.k)).map (fun i => rejBounded p.eta (slice h 32 64 ++ leBytes 2 i))
  let t := dsaT p rho (s.take p.l) (s.drop p.l)
  (dsaPk rho t, dsaSk p rho (h.drop 96) (s.take p.l) (s.drop p.l) t)

/-- The expanded private key of a held key: a 32-byte seed is expanded (Table 8-2). -/
def dsaExpanded (p : DsaPar) (m : Bytes) : Bytes := if m.length = 32 then (dsaGen p m).2 else m

/-- The parts of an expanded private key: ρ, K, tr, s1, s2, t0. -/
structure DsaKey where
  rho : Bytes
  kk  : Bytes
  tr  : Bytes
  s1  : List (List Nat)
  s2  : List (List Nat)
  t0  : List (List Nat)
deriving DecidableEq, Repr

/-- skDecode. -/
def dsaKey (p : DsaPar) (m : Bytes) : DsaKey :=
  let w := etaBits p
  { rho := m.take 32, kk := slice m 32 32, tr := slice m 64 64, s1 := unpackVec w p.eta p.l (m.drop 128)
    s2 := unpackVec w p.eta p.k (m.drop (128 + 32 * w * p.l)), t0 := unpackVec 13 4096 p.k (m.drop (128 + 32 * w * (p.l + p.k))) }

/-- The public key of a held key. -/
def dsaPublic (p : DsaPar) (m : Bytes) : Bytes :=
  if m.length = 32 then (dsaGen p m).1
  else
    let k := dsaKey p m
    dsaPk k.rho (dsaT p k.rho k.s1 k.s2)

/-- Do t0 and tr of an expanded key agree with its public key (R190)? -/
def dsaKeyOk (p : DsaPar) (m : Bytes) : Bool :=
  let k := dsaKey p m
  decide (dsaSk p k.rho k.kk k.s1 k.s2 (dsaT p k.rho k.s1 k.s2) = m)

/-- The bytes of w1 (w1Encode). -/
def w1Bytes (p : DsaPar) (w1 : List (List Nat)) : Bytes := w1.flatMap (packBits (if p.k = 4 then 6 else 4))

/-- The number of values that w1 takes. -/
def dsaM (p : DsaPar) : Nat := (dsaQ - 1) / (2 * p.g2)

/-- The challenge polynomial of c̃ (SampleInBall). -/
def challenge (p : DsaPar) (ct : Bytes) : List Nat := (sampleBall p.tau (shake256 ct 2176)).1

/-- The hint of a coefficient: does adding `z` to `r` change the high bits? -/
def makeHint (p : DsaPar) (z r : Nat) : Bool := (decompose p.g2 r).1 != (decompose p.g2 ((r + z) % dsaQ)).1

/-- UseHint on one coefficient. -/
def useHint (p : DsaPar) (h : Bool) (r : Nat) : Nat :=
  let d := decompose p.g2 r
  let m := dsaM p
  if ¬ h then d.1
  else if d.2 ≠ 0 ∧ d.2 ≤ p.g2 then (d.1 + 1) % m
  else (d.1 + m - 1) % m

/-- HintBitPack: positions row by row, then how many stand up to the end of each row. -/
def packHint (p : DsaPar) (h : List (List Bool)) : Bytes :=
  let at' := h.map (fun f => (List.range 256).filter (fun i => f.getD i false))
  fit p.omega (at'.flatten.map (BitVec.ofNat 8)) ++
    (List.range p.k).map (fun i => BitVec.ofNat 8 ((at'.take (i + 1)).flatten.length))

/-- Are numbers strictly rising? -/
def rising : List Nat → Bool
  | a :: b :: t => decide (a < b) && rising (b :: t)
  | _ => true

/-- HintBitUnpack; none where the encoding is not the standard's. -/
def unpackHint (p : DsaPar) (y : Bytes) : Option (List (List Bool)) :=
  let ends := (List.range p.k).map (fun i => byteAt y (p.omega + i))
  let starts := 0 :: ends
  let rows := (List.range p.k).map (fun i =>
    let a := starts.getD i 0
    (List.range (ends.getD i 0 - a)).map (fun j => byteAt y (a + j)))
  let last := ends.getD (p.k - 1) 0
  if (List.range p.k).all (fun i => decide (starts.getD i 0 ≤ ends.getD i 0)) && decide (last ≤ p.omega) && rows.all rising &&
      allZero (slice y last (p.omega - last)) then
    some (rows.map (fun r => (List.range 256).map (fun i => r.contains i)))
  else none

/-- One iteration of the signing loop at the counter κ: the signature, or none where it is rejected. -/
def dsaTry (p : DsaPar) (k : DsaKey) (mu rho'' : Bytes) (kappa : Nat) : Option Bytes :=
  let w := p.g1 + 1
  let y := (List.range p.l).map (fun r => unpackDown w (2 ^ p.g1) (shake256 (rho'' ++ leBytes 2 (kappa + r)) (32 * w)))
  let ww := (dsaMat p k.rho (y.map (ntt dsaNtt))).map (intt dsaNtt)
  let ct := shake256 (mu ++ w1Bytes p (ww.map (fun f => f.map (fun x => (decompose p.g2 x).1)))) p.ct
  let c := ntt dsaNtt (challenge p ct)
  let times := fun (v : List (List Nat)) => v.map (fun f => intt dsaNtt (dsaMul c (ntt dsaNtt f)))
  let z := vecAdd y (times k.s1)
  let r := vecSub ww (times k.s2)
  let r0 := r.map (fun f => f.map (fun x => (decompose p.g2 x).2))
  if 2 ^ p.g1 - dsaBeta p ≤ normQ z ∨ p.g2 - dsaBeta p ≤ normQ r0 then none
  else
    let ct0 := times k.t0
    let h := List.zipWith (List.zipWith (fun z r => makeHint p (subM 0 z dsaQ) ((r + z) % dsaQ))) ct0 r
    if p.g2 ≤ normQ ct0 ∨ p.omega < (h.flatten.filter id).length then none
    else some (ct ++ z.flatMap (packDown w (2 ^ p.g1)) ++ packHint p h)

/-- At most `n` iterations from κ on (R193). -/
def dsaLoop (p : DsaPar) (k : DsaKey) (mu rho'' : Bytes) : Nat → Nat → Option Bytes
  | 0, _ => none
  | n + 1, kappa => match dsaTry p k mu rho'' kappa with
    | some s => some s
    | none => dsaLoop p k mu rho'' n (kappa + p.l)

/-- ML-DSA.Sign_internal of M′ with rnd; none where 1,000 iterations do not suffice (R193). -/
def dsaSign (p : DsaPar) (m m' rnd : Bytes) : Option Bytes :=
  let k := dsaKey p (dsaExpanded p m)
  let mu := shake256 (k.tr ++ m') 64
  dsaLoop p k mu (shake256 (k.kk ++ rnd ++ mu) 64) 1000 0

/-- ML-DSA.Verify_internal. -/
def dsaVerify (p : DsaPar) (pk m' sig : Bytes) : Bool :=
  let w := p.g1 + 1
  let ct := sig.take p.ct
  let z := unpackVec w (2 ^ p.g1) p.l (sig.drop p.ct)
  match unpackHint p (sig.drop (p.ct + 32 * w * p.l)) with
  | none => false
  | some h =>
    let mu := shake256 (shake256 pk 64 ++ m') 64
    let c := ntt dsaNtt (challenge p ct)
    let t1 := (polysOf 10 p.k (pk.drop 32)).map (fun f => ntt dsaNtt (f.map (fun x => x * 8192 % dsaQ)))
    let v := vecSub (dsaMat p (pk.take 32) (z.map (ntt dsaNtt))) (t1.map (dsaMul c))
    let w1 := List.zipWith (List.zipWith (useHint p)) h (v.map (intt dsaNtt))
    decide (normQ z < 2 ^ p.g1 - dsaBeta p) && decide (shake256 (mu ++ w1Bytes p w1) p.ct = ct)

end Sys2Proof.Machine
end

