-- ==== Sys2Proof/Machine/StdGf.lean ====
section
/-! DEFINITION. Binary fields, polynomials over them and the Berlekamp–Massey algorithm, which the code-based schemes
share (08 R196, R197). -/
namespace Sys2Proof.Machine
open Sys2Proof

/-- A field GF(2^m) by m and its field polynomial, the bit x^m included. -/
structure Gf where
  m    : Nat
  poly : Nat
deriving DecidableEq, Repr

/-- Times x. -/
def gfX (f : Gf) (a : Nat) : Nat := if (2 * a).testBit f.m then (2 * a) ^^^ f.poly else 2 * a

/-- The product, by the low `n` bits of the second factor. -/
def gfMulBits (f : Gf) : Nat → Nat → Nat → Nat
  | 0, _, _ => 0
  | n + 1, a, b => (if b % 2 = 1 then a else 0) ^^^ gfMulBits f n (gfX f a) (b / 2)

/-- The product. -/
def gfTimes (f : Gf) (a b : Nat) : Nat := gfMulBits f f.m a b

/-- The inverse, 0 of 0: a ^ (2^m − 2). -/
def gfInv (f : Gf) (a : Nat) : Nat :=
  ((List.range (f.m - 1)).foldl (fun (s : Nat × Nat) _ => let q := gfTimes f s.1 s.1; (q, gfTimes f s.2 q)) (a, 1)).2

/-- The sum of two polynomials, lowest coefficient first. -/
def gpAdd : List Nat → List Nat → List Nat
  | [], g => g
  | f, [] => f
  | a :: f, b :: g => (a ^^^ b) :: gpAdd f g

/-- A polynomial times a constant. -/
def gpScale (f : Gf) (c : Nat) (g : List Nat) : List Nat := g.map (gfTimes f c)

/-- The value of a polynomial (Horner). -/
def gpEval (f : Gf) (g : List Nat) (x : Nat) : Nat := g.foldr (fun c a => c ^^^ gfTimes f a x) 0

/-- The product of two polynomials. -/
def gpMul (f : Gf) : List Nat → List Nat → List Nat
  | [], _ => []
  | a :: g, h => gpAdd (gpScale f a h) (0 :: gpMul f g h)

/-- The state of the Berlekamp–Massey algorithm. -/
structure BmState where
  c : List Nat := [1]
  b : List Nat := [1]
  l : Nat := 0
  m : Nat := 1
  d : Nat := 1
deriving DecidableEq, Repr

/-- One step with the syndromes so far, the newest first. -/
def bmStep (f : Gf) (s : BmState) (n : Nat) (back : List Nat) : BmState :=
  let d := (List.zipWith (gfTimes f) (s.c.take (s.l + 1)) back).foldl (· ^^^ ·) 0
  if d = 0 then { s with m := s.m + 1 }
  else
    let c := gpAdd s.c (List.replicate s.m 0 ++ gpScale f (gfTimes f d (gfInv f s.d)) s.b)
    if 2 * s.l ≤ n then { c := c, b := s.c, l := n + 1 - s.l, m := 1, d := d } else { s with c := c, m := s.m + 1 }

/-- The algorithm on a row of syndromes: `back` holds the ones already seen. -/
def bmRun (f : Gf) : Nat → List Nat → BmState → List Nat → BmState
  | _, _, s, [] => s
  | n, back, s, x :: t => bmRun f (n + 1) (x :: back) (bmStep f s n (x :: back)) t

/-- The shortest linear recurrence of a row of syndromes. -/
def bm (f : Gf) (s : List Nat) : BmState := bmRun f 0 [] {} s

end Sys2Proof.Machine
end

