-- ==== Sys2Proof/Machine/StdHqc.lean ====
section
/-! DEFINITION. HQC as the 2025 specification defines it (08 R187, R188, R197). -/
namespace Sys2Proof.Machine
open Sys2Proof

/-- A parameter set of HQC: n, n1, copies of the Reed–Muller word, k and the weights of the secret and of the errors. -/
structure HqcPar where
  n    : Nat
  n1   : Nat
  mul  : Nat
  k    : Nat
  w    : Nat
  wr   : Nat
deriving DecidableEq, Repr

/-- HQC-128, -192 and -256, for sets 6 to 8. -/
def hqcPar : Nat → HqcPar
  | 6 => ⟨17669, 46, 3, 16, 66, 75⟩
  | 7 => ⟨35851, 56, 5, 24, 100, 114⟩
  | _ => ⟨57637, 90, 5, 32, 131, 149⟩

/-- The bytes of a vector of n bits. -/
def hqcLen (p : HqcPar) : Nat := ceilDiv p.n 8
/-- The bits of a code word. -/
def hqcN12 (p : HqcPar) : Nat := p.n1 * 128 * p.mul
/-- The bytes of a public key. -/
def hqcPkLen (p : HqcPar) : Nat := 32 + hqcLen p

/-- The hash functions G, H, I and J by their domain byte. -/
def hqcG (m : Bytes) : Bytes := sha3_512 (m ++ [0])
/-- H. -/
def hqcH (m : Bytes) : Bytes := sha3_256 (m ++ [1])
/-- I. -/
def hqcI (m : Bytes) : Bytes := sha3_512 (m ++ [2])
/-- J. -/
def hqcJ (m : Bytes) : Bytes := sha3_256 (m ++ [3])

/-- A position in the output of a seeded XOF. -/
structure HqcXof where
  seed : Bytes
  pos  : Nat
deriving DecidableEq, Repr

/-- The next `n` bytes; the stream moves on by whole 64-bit words. -/
def hqcGet (x : HqcXof) (n : Nat) : Bytes × HqcXof :=
  ((shake256 (x.seed ++ [1]) (x.pos + n)).drop x.pos, { x with pos := x.pos + roundUp n 8 })

/-- Positions from 24-bit candidates below the largest multiple of n, repeats passed over, up to `w` in all. -/
def hqcPick (n w : Nat) : List Nat → Bytes → List Nat
  | acc, a :: b :: c :: t =>
    if w ≤ acc.length then acc
    else
      let v := a.toNat * 65536 + b.toNat * 256 + c.toNat
      let i := v % n
      hqcPick n w (if v < 2 ^ 24 / n * n ∧ ¬ acc.contains i then acc ++ [i] else acc) t
  | acc, _ => acc

/-- A vector of weight `w` without bias: blocks of 3w bytes until it is full. -/
def hqcFixed (n w : Nat) : Nat → List Nat → HqcXof → List Nat × HqcXof
  | 0, acc, x => (acc, x)
  | f + 1, acc, x =>
    if w ≤ acc.length then (acc, x)
    else
      let r := hqcGet x (3 * w)
      hqcFixed n w f (hqcPick n w acc r.1) r.2

/-- Resolve repeats from the last position down: a position that a later one holds becomes its index. -/
def hqcResolve : List (Nat × Nat) → List Nat
  | [] => []
  | (v, i) :: t =>
    let r := hqcResolve t
    (if r.contains v then i else v) :: r

/-- A vector of weight `w` from 4w bytes. -/
def hqcBiased (n w : Nat) (x : HqcXof) : List Nat × HqcXof :=
  let r := hqcGet x (4 * w)
  (hqcResolve ((List.range w).map (fun i => (i + leAt r.1 (4 * i) 4 * (n - i) / 2 ^ 32, i))), r.2)

/-- A vector as a number. -/
def hqcVec (s : List Nat) : Nat := s.foldl (fun a i => a ||| 1 <<< i) 0

/-- The product of a vector with a sparse one, modulo X^n − 1. -/
def hqcMul (n h : Nat) (s : List Nat) : Nat :=
  let v := s.foldl (fun a i => a ^^^ (h <<< i)) 0
  (v % 2 ^ n) ^^^ (v >>> n)

/-- The vector h of a public seed. -/
def hqcRandom (p : HqcPar) (seed : Bytes) : Nat := ofLe (hqcGet ⟨seed, 0⟩ (hqcLen p)).1 % 2 ^ p.n

/-! ### The code -/

/-- The field of the Reed–Solomon code. -/
def gf256 : Gf := ⟨8, 0x11D⟩

/-- A power of the field's generator. -/
def alpha (i : Nat) : Nat := Nat.repeat (gfX gf256) i 1

/-- The roots' count, 2δ. -/
def rsD (p : HqcPar) : Nat := p.n1 - p.k

/-- The generator polynomial with roots α to α^2δ. -/
def rsGen (p : HqcPar) : List Nat := (List.range (rsD p)).foldl (fun g i => gpMul gf256 g [alpha (i + 1), 1]) [1]

/-- The parity of a message: the remainder of its polynomial, symbol by symbol from the highest. -/
def rsParity (p : HqcPar) (m : List Nat) : List Nat :=
  let g := (rsGen p).take (rsD p)
  m.reverse.foldl (fun c x =>
    let gate := x ^^^ c.getD (rsD p - 1) 0
    gpAdd (0 :: c.take (rsD p - 1)) (gpScale gf256 gate g)) (List.replicate (rsD p) 0)

/-- The Reed–Solomon word of a message: parity, then message. -/
def rsEncode (p : HqcPar) (m : List Nat) : List Nat := rsParity p m ++ m

/-- The message of a received word: locator by Berlekamp–Massey, values by Forney. -/
def rsDecode (p : HqcPar) (c : List Nat) : List Nat :=
  let syn := (List.range (rsD p)).map (fun i => gpEval gf256 c (alpha (i + 1)))
  let l := (bm gf256 syn).c
  let om := (gpMul gf256 syn l).take (rsD p)
  let dl := (l.zipIdx.map (fun x => if x.2 % 2 = 1 then x.1 else 0)).drop 1
  (c.zipIdx.map (fun x =>
    let xi := alpha (255 - x.2)
    if gpEval gf256 l xi = 0 then x.1 ^^^ gfTimes gf256 (gpEval gf256 om xi) (gfInv gf256 (gpEval gf256 dl xi)) else x.1)).drop (rsD p)

/-- The Reed–Muller word of a byte, 128 bits. -/
def rmWord (b : Nat) : Nat :=
  (List.range 128).foldl (fun a j =>
    if (popBits 7 (j &&& b) + b / 128) % 2 = 1 then a ||| 1 <<< j else a) 0

/-- The correlations of 128 sums with all linear words (the Hadamard transform). -/
def hadamard : Nat → List Int → List Int
  | 0, v => v
  | n + 1, v =>
    let ev := (v.zipIdx.filter (fun x => x.2 % 2 == 0)).map (·.1)
    let od := (v.zipIdx.filter (fun x => x.2 % 2 == 1)).map (·.1)
    let s := hadamard n (List.zipWith (· + ·) ev od)
    let d := hadamard n (List.zipWith (· - ·) ev od)
    (List.zipWith (fun a b => [a, b]) s d).flatten

/-- The byte whose word is nearest to received copies; the first of equals. -/
def rmDecode (p : HqcPar) (v : Nat) : Nat :=
  let sums := (List.range 128).map (fun j =>
    (List.range p.mul).foldl (fun (a : Int) c => a + (if v.testBit (128 * c + j) then -1 else 1)) 0)
  let best := (hadamard 7 sums).zipIdx.foldl (fun (a : Int × Nat) x => if a.1.natAbs < x.1.natAbs then x else a) (0, 0)
  best.2 + (if best.1 < 0 then 128 else 0)

/-- The code word of a message. -/
def hqcEncode (p : HqcPar) (m : Bytes) : Nat :=
  ((rsEncode p (m.map (·.toNat))).zipIdx).foldl (fun a x =>
    (List.range p.mul).foldl (fun a c => a ||| rmWord x.1 <<< (128 * (p.mul * x.2 + c))) a) 0

/-- The message of a received word. -/
def hqcDecode (p : HqcPar) (v : Nat) : Bytes :=
  (rsDecode p ((List.range p.n1).map (fun i => rmDecode p (v >>> (128 * p.mul * i))))).map (BitVec.ofNat 8)

/-! ### The schemes -/

/-- The secret vectors y and x of a decryption seed. -/
def hqcSecret (p : HqcPar) (seed : Bytes) : List Nat × List Nat :=
  let y := hqcFixed p.n p.w 64 [] ⟨seed, 0⟩
  (y.1, (hqcFixed p.n p.w 64 [] y.2).1)

/-- The public key of a decryption seed and a public seed. -/
def hqcPk (p : HqcPar) (dk ek : Bytes) : Bytes :=
  let s := hqcSecret p dk
  ek ++ leBytes (hqcLen p) (hqcVec s.2 ^^^ hqcMul p.n (hqcRandom p ek) s.1)

/-- Encrypt a message with the randomness θ. -/
def hqcEnc (p : HqcPar) (ek m theta : Bytes) : Bytes :=
  let r2 := hqcBiased p.n p.wr ⟨theta, 0⟩
  let e := hqcBiased p.n p.wr r2.2
  let r1 := (hqcBiased p.n p.wr e.2).1
  let h := hqcRandom p (ek.take 32)
  let u := hqcVec r1 ^^^ hqcMul p.n h r2.1
  let v := hqcEncode p m ^^^ (hqcVec e.1 ^^^ hqcMul p.n (ofLe (ek.drop 32) % 2 ^ p.n) r2.1) % 2 ^ hqcN12 p
  leBytes (hqcLen p) u ++ leBytes (hqcN12 p / 8) v

/-- Decrypt. -/
def hqcDec (p : HqcPar) (dk c : Bytes) : Bytes :=
  let y := (hqcSecret p dk).1
  let u := ofLe (c.take (hqcLen p)) % 2 ^ p.n
  hqcDecode p (ofLe (slice c (hqcLen p) (hqcN12 p / 8)) ^^^ hqcMul p.n u y % 2 ^ hqcN12 p)

/-- Encapsulate with the message and salt that were drawn. -/
def hqcEncaps (p : HqcPar) (ek coins : Bytes) : Bytes × Bytes :=
  let m := coins.take p.k
  let salt := slice coins p.k 16
  let g := hqcG (hqcH ek ++ m ++ salt)
  (hqcEnc p ek m (g.drop 32) ++ salt, g.take 32)

/-- The held form of a drawn 32-byte seed: the seed of the encryption scheme's key generation, then σ (Table 8-2). -/
def hqcHeld (p : HqcPar) (seed : Bytes) : Bytes :=
  let r := hqcGet ⟨seed, 0⟩ 32
  r.1 ++ (hqcGet r.2 p.k).1

/-- The public key of a held key. -/
def hqcPublic (p : HqcPar) (m : Bytes) : Bytes :=
  let i := hqcI (m.take 32)
  hqcPk p (i.take 32) (i.drop 32)

/-- Decapsulate; a ciphertext that does not re-encrypt gives the secret derived from σ (R197). -/
def hqcDecaps (p : HqcPar) (held c : Bytes) : Bytes :=
  let ek := hqcPublic p held
  let salt := c.drop (hqcLen p + hqcN12 p / 8)
  let m := hqcDec p ((hqcI (held.take 32)).take 32) c
  let g := hqcG (hqcH ek ++ m ++ salt)
  if hqcEnc p ek m (g.drop 32) ++ salt = c then g.take 32 else hqcJ (hqcH ek ++ held.drop 32 ++ c)

/-- The seed at the end of the standard's private key: public key, decryption seed, σ, seed. -/
def hqcSkSeed (p : HqcPar) (m : Bytes) : Bytes := slice m (hqcPkLen p + 32 + p.k) 32

/-- Does the public key that a standard private key carries equal the one recomputed from its seed (R190)? -/
def hqcKeyOk (p : HqcPar) (m : Bytes) : Bool := decide (hqcPublic p (hqcHeld p (hqcSkSeed p m)) = m.take (hqcPkLen p))

end Sys2Proof.Machine
end

