-- ==== Sys2Proof/Machine/StdMce.lean ====
section
/-! DEFINITION. Classic McEliece as the round-4 specification defines it (08 R187, R196; 03 R70, R71). -/
namespace Sys2Proof.Machine
open Sys2Proof

/-- The field of both parameter sets: m = 13. -/
def mceGf : Gf := ⟨13, 0x201B⟩

/-- t of both parameter sets. -/
def mceT : Nat := 128
/-- m · t, the rows of a public key. -/
def mceRows : Nat := 13 * 128

/-- n of mceliece6688128 (set 4) and mceliece8192128 (set 5). -/
def mceN (set : Nat) : Nat := if set = 4 then 6688 else 8192

/-- The bytes of a row of a public key. -/
def mceRowLen (set : Nat) : Nat := (mceN set - mceRows) / 8

/-! ### Permutations and their control bits -/

/-- A row of numbers under a permutation: the number that stands at x moves to π(x). -/
def permMove (c p : Array Nat) : Array Nat :=
  (List.range p.size).foldl (fun a x => a.setIfInBounds (p.getD x 0) (c.getD x 0)) c

/-- The array of a function on 0 to n − 1. -/
def arrOf (n : Nat) (f : Nat → Nat) : Array Nat := ((List.range n).map f).toArray

/-- The rounds that make the cycle minima of the network's first layer. -/
def cycleMin (n : Nat) : Nat → Array Nat → Array Nat → Array Nat → Array Nat
  | 0, c, _, _ => c
  | k + 1, c, p, q =>
    let cp := permMove c q
    cycleMin n k (arrOf n (fun x => min (c.getD x 0) (cp.getD x 0))) (permMove p q) (permMove q p)

/-- The control bits of a permutation of 2^m points. -/
def controlBits : Nat → Array Nat → List Nat
  | 0, _ => []
  | 1, p => [p.getD 0 0]
  | m + 1, pi =>
    let n := 2 ^ (m + 1)
    let p := arrOf n (fun x => pi.getD (x ^^^ 1) 0)
    let q := arrOf n (fun x => pi.getD x 0 ^^^ 1)
    let inv := permMove (arrOf n id) pi
    let p1 := permMove p q
    let q1 := permMove q p
    let c := arrOf n (fun x => min x (p1.getD x 0))
    let c := cycleMin n (m - 1) c (permMove p1 q1) (permMove q1 p1)
    let f := (List.range (n / 2)).map (fun j => c.getD (2 * j) 0 % 2)
    let fa := f.toArray
    let fpi := permMove (arrOf n (fun x => x ^^^ fa.getD (x / 2) 0)) inv
    let l := (List.range (n / 2)).map (fun k => fpi.getD (2 * k) 0 % 2)
    let la := l.toArray
    let mm := permMove fpi (arrOf n (fun y => y ^^^ la.getD (y / 2) 0))
    let sub := fun e => controlBits m (arrOf (n / 2) (fun j => mm.getD (2 * j + e) 0 / 2))
    f ++ (List.zipWith (fun a b => [a, b]) (sub 0) (sub 1)).flatten ++ l

/-- The permutation of 2^m points that control bits give, layer by layer. -/
def permOf (m : Nat) (bits : Array Nat) : Array Nat :=
  let n := 2 ^ m
  (List.range (2 * m - 1)).foldl (fun p i =>
    let gap := 2 ^ min i (2 * m - 2 - i)
    arrOf n (fun x =>
      let j := x / (2 * gap) * gap + x % gap
      if bits.getD (i * (n / 2) + j) 0 = 1 then p.getD (x ^^^ gap) 0 else p.getD x 0)) (arrOf n id)

/-- Bits as bytes, the first in the lowest place. -/
def bitBytes (l : List Nat) : Bytes := leBytes (ceilDiv l.length 8) (l.foldr (fun b a => b + 2 * a) 0)

/-- The first `n` bits of bytes. -/
def byteBits (n : Nat) (b : Bytes) : Array Nat := ((b.flatMap (fun x => (List.range 8).map (bitsOf x.toNat · 1))).take n).toArray

/-! ### Key generation -/

/-- The output of the generator for a seed: s, field ordering, polynomial, next seed. -/
structure MceDraw where
  s     : Bytes
  order : List Nat
  poly  : List Nat
  next  : Bytes
deriving DecidableEq, Repr

/-- Split the output of SHAKE256 on 64 and the seed. -/
def mceDraw (set : Nat) (delta : Bytes) : MceDraw :=
  let a := mceN set / 8
  let e := shake256 (0x40 :: delta) (a + 32768 + 256 + 32)
  { s := e.take a, order := (chunks 4 (slice e a 32768)).map ofLe, poly := (chunks 2 (slice e (a + 32768) 256)).map ofLe
    next := e.drop (a + 33024) }

/-- Does a sorted row hold two equal numbers? -/
def hasTwin : List (Nat × Nat) → Bool
  | a :: b :: t => a.1 == b.1 || hasTwin (b :: t)
  | _ => false

/-- FieldOrdering: the permutation that sorts the numbers, none where two are equal. -/
def mceOrder (a : List Nat) : Option (Array Nat) :=
  let s := a.zipIdx.mergeSort (fun x y => decide (x.1 ≤ y.1))
  if hasTwin s then none else some (s.map (·.2)).toArray

/-- The field element of a place in the ordering: its bits reversed. -/
def mceElem (i : Nat) : Nat := (List.range 13).foldl (fun r j => 2 * r + i / 2 ^ j % 2) 0

/-- The support that a permutation gives, n elements. -/
def mceSupport (n : Nat) (p : Array Nat) : List Nat := (List.range n).map (fun i => mceElem (p.getD i 0))

/-- A product in the field of degree t: reduced by y^128 + y^7 + y^2 + y + 1. -/
def mceExtMul (a b : List Nat) : List Nat :=
  let r := gpMul mceGf a b
  let fold := fun (r : List Nat) (i : Nat) =>
    let k := 254 - i
    let c := r.getD k 0
    [0, 1, 2, 7].foldl (fun (r : List Nat) d => r.modify (k - 128 + d) (· ^^^ c)) r
  ((List.range 127).foldl fold (r ++ List.replicate (255 - r.length) 0)).take 128

/-- Reduce rows whose last entry is the right side: eliminate column `i` and go on; none where the columns depend. -/
def gfElim (f : Gf) : Nat → Nat → List (List Nat) → List (List Nat) → Option (List (List Nat))
  | 0, _, done, _ => some done
  | n + 1, i, done, rest =>
    match rest.find? (fun r => r.getD i 0 != 0) with
    | none => none
    | some r =>
      let p := gpScale f (gfInv f (r.getD i 0)) r
      let clear := fun (x : List Nat) => if x.getD i 0 = 0 then x else gpAdd x (gpScale f (x.getD i 0) p)
      gfElim f n (i + 1) (done.map clear ++ [p]) ((rest.erase r).map clear)

/-- The powers of an element up to the t-th. -/
def mcePowers (b : List Nat) : Nat → List Nat → List (List Nat)
  | 0, x => [x]
  | n + 1, x => x :: mcePowers b n (mceExtMul x b)

/-- Irreducible: the coefficients below y^t of the minimal polynomial of an element, none where its degree is not t. -/
def mceGoppa (d : List Nat) : Option (List Nat) :=
  let b := d.map (· % 8192)
  let ps := mcePowers b 128 (1 :: List.replicate 127 0)
  (gfElim mceGf 128 0 [] ((List.range 128).map (fun j => ps.map (fun x => x.getD j 0)))).map (fun rows => rows.map (fun r => r.getD 128 0))

/-- The bit rows of the parity-check matrix of a Goppa polynomial and support: column j is bit j. -/
def mceMatrix (g sup : List Nat) : List Nat :=
  let cols := sup.map (fun a => (a, gfInv mceGf (gpEval mceGf (g ++ [1]) a)))
  (List.range mceT).foldl (fun (s : List Nat × List (Nat × Nat)) _ =>
      (s.1 ++ (List.range 13).map (fun b => (s.2.zipIdx).foldl (fun v x => if x.1.2.testBit b then v ||| 1 <<< x.2 else v) 0),
        s.2.map (fun x => (x.1, gfTimes mceGf x.2 x.1)))) ([], cols) |>.1

/-- Bring bit rows into systematic form from column `i` on; none where the first columns depend. -/
def bitElim : Nat → Nat → List Nat → List Nat → Option (List Nat)
  | 0, _, done, _ => some done
  | n + 1, i, done, rest =>
    match rest.find? (fun r => r.testBit i) with
    | none => none
    | some p =>
      let clear := fun (x : Nat) => if x.testBit i then x ^^^ p else x
      bitElim n (i + 1) (done.map clear ++ [p]) ((rest.erase p).map clear)

/-- MatGen: the public key of a Goppa polynomial and support, none where it has no systematic form. -/
def mcePk (set : Nat) (g sup : List Nat) : Option Bytes :=
  (bitElim mceRows 0 [] (mceMatrix g sup)).map (fun rows => rows.flatMap (fun r => leBytes (mceRowLen set) (r >>> mceRows)))

/-- SeededKeyGen: the private key of the first seed in the chain of retries that gives a key, at most `n` of them. -/
def mceGen (set : Nat) : Nat → Bytes → Option Bytes
  | 0, _ => none
  | n + 1, delta =>
    let e := mceDraw set delta
    match mceOrder e.order, mceGoppa e.poly with
    | some p, some g =>
      if (mcePk set g (mceSupport (mceN set) p)).isSome then
        some (delta ++ leBytes 8 0xFFFFFFFF ++ g.flatMap (leBytes 2) ++ bitBytes (controlBits 13 p) ++ e.s)
      else mceGen set n e.next
    | _, _ => mceGen set n e.next

/-! ### Private keys, encapsulation, decapsulation -/

/-- The Goppa polynomial of a private key. -/
def mceG (sk : Bytes) : List Nat := (chunks 2 (slice sk 40 256)).map ofLe
/-- The support of a private key. -/
def mceSup (set : Nat) (sk : Bytes) : List Nat := mceSupport (mceN set) (permOf 13 (byteBits 102400 (slice sk 296 12800)))

/-- The public key of a private key. -/
def mcePublic (set : Nat) (sk : Bytes) : Bytes := (mcePk set (mceG sk) (mceSup set sk)).getD []

/-- The random bytes of one attempt at an error vector. -/
def mceCoins (set : Nat) : Nat := if set = 4 then 512 else 256

/-- The positions of an error vector from random bytes, none where the attempt fails. -/
def mceErr (set : Nat) (b : Bytes) : Option (List Nat) :=
  let l := (((chunks 2 b).map (fun x => ofLe x % 8192)).filter (· < mceN set)).take mceT
  if l.length = mceT ∧ distinct l then some l else none

/-- An error vector as a number. -/
def mceVec (l : List Nat) : Nat := l.foldl (fun a i => a ||| 1 <<< i) 0

/-- The ciphertext of an error vector under a public key. -/
def mceEnc (set : Nat) (pk : Bytes) (e : Nat) : Bytes :=
  let n := mceRowLen set
  let tail := e >>> mceRows
  bitBytes ((List.range mceRows).map (fun i =>
    (b2n (e.testBit i) + popBits (8 * n) (ofLe (slice pk (i * n) n) &&& tail)) % 2))

/-- The session key: SHAKE256 of a byte, the vector and the ciphertext. -/
def mceHash (set b : Nat) (v c : Bytes) : Bytes := shake256 (leBytes 1 b ++ fit (mceN set / 8) v ++ c) 32

/-- Encapsulate with the random bytes of a successful attempt. -/
def mceEncaps (set : Nat) (pk coins : Bytes) : Bytes × Bytes :=
  let e := mceVec ((mceErr set coins).getD [])
  let c := mceEnc set pk e
  (c, mceHash set 1 (leBytes (mceN set / 8) e) c)

/-- The 2t syndromes of a vector under the square of the Goppa polynomial. -/
def mceSyn (g sup : List Nat) (v : Nat) : List Nat :=
  let cols := (sup.zipIdx.filter (fun x => v.testBit x.2)).map (fun x =>
    let y := gpEval mceGf (g ++ [1]) x.1
    (x.1, gfInv mceGf (gfTimes mceGf y y)))
  ((List.range (2 * mceT)).foldl (fun (s : List Nat × List (Nat × Nat)) _ =>
    (s.1 ++ [s.2.foldl (fun a x => a ^^^ x.2) 0], s.2.map (fun x => (x.1, gfTimes mceGf x.2 x.1)))) ([], cols)).1

/-- Decode: the error vector of weight t whose syndrome the ciphertext is, if there is one. -/
def mceDecode (set : Nat) (sk c : Bytes) : Option Nat :=
  let g := mceG sk
  let sup := mceSup set sk
  let syn := mceSyn g sup (ofLe c)
  let r := bm mceGf syn
  let loc := (r.c ++ List.replicate (r.l + 1 - r.c.length) 0).take (r.l + 1) |>.reverse
  let l := (sup.zipIdx.filter (fun x => gpEval mceGf loc x.1 == 0)).map (·.2)
  let e := mceVec l
  if l.length = mceT ∧ mceSyn g sup e = syn then some e else none

/-- Decapsulate; a ciphertext with no decoding gives the secret derived from s (R71). -/
def mceDecaps (set : Nat) (sk c : Bytes) : Bytes :=
  match mceDecode set sk c with
  | some e => mceHash set 1 (leBytes (mceN set / 8) e) c
  | none => mceHash set 0 (sk.drop 13096) c

end Sys2Proof.Machine
end

