-- ==== Sys2Proof/Machine/StdRsa.lean ====
section
/-! DEFINITION. RSA as FIPS 186-5 and RFC 8017 define it (08 R187, R190, R201; 03 R76, R78). -/
namespace Sys2Proof.Machine
open Sys2Proof

/-- The parts of a private key in CRT form. -/
structure RsaKey where
  p    : Nat
  q    : Nat
  dP   : Nat
  dQ   : Nat
  qInv : Nat
deriving DecidableEq, Repr

/-- The parts of a body of five numbers, each half a modulus of `k` bytes long (Table 8-2). -/
def rsaKey (k : Nat) (b : Bytes) : RsaKey :=
  let f := fun i => ofBe (slice b (i * (k / 2)) (k / 2))
  ⟨f 0, f 1, f 2, f 3, f 4⟩

/-- The body of a private key. -/
def rsaBody (k : Nat) (x : RsaKey) : Bytes := [x.p, x.q, x.dP, x.dQ, x.qInv].flatMap (beBytes (k / 2))

/-- The CRT form of two primes and an exponent. -/
def rsaCrt (p q e : Nat) : RsaKey := ⟨p, q, invMod e (p - 1), invMod e (q - 1), invMod q p⟩

/-- The public exponent of a private key. -/
def rsaE (x : RsaKey) : Nat := invMod x.dP (x.p - 1)

/-- The public key: n, then e in 4 bytes (Table 3-4). -/
def rsaPublic (k : Nat) (x : RsaKey) : Bytes := beBytes k (x.p * x.q) ++ beBytes 4 (rsaE x)

/-- The private operation with the CRT (R201). -/
def rsaPrivate (x : RsaKey) (m : Nat) : Nat :=
  let m2 := powM m x.dQ x.q
  m2 + x.qInv * subM (powM m x.dP x.p) m2 x.p % x.p * x.q

/-! ### Key generation (FIPS 186-5, A.1.3) -/

/-- The factor 2^s of an even number. -/
def twos : Nat → Nat → Nat
  | 0, _ => 0
  | f + 1, v => if v % 2 = 0 ∧ v ≠ 0 then 1 + twos f (v / 2) else 0

/-- Does one of `s` squarings from `z` give n − 1? -/
def mrSquares (n : Nat) : Nat → Nat → Bool
  | 0, _ => false
  | s + 1, z => z == n - 1 || mrSquares n s (z * z % n)

/-- One Miller–Rabin round with base `a`. -/
def mrRound (n a : Nat) : Bool :=
  let s := twos n.log2 (n - 1)
  let z := powM a ((n - 1) >>> s) n
  z == 1 || mrSquares n s z

/-- The Miller–Rabin rounds for a prime of half a modulus of `k` bytes (FIPS 186-5 appendix B.3; PRESUMED, log 123). -/
def mrRounds (k : Nat) : Nat := if k = 256 then 5 else 4

/-- Is candidate `i` of a search a probable prime? Its bases are open. -/
def rsaPrime (k : Nat) (seed : Bytes) (i n : Nat) : Bool :=
  (List.range (mrRounds k)).all (fun j => mrRound n (2 + Config.primeBase seed i j % (n - 3)))

/-- The first prime from candidate `i` on that is large enough, coprime to e and far from `far`, at most `f` candidates. -/
def rsaSearch (k : Nat) (seed : Bytes) (far : Nat) : Nat → Nat → Option (Nat × Nat)
  | 0, _ => none
  | f + 1, i =>
    let n := Config.primeCandidate seed i % 2 ^ (4 * k) / 2 * 2 + 1
    let gap := if far ≤ n then n - far else far - n
    if 2 ^ (8 * k - 1) ≤ n * n ∧ 2 ^ (4 * k - 100) < gap ∧ (gcdInv (n - 1) 65537).1 = 1 ∧ rsaPrime k seed i n then some (n, i + 1)
    else rsaSearch k seed far f (i + 1)

/-- The body of a new key of a modulus of `k` bytes, none where the search of the standard fails. -/
def rsaGen (k : Nat) (seed : Bytes) : Option Bytes :=
  match rsaSearch k seed 0 (20 * k) 0 with
  | none => none
  | some (p, i) => match rsaSearch k seed p (40 * k) i with
    | none => none
    | some (q, _) => some (rsaBody k (rsaCrt p q 65537))

/-! ### Import (Table 8-2, R190) -/

/-- A factor of n from one base: a square root of 1 other than ±1 on the way up. -/
def rsaFactor (n : Nat) : Nat → Nat → Option Nat
  | 0, _ => none
  | s + 1, z =>
    let y := z * z % n
    if y = 1 then
      let g := (gcdInv (subM z 1 n) n).1
      if z ≠ 1 ∧ z ≠ n - 1 then some g else none
    else rsaFactor n s y

/-- The body recovered from n, e and d, none where the key has no two factors. -/
def rsaRecover (k : Nat) (b : Bytes) : Option Bytes :=
  let n := ofBe (b.take k)
  let e := ofBe (slice b k 4)
  let w := e * ofBe (b.drop (k + 4)) - 1
  let s := twos w.log2 w
  match (List.range 100).findSome? (fun g => rsaFactor n s (powM (g + 2) (w >>> s) n)) with
  | some p => some (rsaBody k (rsaCrt p (n / p) e))
  | none => none

/-- The checks of R190: n = p · q, the exact modulus length, e odd, at least 3 and below 2^32. -/
def rsaOk (k : Nat) (b : Bytes) : Bool :=
  match if b.length = 5 * (k / 2) then some b else rsaRecover k b with
  | none => false
  | some b' =>
    let x := rsaKey k b'
    let n := if b.length = 5 * (k / 2) then x.p * x.q else ofBe (b.take k)
    let e := if b.length = 5 * (k / 2) then rsaE x else ofBe (slice b k 4)
    decide (x.p * x.q = n) && decide (2 ^ (8 * k - 1) ≤ n) && decide (n < 2 ^ (8 * k)) && e % 2 == 1 && decide (3 ≤ e) &&
      decide (e < 2 ^ 32)

/-! ### Signatures -/

/-- The selector of the hash, SHA-256 by default (R194). -/
def rsaSel (sel : Nat) : Nat := if sel = 0 then 1 else sel

/-- The encoded message of RSASSA-PKCS1-v1_5: the DigestInfo of the hash value (R201). -/
def pkcs1 (k sel : Nat) (h : Bytes) : Bytes :=
  let x := h.length
  let t : Bytes := [0x30, BitVec.ofNat 8 (x + 17), 0x30, 0x0D] ++ phOid sel ++ [0x05, 0x00, 0x04, BitVec.ofNat 8 x] ++ h
  [0x00, 0x01] ++ List.replicate (k - 3 - t.length) 0xFF ++ [0x00] ++ t

/-- The bytes of `b` with its top bit cleared. -/
def clearTop (b : Bytes) : Bytes := b.modify 0 (· &&& 0x7F)

/-- EMSA-PSS encoding of a hash value with a salt, MGF1 over the message hash, trailer 0xBC (R201). -/
def pssEncode (k sel : Nat) (h salt : Bytes) : Bytes :=
  let x := h.length
  let hh := phHash sel (zeros 8 ++ h ++ salt)
  let db := zeros (k - x - salt.length - 2) ++ [0x01] ++ salt
  clearTop (xorB db (mgf1 (phHash sel) x hh db.length)) ++ hh ++ [0xBC]

/-- EMSA-PSS verification: the recovered salt has length 0 or the hash length (R78). -/
def pssOk (k sel : Nat) (h em : Bytes) : Bool :=
  let x := h.length
  let n := k - x - 1
  let hh := slice em n x
  let db := clearTop (xorB (em.take n) (mgf1 (phHash sel) x hh n))
  decide (byteAt em (k - 1) = 0xBC) && decide (byteAt em 0 < 0x80) &&
    [0, x].any (fun z =>
      let salt := db.drop (n - z)
      allZero (db.take (n - z - 1)) && byteAt db (n - z - 1) == 1 && decide (phHash sel (zeros 8 ++ h ++ salt) = hh))

/-- RSA signature of a hash value; `v15` selects RSASSA-PKCS1-v1_5. -/
def rsaSign (k : Nat) (v15 : Bool) (sel : Nat) (body h salt : Bytes) : Bytes :=
  beBytes k (rsaPrivate (rsaKey k body) (ofBe (if v15 then pkcs1 k sel h else pssEncode k sel h salt)))

/-- RSA verification: a valid public key, a representative below n, the encoding (R78). -/
def rsaVerify (k : Nat) (v15 : Bool) (sel : Nat) (pk h sig : Bytes) : Bool :=
  let n := ofBe (pk.take k)
  let e := ofBe (pk.drop k)
  let s := ofBe sig
  let em := beBytes k (powM s e n)
  decide (2 ^ (8 * k - 1) ≤ n) && n % 2 == 1 && e % 2 == 1 && decide (3 ≤ e) && decide (s < n) &&
    (if v15 then decide (em = pkcs1 k sel h) else pssOk k sel h em)

end Sys2Proof.Machine
end

