-- ==== Sys2Proof/Machine/Std.lean ====
section
/-! DEFINITION. The functions of the standards of Table 8-1, by set and class (08 R187–R201). -/
namespace Sys2Proof.Machine
open Sys2Proof

/-- The curve of ECDH sets 0xB and 0xC and of ECDSA sets 0xD and 0xE. -/
def curveOf (set : Nat) : Curve := if set = 0xB ∨ set = 0xD then p256 else p384

/-! ### KEM and key agreement -/

/-- The random bytes of one attempt at an encapsulation: ML-KEM's m, HQC's message and salt, Classic McEliece's error
vector. -/
def coinLen (set : Nat) : Nat :=
  if set = 4 ∨ set = 5 then mceCoins set else if 6 ≤ set then (hqcPar set).k + 16 else 32

/-- Does an attempt succeed? Only Classic McEliece repeats the draw. -/
def coinsOk (set : Nat) (coins : Bytes) : Bool := !(set == 4 || set == 5) || (mceErr set coins).isSome

/-- Encapsulation: ciphertext and shared secret (R187). -/
def kemEncaps (set : Nat) (pk coins : Bytes) : Bytes × Bytes :=
  if set ≤ 3 then mlkemEncaps (kemPar set) pk coins
  else if set ≤ 5 then mceEncaps set pk coins
  else hqcEncaps (hqcPar set) pk coins

/-- Decapsulation from held or expanded material; a ciphertext that fails gives the implicit-rejection secret (R71, R191,
R196, R197). -/
def kemDecaps (set : Nat) (m ct : Bytes) : Bytes :=
  if set ≤ 3 then mlkemDecaps (kemPar set) m ct
  else if set ≤ 5 then mceDecaps set m ct
  else hqcDecaps (hqcPar set) m ct

/-- X25519 and ECDH: none where R72 refuses the peer value or the result (R198). -/
def agree (set : Nat) (secret peer : Bytes) : Option Bytes :=
  if set = 0xA then
    let z := x25519 secret peer
    if allZero z then none else some z
  else ecCdh (curveOf set) secret peer

/-! ### Keys -/

/-- The public key of a class from its material (Table 8-2). -/
def publicOf (cls : Nat) (m : Bytes) : Bytes :=
  if clsFam cls = 1 then
    match clsSet cls with
    | 4 => mcePublic 4 m
    | 5 => mcePublic 5 m
    | 0xA => x25519 m x25519Base
    | 0xB => ecPublic p256 m
    | 0xC => ecPublic p384 m
    | s => if s ≤ 3 then mlkemPublic (kemPar s) m else hqcPublic (hqcPar s) m
  else if clsFam cls = 2 then
    match clsSet cls % 16 with
    | 0xC => edPublic m
    | 0xD => ecPublic p256 m
    | 0xE => ecPublic p384 m
    | 0xF => let k := rsaLen (clsSet cls / 16); rsaPublic k (rsaKey k m)
    | s => dsaPublic (dsaPar s) m
  else []

/-- The body of a new extended key from its 32-byte seed (R196, R201). -/
def extendedBody (cls : Nat) (seed : Bytes) : Bytes :=
  if clsFam cls = 1 then (mceGen (clsSet cls) 4096 seed).getD []
  else (rsaGen (rsaLen (clsSet cls / 16)) seed).getD (Config.primeFailure seed)

/-- The held form of an import in another form of Table 8-2: HQC from the standard's key, RSA from n, e, d. -/
def heldForm (cls : Nat) (m : Bytes) : Bytes :=
  if clsFam cls = 1 then let p := hqcPar (clsSet cls); hqcHeld p (hqcSkSeed p m)
  else (rsaRecover (rsaLen (clsSet cls / 16)) m).getD []

/-- The checks of R190 on expanded ML-KEM and ML-DSA keys, RSA, and HQC in the standard's encoding. -/
def materialOk (cls : Nat) (m : Bytes) : Bool :=
  let s := clsSet cls
  if clsFam cls = 1 then if s ≤ 3 then mlkemKeyOk (kemPar s) m else hqcKeyOk (hqcPar s) m
  else if s % 16 ≤ 3 then dsaKeyOk (dsaPar (s % 16)) m
  else rsaOk (rsaLen (s / 16)) m

/-! ### Signatures -/

/-- The hash value that an ECDSA or RSA signature is made over, and the selector of its hash (R194, R200, R201). -/
def sigHash (set : Nat) (par m : Bytes) : Nat × Bytes :=
  let s := if set = 0xF then rsaSel (byteAt par 1) else ecSel (curveOf set) (byteAt par 1)
  (s, preHash par s m)

/-- The signature of set `s` (Table 3-4) from secret material, public key, parameter bytes 40–43, context, message and
randomness, empty for a deterministic one (R76); none where the ML-DSA loop reaches its limit (R193). -/
def sign (set : Nat) (sec pub par ctx m r : Bytes) : Option Bytes :=
  if set ≤ 3 then dsaSign (dsaPar set) sec (msgRep par ctx m) (fit 32 r)
  else if set ≤ 0xB then
    let p := slhPar set
    some (slhSign p sec pub (msgRep par ctx m) (if r.isEmpty then pub.take p.n else r))
  else if set = 0xC then some (edSign sec m)
  else
    let h := sigHash set par m
    if set = 0xF then some (rsaSign (sec.length / 5 * 2) ((byteAt par 3).testBit 0) h.1 sec h.2 r)
    else some (ecdsaSign (curveOf set) h.1 sec h.2 r)

/-- Is a signature valid under R78: set, public key, parameter bytes 40–43, context, message, signature? -/
def verify (set : Nat) (pk par ctx m sig : Bytes) : Bool :=
  if set ≤ 3 then dsaVerify (dsaPar set) pk (msgRep par ctx m) sig
  else if set ≤ 0xB then slhVerify (slhPar set) pk (msgRep par ctx m) sig
  else if set = 0xC then edVerify pk m sig
  else
    let h := sigHash set par m
    if set = 0xF then rsaVerify (pk.length - 4) ((byteAt par 3).testBit 0) h.1 pk h.2 sig
    else ecdsaVerify (curveOf set) pk h.2 sig

/-- Does an ML-DSA-87 signature with an empty context verify? -/
def mldsa87Ok (pk m sig : Bytes) : Bool := verify 3 pk (zeros 4) [] m sig

/-- Does the vendor's ML-DSA-87 signature over a message verify (R109, R405, R417, R443)? -/
def vendorVerify (m sig : Bytes) : Bool := mldsa87Ok Config.vendorKey m sig

/-- Does the ML-DSA-87 signature of the owner whose key has a digest verify (R424)? The token does not carry the key. -/
def ownerVerify (digest m sig : Bytes) : Bool := mldsa87Ok (Config.ownerKey digest) m sig

end Sys2Proof.Machine
end

