-- ==== Sys2Proof/Machine/Crypto.lean ====
section
/-! DEFINITION. The cryptographic commands of families 0x01 to 0x07 (chapter 03). -/
namespace Sys2Proof.Machine
open Sys2Proof

/-- The key of a running command's handle. -/
def keyOf (c : Cmd) : KeyObj := c.key.getD {}

/-- The private material of a key: its body where it is extended (Table 8-2). -/
def materialOf (k : KeyObj) (body : Bytes) : Bytes := if k.ext then body else k.secret

/-! ### KEM and key agreement (R68–R72) -/

/-- The two 12-bit coefficients in three bytes are below 3,329. -/
def coeffsOk (b : Bytes) : Bool :=
  decide (byteAt b 0 + 256 * (byteAt b 1 % 16) < 3329) && decide (byteAt b 1 / 16 + 16 * byteAt b 2 < 3329)

/-- The type and modulus check of an ML-KEM encapsulation key of set `s` (R70); the other sets have none. -/
def ekOk (s : Nat) (pk : Bytes) : Bool := decide (3 < s) || (chunks 3 (pk.take (384 * (s + 1)))).all coeffsOk

/-- Encapsulate to a public key: coins, ciphertext, shared secret. -/
def encaps (c : Cmd) (set : Nat) (pk : Bytes) (s0 s : State) : State :=
  let d := (kemSet set).getD (0, 0, 0)
  withDrawUntil c (coinLen set) (coinsOk set) s0 s (fun coins s =>
    let r := kemEncaps set pk coins
    endOut c (fit d.2.1 r.1 ++ fit d.2.2 r.2) s)

/-- ENCAPSULATE_INPUT_KEY (R68, R70): op 0. -/
def execEncapsulateInputKey (cmd : Nat) (s : State) : Res :=
  .next (match running s cmd (fun o => match o with | .kem _ 0 => true | _ => false) with
  | none => s
  | some c => match cmdOp c with
    | .kem set _ => withIn c s (fun pk t => if ekOk set pk then encaps c set pk t t else endWith c stsBadParameter t)
    | _ => s)

/-- ENCAPSULATE_HELD_KEY (R68): op 1, to a public key held by the device. -/
def execEncapsulateHeldKey (cmd : Nat) (s : State) : Res :=
  .next (match running s cmd (fun o => match o with | .kem _ 1 => true | _ => false) with
  | none => s
  | some c => match cmdOp c with
    | .kem set _ => encaps c set (keyOf c).pub s s
    | _ => s)

/-- KEM_DECAPSULATE (R68, R71, R72): op 2, decapsulation or derivation. -/
def execKemDecapsulate (cmd : Nat) (s : State) : Res :=
  .next (match running s cmd (fun o => match o with | .kem _ 2 => true | _ => false) with
  | none => s
  | some c => match cmdOp c with
    | .kem set _ => withIn c s (fun ct s => withBody c (keyOf c) s (fun body s =>
        let k := materialOf (keyOf c) body
        if isAgree set then
          match agree set k ct with
          | some z => endOut c z s
          | none => endWith c stsBadParameter s
        else endOut c (fit ((kemSet set).getD (0, 0, 0)).2.2 (kemDecaps set k ct)) s))
    | _ => s)

/-! ### Signatures (R73–R78) -/

/-- The parameter bytes 40–43 of a signature command. -/
def sigPar (p : Bytes) : Bytes := slice p 40 4

/-- Verify signature, context and message in a row of bytes with a public key (R75, R78). -/
def verifyRow (c : Cmd) (set sig : Nat) (pk b : Bytes) (s : State) : State :=
  let x := byteAt c.pkt 42
  let ok := verify set pk (sigPar c.pkt) (slice b sig x) (b.drop (sig + x)) (b.take sig)
  endWith c (if ok then stsOk else stsVerifyFail) s

/-- SIG_VERIFY_INPUT_KEY (R73, R78): op 0. -/
def execSigVerifyInputKey (cmd : Nat) (s : State) : Res :=
  .next (match running s cmd (fun o => match o with | .sig _ 0 => true | _ => false) with
  | none => s
  | some c => match cmdOp c with
    | .sig set _ => withIn c s (fun b s =>
        let d := (sigSet set (bitsOf (byteAt c.pkt 43) 1 2)).getD (0, 0)
        verifyRow c set d.2 (b.take d.1) (b.drop d.1) s)
    | _ => s)

/-- SIG_VERIFY_HELD_KEY (R73, R78): op 1. -/
def execSigVerifyHeldKey (cmd : Nat) (s : State) : Res :=
  .next (match running s cmd (fun o => match o with | .sig _ 1 => true | _ => false) with
  | none => s
  | some c => match cmdOp c with
    | .sig set _ => withIn c s (fun b s =>
        verifyRow c set ((sigSet set (rsaSize (keyOf c).cls)).getD (0, 0)).2 (keyOf c).pub b s)
    | _ => s)

/-- The hash length that a signature's selector gives (R194). -/
def hashLen (set sel : Nat) : Nat := (phLen set sel).getD 32

/-- The DRBG bytes a signature draws (R76). -/
def signDraw (set : Nat) (p : Bytes) : Nat :=
  if (byteAt p 40).testBit 0 then 0
  else if set ≤ 3 then 32
  else if set ≤ 7 then 16
  else if set ≤ 9 then 24
  else if set ≤ 0xB then 32
  else if set = 0xD ∨ set = 0xE then 32
  else if set = 0xF ∧ (byteAt p 43).testBit 0 = false then hashLen set (byteAt p 41)
  else 0

/-- Sign with randomness `r`, check the signature, release it (R77, R193). -/
def signRow (c : Cmd) (set : Nat) (b r : Bytes) (s : State) : State :=
  let k := keyOf c
  let x := byteAt c.pkt 42
  let par := sigPar c.pkt
  withBody c k s (fun body s =>
    let sec := materialOf k body
    match sign set sec k.pub par (b.take x) (b.drop x) r with
    | none => faultAt { blk := .hub, set := c.unit, checker := 14, cls := 1, inst := cmdInst c } (some c.id) s
    | some sig =>
      withCheck .hub c.unit 11 1 false c s (fun c s =>
        if verify set k.pub par (b.take x) (b.drop x) sig then endOut c sig s
        else faultAt { blk := .hub, set := c.unit, checker := 11, cls := 1, inst := cmdInst c } (some c.id) s))

/-- SIG_SIGN (R73, R76, R77): op 2. -/
def execSigSign (cmd : Nat) (s : State) : Res :=
  .next (match running s cmd (fun o => match o with | .sig _ 2 => true | _ => false) with
  | none => s
  | some c => match cmdOp c with
    | .sig set _ => withIn c s (fun b t =>
        let n := signDraw set c.pkt
        if n = 0 then signRow c set b [] t else withDraw c n t t (fun r s => signRow c set b r s))
    | _ => s)

/-! ### Digests (R79–R82) -/

/-- The events of a message in a digest engine. -/
def digestEvents (alg len : Nat) (s : State) : State := blkEvent .dge 0x11 1 (blkEvent .dge 0x10 (blocksOf alg len) s)

/-- Unit `u` takes a whole message of `len` bytes to core 31: `n` compressions (R232). -/
def offloadStart (u : Nat) (keyed : Bool) (alg n len : Nat) (s : State) : State :=
  dgePump u (setDge u { dgeU s u with
    alg := alg, keyed := keyed, source := true, st := .absorbing, offloaded := true, len := len, count := len, done := 0
    total := n } s)

/-- Go on once core 31 has done unit `u`'s message; the message goes there first. -/
def offloadRun (u : Nat) (keyed : Bool) (alg n len : Nat) (s : State) (f : State → State) : State :=
  let d := dgeU s u
  if ¬ (d.offloaded ∧ d.st = .absorbing) then offloadStart u keyed alg n len s
  else if d.done < d.total then s
  else f s

/-- A digest opcode (R79, R80): the digest, or its comparison with the expected value; from 4,096 bytes on core 31 does the
work (R232). -/
def digestRow (alg cmd : Nat) (s : State) : State :=
  match running s cmd (fun o => o == .dig alg) with
  | none => s
  | some c => withIn c s (fun m s =>
      let v := digest alg m (pMax c.pkt)
      let f (s : State) : State :=
        let s := digestEvents alg m.length s
        if (byteAt c.pkt 40).testBit 0 then endCompare c v stsNotEqual s else endOut c v s
      if m.length < 4096 then f s
      else offloadRun c.unit false alg (digestJobs alg m.length (pMax c.pkt)) m.length s f)

/-- SHA_256 (R79). -/
def execSha256 (cmd : Nat) (s : State) : Res := .next (digestRow 1 cmd s)
/-- SHA_384 (R79). -/
def execSha384 (cmd : Nat) (s : State) : Res := .next (digestRow 2 cmd s)
/-- SHA_512 (R79). -/
def execSha512 (cmd : Nat) (s : State) : Res := .next (digestRow 3 cmd s)
/-- SHA3_256 (R79). -/
def execSha3256 (cmd : Nat) (s : State) : Res := .next (digestRow 4 cmd s)
/-- SHA3_384 (R79). -/
def execSha3384 (cmd : Nat) (s : State) : Res := .next (digestRow 5 cmd s)
/-- SHA3_512 (R79). -/
def execSha3512 (cmd : Nat) (s : State) : Res := .next (digestRow 6 cmd s)
/-- SHAKE128 (R79). -/
def execShake128 (cmd : Nat) (s : State) : Res := .next (digestRow 7 cmd s)
/-- SHAKE256 (R79). -/
def execShake256 (cmd : Nat) (s : State) : Res := .next (digestRow 8 cmd s)

/-- The command's key goes through the key-feed port, unless its firmware has fed it already (R242). -/
def feedKey (c : Cmd) (s : State) : State :=
  match (dgeU s c.unit).key, c.core, c.core.bind (fun k => (coreU s k).hub) with
  | none, some k, some n => match (eng s n).key with
    | some kr => keyFeed k n c.unit kr s
    | none => s
  | _, _, _ => s

/-- A keyed-digest opcode (R82): customization string, then message. The key that the unit holds is used, on core 31. -/
def keyedRow (alg cmd : Nat) (s : State) : State :=
  match running s cmd (fun o => o == .keyed alg) with
  | none => s
  | some c => withIn c s (fun b s =>
      let n := byteAt c.pkt 41
      let out := tagLen alg (byteAt c.pkt 42)
      let s := feedKey c s
      match (dgeU s c.unit).key with
      | none => s
      | some key =>
        offloadRun c.unit true alg (keyedJobs alg key.length (b.take n) (b.length - n) out) b.length s (fun s =>
          let v := keyedDigest alg key (b.drop n) (b.take n) out
          let s := digestEvents alg b.length s
          if (byteAt c.pkt 40).testBit 0 then endCompare c v stsVerifyFail s else endOut c v s))

/-- HMAC_SHA_256 (R82). -/
def execHmacSha256 (cmd : Nat) (s : State) : Res := .next (keyedRow 1 cmd s)
/-- HMAC_SHA_384 (R82). -/
def execHmacSha384 (cmd : Nat) (s : State) : Res := .next (keyedRow 2 cmd s)
/-- HMAC_SHA_512 (R82). -/
def execHmacSha512 (cmd : Nat) (s : State) : Res := .next (keyedRow 3 cmd s)
/-- KMAC128 (R82). -/
def execKmac128 (cmd : Nat) (s : State) : Res := .next (keyedRow 7 cmd s)
/-- KMAC256 (R82). -/
def execKmac256 (cmd : Nat) (s : State) : Res := .next (keyedRow 8 cmd s)

/-! ### Random (R83, R275, R276) -/

/-- RANDOM_FILL (R83, R276): from the queue where it holds the whole request; else the queue's bytes and the
remainder from a DRBG that can generate; else it waits with the queue untouched. -/
def execRandomFill (cmd : Nat) (s : State) : Res :=
  .next (match running s cmd (fun o => o == .rnd) with
  | none => s
  | some c =>
    let n := pMax c.pkt
    let q := s.ent.queue
    if n ≤ q.length then
      endOut c (q.take n) (noteSwitch c.id { s with ent := { s.ent with queue := q.drop n } })
    else match drawUnit s with
      | none => awaitDraw c.id s
      | some d =>
        let r := generate d (cmdInst c) (n - q.length) (noteSwitch c.id { s with ent := { s.ent with queue := [] } })
        endOut c (q ++ r.1) r.2)

/-- RANDOM_FILL_PR (R83, R275): it asks for a block at priority 4 of R271, reseeds its DRBG with it, and generates. -/
def execRandomFillPr (cmd : Nat) (s : State) : Res :=
  .next (match running s cmd (fun o => o == .rndPr) with
  | none => s
  | some c =>
    if s.ent.prDone.contains c.id then
      match drawUnit s with
      | none => awaitDraw c.id s
      | some d =>
        let r := freeBytes 32 s
        let x := drbgU s d
        let s := setDrbg d (seeded (drbgReseed r.1 (x.key, x.v)) x) r.2
        let s : State := { s with ent := { s.ent with prDone := s.ent.prDone.filter (· != c.id) } }
        let r := generate d (cmdInst c) (pMax c.pkt) (noteSwitch c.id s)
        endOut c r.1 r.2
    else if s.ent.prQ.contains c.id then s
    else { s with ent := { s.ent with prQ := s.ent.prQ ++ [c.id] } })

/-! ### Symmetric (R84–R86) -/

/-- A symmetric opcode on its input. -/
def symRow (o cmd : Nat) (s : State) (f : Cmd → Bytes → Bytes → State → State) : State :=
  match running s cmd (fun x => x == .sym o) with
  | none => s
  | some c => withIn c s (fun m s => f c (keyOf c).secret m s)

/-- AES_ECB_ENCRYPT (Table 3-7). -/
def execAesEcbEncrypt (cmd : Nat) (s : State) : Res := .next (symRow 0x0610 cmd s (fun c k m s => endOut c (ecb (aesEnc k) m) s))
/-- AES_ECB_DECRYPT (Table 3-7). -/
def execAesEcbDecrypt (cmd : Nat) (s : State) : Res := .next (symRow 0x0611 cmd s (fun c k m s => endOut c (ecb (aesDec k) m) s))

/-- The 16 bytes 40–55 of a symmetric command. -/
def symIv (c : Cmd) : Bytes := slice c.pkt 40 16

/-- AES_CBC_ENCRYPT (Table 3-7). -/
def execAesCbcEncrypt (cmd : Nat) (s : State) : Res :=
  .next (symRow 0x0620 cmd s (fun c k m s => endOut c (cbcEnc k (chunks 16 m) (symIv c)) s))
/-- AES_CBC_DECRYPT (Table 3-7). -/
def execAesCbcDecrypt (cmd : Nat) (s : State) : Res :=
  .next (symRow 0x0621 cmd s (fun c k m s => endOut c (cbcDec k (chunks 16 m) (symIv c)) s))
/-- AES_CTR (Tables 3-7 and 3-8). -/
def execAesCtr (cmd : Nat) (s : State) : Res :=
  .next (symRow 0x0630 cmd s (fun c k m s =>
    endOut c (ctrMode k (symIv c) (if byteAt c.pkt 56 = 0 then 128 else byteAt c.pkt 56) m) s))

/-- AES_GCM_ENCRYPT (Tables 3-7 and 3-8): the IV is drawn and written first with GEN_IV. -/
def execAesGcmEncrypt (cmd : Nat) (s : State) : Res :=
  .next (symRow 0x0640 cmd s (fun c k m t =>
    let a := leAt c.pkt 52 4
    let n := tag16 (byteAt c.pkt 56)
    let run (lead iv : Bytes) (s : State) : State :=
      let r := gcmEnc k iv (m.take a) (m.drop a)
      endOut c (lead ++ r.1 ++ r.2.take n) s
    if byteAt c.pkt 57 = 1 then withDraw c 12 t t (fun iv s => run iv iv s) else run [] (slice c.pkt 40 12) t))

/-- AES_GCM_DECRYPT (R85): above 65,536 bytes of input the plaintext written before the tag failed is overwritten with
zeros. -/
def execAesGcmDecrypt (cmd : Nat) (s : State) : Res :=
  .next (symRow 0x0641 cmd s (fun c k m s =>
    let a := leAt c.pkt 52 4
    let n := tag16 (byteAt c.pkt 56)
    let len := m.length - a - n
    match gcmDec k (slice c.pkt 40 12) (m.take a) (slice m a len) (m.drop (a + len)) with
    | some p => endOut c p s
    | none =>
      if m.length ≤ 65536 then endWith c stsVerifyFail s
      else match writeOut c (zeros len) s with
        | some s => endWith c stsVerifyFail s
        | none => dmaSpill c s))

/-- AES_XTS_ENCRYPT (Tables 3-7 and 3-8). -/
def execAesXtsEncrypt (cmd : Nat) (s : State) : Res := .next (symRow 0x0650 cmd s (fun c k m s => endOut c (xts true k (symIv c) m) s))
/-- AES_XTS_DECRYPT (Tables 3-7 and 3-8). -/
def execAesXtsDecrypt (cmd : Nat) (s : State) : Res := .next (symRow 0x0651 cmd s (fun c k m s => endOut c (xts false k (symIv c) m) s))
/-- AES_CMAC_GENERATE (Tables 3-7 and 3-8). -/
def execAesCmacGenerate (cmd : Nat) (s : State) : Res :=
  .next (symRow 0x0660 cmd s (fun c k m s => endOut c ((cmac k m).take (tag16 (byteAt c.pkt 40))) s))
/-- AES_CMAC_VERIFY (R86). -/
def execAesCmacVerify (cmd : Nat) (s : State) : Res :=
  .next (symRow 0x0661 cmd s (fun c k m s => endCompare c ((cmac k m).take (tag16 (byteAt c.pkt 40))) stsVerifyFail s))
/-- KEY_WRAP (RFC 3394, Table 3-7). -/
def execKeyWrap (cmd : Nat) (s : State) : Res := .next (symRow 0x0670 cmd s (fun c k m s => endOut c (kwWrap k kwIv m) s))
/-- KEY_UNWRAP (R86). -/
def execKeyUnwrap (cmd : Nat) (s : State) : Res :=
  .next (symRow 0x0671 cmd s (fun c k m s =>
    let r := kwUnwrap k m
    if r.1 = kwIv then endOut c r.2 s else endWith c stsVerifyFail s))
/-- KEY_WRAP_PAD (RFC 5649, Table 3-7). -/
def execKeyWrapPad (cmd : Nat) (s : State) : Res := .next (symRow 0x0680 cmd s (fun c k m s => endOut c (kwpWrap k m) s))
/-- KEY_UNWRAP_PAD (R86): a recovered length above the maximum output length is truncated. -/
def execKeyUnwrapPad (cmd : Nat) (s : State) : Res :=
  .next (symRow 0x0681 cmd s (fun c k m s =>
    match kwpUnwrap k m with
    | none => endWith c stsVerifyFail s
    | some p =>
      match writeOut c (p.take (pMax c.pkt)) s with
      | some s => finish c.id { status := stsOk, outLen := p.length, truncated := decide (pMax c.pkt < p.length) } s
      | none => dmaSpill c s))

/-! ### Check values (R87, R371–R374) -/

/-- The configuration that a CV_SCAN packet gives its unit. -/
def cvConfig (p : Bytes) (u : Cvu) : Cvu :=
  let b := byteAt p 41
  { u with
    alg := byteAt p 40, source := bitsOf b 0 1, guard := bitsOf b 2 2, cont := b.testBit 4, alive := bitsOf (byteAt p 42) 0 4
    addr := BitVec.ofNat 64 (pInA p), len := pInL p, seq := BitVec.ofNat 32 (leAt p 44 4)
    fold := BitVec.ofNat 64 (leAt p 56 8), st := .running
    run := BitVec.ofNat 64 (if b.testBit 4 then leAt p 48 8 else cvInit (byteAt p 40)) }

/-- CV_SCAN (R87): the final and the running value, or the comparison of the final value. -/
def execCvScan (cmd : Nat) (s : State) : Res :=
  .next (match running s cmd (fun o => o == .cv) with
  | none => s
  | some c =>
    let u := c.unit
    let s := setCvu u (cvConfig c.pkt (cvuU s u)) s
    match scanRead u 0 (pInL c.pkt) s with
    | .dmaErr s => endWith c stsDmaError (setCvu u { cvuU s u with st := .aborted, dmaError := true } s)
    | .memErr s => scanAbort u false s
    | .ok b s =>
      let d := cvuEnd b (cvuU s u)
      let s := bytesEvent .cvu 0x10 b.length (setCvu u d s)
      if (byteAt c.pkt 41).testBit 1 then endCompare c (leBytes 8 d.result.toNat) stsNotEqual s
      else endOut c (leBytes 8 d.result.toNat ++ leBytes 8 d.run.toNat) s)

end Sys2Proof.Machine
end

