-- ==== Sys2Proof/Machine/Keys.lean ====
section
/-! DEFINITION. The key-management commands of family 0x05 (chapters 04 and 11). -/
namespace Sys2Proof.Machine
open Sys2Proof

/-! ### Making keys (Table 8-2, R94, R190, R516) -/

/-- The group order of P-256 and P-384, for their classes. -/
def scalarOrder (cls : Nat) : Option Nat :=
  match cls with
  | 0x010B | 0x020D => some 0xFFFFFFFF00000000FFFFFFFFFFFFFFFFBCE6FAADA7179E84F3B9CAC2FC632551
  | 0x010C | 0x020E =>
    some 0xFFFFFFFFFFFFFFFFFFFFFFFFFFFFFFFFFFFFFFFFFFFFFFFFC7634D81F4372DDF581A0DB248B0A77AECEC196ACCC52973
  | _ => none

/-- Is a class one of an HQC private key? -/
def isHqc (cls : Nat) : Bool := clsFam cls == 1 && decide (6 ≤ clsSet cls) && decide (clsSet cls ≤ 8)

/-- Random or derived bytes as the secret of a class: a P-256 or P-384 scalar is the value, 8 bytes longer, modulo
n − 1, plus 1 (R516). -/
def toSecret (cls : Nat) (b : Bytes) : Bytes :=
  match scalarOrder cls with
  | some n => beBytes (b.length - 8) (ofBe b % (n - 1) + 1)
  | none => b

/-- The bytes that `toSecret` takes for a secret of `n` bytes. -/
def rawLen (cls n : Nat) : Nat := if (scalarOrder cls).isSome then n + 8 else n

/-- Is a class one whose SLH-DSA key carries its public half? -/
def isSlh (cls : Nat) : Bool := clsFam cls == 2 && decide (4 ≤ clsSet cls % 16) && decide (clsSet cls % 16 ≤ 0xB)

/-- Is imported material an expanded ML-KEM or ML-DSA private key, which is held extended? -/
def isExpanded (cls : Nat) (m : Bytes) : Bool :=
  (clsFam cls == 1 && decide (clsSet cls ≤ 3) && m.length != 64) ||
  (clsFam cls == 2 && decide (1 ≤ clsSet cls) && decide (clsSet cls ≤ 3) && m.length != 32)

/-- The material in the form the device holds (Table 8-2, "Import accepts"). -/
def heldMaterial (cls : Nat) (m : Bytes) : Bytes :=
  if isHqc cls ∧ m.length ≠ clsSecret cls 0 then fit (clsSecret cls 0) (heldForm cls m)
  else if clsExt cls ∧ m.length ≠ clsBody cls then fit (clsBody cls) (heldForm cls m)
  else m

/-- The parts of a key from its material; `bodyKey` keys the body of an extended key. -/
def withMaterial (cls : Nat) (m bodyKey : Bytes) (k : KeyObj) : KeyObj :=
  let h := heldMaterial cls m
  let pub := fit (publicLen cls) (publicOf cls h)
  if clsRole cls = 1 then { k with cls := cls, pub := m }
  else if isSlh cls then { k with cls := cls, secret := m.take (clsSecret cls 0), pub := m.drop (clsSecret cls 0) }
  else if clsExt cls ∨ isExpanded cls m then
    { k with cls := cls, ext := true, secret := bodyKey, pub := pub, body := sealBody bodyKey h }
  else { k with cls := cls, secret := h, pub := pub }

/-- The random bytes that generation of a class draws; `n` is the length of an HMAC or KMAC key. -/
def genDraw (cls n : Nat) : Nat :=
  if clsExt cls then 64
  else if isHqc cls then 32
  else if isSlh cls then clsSecret cls 0 / 2 * 3
  else rawLen cls (clsSecret cls n)

/-- The material of an SLH-DSA key from SK.seed, SK.prf and PK.seed: PK.root follows them (R195). -/
def slhMaterial (cls : Nat) (b : Bytes) : Bytes :=
  let p := slhPar (clsSet cls % 16)
  b.take (3 * p.n) ++ slhRoot p (b.take p.n) (slice b (2 * p.n) p.n)

/-- A key of a class from the bytes drawn for it: seed and body key of an extended class; SK.seed, SK.prf and
PK.seed of SLH-DSA, whose root follows (R195); the standard's seed of HQC. -/
def generated (cls : Nat) (r : Bytes) (k : KeyObj) : KeyObj :=
  if clsExt cls then withMaterial cls (fit (clsBody cls) (extendedBody cls (r.take 32))) (r.drop 32) k
  else if isSlh cls then withMaterial cls (slhMaterial cls r) [] k
  else if isHqc cls then withMaterial cls (hqcHeld (hqcPar (clsSet cls)) r) [] k
  else withMaterial cls (toSecret cls r) [] k

/-- Is material of a form that R190 checks beyond scalars and XTS halves: expanded ML-KEM and ML-DSA keys, RSA, HQC in
the standard's encoding? -/
def standardChecked (cls : Nat) (m : Bytes) : Bool :=
  isExpanded cls m || (clsFam cls == 2 && clsSet cls % 16 == 15) || (isHqc cls && m.length != clsSecret cls 0)

/-- The checks of R190 on imported or derived material. -/
def materialValid (cls : Nat) (m : Bytes) : Bool :=
  (match scalarOrder cls with
    | some n => decide (1 ≤ ofBe m) && decide (ofBe m < n)
    | none => true) &&
  !(clsFam cls == 6 && (clsSet cls == 0x30 || clsSet cls == 0x40) && m.take (m.length / 2) == m.drop (m.length / 2)) &&
  (clsRole cls == 1 || !standardChecked cls m || materialOk cls m)

/-- The coins of the test encapsulation: zeros, and for Classic McEliece the first positions. -/
def testCoins (set : Nat) : Bytes :=
  if set = 4 ∨ set = 5 then (List.range (coinLen set / 2)).flatMap (leBytes 2) else zeros (coinLen set)

/-- The test of a stateful key (R519): the root that leaf 0 gives is the one of its public key. -/
def statefulTest (k : KeyObj) : Bool :=
  match sfsParams k.par with
  | none => false
  | some d =>
    let at' := if byteAt k.par 0 = 1 then 28 else 4
    decide (sfsRoot0 k.par k.secret (k.pub.drop (4 + d.n)) = slice k.pub at' d.n)

/-- The test of R94 (Table 8-9): encapsulate then decapsulate, sign then verify, recompute the public key; the known
answer of a symmetric key and the wrap of a class key always hold. -/
def keyTest (k : KeyObj) (body : Bytes) : Bool :=
  let m := materialOf k body
  let set := clsSet k.cls
  if k.stateful then statefulTest k
  else if clsRole k.cls = 1 then true
  else match clsFam k.cls with
    | 1 =>
      if isAgree set then decide (publicOf k.cls m = k.pub)
      else
        let r := kemEncaps set k.pub (testCoins set)
        decide (kemDecaps set m r.1 = r.2)
    | 2 =>
      let par : Bytes := [1, 0, 0, 0]
      match sign (set % 16) m k.pub par [] [] [] with
      | some sig => verify (set % 16) k.pub par [] [] sig
      | none => false
    | _ => true

/-! ### Installing (R94, R251, R252, R255, R259) -/

/-- No pool for an install: STS_QUOTA, retry hint 0xFFFF. -/
def quotaEnd (c : Cmd) (s : State) : State := finish c.id (withHint stsQuota 0xFFFF) s

/-- The PENDING record and the pending key of an install (R259): kind, claimed entry, key, blob. -/
def writePending (id kind entry slot : Nat) (k : KeyObj) (blob : Bytes) (s : State) : State :=
  let r := jRec 1 kind entry k blob s
  let s := noteCut id (pendStages slot (slotU s slot) r.1) (wordsOut 5 (setSlot slot { pend := r.1, commit := {} } r.2))
  let x := (resU s k.handle).getD {}
  let s := if kind = 1 then { s with kvt := { s.kvt with claims := entry :: s.kvt.claims } } else s
  setResident k.handle (some { x with pend := some k, slot := slot, install := kind, entry := entry }) s

/-- Test, reserve, journal and output a new key: `front` says that the handle stands ahead of the blob, `pub` that the
public key follows it. -/
def install (c : Cmd) (kind entry : Nat) (k : KeyObj) (front pub : Bool) (s : State) : State :=
  withCheck .hub c.unit 12 1 false c s (fun c s =>
    let body := if k.ext then (unsealBody k.secret k.body).getD [] else []
    if ¬ keyTest k body then
      faultAt { blk := .hub, set := c.unit, checker := 12, cls := 1, inst := cmdInst c } (some c.id) s
    else match takeSlot s with
    | none => quotaEnd c s
    | some slot =>
      if pendingCount s ≥ 256 then quotaEnd c s
      else if ¬ quotaFits s (hInst k.handle) k then endWith c stsQuota s
      else match blobOf k s with
        | none => endWith c stsKeyUnknown s
        | some (blob, s) =>
          let out := (if front then leBytes 8 k.handle else []) ++ blob ++ (if pub then k.pub else [])
          if pMax c.pkt < out.length then finish c.id { status := stsBadLength, outLen := out.length } s
          else endOut c out (writePending c.id kind entry slot k blob s))

/-- The handle and tag of a new leaf under a parent, with the next free index; none past the last (R252). -/
def newLeaf (p : KeyObj) (s : State) : Option (KeyObj × State) :=
  let i := hInst p.handle
  let n := if p.level = 1 then 0 else hIndex p.handle
  let e := if p.level = 1 then i else entryOf s i n
  let d := (genE s i).gen
  let g := childGen s p
  let h := fun x => mkHandle (hHome p.handle) i 3 x g
  match takeIndex e h s with
  | none => none
  | some (x, s) =>
    some ({ handle := h x, level := 3, tag := mkTag i n d (if p.level = 1 then 0 else g) 0 }, s)

/-- The handle and tag of a new class key, with the entry it claims (R251). -/
def newClass (p : KeyObj) (s : State) : Option (KeyObj × Nat) :=
  let i := hInst p.handle
  let d := (genE s i).gen
  (claimEntry s).map (fun n =>
    ({ handle := mkHandle (hHome p.handle) i 2 n d, level := 2, cls := 0x2000
       tag := mkTag i n d ((genE s n).gen + 1) 0 }, n))

/-- KEY_GENERATE (R92–R94, R516). -/
def execKeyGenerate (cmd : Nat) (s : State) : Res :=
  .next (withRow cmd s (fun o => o == .key 0x0501) (fun c =>
    let p := keyOf c
    let cls := leAt c.pkt 40 2
    let attr := byteAt c.pkt 42
    if ¬ installRoom s then quotaEnd c s
    else if cls = 0x2000 then
      match newClass p s with
      | none => quotaEnd c s
      | some (k, n) => withDraw c 32 s s (fun r s => install c 1 n { k with attr := attr, secret := r } true false s)
    else match newLeaf p s with
      | none => quotaEnd c s
      | some (k, t) =>
        let n := byteAt c.pkt 47
        withDraw c (genDraw cls (if n = 0 then 32 else n)) s t (fun r s =>
          install c 0 0 { generated cls r k with attr := attr } true (hasPublic cls) s)))

/-- The material that an import carries (R265): the export record under the transport key, opened; none where the
integrity value fails. -/
def openImport (t : KeyObj) (cls : Nat) (b : Bytes) : Option Bytes :=
  if t.cls = 0x3620 then
    if b.length % 8 = 0 ∧ 16 ≤ b.length then kwpUnwrap t.secret b else none
  else
    let set := clsSet t.cls
    let d := (kemSet set).getD (0, 0, 0)
    let n := b.length - d.2.1 - 28
    if b.length < d.2.1 + 28 then none
    else
      let z := fit 32 (kemDecaps set (materialOf t ((unsealBody t.secret t.body).getD [])) (b.take d.2.1))
      gcmDec z (slice b d.2.1 12) (leBytes 2 cls) (slice b (d.2.1 + 12) n) (b.drop (d.2.1 + 12 + n))

/-- Import material for a key of a class: the status that refuses it, or the material (R190, R265). -/
def importMaterial (t : KeyObj) (cls : Nat) (b : Bytes) : Nat ⊕ Bytes :=
  match openImport t cls b with
  | none => .inl stsVerifyFail
  | some r =>
    let m := r.drop 6
    if leAt r 0 2 ≠ cls then .inl stsKeyClass
    else if leAt r 2 4 ≠ m.length ∨ r.length < 6 ∨ ¬ (importLens cls).contains m.length then .inl stsBadParameter
    else if ¬ materialValid cls m then .inl stsBadParameter
    else .inr m

/-- KEY_IMPORT (R92–R94, R190, R265). The body key of an extended key is open: the spec draws none. -/
def execKeyImport (cmd : Nat) (s : State) : Res :=
  .next (withRow cmd s (fun o => o == .key 0x0502) (fun c => withIn c s (fun b s =>
      let cls := leAt c.pkt 40 2
      if ¬ installRoom s then quotaEnd c s
      else match importMaterial (c.key2.getD {}) cls b with
        | .inl st => endWith c st s
        | .inr m => match newLeaf (keyOf c) s with
          | none => quotaEnd c s
          | some (k, s) =>
            let r := freeBytes 32 s
            install c 0 0 { withMaterial cls m r.1 k with attr := byteAt c.pkt 42 } true false r.2)))

/-- The next version of a key, before its material: same handle, attributes and class (R92, R253). -/
def nextVersion (k : KeyObj) : KeyObj :=
  { k with
    version := (k.version + 1) % 0x10000, tag := k.tag / 2048 * 2048 + (k.version + 1) % 2048, secret := [], pub := [], body := []
    ext := false }

/-- KEY_REPLACE (R92–R95, R516): fresh material of the class and length of the key replaced, or an import. -/
def execKeyReplace (cmd : Nat) (s : State) : Res :=
  .next (withRow cmd s (fun o => o == .key 0x0503) (fun c =>
    let k := keyOf c
    if ((resU s k.handle).bind (·.pend)).isSome then finish c.id (withHint stsKeyPending 0xFFFF) s
    else if ¬ installRoom s then quotaEnd c s
    else if byteAt c.pkt 43 = 0 then
      withDraw c (genDraw k.cls k.secret.length) s s (fun r s => install c 2 0 (generated k.cls r (nextVersion k)) false false s)
    else withIn c s (fun b s => match importMaterial (c.key2.getD {}) k.cls b with
      | .inl st => endWith c st s
      | .inr m =>
        let r := freeBytes 32 s
        install c 2 0 (withMaterial k.cls m r.1 (nextVersion k)) false false r.2)))

/-! ### Commit, abandon (R95–R97, R259, R260) -/

/-- Drop a pending key and its claims: kind 3 in its PENDING record, which an outage can leave as it was or torn. -/
def dropPending (id h : Nat) (s : State) : State :=
  match resU s h with
  | none => s
  | some r =>
    let j := slotU s r.slot
    let s := noteCut id [{ slots := [(r.slot, j)] }, { slots := [(r.slot, { j with pend := {} })] }]
      (wordsOut 1 (setSlot r.slot { j with pend := { j.pend with kind := 3 } } s))
    let s : State := { s with kvt := { s.kvt with claims := s.kvt.claims.filter (· != r.entry) } }
    setResident h (tidyRes { r with pend := none }) s

/-- A command has read an unreadable generation entry (R250): a DEVICE fault of the BBRAM ECC; it ends with STS_FAULT. -/
def genFault (c : Cmd) (s : State) : State :=
  endWith c stsFault (faultAt { blk := .tmp, checker := 1, cls := 3, inst := cmdInst c } (some c.id) s)

/-- Step 1 of R259: is the parent's generation still the one in the handle? -/
def parentHolds (s : State) (k : KeyObj) : Bool := (pendCheck s k).isNone

/-- A generation entry of the parent that KEY_COMMIT reads is unreadable (R250). -/
def parentFault (s : State) (k : KeyObj) : Bool := pendCheck s k == some stsFault

/-- The resident record after a commit (R260): earlier commands keep the old key until the reply. -/
def committed (id : Nat) (r : Resident) : Resident :=
  { r with
    old := r.old ++ (r.cur.map (fun k => (2 ^ 64, k))).toList, oldCmd := some id, cur := r.pend, pend := none }

/-- Write the counter record of a new stateful key (R214, step 3). -/
def newRecord (k : KeyObj) (n : Nat) (s : State) : State := startRec n (hInst k.handle) { stateId := k.stateId } s

/-- What an outage can leave of a commit (R214, R259): nothing; word 0 of the class entry without the COMMIT record; the
COMMIT record without the counter record, or with that slot's clearing begun. -/
def commitStages (r : Resident) (claim : Option Nat) (s : State) : List BbStage :=
  let slot := (r.slot, slotU s r.slot)
  match r.install, claim with
  | 1, _ => [{ slots := [slot], gens := [(r.entry, genE s r.entry)] }, { slots := [slot] }]
  | 3, some n => { slots := [slot], recs := [(n, recU s n)] } :: recStages n (startStages (recU s n))
  | _, _ => [{ slots := [slot] }]

/-- KEY_COMMIT (R96, R214, R259). The engines of this device are marked after the reply (step 6 of R259); the other
devices learn of a replacement before it, since the reply waits for their acknowledgements (R366; DEDUCED, log 96). -/
def execKeyCommit (cmd : Nat) (s : State) : Res :=
  .next (withRow cmd s (fun o => o == .key 0x0504) (fun c =>
    let h := pKey c.pkt
    match resU s h with
    | none => endWith c stsBadParameter s
    | some r => match r.pend with
      | none => endWith c stsBadParameter s
      | some k =>
        if parentFault s k then genFault c s
        else if ¬ parentHolds s k then endWith c stsKeyOrphaned (dropPending c.id h s)
        else if r.install = 3 ∧ (recClaim s).isNone then endWith c stsQuota s
        else
          let claim := recClaim s
          let cut := commitStages r claim s
          let i := hInst h
          let s := if r.install = 1 then setGen r.entry { genE s r.entry with
              gen := (genE s r.entry).gen + 1, parentGen := (genE s i).gen, inst := i, st := 1 } s else s
          let j := jRec 2 r.install r.entry k [] s
          let s := wordsOut 4 (setSlot r.slot { slotU j.2 r.slot with commit := { j.1 with digest := (slotU j.2 r.slot).pend.digest } } j.2)
          let s := match r.install, claim with
            | 3, some n => newRecord k n s
            | _, _ => s
          let s := noteCut c.id cut s
          let s : State := { s with kvt := { s.kvt with
            claims := s.kvt.claims.filter (· != r.entry), cache := s.kvt.cache.filter (· != h) } }
          let s := setResident h (some (committed c.id r)) s
          let s := match r.cur with
            | some o => castOthers c.id (castKey o.tag) s
            | none => s
          endWith c stsOk s))

/-- KEY_ABANDON (R95, R259): kind 3 in the PENDING record. -/
def execKeyAbandon (cmd : Nat) (s : State) : Res :=
  .next (withRow cmd s (fun o => o == .key 0x0505) (fun c =>
    if ((resU s (pKey c.pkt)).bind (·.pend)).isSome then endWith c stsOk (dropPending c.id (pKey c.pkt) s)
    else endWith c stsBadParameter s))

/-! ### Load, evict, invalidate (R97, R98, R254, R263, R264) -/

/-- Step 5 of R254: does the journal refuse a blob of a handle and version? -/
def journalRefuses (s : State) (h v : Nat) : Option Result :=
  (List.range 256).findSome? (fun n =>
    let j := slotU s n
    if ¬ jValid j.pend ∨ j.pend.handle ≠ h then none
    else if j.pend.kind = 3 ∧ j.pend.version = v then some (justStatus stsKeyUnknown)
    else if jPending j ∧ j.pend.version = v then some (withHint stsKeyPending 0xFFFF)
    else if jCommitted j ∧ v < j.pend.version then some (justStatus stsKeyUnknown)
    else none)

/-- The parameter bytes of a stateful key from its blob (R211): what its public key names (RFC 8554, RFC 8391), with the
lower levels of an HSS key from its secret. -/
def parOf (k : KeyObj) : Bytes :=
  if k.cls = 0x0801 then hssParOf k.pub k.secret
  else fit 24 ([BitVec.ofNat 8 (clsSet k.cls), 0, 0, 0] ++ (k.pub.take 4).reverse)

/-- Steps 1 and 2 of R254 for a blob of instance `i`: none where they pass. -/
def blobRefused (s : State) (i : Nat) (b : Bytes) : Option Nat :=
  let shape := decide (b.take 4 = ascii "UQKB") && byteAt b 4 == 1 && (byteAt b 5 == 2 || byteAt b 5 == 3) &&
    clsListed (leAt b 6 2) && leAt b 6 2 != 0x2001 && decide (96 ≤ b.length)
  if ¬ shape then some stsKeyUnknown
  else if hInst (leAt b 8 8) ≠ i then some stsKeyForeign
  else match headerSecret s i with
    | none => some stsKeyUnknown
    | some hk => if headerOk hk b then none else some stsKeyUnknown

/-- Close the record of a state identifier and clear it (R213, R222), for command `id`; an outage before the reply can cut
it short. A closing write that does not take effect clears nothing. -/
def retireSid (id sid : Nat) (s : State) : State :=
  match recFind s sid with
  | none => s
  | some n =>
    let p := recU s n
    let t := closeRec n s
    if s.bbram.badRecs.contains n then t else noteCut id (recStages n (retireStages p)) (clearRec n t)

/-- Retire the key of a handle (R222): resident, or by its blob, which must name that handle. -/
def retireKey (id inst h : Nat) (k : Option KeyObj) (b : Bytes) (s : State) : Nat × State :=
  if b ≠ [] ∧ leAt b 8 8 ≠ h then (stsBadParameter, s)
  else match k with
    | some k => (stsOk, retireSid id k.stateId s)
    | none => match blobRefused s inst b with
      | some st => (st, s)
      | none => if clsFam (blobKey b).cls ≠ 8 then (stsKeyClass, s) else (stsOk, retireSid id (blobKey b).stateId s)

/-- The cursor and the high-water mark of a state identifier (R224), none where its record is lost, free or closed. -/
def sfsMarks (sid : Nat) (s : State) : Option (Nat × Nat) × State :=
  match recFind s sid with
  | none => (none, s)
  | some n => match viewRec (recU s n) with
    | .held r _ => (if r.closed then none else some (sfsCursor s n r, r.hwm), s)
    | .lost => (none, noteLost n s)
    | .free => (none, s)

/-- Open an authentic blob (steps 3–6 of R254). -/
def loadBlob (b : Bytes) (s : State) : Result ⊕ KeyObj :=
  let k := blobKey b
  if k.stateful ∧ (recLive s k.stateId).isNone then .inl (justStatus stsStateLost)
  else match genCheck s k with
  | some st => .inl (justStatus st)
  | none => match journalRefuses s k.handle k.version with
    | some r => .inl r
    | none => match parentKey s k with
      | none => .inl (justStatus stsKeyUnknown)
      | some p => match openBlob (wrapKey p.secret (childGen s p)) b with
        | none => .inl (justStatus stsKeyUnknown)
        | some k => .inr (if k.stateful then { k with par := parOf k } else k)

/-- Make a loaded key resident; a lower version is kept for the commands that may use it (R255). -/
def putLoaded (c : Cmd) (k : KeyObj) (s : State) : State :=
  let r := (resU s k.handle).getD {}
  match r.cur with
  | none => setResident k.handle (some { r with cur := some k }) s
  | some o => setResident k.handle (some { r with old := r.old ++ [(2 ^ 64, o)], oldCmd := some c.id, cur := some k }) s

/-- Note whether the last KEY_LOAD of an instance failed with STS_QUOTA (KVT_PANNIER_STATUS). -/
def loadNote (i : Nat) (q : Bool) (s : State) : State :=
  let l := s.kvt.full.filter (· != i)
  { s with kvt := { s.kvt with full := if q then i :: l else l } }

/-- The counter record that the load of a stateful blob reads passes its ECC checker (R212, R254). -/
def blobRead (c : Cmd) (b : Bytes) (s : State) : State :=
  if (blobKey b).stateful then cmdAccess .tmp 0 0 1 true c s else s

/-- KEY_LOAD (R98, R254, R255). -/
def execKeyLoad (cmd : Nat) (s : State) : Res :=
  .next (withRow cmd s (fun o => o == .key 0x0506) (fun c => withIn c (loadNote (cmdInst c) false s) (fun b s =>
      match blobRefused s (cmdInst c) b with
      | some st => endWith c st s
      | none => withCheck .tmp 0 1 3 true c s (fun c s => withCheck .kvt 0 1 4 false c (blobRead c b s) (fun c s => match loadBlob b s with
        | .inl r => if r.status = stsFault then genFault c s else finish c.id r s
        | .inr k =>
          let cur := (resU s k.handle).bind (·.cur)
          let out := leBytes 8 k.handle
          match cur with
          | some o =>
            if o.version = k.version then endOut c out s
            else if k.version < o.version then endWith c stsKeyUnknown s
            else if ¬ quotaFits s (cmdInst c) k then endWith c stsQuota (loadNote (cmdInst c) true s)
            else endOut c out (blkEvent .kvt 0x12 1 (putLoaded c k s))
          | none =>
            if ¬ quotaFits s (cmdInst c) k then endWith c stsQuota (loadNote (cmdInst c) true s)
            else endOut c out (blkEvent .kvt 0x12 1 (putLoaded c k s)))))))

/-- KEY_EVICT (R98, R225, R262): from the Pannier store only; the broadcast names the key. -/
def execKeyEvict (cmd : Nat) (s : State) : Res :=
  .next (withRow cmd s (fun o => o == .key 0x0507) (fun c =>
    let h := pKey c.pkt
    match resU s h with
    | none => endWith c stsKeyUnknown s
    | some r =>
      let s := setResident h (tidyRes { r with cur := none, old := [] }) s
      let s : State := { s with kvt := { s.kvt with
        trees := Tbl.set 0 s.kvt.trees h 0, cache := s.kvt.cache.filter (· != h) } }
      endWith c stsOk (broadcast c.id (castKey (keyOf c).tag) s)))

/-- Drop vault-cache entries that a broadcast matches (R263, step 5). -/
def dropCache (x : Cast) (s : State) : State :=
  let hit (h : Nat) : Bool := match (resU s h).bind (·.cur) with
    | some k => castHit x k.tag
    | none => false
  { s with kvt := { s.kvt with cache := s.kvt.cache.filter (fun h => !hit h) } }

/-- The grants of resident keys whose own or an ancestor's generation has moved on end (R99). -/
def endGrants (s : State) : State :=
  { s with
    kvt := { s.kvt with
      grants := s.kvt.grants.filter (fun p => match (resU s p.1).bind (·.cur) with
        | some k => (genCheck s k).isNone
        | none => true) } }

/-- KEY_INVALIDATE (R97, R263). -/
def execKeyInvalidate (cmd : Nat) (s : State) : Res :=
  .next (withRow cmd s (fun o => o == .key 0x0508) (fun c =>
    let h := pKey c.pkt
    let i := hInst h
    let n := if hLevel h = 1 then i else entryOf s i (hIndex h)
    let e := genE s n
    if e.unreadable then genFault c s
    else if e.gen = 0xFFFF then quotaEnd c s
    else
      let x := if hLevel h = 1 then castDomain i e.gen else castClass i (hIndex h) e.gen
      let s : State := { s with kvt := { s.kvt with
          stops := c.id :: s.kvt.stops, sweep := i :: s.kvt.sweep.filter (· != i) } }
      let s := endGrants (dropCache x (broadcast c.id x (setGen n { e with gen := e.gen + 1 } s)))
      endOut c (leBytes 2 (e.gen + 1)) s))

/-! ### Export, public, descriptor, share (R99, R265) -/

/-- KEY_EXPORT (R265): the export record under the transport key. -/
def execKeyExport (cmd : Nat) (s : State) : Res :=
  .next (withRow cmd s (fun o => o == .key 0x0509) (fun c =>
    let k := keyOf c
    let t := c.key2.getD {}
    match if k.ext then unsealBody k.secret k.body else some [] with
    | none => endWith c stsFault s
    | some body =>
      let r := exportRec k.cls (exportMaterial k body)
      if t.cls = 0x3620 then endOut c (kwpWrap t.secret r) s
      else withDraw c 44 s s (fun d s =>
        let set := clsSet t.cls
        let z := kemEncaps set t.pub (d.take 32)
        let g := gcmEnc (fit 32 z.2) (d.drop 32) (leBytes 2 k.cls) r
        endOut c (fit ((kemSet set).getD (0, 0, 0)).2.1 z.1 ++ d.drop 32 ++ g.1 ++ g.2) s)))

/-- KEY_PUBLIC (Table 4-2). -/
def execKeyPublic (cmd : Nat) (s : State) : Res :=
  .next (withRow cmd s (fun o => o == .key 0x050A) (fun c => endOut c (keyOf c).pub s))

/-- The tag that KEY_INFO reports: of a class key with its entry's current generation (R262). -/
def infoTag (s : State) (k : KeyObj) : Nat :=
  if k.level = 2 then
    mkTag (hInst k.handle) (hIndex k.handle) (bitsOf k.tag 27 16) (genE s (entryOf s (hInst k.handle) (hIndex k.handle))).gen k.version
  else k.tag

/-- The current generation of a key's parent; the root has none. -/
def parentGenNow (s : State) (k : KeyObj) : Nat :=
  let i := hInst k.handle
  match k.level with
  | 1 => 0
  | 2 => (genE s i).gen
  | _ => let n := bitsOf k.tag 43 13
    if n = 0 then (genE s i).gen else (genE s (entryOf s i n)).gen

/-- KEY_INFO (R99, Table 4-4). -/
def execKeyInfo (cmd : Nat) (s : State) : Res :=
  .next (withRow cmd s (fun o => o == .key 0x050B) (fun c =>
    let k := keyOf c
    let r := resU s k.handle
    let st := match r with
      | some r => if r.pend.isNone then 0 else if r.cur.isSome then 2 else 1
      | none => 0
    let res := match r with
      | some r => b2n r.cur.isSome
      | none => 0
    let n := (grantsOf s k.handle).length
    if k.stateful ∧ st ≠ 1 ∧ (recLive s k.stateId).isNone then endWith c stsStateLost s
    else endOut c (leBytes 8 k.handle ++ leBytes 2 k.cls ++ leBytes 1 k.level ++ leBytes 1 k.attr ++ leBytes 1 st ++
      leBytes 1 res ++ leBytes 2 (parentGenNow s k) ++ leBytes 8 (infoTag s k) ++ leBytes 8 n) s))

/-- KEY_SHARE (R99): grant or revoke. -/
def execKeyShare (cmd : Nat) (s : State) : Res :=
  .next (withRow cmd s (fun o => o == .key 0x050C) (fun c =>
    let t := byteAt c.pkt 44
    let g := (grantsOf s (pKey c.pkt)).filter (· != t)
    endWith c stsOk (setGrants (pKey c.pkt) (if byteAt c.pkt 45 = 1 then t :: g else g) s)))

/-- HKDF-SHA-256 without a salt: extract, then expand to `n` bytes (RFC 5869). -/
def hkdf (ikm info : Bytes) (n : Nat) : Bytes :=
  let prk := hmac sha256 64 (zeros 32) ikm
  let step (x : Bytes × Bytes) (i : Nat) : Bytes × Bytes :=
    let t := hmac sha256 64 prk (x.1 ++ info ++ leBytes 1 (i + 1))
    (t, x.2 ++ t)
  (((List.range (ceilDiv n 32)).foldl step ([], [])).2).take n

/-- The secret of KEY_AGREE_STORE (R93, R516): kdf, shared secret, label, class, secret length. -/
def agreed (f : Nat) (z label : Bytes) (cls n : Nat) : Option Bytes :=
  match f with
  | 0 => if z.length = n then some z else none
  | 1 => some (toSecret cls (hkdf z label (rawLen cls n)))
  | _ => some (toSecret cls (kmac256 z label [] (rawLen cls n)))

/-- KEY_AGREE_STORE (R92–R94, R516). An SLH-DSA public seed is open: the KDF output is the held secret alone. -/
def execKeyAgreeStore (cmd : Nat) (s : State) : Res :=
  .next (withRow cmd s (fun o => o == .key 0x0510) (fun c => withIn c s (fun b s => withBody c (keyOf c) s (fun body s =>
      let k := keyOf c
      let set := clsSet k.cls
      let d := (kemSet set).getD (0, 0, 0)
      let m := if isAgree set then d.1 else d.2.1
      let cls := leAt c.pkt 40 2
      let n := secretLen cls (byteAt c.pkt 47)
      let z := if isAgree set then agree set (materialOf k body) (b.take m)
        else some (fit d.2.2 (kemDecaps set (materialOf k body) (b.take m)))
      if ¬ installRoom s then quotaEnd c s
      else match z.bind (fun z => agreed (byteAt c.pkt 46) z (b.drop m) cls n) with
        | none => endWith c stsBadParameter s
        | some sec =>
          if ¬ materialValid cls sec then endWith c stsBadParameter s
          else match newLeaf (c.key2.getD {}) s with
            | none => quotaEnd c s
            | some (x, s) =>
              let r := freeBytes (if isSlh cls then n / 2 else 0) s
              let mat := if isSlh cls then slhMaterial cls (sec ++ r.1) else sec
              install c 0 0 { withMaterial cls mat [] x with attr := byteAt c.pkt 42 } true false r.2))))

end Sys2Proof.Machine
end

