-- ==== Sys2Proof/Machine/Stateful.lean ====
section
/-! DEFINITION. The stateful-signature commands of family 0x08 (chapters 04 and 09). -/
namespace Sys2Proof.Machine
open Sys2Proof

/-- The parameter bytes of a stateful command (R100). -/
def sfsPar (p : Bytes) : Bytes := slice p 40 24

/-- Verify a stateful signature: public key, signature, message in a row (R103). -/
def sfsVerifyRow (c : Cmd) (s : State) : State :=
  withIn c s (fun b s =>
    match sfsParams (sfsPar c.pkt) with
    | none => endWith c stsBadParameter s
    | some d =>
      let ok := sfsVerify (sfsPar c.pkt) (b.take d.pub) (slice b d.pub d.sig) (b.drop (d.pub + d.sig))
      endWith c (if ok then stsOk else stsVerifyFail) s)

/-- SFS_VERIFY_HSS (R100, R103). -/
def execSfsVerifyHss (cmd : Nat) (s : State) : Res :=
  .next (match running s cmd (fun o => o == .sfs 0x0801) with
  | none => s
  | some c => sfsVerifyRow c s)

/-- SFS_VERIFY_XMSS (R100, R103). -/
def execSfsVerifyXmss (cmd : Nat) (s : State) : Res :=
  .next (match running s cmd (fun o => o == .sfs 0x0802) with
  | none => s
  | some c => sfsVerifyRow c s)

/-- Is a state identifier one of a live or closed record, or of a pending stateful key, or 0 (R211)? -/
def sidTaken (s : State) (x : Nat) : Bool :=
  x == 0 || (recFind s x).isSome || s.kvt.res.any (fun p => match p.2.bind (·.pend) with
    | some k => k.stateful && k.stateId == x
    | none => false)

/-- The random bytes of a stateful key's secret and of the public seed of XMSS. -/
def sfsDraw (par : Bytes) (n : Nat) : Nat := if byteAt par 0 = 1 then 2 * n - 8 else 3 * n

/-- SFS_KEYGEN (R100, R101, R211, R223): a pending stateful key. Its secret, the public seed of XMSS and its state
identifier are drawn in turn; the last draw repeats until the value is free. -/
def execSfsKeygen (cmd : Nat) (s : State) : Res :=
  .next (withRow cmd s (fun o => o == .sfs 0x0810) (fun c => match sfsParams (sfsPar c.pkt) with
    | none => endWith c stsBadParameter s
    | some d =>
      if ¬ installRoom s then quotaEnd c s
      else match newLeaf (keyOf c) s with
        | none => quotaEnd c s
        | some (k, t) => withDraw c (sfsDraw (sfsPar c.pkt) d.n) s t (fun r s1 =>
            withDrawUntil c 5 (fun b => !sidTaken t (ofLe b)) s s1 (fun b s =>
              let par := sfsPar c.pkt
              let sec := if byteAt par 0 = 1 then hssSecret par r else r.take (2 * d.n)
              install c 3 0 { k with
                cls := sfsClass (byteAt par 0), stateful := true, par := par, secret := sec
                pub := sfsPublic par sec (r.drop (2 * d.n)), stateId := ofLe b } true true s))))

/-- SFS_SIGN (R77, R102, R215): the leaf was taken at dispatch; the signature is checked before its release. -/
def execSfsSign (cmd : Nat) (s : State) : Res :=
  .next (match running s cmd (fun o => o == .sfs 0x0811) with
  | none => s
  | some c => withIn c s (fun m s =>
      let k := keyOf c
      let sig := sfsSign k.par k.secret k.pub (c.leaf.getD 0) m
      withCheck .hub c.unit 11 1 false c s (fun c s =>
        if sfsVerify k.par k.pub sig m then endOut c sig s
        else faultAt { blk := .hub, set := c.unit, checker := 11, cls := 1, inst := cmdInst c } (some c.id) s)))

/-- SFS_STATUS (R224): leaves total, next leaf, high-water mark; those of a key of another member come from its home. -/
def execSfsStatus (cmd : Nat) (s : State) : Res :=
  .next (match running s cmd (fun o => o == .sfs 0x0812) with
  | none => s
  | some c =>
    let r := match c.served with
      | some v => (some v, s)
      | none => sfsMarks (keyOf c).stateId s
    match r.1 with
    | none => endWith c stsStateLost r.2
    | some v => endOut c (leBytes 8 (leavesTotal (keyOf c).par) ++ leBytes 8 v.1 ++ leBytes 8 v.2) r.2)

/-- SFS_RETIRE (R222): of a resident key, or of the key whose blob is the input. The home of a key of another member has
retired it at the resolution (R226). -/
def execSfsRetire (cmd : Nat) (s : State) : Res :=
  .next (withRow cmd s (fun o => o == .sfs 0x0813) (fun c =>
    if c.served.isSome then endWith c stsOk s
    else if c.key.isSome ∧ pInL c.pkt = 0 then endWith c stsOk (retireSid c.id (keyOf c).stateId s)
    else withIn c s (fun b s =>
      let r := retireKey c.id (cmdInst c) (pKey c.pkt) c.key b s
      endWith c r.1 r.2)))

end Sys2Proof.Machine
end

