-- ==== Sys2Proof/Machine/RegHif.lean ====
section
/-! DEFINITION. The registers of the port pages and of the host interface, as words (chapters 02, 05, 15, 23 and 26). -/
namespace Sys2Proof.Machine
open Sys2Proof

/-! ### Static fields (R7, R513) -/

/-- The low and the high word of a 64-bit register. -/
def lo32 (v : Word64) : Word := v.setWidth 32
/-- The high word. -/
def hi32 (v : Word64) : Word := (v >>> 32).setWidth 32
/-- A 64-bit register with its low or high word replaced. -/
def putLo (v : Word64) (w : Word) : Word64 := hi32 v ++ w
/-- The high word replaced. -/
def putHi (v : Word64) (w : Word) : Word64 := w ++ lo32 v

/-! ### Queue pairs -/

/-- A queue pair's configuration registers, by offset (R26). -/
def qpRead (qp : Qp) (off : Nat) : Word :=
  match off with
  | 0x00 => lo32 qp.sqBase
  | 0x04 => hi32 qp.sqBase
  | 0x08 => lo32 qp.cqBase
  | 0x0C => hi32 qp.cqBase
  | 0x10 => word [(qp.sqEntries, 0), (qp.cqEntries, 16)]
  | 0x14 => word [(qp.vector, 0), (b2n qp.irqEn, 7), (qp.coalCount, 8), (qp.coalTime, 16)]
  | 0x18 => word [(qp.reqMinor, 0), (qp.reqMajor, 8), (qp.accMinor, 16), (qp.accMajor, 24)]
  | 0x1C => word [(b2n qp.enable, 0), (b2n qp.active, 8), (b2n qp.versionRejected, 9), (b2n qp.notAllotted, 10),
      (b2n qp.ringError, 11)]
  | _ => 0

/-- The static fields of a queue pair as a write to one of its registers would leave them. -/
def qpStatic (qp : Qp) (off : Nat) (v : Word) : Qp :=
  match off with
  | 0x00 => { qp with sqBase := putLo qp.sqBase (v &&& 0xFFFFF000) }
  | 0x04 => { qp with sqBase := putHi qp.sqBase v }
  | 0x08 => { qp with cqBase := putLo qp.cqBase (v &&& 0xFFFFF000) }
  | 0x0C => { qp with cqBase := putHi qp.cqBase v }
  | 0x10 => { qp with sqEntries := fld v 0 13, cqEntries := fld v 16 13 }
  | 0x14 => { qp with vector := fld v 0 7 }
  | 0x18 => { qp with reqMinor := fld v 0 8, reqMajor := fld v 8 8 }
  | _ => qp

/-- A write to a queue pair's register (R26, R513). -/
def qpWrite (p q off : Nat) (v : Word) (s : State) : State :=
  if off = 0x1C then if flag v 0 then qpEnable p q s else qpDisable p q s
  else
    let qp := qpU s p q
    let t := qpStatic qp off v
    let live (x : Qp) : Qp := if off = 0x14 then { x with irqEn := flag v 7, coalCount := fld v 8 8, coalTime := fld v 16 16 } else x
    if qp.active then
      let x := live qp
      let s := setQp p q (if qpBusy s p q then x else qpLive x) s
      if t = qp then s else setPort p { portU s p with cfgIgnored := true } s
    else setQp p q (qpLive (live t)) s

/-! ### Counters (R460–R465) -/

/-- A counter's registers; a counter that is not allotted reads 0. -/
def cntRead (s : State) (b : Bank) (unit k off : Nat) : Word :=
  let c := cntU s b unit k
  if ¬ cntLive s b unit k then 0
  else match off with
    | 0 => BitVec.ofNat 32 c.val
    | 4 => BitVec.ofNat 32 (c.val / 2 ^ 32)
    | 8 => word [(c.event, 0), (b2n c.en, 8), (b2n c.chain, 9), (b2n c.ovf, 10), (b2n c.ovfInt, 11), (c.scope, 12),
        (b2n c.filtEn, 14), (c.inst, 16), (c.tag, 24)]
    | _ => 0

/-- A write to a counter's register: its static fields take effect unless the counter runs on (R513). -/
def cntWrite (b : Bank) (unit k off : Nat) (v : Word) (s : State) : State :=
  let c := cntU s b unit k
  if ¬ cntLive s b unit k then s
  else
    let limited : Bool := b == .seq || b == .hub
    let stat : Cnt := match off with
      | 0 => { c with val := c.val / 2 ^ 32 * 2 ^ 32 + v.toNat }
      | 4 => { c with val := fld v 0 16 * 2 ^ 32 + c.val % 2 ^ 32 }
      | 8 => { c with
          event := fld v 0 8, chain := flag v 9 && mayChain b k, ovfInt := flag v 11
          scope := if limited then fld v 12 2 else 0, filtEn := flag v 14 && limited, inst := if limited then fld v 16 8 else 0
          tag := fld v 24 8 }
      | _ => c
    let live (x : Cnt) : Cnt := if off = 8 then { x with en := flag v 8, ovf := x.ovf && !flag v 10 } else x
    let busy : Bool := c.en && (off != 8 || flag v 8)
    if busy then
      let s := setCnt b unit k (live c) s
      if stat = c then s else { s with cad := { s.cad with cfgIgnored := true } }
    else setCnt b unit k (live stat) s

/-! ### The port page (R24–R26, Table 26-2) -/

/-- The number of an instance state (Table 15-2). -/
def instStNum : InstState → Nat
  | .absent => 0 | .active => 1 | .pausing => 2 | .paused => 3 | .exported => 4 | .resetting => 5

/-- HIF_PORT_STATUS. -/
def portStatus (s : State) (p : Nat) : Word :=
  let x := instU s p
  word [(b2n (x.st != .absent && x.st != .resetting), 0), (b2n (x.st == .paused), 1), (b2n x.logging, 2),
    (b2n (s.pwr.mode == .locked), 3), (b2n (s.pwr.mode == .zeroized), 4), (b2n (s.pwr.mode == .drain), 5),
    (b2n (portU s p).cfgIgnored, 8)]

/-- A read in a port page. -/
def portRead (s : State) (p off : Nat) : Word :=
  if off % 4 ≠ 0 then 0
  else if off < 0x200 then
    let qp := qpU s p (off / 8)
    if off % 8 = 0 then word [(qp.sqTail, 0), (qp.sqHead, 16)] else word [(qp.cqHead, 0), (qp.cqTail, 16), (b2n qp.phase, 28)]
  else if 0x1000 ≤ off ∧ off < 0x1800 then qpRead (qpU s p ((off - 0x1000) / 0x20)) (off % 0x20)
  else if off = 0x2000 then word [(qpAllotted s p, 0), (p, 8), (2, 16), (3, 20)]
  else if off = 0x2004 then portStatus s p
  else if 0x3000 ≤ off ∧ off < 0x3100 then cntRead s .inst p ((off - 0x3000) / 16) (off % 16)
  else if 0x8000 ≤ off ∧ off < 0x8000 + 16 * vectors p then
    let m := msixU s p ((off - 0x8000) / 16)
    match off % 16 with
    | 0 => lo32 m.addr
    | 4 => hi32 m.addr
    | 8 => m.data
    | _ => word [(b2n m.mask, 0)]
  else if 0x9000 ≤ off ∧ off < 0x9010 then
    word ((List.range 32).map (fun i => (b2n (decide ((off - 0x9000) * 8 + i < vectors p) && (msixU s p ((off - 0x9000) * 8 + i)).pend), i)))
  else 0

/-- A write in a port page. -/
def portWrite (p off : Nat) (v : Word) (s : State) : State :=
  if off % 4 ≠ 0 then s
  else if off < 0x200 then if off % 8 = 0 then sqDoorbell p (off / 8) v s else cqDoorbell p (off / 8) v s
  else if 0x1000 ≤ off ∧ off < 0x1800 then qpWrite p ((off - 0x1000) / 0x20) (off % 0x20) v s
  else if off = 0x2004 then
    if flag v 8 then setPort p { portU s p with cfgIgnored := false } s else s
  else if 0x8000 ≤ off ∧ off < 0x8000 + 16 * vectors p then
    let k := (off - 0x8000) / 16
    let m := msixU s p k
    match off % 16 with
    | 0 => setMsix p k { m with addr := putLo m.addr v } s
    | 4 => setMsix p k { m with addr := putHi m.addr v } s
    | 8 => setMsix p k { m with data := v } s
    | _ => deliver p k (setMsix p k { m with mask := flag v 0 } s)
  else s

/-! ### The Derailleur, the pools and the instances (chapters 05 and 15) -/

/-- HIF_DRL_USE of an instance: the previous epoch (R135). -/
def drlUse (s : State) (i : Nat) : Word :=
  let l := s.drl.hub
  word [(Tbl.get 0 l.lastUsed i % 2 ^ 20, 0), (Tbl.get 0 l.lastHeld i % 128, 24), (b2n (Tbl.get false l.indebted i), 31)]

/-- Units of a pool that instances 1–255 hold (Table 15-1). -/
def poolUsed (s : State) (f : Inst → Nat) : Nat := ((s.hif.inst.filter (fun p => p.1 != 0)).map (fun p => f p.2)).sum

/-- Is a prepare slot done (R343)? -/
def prepDone (p : PrepSlot) : Bool := p.used && p.finished

/-- Prepare slots that are free or done. -/
def prepFree (s : State) : Nat := ((List.range 8).filter (fun n =>
  let p := Tbl.get {} s.bbram.prep n
  !p.used || p.finished)).length

/-- Adopted domains in use. -/
def adoptedCount (s : State) : Nat := (s.bbram.adopted.filter (fun p => p.2.used)).length

/-- Detached commands of an instance (R338). -/
def detachedOf (s : State) (i : Nat) : Nat := if (instU s i).st = .paused then runningOf s i else 0

/-- A read of a HIF register outside the manager's port page. -/
def hifRead (s : State) (off : Nat) : Word :=
  if off = 0x20000 then word [(s.drl.mgrWeight, 0), (b2n s.drl.affinity, 16), (s.drl.idleGate, 24)]
  else if off = 0x20004 then word [(availEngines s, 0), (engBusy s, 8), (s.drl.epoch % 2 ^ 16, 16)]
  else if off = 0x20008 then word [(engAllowed s, 0)]
  else if 0x20400 ≤ off ∧ off < 0x20800 then drlUse s ((off - 0x20400) / 4)
  else if off = 0x20800 then word [(4096 - poolUsed s (·.qps), 0), (496 - poolUsed s (·.dgeSlots), 13), (248 - poolUsed s (·.cvuSlots), 22)]
  else if off = 0x20804 then word [(512 - poolUsed s (·.csets), 0), (prepFree s, 10), (adoptedCount s, 14)]
  else if 0x21000 ≤ off ∧ off < 0x21400 then
    let i := (off - 0x21000) / 4
    let x := instU s i
    word [(instStNum x.st, 0), (b2n x.logging, 3), (b2n x.logOver, 4), (b2n x.adopted.isSome, 5), (x.order, 6),
      (min 0xFF (detachedOf s i), 8), (x.csets, 16)]
  else 0

/-- A write of a HIF register outside the manager's port page. -/
def hifWrite (off : Nat) (v : Word) (s : State) : State :=
  if off = 0x20000 then { s with drl := { s.drl with mgrWeight := fld v 0 16, affinity := flag v 16, idleGate := fld v 24 8 } }
  else s

end Sys2Proof.Machine
end

