-- ==== Sys2Proof/Machine/Admin.lean ====
section
/-! DEFINITION. Identity, status and the instance commands of family 0x0F (chapters 04 and 15). -/
namespace Sys2Proof.Machine
open Sys2Proof

/-- Go on with the running command of an administration opcode. -/
def withAdm (cmd o : Nat) (s : State) (f : Cmd → State) : State :=
  withRow cmd s (fun x => x == .adm o) f

/-! ### Identity and status (Tables 4-8 and 4-10) -/

/-- The number of a life-cycle state (Table 4-8). -/
def lcNum : LcState → Nat
  | .maker => 0 | .integrator => 1 | .fielded => 2 | .returned => 3 | .scrapped => 4

/-- Cascade position and role. -/
def placeOf (s : State) : Nat := s.tlk.position + s.pins.cascRole * 8

/-- The device certificate. -/
def deviceCert (s : State) : Bytes := Config.certificate (identity s)

/-- The 64 bytes of DEV_IDENTITY; in Scrapped bytes 20–63 read 0 (R420). -/
def identityBytes (s : State) : Bytes :=
  let head := identity s ++ leBytes 2 0x00B1 ++ leBytes 1 (lcNum s.lcs.st) ++ leBytes 1 (modeNum s.pwr.mode)
  if s.lcs.st = .scrapped then fit 64 head
  else fit 64 (head ++ leBytes 2 (placeOf s) ++ [3, 2] ++ sha3_256 (deviceCert s))

/-- DEV_IDENTITY (Table 4-8). -/
def execDevIdentity (cmd : Nat) (s : State) : Res :=
  .next (withAdm cmd 0x0F01 s (fun c => endOut c (identityBytes s) s))

/-- KVT_PANNIER_STATUS.used_mib: whole MiB of each instance in use. -/
def usedMib (s : State) : Nat := ((liveInsts s).map (fun i => ceilDiv (usedBytes s i) 0x100000)).sum

/-- The 32 bytes of DEV_STATUS for a port (Table 4-10). -/
def statusBytes (s : State) (p : Nat) : Bytes :=
  let bits := b2n s.bbram.lockFlag + 2 * b2n s.kvt.root.isSome + 4 * b2n s.kvt.recovered + 8 * b2n (entReady s) +
    16 * b2n (entDegraded s) + 32 * b2n (allFailed s) + 64 * b2n (faultN s) + 128 * b2n (tamperOutN s)
  leBytes 1 (modeNum s.pwr.mode) ++ leBytes 1 (lcNum s.lcs.st) ++ leBytes 1 (placeOf s) ++ leBytes 1 bits ++
  leBytes 1 (availEngines s) ++ leBytes 1 (engAllowed s) ++ leBytes 1 s.pwr.tj ++ leBytes 1 s.pwr.capW ++
  leBytes 2 s.glb.katBits ++ leBytes 2 ((liveInsts s).filter (· != 0)).length ++
  (if p = 0 then leBytes 8 s.bbram.logNewest ++ leBytes 4 (usedMib s) else zeros 12) ++ leBytes 8 s.hif.ts

/-- DEV_STATUS (R113). -/
def execDevStatus (cmd : Nat) (s : State) : Res :=
  .next (withAdm cmd 0x0F02 s (fun c => endOut c (statusBytes s c.port) s))

/-! ### Creating and destroying (R105, R107, R328, R329, R346) -/

/-- The target instance of a command (R104). -/
def pTarget (p : Bytes) : Nat := byteAt p 40

/-- The instance that INST_CREATE's bytes 41–63 describe (Table 4-7); `b` starts at byte 41. -/
def newInst (b : Bytes) : Inst :=
  { st := .active, qps := byteAt b 0, weight := leAt b 1 2, nextWeight := leAt b 1 2, groups := byteAt b 3 % 16
    order := byteAt b 4, drbgs := byteAt b 5, dgeSlots := byteAt b 6 % 16 + 1, cvuSlots := bitsOf (byteAt b 6) 4 3 + 1
    quota := leAt b 7 4, csets := byteAt b 11, label := slice b 15 8, created := slice b 0 23 }

/-- Can every pool supply an instance (Table 15-1)? -/
def poolsFit (s : State) (x : Inst) : Bool :=
  decide (poolUsed s (·.qps) + x.qps ≤ 4096) && decide (poolUsed s (·.dgeSlots) + x.dgeSlots ≤ 496) &&
    decide (poolUsed s (·.cvuSlots) + x.cvuSlots ≤ 248) && decide (poolUsed s (·.csets) + x.csets ≤ 512) &&
    decide (reservedMib s + x.quota ≤ 98304)

/-- The adopted domain of an instance number and label (R346). -/
def adoptedFor (s : State) (i : Nat) (label : Bytes) : Option Nat :=
  (List.range 32).find? (fun n =>
    let a := Tbl.get {} s.bbram.adopted n
    a.used && a.inst == i && a.label == label)

/-- A domain entry at its first use: generation 1 (Table 11-4). -/
def openDomain (i : Nat) (s : State) : State :=
  if (genE s i).gen = 0 then setGen i { genE s i with gen := 1, inst := i, st := 2 } s else s

/-- Steps 2–4 of R329: the resources, the domain key, the permission bits. -/
def makeInst (i : Nat) (x : Inst) (s : State) : State :=
  let s := openDomain i (reserveMib i x.quota s)
  let s := setInst i { x with adopted := adoptedFor s i x.label } s
  (List.range 4).foldl (fun s g => setPerm i g (x.groups.testBit g) s) s

/-- INST_CREATE (R105, R329). -/
def execInstCreate (cmd : Nat) (s : State) : Res :=
  .next (withAdm cmd 0x0F10 s (fun c =>
    let i := pTarget c.pkt
    let x := newInst (c.pkt.drop 41)
    if (instU s i).st ≠ .absent then endWith c stsBadParameter s
    else if ¬ poolsFit s x then endWith c stsQuota s
    else
      let s := makeInst i x s
      endOut c (leBytes 8 (domainHandle s i)) s))

/-- INST_DESTROY (R107, R346). -/
def execInstDestroy (cmd : Nat) (s : State) : Res :=
  .next (withAdm cmd 0x0F11 s (fun c =>
    let i := pTarget c.pkt
    let x := instU s i
    if x.st = .absent then endWith c stsBadParameter s
    else
      let s := returnMib i (destroyInst i (abandonInst i (some (justStatus stsInstanceReset)) s))
      let s : State := match x.adopted, byteAt c.pkt 41 with
        | some n, 1 => { s with bbram := { s.bbram with adopted := Tbl.del s.bbram.adopted n } }
        | _, _ => s
      endWith c stsOk s))

/-- Does an instance take commands that shape it: it exists and is not exported? -/
def instOpen (s : State) (i : Nat) : Bool := (instU s i).st != .absent && (instU s i).st != .exported

/-- Take queue pairs from `n` on away from a paused instance (R332). -/
def removeQps (i n : Nat) (s : State) : State :=
  let gone := (List.range 64).filter (fun q => decide (n ≤ q) && (qpU s i q).enable)
  if gone.isEmpty then s
  else signal i 0 (gone.foldl (fun s q => settleQp i q (setQp i q { qpU s i q with enable := false } s)) s)

/-- INST_SET_SHARE (R105, R106, R331, R332). -/
def execInstSetShare (cmd : Nat) (s : State) : Res :=
  .next (withAdm cmd 0x0F12 s (fun c =>
    let i := pTarget c.pkt
    let n := byteAt c.pkt 41
    let x := instU s i
    let busy := (List.range 64).any (fun q => decide (n ≤ q) && (qpU s i q).active)
    if ¬ instOpen s i then endWith c stsBadParameter s
    else if x.st ≠ .paused ∧ n < x.qps ∧ busy then endWith c stsBadParameter s
    else if 4096 < poolUsed s (·.qps) - x.qps + n then endWith c stsQuota s
    else
      let s := if x.st = .paused ∧ n < x.qps then removeQps i n s else s
      endWith c stsOk (setInst i { instU s i with qps := n, nextWeight := leAt c.pkt 42 2 } s)))

/-- INST_SET_SHIELD (R106, R333): the order stands from its completion on (`setShield`). -/
def execInstSetShield (cmd : Nat) (s : State) : Res :=
  .next (withAdm cmd 0x0F16 s (fun c =>
    let i := pTarget c.pkt
    if ¬ instOpen s i then endWith c stsBadParameter s
    else if (instU s i).st = .paused then finish c.id (withHint stsPaused 0xFFFF) s
    else endWith c stsOk s))

/-! ### Pausing, resuming, resetting (R334, R337, R339) -/

/-- INST_PAUSE (R106, R337): steps 1–3; its reply follows the drain. The port event of R25 is signalled here, where the
pause begins, and not again at the end of the drain (DESIGN CHOICE, log 117). -/
def execInstPause (cmd : Nat) (s : State) : Res :=
  .next (withAdm cmd 0x0F13 s (fun c =>
    let i := pTarget c.pkt
    let x := instU s i
    match x.st with
    | .active =>
      let s := setInst i { x with st := .pausing, pauseAt := c.began, pauseCmd := some c.id } s
      let s := (s.hif.cmds.filter (fun d => d.port == i && d.phase == .waiting)).foldl (fun s d =>
        refuse d (withHint stsPaused 0xFFFF) (unreserve d.id s)) s
      endWith c stsOk (signal i 0 s)
    | .pausing => finish c.id (withHint stsPaused 0xFFFF) s
    | .paused => finish c.id (withHint stsPaused 0xFFFF) s
    | _ => endWith c stsBadParameter s))

/-- INST_RESUME (R339). -/
def execInstResume (cmd : Nat) (s : State) : Res :=
  .next (withAdm cmd 0x0F14 s (fun c =>
    let i := pTarget c.pkt
    let x := instU s i
    if x.st = .paused then endWith c stsOk (signal i 0 (setInst i { x with st := .active } s))
    else endWith c stsBadParameter s))

/-- The queue pairs of an instance are disabled, their configuration kept (Table 15-3). -/
def disableQps (i : Nat) (s : State) : State :=
  (List.range 64).foldl (fun s q => setQp i q { qpU s i q with enable := false, active := false, retiring := false } s) s

/-- INST_RESET (R99, R107, R334). It ends a pause and migration logging, which R25 signals. -/
def execInstReset (cmd : Nat) (s : State) : Res :=
  .next (withAdm cmd 0x0F15 s (fun c =>
    let i := pTarget c.pkt
    if ¬ instOpen s i then endWith c stsBadParameter s
    else
      let x := instU s i
      let s := revokeGrants i (disableQps i (abandonInst i (some (justStatus stsInstanceReset)) s))
      let s := setInst i { clearPause (instU s i) with st := .resetting } s
      endWith c stsOk (if x.st = .pausing ∨ x.st = .paused ∨ x.logging then signal i 0 s else s)))

/-- INST_MIGRATE_LOG (R108, R340–R342): writes are logged the new way from its completion on (`setLog`). -/
def execInstMigrateLog (cmd : Nat) (s : State) : Res :=
  .next (withAdm cmd 0x0F17 s (fun c => endWith c (if instOpen s (pTarget c.pkt) then stsOk else stsBadParameter) s))

/-! ### Migration (R343–R346) -/

/-- The device's own signature. -/
def ownSign (s : State) (m : Bytes) : Bytes :=
  fit 4627 (Config.deviceSign (identity s ++ (List.range 4).flatMap (fun i => leBytes 8 (otpWord s (7 + i)))) m)

/-- The prepare slot that INST_IMPORT_PREPARE takes (R343): free, else done longest. -/
def prepTake (s : State) : Option Nat :=
  let p (n : Nat) := Tbl.get {} s.bbram.prep n
  match (List.range 8).find? (fun n => !(p n).used) with
  | some n => some n
  | none => ((List.range 8).filter (fun n => prepDone (p n))).foldl (fun b n => match b with
      | none => some n
      | some m => if (p n).order < (p m).order then some n else some m) none

/-- Write a prepare slot. -/
def setPrep (n : Nat) (p : PrepSlot) (s : State) : State :=
  wordsOut 13 { s with bbram := { s.bbram with prep := Tbl.set {} s.bbram.prep n p } }

/-- INST_IMPORT_PREPARE (R343). -/
def execInstImportPrepare (cmd : Nat) (s : State) : Res :=
  .next (withAdm cmd 0x0F18 s (fun c =>
    if byteAt c.pkt 41 = 1 then
      let n := byteAt c.pkt 42
      let p := Tbl.get {} s.bbram.prep n
      if p.used ∧ ¬ p.finished ∧ p.stDigest = [] then endWith c stsOk (setPrep n {} s) else endWith c stsBadParameter s
    else match prepTake s with
      | none => quotaEnd c s
      | some n => withDraw c 64 s s (fun seed s =>
          let ek := fit 1568 (publicOf 0x0103 seed)
          endOut c (ek ++ deviceCert s) (setPrep n { used := true, seed := seed, ekDigest := (sha3_256 ek).take 16 } s))))

/-- The live class entries of an instance: nominal number and entry. -/
def classEntries (s : State) (i : Nat) : List (Nat × GenEntry) :=
  let kept := ((adoptedOf s i).map (·.aliases)).getD []
  (s.bbram.gens.filter (fun p => decide (256 ≤ p.1) && p.2.st == 1 && p.2.inst == i && p.2.parentGen == (genE s i).gen)).map
    (fun p => match kept.find? (fun a => a.2 == p.1) with
      | some a => (a.1, p.2)
      | none => p)

/-- The live records of an instance's stateful keys, resident or not: slot and record in force (R226). -/
def recordsOf (s : State) (i : Nat) : List (Nat × RecCopy) :=
  (List.range 1024).filterMap (fun n => if Tbl.get 0 s.bbram.recOwner n = i + 1 then
      match viewRec (recU s n) with
      | .held c _ => if c.closed then none else some (n, c)
      | _ => none
    else none)

/-- The body of an exported state (Table 15-4). -/
def stateBody (s : State) (i : Nat) : Bytes :=
  let x := instU s i
  let es := classEntries s i
  let rs := recordsOf s i
  let dom := fit 32 ((domainSecret s i).getD []) ++ fit 32 ((headerSecret s i).getD [])
  fit 23 x.created ++ dom ++ leBytes 2 (genE s i).gen ++
  leBytes 2 es.length ++ es.flatMap (fun p => leBytes 2 p.1 ++ leBytes 2 p.2.gen ++ leBytes 2 p.2.parentGen ++ leBytes 8 p.2.nextIndex) ++
  leBytes 8 (genE s i).nextIndex ++
  leBytes 2 rs.length ++ rs.flatMap (fun p => leBytes 5 p.2.stateId ++ leBytes 8 p.2.hwm) ++
  (List.range x.qps).flatMap (fun q =>
    let qp := qpU s i q
    (List.range 8).flatMap (fun w => leBytes 4 (qpRead qp (4 * w)).toNat) ++ leBytes 2 qp.sqHead ++ leBytes 2 qp.cqTail ++
      leBytes 1 (b2n qp.phase)) ++
  (List.range 65).flatMap (fun v =>
    let m := msixU s i v
    leBytes 8 m.addr.toNat ++ leBytes 4 m.data.toNat ++ leBytes 1 (b2n m.mask) ++ leBytes 1 (b2n m.pend)) ++
  (List.range 16).flatMap (fun k => [0, 4, 8].flatMap (fun off => leBytes 4 (cntRead s .inst i k off).toNat))

/-- The length of the state that INST_EXPORT of instance `i` puts out (Table 15-4). -/
def exportedLen (s : State) (i : Nat) : Nat :=
  64 + (deviceCert s).length + 1568 + (stateBody s i).length + 16 + 4627

/-- Has instance `i` a key install that is pending (R344)? -/
def pendingIn (s : State) (i : Nat) : Bool :=
  s.kvt.res.any (fun p => hInst p.1 == i && (match p.2 with | some r => r.pend.isSome | none => false))

/-- INST_EXPORT (R344). -/
def execInstExport (cmd : Nat) (s : State) : Res :=
  .next (withAdm cmd 0x0F19 s (fun c => withIn c s (fun b t => migRead c (pTarget c.pkt) t (fun t =>
    let i := pTarget c.pkt
    let body := stateBody t i
    let cert := deviceCert t
    let total := exportedLen t i
    if (instU t i).st ≠ .paused then endWith c stsBadParameter t
    else if 0 < detachedOf t i then
      let h := freeNumber 0x10000 t
      finish c.id (withHint stsRetry h.1) h.2
    else if pendingIn t i then finish c.id (withHint stsKeyPending 0xFFFF) t
    else if pMax c.pkt < total then finish c.id { status := stsBadLength, outLen := total } t
    else if ¬ Config.certOk (b.drop 1568) then endWith c stsVerifyFail t
    else withDraw c 32 t t (fun coins t =>
      let ek := b.take 1568
      let r := kemEncaps 3 ek coins
      let head := fit 64 (ascii "UQIS" ++ leBytes 2 1 ++ identity t ++ (sha3_256 ek).take 16 ++ leBytes 4 total)
      let pre := head ++ cert ++ fit 1568 r.1
      let t := (recordsOf t i).foldl (fun t p => closeRec p.1 t) t
      let g := gcmEnc (fit 32 r.2) (zeros 12) pre body
      let msg := pre ++ g.1 ++ g.2
      match writeOut c (msg ++ ownSign t msg) t with
      | some t => finish c.id { status := stsOk, outLen := total } (setInst i { instU t i with st := .exported } t)
      | none => dmaSpill c t)))))

/-- The parts of an exported state: header, certificate, ciphertext, body with tag, signature. -/
structure StateParts where
  head : Bytes
  cert : Bytes
  ct   : Bytes
  body : Bytes
  tag  : Bytes
  sig  : Bytes

/-- Take an exported state apart. -/
def stateParts (b : Bytes) : StateParts :=
  let n := Config.certLen (b.drop 64)
  let k := b.length - (64 + n + 1568 + 16 + 4627)
  { head := b.take 64, cert := slice b 64 n, ct := slice b (64 + n) 1568, body := slice b (64 + n + 1568) k
    tag := slice b (64 + n + 1568 + k) 16, sig := slice b (64 + n + 1568 + k + 16) 4627 }

/-- The class entries of a body: nominal, generation, parent generation, next index. -/
def bodyEntries (b : Bytes) : List (Nat × GenEntry) :=
  (List.range (leAt b 89 2)).map (fun k =>
    let o := 91 + 14 * k
    (leAt b o 2, { gen := leAt b (o + 2) 2, parentGen := leAt b (o + 4) 2, nextIndex := leAt b (o + 6) 8, st := 1 }))
/-- The domain's next leaf index in a body, after the class entries. -/
def bodyNext (b : Bytes) : Nat := leAt b (91 + 14 * leAt b 89 2) 8
/-- Where the records of a body start. -/
def bodyRecsAt (b : Bytes) : Nat := 99 + 14 * leAt b 89 2
/-- The records of a body: state identifier and mark. -/
def bodyRecs (b : Bytes) : List (Nat × Nat) :=
  (List.range (leAt b (bodyRecsAt b) 2)).map (fun k =>
    (leAt b (bodyRecsAt b + 2 + 13 * k) 5, leAt b (bodyRecsAt b + 7 + 13 * k) 8))
/-- Where the queue pairs of a body start. -/
def bodyQpsAt (b : Bytes) : Nat := bodyRecsAt b + 2 + 13 * leAt b (bodyRecsAt b) 2

/-- A queue pair as its 37 bytes give it; its doorbells stand at what the device had reached. -/
def bodyQp (b : Bytes) : Qp :=
  let w (k : Nat) : Word := BitVec.ofNat 32 (leAt b (4 * k) 4)
  let q := (List.range 8).foldl (fun q k => qpStatic q (4 * k) (w k)) {}
  { q with
    irqEn := flag (w 5) 7, coalCount := fld (w 5) 8 8, coalTime := fld (w 5) 16 16, accMinor := fld (w 6) 16 8
    accMajor := fld (w 6) 24 8, enable := flag (w 7) 0, active := flag (w 7) 8, versionRejected := flag (w 7) 9
    notAllotted := flag (w 7) 10, ringError := flag (w 7) 11, sqHead := leAt b 32 2, sqTail := leAt b 32 2
    cqTail := leAt b 34 2, cqHead := leAt b 34 2, phase := (byteAt b 36) == 1 }

/-- Put a body's queue pairs, MSI-X table and counters into a new instance. -/
def restorePort (i n : Nat) (b : Bytes) (s : State) : State :=
  let s := (List.range n).foldl (fun s q => setQp i q (qpLive (bodyQp (b.drop (37 * q)))) s) s
  let m := b.drop (37 * n)
  let s := (List.range 65).foldl (fun s v => setMsix i v {
    addr := BitVec.ofNat 64 (leAt m (14 * v) 8), data := BitVec.ofNat 32 (leAt m (14 * v + 8) 4)
    mask := byteAt m (14 * v + 12) == 1, pend := byteAt m (14 * v + 13) == 1 } s) s
  let k := m.drop (14 * 65)
  (List.range 16).foldl (fun s j => [0, 4, 8].foldl (fun s off =>
    cntWrite .inst i j off (BitVec.ofNat 32 (leAt k (12 * j + off) 4)) s) s) s

/-- Claim class entries for a body's, one kept each (R346). -/
def aliasEntries (i : Nat) : List (Nat × GenEntry) → State → List (Nat × Nat) × State
  | [], s => ([], s)
  | (n, e) :: t, s => match claimEntry s with
    | none => ([], s)
    | some k =>
      let r := aliasEntries i t (setGen k { e with inst := i } s)
      ((n, k) :: r.1, r.2)

/-- The slot of an imported record (R345, step 6): the closed record of the same identifier, else one as at KEY_COMMIT. -/
def importSlot (s : State) (sid : Nat) : Option Nat :=
  match (recFind s sid).map (fun n => (n, viewRec (recU s n))) with
  | some (n, .held _ _) => some n
  | _ => recClaim s

/-- The records of a body that are not live yet get a slot each (R345, step 6). -/
def importRecs (inst : Nat) (rs : List (Nat × Nat)) (s : State) : State :=
  rs.foldl (fun s r => if (recLive s r.1).isSome then s
    else match importSlot s r.1 with
      | some n => startRec n inst { stateId := r.1, hwm := r.2 } s
      | none => s) s

/-- Are the adopted domains, aliases, class entries and records enough for a body (R346, step 4 of R345)? -/
def importFits (s : State) (i : Nat) (b : Bytes) (resumed : Bool) : Bool :=
  let used := ((s.bbram.adopted.map (fun p => p.2.aliases.length)).sum)
  let es := bodyEntries b
  let fresh := (bodyRecs b).filter (fun r => (recLive s r.1).isNone)
  let open_ := ((List.range 7936).filter (fun n => entryOpen s (n + 256) && !s.kvt.claims.contains (n + 256))).length
  let slots := ((List.range 1024).filter (fun n => match viewRec (recU s n) with
    | .free => true
    | .held c _ => c.closed
    | .lost => false)).length
  (resumed && (adoptedFor s i (slice b 15 8)).isSome) ||
    ((decide (adoptedCount s < 32) || (adoptedFor s i (slice b 15 8)).isSome) && decide (used + es.length ≤ 7936) && decide (es.length ≤ open_) && decide (fresh.length ≤ slots))

/-- Step 6 of R345: the adopted domain with its aliases, the domain entry, the records. The domain that a resumed import
has written is taken as it stands; an older one of the same number and label is replaced. -/
def adopt (i : Nat) (b : Bytes) (resumed : Bool) (s : State) : State :=
  let s := importRecs i (bodyRecs b) s
  let old := adoptedFor s i (slice b 15 8)
  let free := (List.range 32).find? (fun n => !(Tbl.get {} s.bbram.adopted n).used)
  if resumed ∧ old.isSome then s
  else match old.orElse (fun _ => free) with
    | none => s
    | some n =>
      let s := setGen i { genE s i with gen := leAt b 87 2, st := 2, inst := i, nextIndex := bodyNext b } s
      let r := aliasEntries i (bodyEntries b) s
      { r.2 with bbram := { r.2.bbram with adopted := Tbl.set {} r.2.bbram.adopted n {
          used := true, inst := i, label := slice b 15 8, key := slice b 23 64, aliases := r.1 } } }

/-- Are the header, the certificate and the signature of an exported state right (step 1 of R345)? -/
def stateGood (b : Bytes) : Bool :=
  let p := stateParts b
  decide (p.head.take 4 = ascii "UQIS") && leAt p.head 4 2 == 1 && leAt p.head 38 4 == b.length &&
    Config.certOk p.cert && mldsa87Ok (Config.certKey p.cert) (b.take (b.length - 4627)) p.sig

/-- The prepare slot an exported state belongs to: prepared, or importing the same state (step 2 of R345). -/
def prepFor (s : State) (b : Bytes) : Option Nat :=
  (List.range 8).find? (fun n =>
    let q := Tbl.get {} s.bbram.prep n
    q.used && !q.finished && q.ekDigest == slice (stateParts b).head 22 16 &&
      (q.stDigest == [] || q.stDigest == (sha3_256 b).take 16))

/-- The body of an exported state, decrypted with the key of prepare slot `n`; none where the tag fails (step 3 of
R345). -/
def stateOpened (s : State) (n : Nat) (b : Bytes) : Option Bytes :=
  let p := stateParts b
  gcmDec (fit 32 (kemDecaps 3 (Tbl.get {} s.bbram.prep n).seed p.ct)) (zeros 12) (p.head ++ p.cert ++ p.ct) p.body p.tag

/-- INST_IMPORT (R345). -/
def execInstImport (cmd : Nat) (s : State) : Res :=
  .next (withAdm cmd 0x0F1A s (fun c => withIn c s (fun b s => migRead c (pTarget c.pkt) s (fun s =>
    let i := pTarget c.pkt
    let dg := (sha3_256 b).take 16
    match stateGood b, prepFor s b with
    | true, some n =>
      let q := Tbl.get {} s.bbram.prep n
      match stateOpened s n b with
      | none => endWith c stsVerifyFail s
      | some body =>
        let x := newInst body
        if (instU s i).st ≠ .absent then endWith c stsBadParameter s
        else if ¬ (poolsFit s x ∧ importFits s i body (q.stDigest != [])) then endWith c stsQuota s
        else
          let last := (List.range 8).foldl (fun m k => max m (Tbl.get {} s.bbram.prep k).order) 0
          let s := adopt i body (q.stDigest != []) (setPrep n { q with stDigest := dg } s)
          let s := makeInst i { x with st := .paused } (setPrep n { q with stDigest := dg, finished := true, order := last + 1 } s)
          let s := restorePort i x.qps (body.drop (bodyQpsAt body)) s
          endOut c (leBytes 8 (domainHandle s i)) s
    | _, _ => endWith c stsVerifyFail s))))

end Sys2Proof.Machine
end

