-- ==== Sys2Proof/Machine/LifeCycle.lean ====
section
/-! DEFINITION. The life cycle: OTP burns, LC_ADVANCE, REPROVISION, UNLOCK, ZEROIZE and scrapping (chapters 04, 20
and 21). -/
namespace Sys2Proof.Machine
open Sys2Proof

/-! ### Life-cycle words (R412) -/

/-- The advance pattern of a life-cycle word. -/
def advPattern : Nat → Nat
  | 0 => 0x0F0F0F0F0F0F0F0F
  | 1 => 0x3333333333333333
  | 2 => 0x5555555555555555
  | _ => 0x6969696969696969

/-- All ones: the scrap pattern, and an obliterated word. -/
def allOnes : Nat := 0xFFFFFFFFFFFFFFFF

/-- The next state on the path. -/
def nextOnPath : LcState → LcState
  | .maker => .integrator
  | .integrator => .fielded
  | .fielded => .returned
  | .returned => .returned
  | .scrapped => .scrapped

/-- The walk over LC1–LC4 from word `n` on, in state `st`: the state and whether a word is invalid. -/
def lcWalk (w : Nat → Nat) : Nat → Nat → LcState → LcState × Bool
  | 0, _, st => (st, false)
  | fuel + 1, n, st =>
    if w n = 0 then
      if ((List.range 5).filter (fun m => decide (n < m))).all (fun m => w m == 0) then (st, false) else (.scrapped, true)
    else if w n = allOnes then (.scrapped, false)
    else if n ≤ 3 ∧ w n = advPattern n then lcWalk w fuel (n + 1) (nextOnPath st)
    else (.scrapped, true)

/-- The decoded state and LCS_STATE.invalid. -/
def decodeLc (s : State) : LcState × Bool :=
  if otpWord s 0 ≠ advPattern 0 then (.scrapped, true) else lcWalk (otpWord s) 4 1 .maker

/-- The next blank life-cycle word, none where all are burned. -/
def blankWord (s : State) : Option Nat := [1, 2, 3, 4].find? (fun n => otpWord s n == 0)

/-! ### Burns (R411) -/

/-- Start a burn, or let it wait for the one in progress. -/
def startBurn (n v : Nat) (s : State) : State :=
  match s.lcs.burning with
  | none => { s with lcs := { s.lcs with burning := some (n, BitVec.ofNat 64 v) } }
  | some _ => { s with lcs := { s.lcs with burnQ := s.lcs.burnQ ++ [(n, BitVec.ofNat 64 v)] } }

/-- The OTP secret (Table 20-1). -/
def otpSecret (s : State) : Bytes := (List.range 4).flatMap (fun i => leBytes 8 (otpWord s (7 + i)))

/-- The burns of R419 step 3: each of words 7–36 that does not read all ones. -/
def scrapWords (s : State) : List (Nat × Word64) :=
  (((List.range 30).map (· + 7)).filter (fun n => otpWord s n != allOnes)).map (fun n => (n, BitVec.ofNat 64 allOnes))

/-- R419 steps 2 and 3: working secrets and all of BBRAM go; the burns start while the hold-up store lasts. -/
def scrapErase (s : State) : State :=
  let s := eraseVolatile s
  let ws := scrapWords s
  let s : State := { s with bbram := { badRecs := s.bbram.badRecs }, lcs := { s.lcs with oblit := !ws.isEmpty } }
  if holdupOk s then ws.foldl (fun s w => startBurn w.1 w.2.toNat s) s else s

/-! ### Transition records (R414, R415) -/

/-- A field to install; a zeroed one installs nothing (R439). -/
def toInstall (b : Bytes) : Option Bytes := if b = [] then none else some b

/-- Step 3 of R414: the erasures of Table 20-2 and its installs; the configuration of TMP is unsealed (R432). -/
def applyRecord (s : State) : State :=
  let b := s.bbram
  let r := b.trans
  let t := r.target
  let e : Bbram := { b with
    gens := [], journal := [], recs := [], recOwner := [], prep := [], adopted := [], trans := {}
    intSeed := if t = 1 then toInstall r.seed else if 2 ≤ t then none else b.intSeed
    ownSeed := if t = 2 then toInstall r.seed else if 3 ≤ t then none else b.ownSeed
    ownDigest := if t = 2 then toInstall r.digest else if 3 ≤ t then none else b.ownDigest
    retRoot := if t = 3 then toInstall r.seed else b.retRoot }
  { s with bbram := e, tmp := { s.tmp with sealed := false } }

/-! ### Authorisation (R109, R417, Table 4-9) -/

/-- The seed and the digest of an owner seed package, none where a check of R417 fails. -/
def openPackage (s : State) (b : Bytes) : Option (Bytes × Bytes) :=
  let pk := slice b 1684 2592
  let good := decide (b.take 4 = ascii "UQOS") && leAt b 4 2 == 1 && slice b 8 16 == identity s &&
    vendorVerify (identity s ++ sha3_256 pk) (slice b 4276 4627) &&
    mldsa87Ok pk (b.take 8903) (slice b 8903 4627)
  if ¬ good then none
  else
    let seed := kmac256 (otpSecret s) (ascii "PROV") [] 64
    let k := fit 32 (kemDecaps 3 seed (slice b 24 1568))
    match gcmDec k (slice b 1592 12) (b.take 24) (slice b 1604 64) (slice b 1668 16) with
    | none => none
    | some p => if p.drop 32 = sha3_256 pk then some (p.take 32, p.drop 32) else none

/-- The owner's signature over the device identity and the target, under the carried key, and the number of bytes
up to its end; without a digest in BBRAM a vendor signature over the identity and the key stands in. -/
def ownerAuth (s : State) (b : Bytes) (target : Nat) : Option Nat :=
  let pk := b.take 2592
  let m := identity s ++ leBytes 1 target
  match s.bbram.ownDigest with
  | some d => if d = sha3_256 pk ∧ mldsa87Ok pk m (slice b 2592 4627) then some 7219 else none
  | none =>
    if vendorVerify (identity s ++ pk) (slice b 2592 4627) ∧ mldsa87Ok pk m (slice b 7219 4627) then some 11846
    else none

/-- The record that an authorised LC_ADVANCE stages (Table 4-9); the root of Returned is still to be drawn. -/
def lcRecord (s : State) (target : Nat) (b : Bytes) : Option TransRec :=
  let r : TransRec := { target := target, valid := true }
  let vend (off : Nat) := vendorVerify (identity s ++ leBytes 1 target) (slice b off 4627)
  match s.lcs.st, target with
  | .maker, 1 => if vendorVerify (identity s ++ b.take 32) (slice b 32 4627) then some { r with seed := b.take 32 } else none
  | .integrator, 2 => (openPackage s b).map (fun p => { r with seed := p.1, digest := p.2 })
  | .returned, _ => if vend 0 then some r else none
  | _, 3 => match ownerAuth s b 3 with
    | some n => if vend n then some r else none
    | none => none
  | _, _ => (ownerAuth s b target).map (fun _ => r)

/-! ### The commands (R109–R111, R414, R418, R443, R444) -/

/-- 32 bytes of the conditioner; none while it releases no block (R271). -/
def conditioned (s : State) : Option (Bytes × State) :=
  if s.ent.startupDone ∧ ¬ allFailed s ∧ ¬ s.ent.testActive then some (freeBytes 32 s) else none

/-- R111: without the DRAM the recovery buffer's first 64 KiB hold the input. -/
def recoveryIn (b : Bytes) (s : State) : State :=
  if recoveryMode s then { s with hub := { s.hub with recovery := Tbl.setList 0 [] 0 (b.take 65536) } } else s

/-- Steps 1 and 2 of R414: the record is staged and the burn starts, unless DRAIN has begun; a session closes
(R425). -/
def stage (c : Cmd) (r : TransRec) (s : State) : State :=
  let s := closeSession s
  let s : State := { s with bbram := { s.bbram with trans := r }, lcs := { s.lcs with lcCmd := some c.id } }
  match blankWord s with
  | some n => if s.pwr.mode = .drain then s
    else startBurn n (if r.target = 4 then allOnes else advPattern n) s
  | none => s

/-- LC_ADVANCE (R109, R414). -/
def execLcAdvance (cmd : Nat) (s : State) : Res :=
  .next (withAdm cmd 0x0F20 s (fun c =>
    let t := byteAt c.pkt 40
    if lcBusy s then finish c.id (withHint stsRetry 100) s
    else if (lcInput s.lcs.st t s.bbram.ownDigest.isSome).isNone then endWith c stsLifecycle s
    else withIn c s (fun b u =>
      let u := recoveryIn b u
      match lcRecord u t b with
      | none => endWith c stsVerifyFail u
      | some r =>
        if ¬ holdupOk u then finish c.id (withHint stsRetry 1000) u
        else if t = 3 then match conditioned u with
          | some (root, u) => stage c { r with seed := root } u
          | none => s
        else stage c r u)))

/-- REPROVISION (R418): what the record installs, with the generation table, the journal and the counter records
kept; RESET without a reply. -/
def execReprovision (cmd : Nat) (s : State) : Res :=
  .next (withAdm cmd 0x0F23 s (fun c =>
    if lcBusy s then finish c.id (withHint stsRetry 100) s
    else withIn c s (fun b s =>
      let s := recoveryIn b s
      match openPackage s b with
      | none => endWith c stsVerifyFail s
      | some (seed, digest) =>
        let bb : Bbram := { s.bbram with prep := [], adopted := [] }
        enterReset 4 { s with bbram := if s.lcs.st = .integrator then { bb with intSeed := some seed }
          else { bb with ownSeed := some seed, ownDigest := some digest } })))

/-- Is an UNLOCK token one that R443 accepts? -/
def tokenOk (s : State) (b : Bytes) : Bool :=
  let pk := slice b 32 2592
  decide (b.take 4 = ascii "UQUL") && leAt b 4 2 == 1 && slice b 8 16 == identity s && leAt b 24 8 == s.bbram.lockSeq &&
    vendorVerify (b.take 2624) (slice b 2624 4627) && mldsa87Ok pk (b.take 7251) (slice b 7251 4627) &&
    (match s.bbram.ownDigest with
      | some d => d == sha3_256 pk
      | none => true)

/-- UNLOCK (R110, R443, R444); the reset follows its reply. -/
def execUnlock (cmd : Nat) (s : State) : Res :=
  .next (withAdm cmd 0x0F21 s (fun c =>
    if lcBusy s then finish c.id (withHint stsRetry 100) s
    else if ¬ s.bbram.lockFlag then endWith c stsVerifyFail s
    else withIn c s (fun b s =>
      let s := recoveryIn b s
      if tokenOk s b then
        endWith c stsOk (logTamper 0x81 0 0 0 { s with bbram := { s.bbram with lockFlag := false } })
      else endWith c stsVerifyFail s)))

/-- ZEROIZE (R110): the erase, the log entry, the mode; every other command ends with STS_ABORTED_TAMPER, those without a
reply at its dispatch then (`dispatch`). -/
def execZeroize (cmd : Nat) (s : State) : Res :=
  .next (withAdm cmd 0x0F22 s (fun c =>
    if lcBusy s then finish c.id (withHint stsRetry 100) s
    else
      let s := abandonAll (fun d => d.id != c.id) (some (justStatus stsTamper)) s
      let s := eraseRead s
      let s := logTamper 0x84 1 2 0 { s with tmp := { s.tmp with tamperOut := true } }
      endWith c stsOk (toZeroized s)))

/-! ### The end of a burn (R411, R414, R419, R433) -/

/-- The live LC_ADVANCE is done: its reply can be written. -/
def lcDone (s : State) : State :=
  match s.lcs.lcCmd with
  | none => s
  | some id => finish id (justStatus stsOk) { s with lcs := { s.lcs with lcCmd := none } }

/-- A life-cycle word is burned: the record of a live LC_ADVANCE is applied; without one the record waits for the next
BOOT (R439). -/
def lcWordDone (s : State) : State :=
  if (s.lcs.lcCmd.bind (cmdU s)).isNone then { s with lcs := { s.lcs with lcCmd := none } }
  else if s.bbram.trans.target = 4 then
    let s := scrapErase s
    if s.lcs.oblit ∧ holdupOk s then s else lcDone s
  else lcDone (applyRecord s)

/-- The next burn in the queue; the burns of R419 go on only while the hold-up store lasts. -/
def nextBurn (s : State) : State :=
  match s.lcs.burnQ with
  | [] => s
  | (n, v) :: q =>
    if s.lcs.oblit ∧ ¬ holdupOk s then lcDone { s with lcs := { s.lcs with burnQ := [] } }
    else { s with lcs := { s.lcs with burning := some (n, v), burnQ := q } }

/-- What follows a word: a life-cycle word, the fuse word, the last word of R419. -/
def burnFollows (n : Nat) (s : State) : State :=
  if n ≤ 4 then lcWordDone s
  else if s.lcs.oblit then if scrapWords s = [] then lcDone { s with lcs := { s.lcs with oblit := false } } else s
  else if n = 20 then logTamper 0x82 0 0 0 { s with tmp := { s.tmp with fuseBusy := false } }
  else s

/-- OTP_BURN_DONE (R411): the word's bits are set and read back; a bad burn leaves some of its bits, a DEVICE fault of
LCS. -/
def execOtpBurnDone (good : Bool) (s : State) : Res :=
  .next (match s.lcs.burning with
  | none => s
  | some (n, v) =>
    let r := freeNumber (2 ^ 64) s
    let s := if good then burnWord n v.toNat s else burnWord n (v.toNat &&& r.1) r.2
    let s : State := { s with lcs := { s.lcs with burning := none } }
    let s := if good then s else faultAt { blk := .lcs, checker := 1, cls := 3 } none s
    nextBurn (burnFollows n s))

/-- SCRAP_OBLITERATE (R419): in a Scrapped device with words left, steps 2 and 3 are repeated as soon as the hold-up
store is sound. -/
def execScrapObliterate (s : State) : Res :=
  .next (if s.lcs.st = .scrapped ∧ s.lcs.sensed ∧ s.lcs.burning = none ∧ scrapWords s ≠ [] then
    if holdupOk s then scrapErase s else { s with lcs := { s.lcs with oblit := true } }
  else s)

end Sys2Proof.Machine
end

