-- ==== Sys2Proof/Machine/Power.lean ====
section
/-! DEFINITION. Supplies, resets, FREEWHEEL, SURGE, TEST and DRAIN (chapters 18, 19, 21 and 25). -/
namespace Sys2Proof.Machine
open Sys2Proof

/-! ### Registers -/

/-- Do the GLB registers answer an access (R381, R407)? -/
def glbOpen (src : Src) (s : State) : Bool := reaches s src && fltOpen s.pwr.mode

/-- A write to PWR_CTRL without test_req. -/
def pwrCtrlWrite (v : Word) (s : State) : State :=
  { s with pwr := { s.pwr with fwEn := flag v 0, fwIdle := fld v 8 8, drainRun := fld v 16 7 } }

/-! ### Supplies (R379, R381, R431) -/

/-- BBRAM and the always-on bank are lost (R431): all zeros, bbram_lost, log entry 0 with source 13. The clock's
source stays as it is. -/
def bbramLoss (s : State) : State :=
  let s : State := { s with
    bbram := { badRecs := s.bbram.badRecs }
    tmp := { ({} : Tmp) with bbramLost := true, alarm := 2 ^ 13, crystal := s.tmp.crystal, armed7 := s.tmp.armed7 }
    flt := s.flt.filter (fun p => p.1 / 256 != blkNum .tmp)
    pwr := { s.pwr with cause := 0, drainAbandoned := 0, drainCut := 0, drainSource := 0, drainDur := 0 } }
  logTamper 13 0 (if s.pwr.mode = .watch then 3 else 2) 0 s

/-- BBRAM_LOSS (R431): VBAT has fallen below 1.8 V without VDD_IO, which only WATCH can see. -/
def execBbramLoss (s : State) : Res := .next (if s.pwr.mode = .watch then bbramLoss s else s)

/-- AO_CRYSTAL_START (R495): the crystal takes over from the RC backup, and source 7 is armed. -/
def execAoCrystalStart (s : State) : Res :=
  .next (if s.pwr.mode ≠ .off then
    { s with tmp := { s.tmp with crystal := true, armed7 := true }, pwr := { s.pwr with aoRc := false } }
  else s)

/-- AO_CRYSTAL_STOP (R380): the RC backup takes over. -/
def execAoCrystalStop (s : State) : Res :=
  .next (if s.pwr.mode ≠ .off then
    { s with tmp := { s.tmp with crystal := false }, pwr := { s.pwr with aoRc := true } }
  else s)

/-- AO_POWER_UP (R379, R431): OFF ends in WATCH; BBRAM counts as lost; the RC backup runs until the crystal starts. -/
def execAoPowerUp (vbat vddIo : Bool) (s : State) : Res :=
  .next (if s.pwr.mode = .off ∧ (vbat ∨ vddIo) then
    bbramLoss { s with
      pwr := { s.pwr with mode := .watch, prev := .off, aoRc := true }
      tmp := { s.tmp with crystal := false, armed7 := false } }
  else s)

/-- A burn that the rails cut short leaves some of its bits (R411, R416). -/
def cutBurn (s : State) : State :=
  match s.lcs.burning with
  | none => s
  | some (n, v) =>
    let r := freeNumber (2 ^ 64) s
    burnWord n (v.toNat &&& r.1) r.2

/-- SUPPLY_LOSS (R381): OFF. -/
def execSupplyLoss (s : State) : Res := .next (if s.pwr.mode = .off then s else wipe .off s.pwr.cause (cutBurn s))

/-- MAIN_RAIL_LOSS (R379, R382): everything stops, and the always-on domain goes on in WATCH. -/
def execMainRailLoss (s : State) : Res :=
  .next (if s.pwr.mode = .off ∨ s.pwr.mode = .watch then s
  else
    let s := wipe .watch s.pwr.cause (cutBurn s)
    { s with pwr := { s.pwr with dramRails := false, warnPin := false } })

/-- MAIN_RAILS_VALID (R381). -/
def execMainRailsValid (s : State) : Res := .next (if s.pwr.mode = .watch then enterReset 0 s else s)

/-- DRAM_RAILS_VALID (R488). -/
def execDramRailsValid (s : State) : Res :=
  .next (if s.pwr.mode = .off ∨ s.pwr.mode = .watch then s else { s with pwr := { s.pwr with dramRails := true } })

/-! ### RESET and the first steps of BOOT (R383–R385, R398–R400) -/

/-- PERST_N_ASSERT (R383, Table 18-3). -/
def execPerstNAssert (s : State) : Res := .next (if fltOpen s.pwr.mode then enterReset 1 s else s)

/-- GLB_SOFT_RESET (R399). -/
def execGlbSoftReset (src : Src) (v : Word) (s : State) : Res :=
  let s := touch src s
  .next (if glbOpen src s ∧ v = 0xB007 then enterReset 3 s else s)

/-- Instance 0 (Table 15-1). -/
def instZero : Inst := { st := .active, qps := 64, groups := 15, dgeSlots := 16, cvuSlots := 8, csets := 4, label := zeros 8 }

/-- RESET_RELEASE (R385): BOOT begins, and the straps are latched (R480). -/
def execResetRelease (role : Fin 4) (cascId : Fin 8) (bootSrc : Fin 4) (s : State) : Res :=
  .next (if s.pwr.mode = .reset then
    let s : State := { s with
      pins := { s.pins with cascRole := role, cascId := cascId, bootSrc := bootSrc }
      tmp := { s.tmp with hostifStopped := false }
      pwr := { s.pwr with warnPin := false } }
    setMode .boot (setInst 0 instZero s)
  else s)

/-- FABRIC_PLL_LOCK (R400 step 2): the PLLs lock and entropy start-up begins; a Scrapped device starts no source
(R420). -/
def execFabricPllLock (s : State) : Res :=
  .next (if s.pwr.mode = .boot ∧ ¬ s.pwr.fabLock then
    { s with
      pwr := { s.pwr with fabLock := true, seqLock := true }
      ent := { s.ent with running := (decodeLc s).1 != .scrapped } }
  else s)

/-- PCIE_LINK_UP (R400 step 10). -/
def execPcieLinkUp (s : State) : Res :=
  .next (if fltOpen s.pwr.mode then { s with hif := { s.hif with reach := true } } else s)

/-! ### FREEWHEEL (R386, R387) -/

/-- R386: is the device wholly idle? -/
def allIdle (s : State) : Bool :=
  s.hif.cmds.isEmpty && s.hif.qps.all (fun p => !p.2.enable || p.2.sqHead == p.2.sqTail) &&
    (List.range 16).all (fun u => (dgeU s u).owner == .none) && (List.range 8).all (fun u => (cvuU s u).owner == .none) &&
    s.kvt.sweep.isEmpty && s.mem.initDone == 127 && s.mem.copying.isNone && s.tlk.origins.isEmpty &&
    s.tlk.guests.all (fun t => t.rsp.isSome)

/-- FREEWHEEL_ENTRY (R386). -/
def execFreewheelEntry (s : State) : Res :=
  .next (if s.pwr.mode = .service ∧ s.pwr.fwEn ∧ allIdle s then
    let s := s.pwr.groups.foldl (fun s g => gateGroup g s) (blkEvent .pwr 0x10 1 s)
    setMode .freewheel { s with
      mem := { s.mem with selfRefresh := true }, hif := { s.hif with asleep := 0 }
      pwr := { s.pwr with fabLock := false, seqLock := false, dramLock := false } }
  else s)

/-- FREEWHEEL_WAKE (R387). -/
def execFreewheelWake (s : State) : Res := .next (wake s)

/-! ### SURGE (R392) -/

/-- Does a cause of wind-down hold: 0 max_ms, 1 temperature, 2 ten epochs, 3 en? -/
def windCause (s : State) : Nat → Bool
  | 0 => true
  | 1 => decide ((s.pwr.surgeTj : Int) ≤ sgn 8 s.pwr.tj)
  | 2 => decide (10 ≤ s.pwr.idleEpochs)
  | _ => !s.pwr.surgeEn

/-- SURGE_WIND_DOWN (R392). -/
def execSurgeWindDown (cause : Fin 4) (s : State) : Res :=
  .next (if s.pwr.mode = .surge ∧ windCause s cause then { s with pwr := { s.pwr with windDown := true } } else s)

/-- SURGE_END (R392): P_res is at or below cap_w; gap_ms starts. -/
def execSurgeEnd (s : State) : Res :=
  .next (if s.pwr.mode = .surge ∧ s.pwr.windDown ∧ pRes s ≤ 100 * s.pwr.capW then
    setMode .service { s with pwr := { s.pwr with windDown := false, lastSurgeEnd := some s.now, fullEpochs := 0 } }
  else s)

/-! ### TEST (R396) -/

/-- May TEST be entered? -/
def testOk (s : State) : Bool :=
  s.pwr.mode == .service && (s.lcs.st == .maker || s.lcs.st == .returned) && (liveInsts s).all (· == 0) &&
    s.hif.cmds.all (fun c => c.phase == .waiting)

/-- A write to PWR_CTRL.test_req. -/
def testWrite (s : State) : State :=
  if testOk s then setMode .test (entTestStart s) else { s with pwr := { s.pwr with cfgIgnored := true } }

/-- TEST_REQ (R396): a write to PWR_CTRL with test_req = 1. -/
def execTestReq (src : Src) (v : Word) (s : State) : Res :=
  let s := touch src s
  .next (if regOpen src s ∧ flag v 1 then testWrite (pwrCtrlWrite v s) else s)

/-! ### DRAIN (R393–R395, Table 18-6) -/

/-- May DRAIN be entered from a mode? -/
def mayDrain (m : Mode) : Bool := fltOpen m && m != .drain

/-- Step 1 of Table 18-6: the cap in force is kept, waiting commands end with STS_DRAINING, LEAVE goes out. -/
def drainEntry (slow : Bool) (s : State) : State :=
  if mayDrain s.pwr.mode then
    let woken := s.pwr.mode == .freewheel
    let s : State := { s with
      mem := { s.mem with selfRefresh := s.mem.selfRefresh && !woken }
      pwr := { s.pwr with
        drainCap := capNow s / 100, drainAbandoned := 0, drainCut := 0, drainSource := b2n slow, drainDur := 0
        drainRunEnded := false, drainQuiesced := false, trimmed := false, windDown := false
        warnPin := s.pwr.warnPin || !slow
        fabLock := s.pwr.fabLock || woken, seqLock := s.pwr.seqLock || woken, dramLock := s.pwr.dramLock || woken } }
    let s := (s.hif.cmds.filter (fun c => c.phase == .waiting)).foldl (fun s c =>
      refuse c (justStatus stsDraining) (unreserve c.id s)) s
    setMode .drain (cancelInjections (closeSession (sendLeave s)))
  else s

/-- DRAIN_ENTRY (R393). -/
def execDrainEntry (slow : Bool) (s : State) : Res := .next (drainEntry slow s)

/-- DRAIN_TRIM (R218): step 3 of Table 18-6. -/
def execDrainTrim (s : State) : Res :=
  .next (if mayTrim s then
    let s := (List.range 1024).foldl trimRec s
    { s with pwr := { s.pwr with trimmed := true } }
  else s)

/-- DRAIN_RUN_WINDOW_END (R394): step 4, no replies; the writes of the commands stand as far as they got. -/
def execDrainRunWindowEnd (s : State) : Res :=
  .next (if s.pwr.mode = .drain ∧ ¬ s.pwr.drainRunEnded then
    let n := min 0xFF s.hif.cmds.length
    let s := abandonAll (fun _ => true) none (cutShort s)
    { s with pwr := { s.pwr with drainAbandoned := n, drainRunEnded := true } }
  else s)

/-- DRAIN_QUIESCE: step 5, trims not yet written are cut short; a prefix of them may have been written. -/
def execDrainQuiesce (s : State) : Res :=
  .next (if s.pwr.mode = .drain ∧ ¬ s.pwr.drainQuiesced then
    let s := cutTrims s
    { s with pwr := { s.pwr with
      drainQuiesced := true, drainCut := b2n (!s.pwr.trimmed && (List.range 1024).any (fun n => (trimCopy s n).isSome)) } }
  else s)

/-- DRAIN_RESET_ENTRY: step 6, `us` after the trigger. -/
def execDrainResetEntry (us : Nat) (s : State) : Res :=
  .next (if s.pwr.mode = .drain then enterReset 2 { s with pwr := { s.pwr with drainDur := us % 0x10000 } } else s)

end Sys2Proof.Machine
end

