-- ==== Sys2Proof/Machine/Tamper.lean ====
section
/-! DEFINITION. Tamper alarms and their responses, sealing and fuses (chapter 21). -/
namespace Sys2Proof.Machine
open Sys2Proof

/-- Is a source disabled by its fuse (R433)? -/
def fused (s : State) (n : Nat) : Bool := (otpWord s 20).testBit n

/-- The class of a source (R432); a disabled one reads 0. -/
def tamperClass (s : State) (n : Nat) : Nat := if fused s n then 0 else fld s.tmp.classes (2 * n) 2

/-- Is a source armed (R429, R441, R495, Table 21-1)? The fabric clock is watched while its PLL is locked. -/
def tamperArmed (s : State) (n : Nat) : Bool :=
  !fused s n && (match s.pwr.mode with
    | .off => false
    | .watch => n == 4 || n == 5 || (decide (8 ≤ n) && decide (n ≤ 12))
    | .drain => n != 0 && n != 1 && (n != 6 || s.pwr.fabLock) && (n != 7 || s.tmp.armed7)
    | _ => (n != 6 || s.pwr.fabLock) && (n != 7 || s.tmp.armed7))

/-- Do a source's alarms stop the host interface (R436)? -/
def stopsHost (n : Nat) : Bool := n == 0 || n == 1 || n == 6

/-- The mode change of a response, with vector 0 of every port signalled where the mode stays (Table 21-2 step 7). -/
def responseMode (f : State → State) (s : State) : State :=
  let t := f s
  if t.pwr.mode = s.pwr.mode then signalPorts t else t

/-- The response of a class (R432–R436, R441): bit 0 erases, bit 1 locks. -/
def respond (n cls detail : Nat) (s : State) : State :=
  let er := cls % 2 == 1
  let lk : Bool := decide (2 ≤ cls)
  let inWatch := s.pwr.mode == .watch
  let stop : Bool := stopsHost n && cls != 0
  let s := if cls = 0 then s else if stop then abandonAll (fun _ => true) none (cutShort s)
    else abandonAll (fun _ => true) (some (justStatus stsTamper)) (cutShort s)
  let s := if er then if inWatch then eraseBbram s else eraseRead s else s
  let seq := s.bbram.logEpoch * 2 ^ 32 + s.bbram.logCount
  let s := logTamper n cls (b2n inWatch + 2 * b2n er + 4 * b2n lk + 8 * b2n stop) detail s
  let s : State := { s with
    tmp := { s.tmp with tamperOut := s.tmp.tamperOut || cls != 0, hostifStopped := s.tmp.hostifStopped || stop }
    bbram := { s.bbram with lockFlag := s.bbram.lockFlag || lk, lockSeq := if lk then seq else s.bbram.lockSeq } }
  if cls = 0 then s
  else if lk then responseMode (enterLocked stsTamper) s
  else responseMode (enterZeroized stsTamper) s

/-- The alarm of a source: its bit, the TMP vector and the SMBus alert on a new bit, its response. -/
def alarm (n detail : Nat) (s : State) : State :=
  let new := !s.tmp.alarm.testBit n
  let up := fltOpen s.pwr.mode
  let s : State := { s with
    tmp := { s.tmp with alarm := s.tmp.alarm ||| 2 ^ n }, pins := { s.pins with smbAlert := s.pins.smbAlert || (new && up) } }
  let s := if new ∧ up then signal 0 105 s else s
  respond n (tamperClass s n) detail s

/-- TAMPER_ALARM (R428, R430): slow sources also enter DRAIN, after their response. -/
def execTamperAlarm (src : Fin 13) (detail : BitVec 16) (s : State) : Res :=
  .next (if tamperArmed s src then
    let t := alarm src (if src.val ≤ 5 then detail.toNat else 0) s
    if src.val = 2 ∨ src.val = 3 then drainEntry true t else t
  else s)

/-- A write of 1 to TMP_CTRL.seal (R432): logged when it seals. -/
def sealWrite (s : State) : State :=
  if s.tmp.sealed then s else logTamper 0x83 0 0 0 { s with tmp := { s.tmp with sealed := true } }

/-- TMP_SEAL (R432). -/
def execTmpSeal (src : Src) (s : State) : Res :=
  let s := touch src s
  .next (if regOpen src s then sealWrite s else s)

/-- A write to TMP_FUSE_REQ (R433). -/
def fuseWrite (v : Word) (s : State) : State :=
  if (s.lcs.st = .maker ∨ s.lcs.st = .integrator) ∧ ¬ s.tmp.sealed ∧ holdupOk s then
    startBurn 20 (fld v 0 13) { s with tmp := { s.tmp with fuseBusy := true } }
  else { s with tmp := { s.tmp with cfgIgnored := true } }

/-- TMP_FUSE_REQ (R433). -/
def execTmpFuseReq (src : Src) (v : Word) (s : State) : Res :=
  let s := touch src s
  .next (if regOpen src s then fuseWrite v s else s)

end Sys2Proof.Machine
end

