-- ==== Sys2Proof/Machine/Bundle.lean ====
section
/-! DEFINITION. The Clazal boot bundle and the microcode patch: layout, checks, BUNDLE_STAGE and PATCH_INFO (chapters 04,
07 and 19). -/
namespace Sys2Proof.Machine
open Sys2Proof

/-! ### The bundle (Table 19-2) -/

/-- total_len of a bundle. -/
def bTotal (b : Bytes) : Nat := leAt b 20 4
/-- The sequence of a bundle. -/
def bSeq (b : Bytes) : Nat := leAt b 12 4
/-- The security version of a bundle. -/
def bSvn (b : Bytes) : Nat := byteAt b 16
/-- The flags of a bundle. -/
def bFlags (b : Bytes) : Nat := byteAt b 17
/-- Bytes of the signature blocks. -/
def bSigs (b : Bytes) : Nat := 4627 + (if (bFlags b).testBit 0 then 2592 + 4627 else 0)

/-- The rollback minimum (R409): the 1 bits of OTP word 19. -/
def svnMin (s : State) : Nat := ((List.range 64).filter (fun i => (otpWord s 19).testBit i)).length

/-- The header of a candidate, the svn apart (R404). -/
def headerGood (b : Bytes) : Bool :=
  decide (b.take 4 = ascii "UQBB") && leAt b 4 2 == 3 && leAt b 6 2 == 128 && leAt b 8 2 == 0x00B1 &&
    decide (bTotal b + bSigs b ≤ 0x200000)

/-- Is an image a candidate (R404)? -/
def candidate (s : State) (b : Bytes) : Bool := headerGood b && decide (svnMin s ≤ bSvn b)

/-- A section: type, version, offset, length. -/
structure Section where
  ty  : Nat
  ver : Nat
  off : Nat
  len : Nat
deriving DecidableEq, Repr

/-- The sections that a header lists. -/
def sectionsOf (b : Bytes) : List Section :=
  (List.range (min 8 (byteAt b 18))).map (fun i =>
    let o := 32 + 12 * i
    { ty := byteAt b o, ver := leAt b (o + 2) 2, off := leAt b (o + 4) 4, len := leAt b (o + 8) 4 })

/-- The section of a type. -/
def sectionU (b : Bytes) (ty : Nat) : Option Section := (sectionsOf b).find? (fun x => x.ty == ty)
/-- The bytes of the section of a type. -/
def sectionBytes (b : Bytes) (ty : Nat) : Bytes :=
  match sectionU b ty with
  | some x => slice b x.off x.len
  | none => []

/-- Do the sections of a list not overlap? -/
def disjoint : List Section → Bool
  | [] => true
  | x :: xs => xs.all (fun y => decide (x.off + x.len ≤ y.off) || decide (y.off + y.len ≤ x.off)) && disjoint xs

/-- Check 3 of R405. -/
def sectionsGood (b : Bytes) : Bool :=
  let xs := sectionsOf b
  let one (t : Nat) : Bool := (xs.filter (fun x => x.ty == t)).length == 1
  (byteAt b 18 == 2 || byteAt b 18 == 3) && xs.all (fun x => decide (x.off + x.len ≤ bTotal b) && decide (1 ≤ x.ty) && decide (x.ty ≤ 3)) &&
    disjoint xs && one 1 && one 2

/-- Does check 2 of R405 apply? -/
def ownerNeeded (s : State) : Bool := s.lcs.st == .fielded && s.bbram.ownDigest.isSome
/-- The owner public key that a bundle carries. -/
def bundleKey (b : Bytes) : Bytes := slice b (bTotal b + 4627) 2592

/-- Check 2 of R405. -/
def ownerGood (s : State) (b : Bytes) : Bool :=
  match s.bbram.ownDigest with
  | some d => !ownerNeeded s || ((bFlags b).testBit 0 && sha3_256 (bundleKey b) == d &&
      mldsa87Ok (bundleKey b) (b.take (bTotal b + 4627 + 2592)) (slice b (bTotal b + 4627 + 2592) 4627))
  | none => true

/-- The checks of R405 in order: the error code of the first that fails, 0 where all hold. -/
def bundleError (s : State) (b : Bytes) : Nat :=
  if ¬ vendorVerify (b.take (bTotal b)) (slice b (bTotal b) 4627) then 2
  else if ¬ ownerGood s b then 3
  else if ¬ sectionsGood b then 6
  else 0

/-! ### The patch (Table 7-6, R184) -/

/-- Microwords of a patch. -/
def pWords (p : Bytes) : Nat := leAt p 14 2
/-- The end of a patch's payload. -/
def patchEnd (p : Bytes) : Nat := 64 + 32 * pWords p + 4 * byteAt p 16 + 4 * byteAt p 17

/-- Is a condition index reserved (Table 7-3)? -/
def condReserved (c : Nat) : Bool := (decide (20 ≤ c) && decide (c ≤ 31)) || decide (45 ≤ c)

/-- The check of a microword (R171, R173, R184): ecc, reserved bits, conditions, next. -/
def microOk (w : BitVec 256) : Bool :=
  let n := w.toNat
  let sq := bitsOf n 13 3
  Config.eccOk w && bitsOf n 86 3 == 0 && bitsOf n 99 6 == 0 && bitsOf n 175 2 == 0 && bitsOf n 215 32 == 0 &&
    !((sq == 2 || bitsOf n 22 1 == 1) && condReserved (bitsOf n 16 6)) &&
    decide (n % 2 ^ 13 < 0x1200)

/-- Are the numbers of a list all different? -/
def allDiff : List Nat → Bool
  | [] => true
  | x :: xs => !xs.contains x && allDiff xs

/-- The patch that an image gives, where R184 accepts it; `ok` is the owner key of the bundle. -/
def openPatch (s : State) (ok p : Bytes) : Option Patch :=
  let n := pWords p
  let r := byteAt p 16
  let m := byteAt p 17
  let e := patchEnd p
  let owner := (byteAt p 18).testBit 0
  let head := decide (p.take 4 = ascii "UQPM") && leAt p 4 2 == 2 && leAt p 6 2 == 64 && leAt p 8 2 == 0x00B1 &&
    leAt p 10 2 == 0x0B01 && decide (1 ≤ leAt p 12 2) && decide (1 ≤ n) && decide (n ≤ 512) && decide (r ≤ 128) && decide (m ≤ 16)
  let signed := vendorVerify (p.take e) (slice p e 4627) &&
    (!ownerNeeded s || (owner && mldsa87Ok ok (p.take (e + 4627)) (slice p (e + 4627) 4627)))
  if ¬ (head ∧ signed) then none
  else
    let key := (List.range 4).flatMap (fun i => leBytes 8 (otpWord s (15 + i)))
    match gcmDec key (slice p 20 12) (p.take 20) (slice p 64 (e - 64)) (slice p 32 16) with
    | none => none
    | some b =>
      let ws := (List.range n).map (fun i => BitVec.ofNat 256 (leAt b (32 * i) 32))
      let rs := (List.range r).map (fun i => (byteAt b (32 * n + 4 * i), leAt b (32 * n + 4 * i + 2) 2))
      let ms := (List.range m).map (fun i => (leAt b (32 * n + 4 * r + 4 * i) 2, leAt b (32 * n + 4 * r + 4 * i + 2) 2))
      if ws.all microOk ∧ rs.all (fun x => decide (x.1 ≤ 127) && decide (x.2 ≤ 511)) ∧
          ms.all (fun x => decide (x.1 ≤ 0x0FFF) && decide (x.2 ≤ 511)) ∧ allDiff (rs.map (·.1)) ∧ allDiff (ms.map (·.1)) then
        some { version := leAt p 12 2, loaded := true, ownerSigned := owner, format := leAt p 4 2, words := ws,
               redirects := rs, rmatches := ms, image := p, digest := sha3_256 p }
      else none

/-! ### The commands (R112, R113, R410) -/

/-- The slot that a staging writes (R410): not the booted one; after a host-supplied boot one that holds no candidate,
else B. -/
def stageSlot (s : State) : Nat :=
  match s.glb.image with
  | 0 => 1
  | 1 => 0
  | _ => if candidate s s.glb.flashA then 1 else if candidate s s.glb.flashB then 0 else 1

/-- A bundle with its sequence replaced. -/
def withSeq (b : Bytes) (q : Nat) : Bytes := overlay b 12 (leBytes 4 q)

/-- BUNDLE_STAGE (R112, R410, Table 4-12). A slot that does not read back as written ends it with STS_FAULT and holds no
candidate. -/
def execBundleStage (cmd : Nat) (s : State) : Res :=
  .next (withAdm cmd 0x0F30 s (fun c => withIn c s (fun b s =>
    if ¬ candidate s b ∨ bundleError s b ≠ 0 then endWith c stsVerifyFail s
    else
      let k := stageSlot s
      let q := (s.glb.topSeq + 1) % 2 ^ 32
      let im := withSeq b q
      let s : State := putSlot k im { s with glb := { s.glb with staging := some (c.id, k) } }
      if s.glb.badSlots.contains k then endWith c stsFault (putSlot k (erasedSlot im) s)
      else endOut c (leBytes 1 k ++ leBytes 1 (bFlags b % 4) ++ leBytes 2 (leAt b 10 2) ++ leBytes 4 q ++ leBytes 1 (bSvn b) ++ [0] ++
        leBytes 2 (leAt b 4 2) ++ leBytes 4 (bTotal b)) s)))

/-- The 64 bytes of PATCH_INFO (Table 4-11). -/
def patchInfo (s : State) : Bytes :=
  let p := s.hub.patch
  fit 64 (leBytes 2 p.version ++ leBytes 1 (b2n p.loaded + 2 * b2n p.ownerSigned + 4 * b2n s.glb.patchRejected) ++ [0] ++
    leBytes 2 p.format ++ leBytes 2 0x0B01 ++ leBytes 1 p.redirects.length ++ leBytes 1 p.rmatches.length ++
    leBytes 2 p.words.length ++ leBytes 4 s.glb.bootSeq ++ leBytes 2 s.glb.version ++ leBytes 1 s.glb.svn ++
    leBytes 1 (svnMin s) ++ leBytes 2 s.glb.sec1 ++ leBytes 2 s.glb.sec2 ++ fit 32 p.digest)

/-- PATCH_INFO (R113). -/
def execPatchInfo (cmd : Nat) (s : State) : Res :=
  .next (withAdm cmd 0x0F31 s (fun c => endOut c (patchInfo s) s))

end Sys2Proof.Machine
end

