-- ==== Sys2Proof/Machine/Boot.lean ====
section
/-! DEFINITION. BOOT: sensing, recovery, image choice, loading, self-tests, its end (chapters 08, 11 and 19). -/
namespace Sys2Proof.Machine
open Sys2Proof

/-- A fatal stop of BOOT (R209, R401, R403): FAULT_N, phase 8. -/
def bootFatal (code : Nat) (s : State) : State :=
  { s with
    glb := { s.glb with phase := 8, error := if code = 0 then s.glb.error else code, katFatal := true, katRunning := false }
    pins := { s.pins with fatal := true } }

/-- The OTP words 11–14: the Maker root. -/
def makerRoot (s : State) : Bytes := (List.range 4).flatMap (fun i => leBytes 8 (otpWord s (11 + i)))

/-- The root of the life-cycle state (Table 11-1). -/
def rootOf (s : State) : Option Bytes :=
  match s.lcs.st with
  | .maker => some (makerRoot s)
  | .integrator => s.bbram.intSeed.map (kdf (otpSecret s))
  | .fielded => s.bbram.ownSeed.map (kdf (otpSecret s))
  | .returned => s.bbram.retRoot
  | .scrapped => none

/-- A staged record at OTP sensing (R415). -/
def settleRecord (s : State) : State :=
  if s.bbram.trans.valid ∧ s.bbram.trans.target = lcNum s.lcs.st ∧ s.lcs.st ≠ .scrapped then applyRecord s
  else { s with bbram := { s.bbram with trans := {} } }

/-- OTP_SENSE_DONE (R400 step 3, R412, R415, R246). -/
def execOtpSenseDone (s : State) : Res :=
  .next (if s.pwr.mode = .boot ∧ ¬ s.lcs.sensed then
    let d := decodeLc s
    let s := settleRecord { s with lcs := { s.lcs with st := d.1, invalid := d.2, sensed := true } }
    { s with
      lcs := { s.lcs with oblit := d.1 == .scrapped && !(scrapWords s).isEmpty }
      kvt := { s.kvt with root := rootOf s, rootState := lcNum s.lcs.st, bbramLost := s.tmp.bbramLost }
      glb := { s.glb with phase := 1 } }
  else s)

/-- JOURNAL_RECOVERY (R261). -/
def execJournalRecovery (s : State) : Res :=
  .next (if s.pwr.mode = .boot ∧ s.lcs.sensed ∧ ¬ s.kvt.recovered ∧ s.lcs.st ≠ .scrapped then
    let top := journalTop s
    let s := (List.range 256).foldl recoverSlot s
    { s with kvt := { s.kvt with recovered := true, jseq := top } }
  else s)

/-- VERIFIER_TEST_END (R401). -/
def execVerifierTestEnd (pass : Bool) (s : State) : Res :=
  .next (if s.pwr.mode = .boot ∧ s.lcs.sensed ∧ s.lcs.st ≠ .scrapped ∧ ¬ s.glb.verifierDone ∧ ¬ s.glb.katFatal then
    if pass then { s with glb := { s.glb with verifierDone := true, phase := 2 } } else bootFatal 8 s
  else s)

/-! ### The image (R403–R405, R408) -/

/-- The contents of a flash slot. -/
def slotImage (s : State) (k : Nat) : Bytes := if k = 0 then s.glb.flashA else s.glb.flashB

/-- The candidates of the flash in the order they are tried (R404). -/
def flashOrder (s : State) : List Nat :=
  let a := candidate s s.glb.flashA
  let b := candidate s s.glb.flashB
  if a ∧ b then if bSeq s.glb.flashA < bSeq s.glb.flashB then [1, 0] else [0, 1]
  else if a then [0] else if b then [1] else []

/-- No image is left: image 3, FAULT_N, and the wait for a host-supplied bundle (R404, R408). -/
def awaitHost (code : Nat) (s : State) : State :=
  { s with glb := { s.glb with image := 3, error := code, phase := 7, cand := [], bundle := [] }, pins := { s.pins with fatal := true } }

/-- Read the next candidate. -/
def readImage (k : Nat) (s : State) : State :=
  { s with glb := { s.glb with image := k, bundle := slotImage s k, phase := 2 } }

/-- BOOT_IMAGE_SELECT (R403, R404). -/
def execBootImageSelect (s : State) : Res :=
  .next (if s.pwr.mode = .boot ∧ s.glb.verifierDone ∧ s.glb.phase = 2 ∧ s.glb.cand = [] ∧ s.glb.bundle = [] then
    match s.pins.bootSrc with
    | 3 => bootFatal 5 s
    | 2 => { s with glb := { s.glb with phase := 7 } }
    | _ =>
      let top := (flashOrder s).foldl (fun m k => max m (bSeq (slotImage s k))) 0
      let s : State := { s with glb := { s.glb with topSeq := top } }
      match flashOrder s with
      | [] => awaitHost (if headerGood s.glb.flashA ∨ headerGood s.glb.flashB then 4 else 1) s
      | k :: r => readImage k { s with glb := { s.glb with cand := k :: r } }
  else s)

/-- A bundle that passed: what GLB reports of it; FAULT_N is released. -/
def bundlePass (b : Bytes) (s : State) : State :=
  let ver (t : Nat) := ((sectionU b t).map (·.ver)).getD 0
  { s with
    glb := { s.glb with
      phase := 4, bootSeq := bSeq b, svn := bSvn b % 128, version := leAt b 10 2, sec1 := ver 1, sec2 := ver 2
      ownerRequired := ownerNeeded s }
    pins := { s.pins with fatal := false } }

/-- BUNDLE_VERIFY (R405): the checks, the fallback to the second candidate, the wait for the host. -/
def execBundleVerify (s : State) : Res :=
  .next (if s.pwr.mode = .boot ∧ (s.glb.phase = 2 ∨ s.glb.phase = 3) ∧ s.glb.cand ≠ [] then
    let b := s.glb.bundle
    let e := bundleError s b
    let s : State := { s with glb := { s.glb with ownerRequired := ownerNeeded s } }
    if e = 0 then bundlePass b s
    else match s.glb.cand with
      | _ :: k :: r => readImage k { s with glb := { s.glb with error := e, fallback := true, cand := k :: r } }
      | _ => if s.glb.phase = 3 then { s with glb := { s.glb with image := 3, error := e, phase := 7, cand := [], bundle := [] } }
        else awaitHost e s
  else s)

/-- The failure of a host-supplied bundle before its checks: back to phase 7. -/
def hostFail (code : Nat) (s : State) : State := { s with glb := { s.glb with error := code, phase := 7 } }

/-- A write of GLB_BOOT_CTRL.go (R408). -/
def hostGo (s : State) : State :=
  if s.pwr.mode ≠ .boot ∨ s.glb.phase ≠ 7 then { s with glb := { s.glb with cfgIgnored := true } }
  else if s.host.noMaster.contains 0 then hostFail 9 s
  else match dmaRead 0 s.glb.bootAddr.toNat s.glb.bootLen s with
    | none => hostFail 7 (aerReport 0 s)
    | some (b, s) =>
      if ¬ headerGood b then hostFail 5 s
      else if ¬ candidate s b then hostFail 4 s
      else { s with glb := { s.glb with image := 2, bundle := b, phase := 3, cand := [2] } }

/-- HOST_BOOT_GO (R408). -/
def execHostBootGo (src : Src) (s : State) : Res :=
  let s := touch src s
  .next (if glbOpen src s ∧ ¬ s.glb.katFatal then hostGo s else s)

/-! ### Loading and self-tests (R406, R207–R209) -/

/-- A list as a table from key 0 on, without the entries equal to `d`. -/
def listTbl {α : Type} [DecidableEq α] (d : α) (xs : List α) : Tbl α :=
  (List.zip (List.range xs.length) xs).filter (fun p => decide (p.2 ≠ d))

/-- The vendor region of program memory: the section's words, then NOPs (R406, Table 13-2). -/
def vendorWords (b : Bytes) : List (BitVec 14) :=
  let n := min 0x3000 (b.length / 2)
  (List.range n).map (fun i => BitVec.ofNat 14 (leAt b (2 * i) 2)) ++ List.replicate (0x3000 - n) 0x3E80

/-- BUNDLE_LOAD (R406): programs, kernels and the patch; the self-tests start. -/
def execBundleLoad (s : State) : Res :=
  .next (if s.pwr.mode = .boot ∧ s.glb.phase = 4 then
    let b := s.glb.bundle
    let image := listTbl 0 (vendorWords (sectionBytes b 1))
    let pb := sectionBytes b 3
    let p := openPatch s (bundleKey b) pb
    { s with
      seq := { s.seq with image := image, core := (List.range 16).foldl (fun m n =>
        Tbl.set {} m n { coreU s n with prog := image }) s.seq.core }
      hub := { s.hub with kmem := listTbl 0 ((sectionBytes b 2).take 0xC000), patch := p.getD {} }
      glb := { s.glb with
        phase := 5, bundle := [], patchRejected := (sectionU b 3).isSome && p.isNone, katRunning := true, katDone := false
        katBits := 0, katFailed := 0, fullSet := none, header := b.take 128 } }
  else s)

/-- SELF_TEST_UNIT_RESULT (R208 step 2): a failure is fatal. -/
def execSelfTestUnitResult (digestOk aesOk : Bool) (s : State) : Res :=
  .next (if s.pwr.mode = .boot ∧ s.glb.katRunning ∧ s.glb.katBits = 0 then
    let t : State := { s with glb := { s.glb with katBits := b2n digestOk * 0x400 + b2n aesOk * 0x800 } }
    if digestOk ∧ aesOk then t else bootFatal 0 t
  else s)

/-- SELF_TEST_ENGINE_RESULT (R208 step 4): once, after the unit tests. Engines that failed are withdrawn and the eight
lowest that passed are the full-set engines; none left is fatal. -/
def execSelfTestEngineResult (pass : BitVec 64) (s : State) : Res :=
  .next (if s.pwr.mode = .boot ∧ s.glb.katRunning ∧ s.glb.katBits = 0xC00 ∧ s.glb.fullSet.isNone then
    let bad := (List.range 64).filter (fun n => !pass.getLsbD n)
    let good := (List.range 64).filter pass.getLsbD
    let t := bad.foldl (fun s n => updEng n (fun e => { e with failedTest := true }) s) s
    let t : State := { t with glb := { t.glb with katFailed := bad.length, fullSet := some (good.take 8) } }
    if bad.length = 64 then bootFatal 0 t else t
  else s)

/-- SELF_TEST_END (R208 step 5, R209): the full set ends on the full-set engines. -/
def execSelfTestEnd (suites : BitVec 10) (s : State) : Res :=
  .next (if s.pwr.mode = .boot ∧ s.glb.katRunning ∧ s.glb.katBits = 0xC00 ∧ s.glb.fullSet.isSome then
    { s with glb := { s.glb with katBits := 0xC00 + suites.toNat, katRunning := false, katDone := true } }
  else s)

/-! ### The end of BOOT (R409, R400 steps 16 and 17) -/

/-- The word with its lowest blank bits burned until it holds `n` bits. -/
def raiseOnes (n : Nat) : Nat → Nat → Nat
  | 0, w => w
  | fuel + 1, w =>
    if n ≤ ((List.range 64).filter (fun i => w.testBit i)).length then w
    else match (List.range 64).find? (fun i => !w.testBit i) with
      | some i => raiseOnes n fuel (w ||| 2 ^ i)
      | none => w

/-- ROLLBACK_BURN (R409). -/
def execRollbackBurn (s : State) : Res :=
  .next (if s.pwr.mode = .boot ∧ s.glb.katDone ∧ s.glb.phase = 5 ∧ (bFlags s.glb.header).testBit 1 ∧
      svnMin s < s.glb.svn ∧ s.lcs.burning = none then
    if holdupOk s then startBurn 19 (raiseOnes s.glb.svn 64 (otpWord s 19)) s
    else { s with glb := { s.glb with svnDeferred := true } }
  else s)

/-- Is the rollback burn of step 16 still to come (R409)? -/
def burnDue (s : State) : Bool :=
  (bFlags s.glb.header).testBit 1 && decide (svnMin s < s.glb.svn) && !s.glb.svnDeferred

/-- The tamper log's epoch after BBRAM loss (R442): non-zero, with the count at 1. -/
def logEpochDraw (s : State) : State :=
  if s.bbram.logEpoch ≠ 0 ∨ s.lcs.st = .scrapped then s
  else
    let r := freeNumber (2 ^ 32 - 1) s
    { r.2 with bbram := { r.2.bbram with logEpoch := r.1 + 1, logCount := 1 } }

/-- What the vault and the memory hold from the end of BOOT on: the Pannier key (R255), the manager's quota (R322),
the domain of instance 0 (R247). -/
def openVault (s : State) : State :=
  if s.kvt.root.isNone then s
  else
    let r := freeBytes 32 s
    openDomain 0 { r.2 with kvt := { r.2.kvt with pannierKey := r.1 } }

/-- The entry into DISCOVER (R348, R350, Table 18-3): a standalone device passes to SERVICE at once; a master or a member
trains its links; a device with the fourth strap value stops there. -/
def enterDiscover (s : State) : State :=
  let s := setMode .discover s
  if s.pins.cascRole = 0 then setMode .service s
  else if s.pins.cascRole = 3 then
    { s with tlk := { s.tlk with roleConflict := true }, pwr := { s.pwr with links := 0xFF } }
  else
    (List.range 8).foldl (fun s k => setLink k { linkU s k with st := .training } s) { s with
      pwr := { s.pwr with links := 0xFF } }

/-- BOOT_END (R400 step 17, Table 18-3): the timestamp starts; DISCOVER, LOCKED or ZEROIZED. A Scrapped device gets
here once its PCIe link is up (R420). -/
def execBootEnd (s : State) : Res :=
  .next (if s.pwr.mode = .boot ∧ ((s.glb.katDone ∧ s.glb.phase = 5 ∧ s.kvt.recovered ∧ s.lcs.burning = none ∧ ¬ burnDue s) ∨
      (s.lcs.sensed ∧ s.lcs.st = .scrapped ∧ s.hif.reach)) then
    let s := openVault (logEpochDraw (if s.lcs.st = .scrapped then s else reserveMib 0 s.mem.mgrQuota s))
    let s : State := { s with
      hif := { s.hif with ts := 0, counting := true }, glb := { s.glb with phase := 6 } }
    if s.bbram.lockFlag then enterLocked stsTamper s
    else if s.kvt.root.isNone then enterZeroized stsTamper s
    else enterDiscover s
  else s)

end Sys2Proof.Machine
end

