-- ==== Sys2Proof/Machine/Ext.lean ====
section
/-! DEFINITION. Owner extensions: EXT_LOAD, EXT_UNLOAD, extension commands and their service calls (chapters 04 and
13). -/
namespace Sys2Proof.Machine
open Sys2Proof

/-! ### Loading (R114, R120, R286, R305) -/

/-- The declaration of an extension bundle, bound to a list of instances. -/
def declOf (b : Bytes) (insts : List Nat) : ExtDecl :=
  let f (k : Nat) := (Config.extFields b).getD k 0
  { entry := f 0, first := f 1, last := f 2, kernel := if f 4 = 0 then none else some (f 3, f 4), hub := f 5 != 0, dge := f 6 != 0
    cvu := f 7 != 0, limitUs := f 8, insts := insts, code := Config.extCode b, codeAt := f 9 }

/-- Is a declaration within the ranges of chapter 13 and R119? -/
def declGood (d : ExtDecl) : Bool :=
  decide (0x3000 ≤ d.entry) && decide (d.entry ≤ 0x3FFF) && decide (0x8000 ≤ d.first) && decide (d.first ≤ d.last) &&
    decide (d.last ≤ 0xFFFF) && decide (1 ≤ d.limitUs) && decide (d.limitUs ≤ 10000) && decide (0x3000 ≤ d.codeAt) &&
    decide (d.codeAt + d.code.length ≤ 0x4000) &&
    (match d.kernel with
      | some (a, n) => decide (0xC000 ≤ a) && decide (a + n ≤ 0x10000)
      | none => true)

/-- Does a range of opcodes overlap a loaded program's? -/
def overlapsExt (s : State) (d : ExtDecl) : Bool := s.seq.exts.any (fun e => decide (d.first ≤ e.last) && decide (e.first ≤ d.last))

/-- Load a program: its code into the owner region of the image, its kernel into the owner region of kernel memory. -/
def addExt (d : ExtDecl) (kern : Bytes) (s : State) : State :=
  { s with
    seq := { s.seq with exts := s.seq.exts ++ [d], image := Tbl.setList 0 s.seq.image d.codeAt d.code }
    hub := match d.kernel with
      | some (a, n) => { s.hub with kmem := Tbl.setList 0 s.hub.kmem a (fit n kern) }
      | none => s.hub }

/-- EXT_LOAD (R114): bytes 41 onward are a count and the instance numbers. -/
def execExtLoad (cmd : Nat) (s : State) : Res :=
  .next (withAdm cmd 0x0F40 s (fun c => withIn c s (fun b s =>
    let insts := (slice c.pkt 42 (byteAt c.pkt 41)).map (·.toNat)
    let d := declOf b insts
    if ¬ Config.extVerify (s.bbram.ownDigest.getD []) b then endWith c stsVerifyFail s
    else if ¬ declGood d ∨ overlapsExt s d then endWith c stsBadParameter s
    else endWith c stsOk (addExt d (Config.extKernel b) s))))

/-- EXT_UNLOAD (R114, R120): a command dispatched from now on sees the images without the programs; a program stays bound
until its last running command has ended. -/
def execExtUnload (cmd : Nat) (s : State) : Res :=
  .next (withAdm cmd 0x0F41 s (fun c =>
    let s := s.seq.exts.foldl (fun s e => eraseExt e s) s
    endWith c stsOk (dropExts { s with seq := { s.seq with exts := s.seq.exts.map (fun e => { e with unloading := true }) } })))

/-- EXTENSION_COMMAND (R305): the command's core enters its program. -/
def execExtensionCommand (cmd : Nat) (s : State) : Res :=
  .next (match running s cmd (fun o => match o with | .ext _ => true | _ => false) with
  | none => s
  | some c =>
    match c.core, extRunning s (pOp c.pkt) (cmdInst c) with
    | some n, some d => if (coreU s n).st = .vendor then enterExt n c d s else s
    | _, _ => s)

/-! ### Service calls (R307, Table 13-9) -/

/-- Is a range in extension data memory? -/
def inExt (a n : Nat) : Bool := decide (0x6000 ≤ a) && decide (a + n ≤ 0x8000)
/-- Is a range in the mailbox? -/
def inMbox (a n : Nat) : Bool := decide (0x10000 ≤ a) && decide (a + n ≤ 0x10040)
/-- Bytes of a core's memory that a call reads. -/
def coreBytes (k : Core) (a n : Nat) : Bytes :=
  if inMbox a n then slice k.mbox (a - 0x10000) n else Tbl.getList 0 k.dmem a n
/-- Put bytes into a core's data memory. -/
def putCore (n a : Nat) (b : Bytes) (s : State) : State := updCore n (fun k => { k with dmem := Tbl.setList 0 k.dmem a b }) s

/-- D register `i` of a core as a number. -/
def dNum (k : Core) (i : Nat) : Nat := (getD k i).toNat
/-- A register `i` of a core as a number. -/
def aNum (k : Core) (i : Nat) : Nat := (getA k i).toNat

/-- A call by core `n`, in extension mode, whose program word is its TRAP: go on with the core and its command. -/
def svcWith (call n : Nat) (s : State) (f : Core → Cmd → State) : State :=
  let k := coreU s n
  if coreRuns s n ∧ k.extMode ∧ sFetch k (.ctl (0x20 + call) 0) = .this then match k.cmd.bind (cmdU s) with
    | some c => f k c
    | none => s
  else s

/-- The end of a call: the status in D0 and the next instruction. -/
def svcEnd (n st : Nat) (s : State) : State :=
  let k := coreU s n
  takePending n (cadEvent .seq n 2 1 false k.inst (setCore n (adv 1 (setD k 0 (BitVec.ofNat 32 st))) s))

/-- A range that extension mode may not access is a privilege trap (R306). -/
def svcBad (n : Nat) (s : State) : State := sTrap n 3 (coreU s n) s

/-- SVC_IN: input bytes into extension data memory. -/
def execSvcIn (c : Fin 16) (s : State) : Res :=
  .next (svcWith 0 c s (fun k d =>
    let off := dNum k 1
    let len := dNum k 2
    if ¬ inExt (aNum k 1) len then svcBad c s
    else if pInL d.pkt < off + len then svcEnd c stsBadLength s
    else match readAt d (pInA d.pkt + off) len s with
      | some (b, s) => svcEnd c stsOk (putCore c (aNum k 1) b s)
      | none => svcEnd c stsDmaError (aerReport d.port s)))

/-- SVC_OUT: output bytes. -/
def execSvcOut (c : Fin 16) (s : State) : Res :=
  .next (svcWith 1 c s (fun k d =>
    let off := dNum k 1
    let len := dNum k 2
    if ¬ (inExt (aNum k 1) len ∨ inMbox (aNum k 1) len) then svcBad c s
    else if pMax d.pkt < off + len then svcEnd c stsBadLength s
    else match dmaWrite d.port (pOutA d.pkt + off) (coreBytes k (aNum k 1) len) s with
      | some s => svcEnd c stsOk s
      | none => svcEnd c stsDmaError (spill d.port (pOutA d.pkt + off) len (aerReport d.port s))))

/-- Is a kernel word in the owner kernel region that the command's program declares? -/
def kernelWord (s : State) (d : Cmd) (w : Nat) : Bool :=
  match (extRunning s (pOp d.pkt) (cmdInst d)).bind (·.kernel) with
  | some (a, n) => decide (a ≤ 4 * w) && decide (4 * w < a + n)
  | none => false

/-- The engine at the entry of an owner kernel (R147, R307). -/
def ownerEntry (w len max op : Nat) (e : Engine) : Engine :=
  { e with
    pc := w, owner := true, inLen := len, maxOut := max, ended := none, kexc := {}
    x := [(13, BitVec.ofNat 64 len), (14, BitVec.ofNat 64 max), (15, BitVec.ofNat 64 op)].filter (fun p => p.2 != 0) }

/-- SVC_KERNEL: the owner kernel starts, and the core waits for its end; a word outside the region, or no declared
engine, gives STS_FAULT. -/
def execSvcKernel (c : Fin 16) (s : State) : Res :=
  .next (svcWith 2 c s (fun k d =>
    let off := dNum k 2
    match k.hub with
    | some n =>
      if ¬ kernelWord s d (dNum k 1) then svcEnd c stsFault s
      else
        let s := updEng n (ownerEntry (dNum k 1) (pInL d.pkt) (pMax d.pkt - off) (pOp d.pkt)) s
        setCore c (adv 1 { k with svc := some off }) s
    | none => svcEnd c stsFault s))

/-- SVC_DIGEST: one message through the declared engine. -/
def execSvcDigest (c : Fin 16) (s : State) : Res :=
  .next (svcWith 3 c s (fun k _ =>
    let alg := dNum k 1 % 16
    let len := dNum k 2
    let out := dNum k 3
    if ¬ (inExt (aNum k 1) len ∨ inMbox (aNum k 1) len) ∨ ¬ inExt (aNum k 2) out then svcBad c s
    else match k.dge with
      | none => svcEnd c stsFault s
      | some u =>
        let d : Dge := { dgeU s u with
          alg := alg, keyed := false, compare := false, source := false
          outlen := if alg ≤ 6 ∧ out = digestLen alg then 0 else out }
        if ¬ dgeCfgOk d then svcEnd c stsBadParameter s
        else
          let f (s : State) : State :=
            let d := dgeArm len d
            let d := dgeFinish (if len = 0 then d else dgeAppend (coreBytes k (aNum k 1) len) d)
            svcEnd c stsOk (putCore c (aNum k 2) d.result (digestEvents alg len (setDge u d s)))
          if len < 4096 then f s
          else offloadRun u false alg (digestJobs alg len out) len s f))

/-- SVC_RANDOM: bytes of a DRBG. -/
def execSvcRandom (c : Fin 16) (s : State) : Res :=
  .next (svcWith 4 c s (fun k d =>
    let len := dNum k 2
    if ¬ inExt (aNum k 1) len then svcBad c s
    else if len = 0 ∨ 4096 < len then svcEnd c stsBadLength s
    else match draw d.id len s with
      | some (b, s) => svcEnd c stsOk (putCore c (aNum k 1) b s)
      | none => svcEnd c stsEntropy s))

/-- SVC_CV: a check value over core memory. -/
def execSvcCv (c : Fin 16) (s : State) : Res :=
  .next (svcWith 5 c s (fun k _ =>
    let alg := dNum k 1
    let len := dNum k 2
    if ¬ (inExt (aNum k 1) len ∨ inMbox (aNum k 1) len) then svcBad c s
    else match k.cvu with
      | none => svcEnd c stsFault s
      | some u =>
        if 4 < alg then svcEnd c stsBadParameter s
        else
          let b := coreBytes k (aNum k 1) len
          let d := cvuEnd b { cvuU s u with
            alg := alg, source := 2, guard := 0, cont := false, addr := BitVec.ofNat 64 (aNum k 1), len := len
            run := BitVec.ofNat 64 (cvInit alg) }
          let s := bytesEvent .cvu 0x10 len (setCvu u d s)
          let s := updCore c (fun k => setD (setD k 1 (lo32 d.result)) 2 (hi32 d.result)) s
          svcEnd c stsOk s))

end Sys2Proof.Machine
end

