-- ==== Sys2Proof/Machine/Tandem.lean ====
section
/-! DEFINITION. The Tandem block: frames received, the forming of a cascade, work for other members, losses
(chapter 16). What a payload holds inside is the model's own (log 70), the spec's Table 16-1 apart. -/
namespace Sys2Proof.Machine
open Sys2Proof

/-! ### Frames -/

/-- Source position of a frame. -/
def fSrc (f : Bytes) : Nat := byteAt f 1 % 8
/-- Destination position of a frame. -/
def fDst (f : Bytes) : Nat := byteAt f 1 / 8 % 8
/-- Is a frame a broadcast? -/
def fCast (f : Bytes) : Bool := (byteAt f 1).testBit 6
/-- Sequence number of a frame. -/
def fSeq (f : Bytes) : Nat := leAt f 4 8

/-- The number the other end gives link `k`: TL0 meets TL1 (R349); a chord has one number (log 71). -/
def peerLink (k : Nat) : Nat := if k = 0 then 1 else if k = 1 then 0 else k

/-- The ring link onward from `k`. -/
def otherRing (k : Nat) : Nat := if k = 0 then 1 else 0

/-- Does the check value of a received frame hold (R352)? -/
def checkOk (s : State) (k : Nat) (f : Bytes) : Bool :=
  leAt f 252 4 == frameCheck (f.take 252)
    (linkGuard s.tlk.guard (peerLink k) (fSrc f) (fDst f) (byteAt f 3 % 16) (fSeq f))

/-- Do the links act in the mode (Table 18-7)? -/
def linksAct (m : Mode) : Bool :=
  match m with
  | .discover | .freewheel | .service | .surge | .drain => true
  | _ => false

/-- Does link `k` carry frames now? -/
def carries (s : State) (k : Nat) : Bool := linksAct s.pwr.mode && linkUp s k

/-- A frame for every link that carries one but `k`. -/
def flood (k ty : Nat) (p : Bytes) (s : State) : State :=
  ((List.range 8).filter (fun j => j != k && carries s j)).foldl (fun s j => sendFrame j ty 8 p s) s

/-! ### Routes and reports -/

/-- What a route change asks for (R367): an unacknowledged REQ, RSP or KEYSHARE goes out again. -/
def rerouted (s0 s : State) : State :=
  let moved (p : Nat) : Bool := (routeTo s p).isSome && routeTo s0 p != routeTo s p
  let s1 := s.tlk.origins.foldl (fun s t =>
    if ¬ t.acked ∧ moved t.peer then sendTo t.peer 0x20 t.id t.pkt s else s) s
  s.tlk.guests.foldl (fun s t => match t.rsp with
    | some m => if moved t.peer then sendTo t.peer (if byteAt t.pkt 0 = 0 then 0x22 else 0x21) t.id m s else s
    | none => s) s1

/-- The neighbours of this device over links that routes may use. -/
def ownMask (s : State) : Nat :=
  (List.range 8).foldl (fun m k => if routable s k then m ||| 2 ^ (linkU s k).peer else m) 0

/-- Tell every member the neighbours this device has (R358): position, mask, number of the notice. -/
def advertise (s : State) : State :=
  let p := s.tlk.position
  let n := Tbl.get 0 s.tlk.adjSeq p + 1
  let s : State := { s with tlk := { s.tlk with
    adj := Tbl.set 0 s.tlk.adj p (ownMask s), adjSeq := Tbl.set 0 s.tlk.adjSeq p n } }
  flood 8 0x03 ([BitVec.ofNat 8 p, BitVec.ofNat 8 (ownMask s)] ++ leBytes 4 n) s

/-- The devices of the ASSIGN in force. -/
def assigned (s : State) : Nat := byteAt s.tlk.assign 0

/-- The positions along the ring in the direction of TL0 (R357): the second token's in falling order, then the master
and the first token's. -/
def ringOrder (n m : Nat) : List Nat :=
  ((List.range n).filter (fun p => decide (m < p))).reverse ++ (List.range n).filter (fun p => decide (p ≤ m))

/-- The pairs of ring neighbours, each with the next on its TL0. -/
def ringPairs (n m : Nat) (closed : Bool) : List (Nat × Nat) :=
  let o := ringOrder n m
  let r := o.zip (o.drop 1)
  match closed, o.head?, o.getLast? with
  | true, some a, some z => r ++ [(z, a)]
  | _, _, _ => r

/-- Has a link end (8 × position + link) reported, and what? -/
def reportOf (s : State) (x : Nat) : Option Bool := (s.tlk.reports.find? (fun r => r.1 == x)).map (·.2)

/-- Is a device gone from the formation: every ring link to it has failed at its neighbour? -/
def goneFrom (s : State) (p : Nat) : Bool :=
  let a := s.tlk.assign
  let prs := ringPairs (byteAt a 0) (byteAt a 3) (byteAt a 4 == 1)
  let ends := (prs.filter (fun x => x.2 == p)).map (fun x => 8 * x.1) ++
    (prs.filter (fun x => x.1 == p)).map (fun x => 8 * x.2 + 1)
  !ends.isEmpty && ends.all (fun x => reportOf s x == some false)

/-- The link ends that the token listed as trained. -/
def listedEnds (s : State) : List Nat :=
  (List.range (8 * assigned s)).filter (fun x => byteAt s.tlk.gathered (26 * (x / 8) + 18 + x % 8) == 2)

/-- The bits set in a mask of positions. -/
def countMask (m : Nat) : Nat := ((List.range 8).filter (fun i => m.testBit i)).length

/-- The cascade has formed, with GO received or sent: position p starts 200 µs × p later (R360). -/
def takeGo (mask : Nat) (s : State) : State :=
  { s with tlk := { s.tlk with
    formed := true, present := mask, devices := countMask mask, startAt := some (s.now + 20000 * s.tlk.position) } }

/-- The master sends GO when every listed link has passed or failed attestation (R360). -/
def tryGo (s : State) : State :=
  if s.pins.cascRole = 1 ∧ assigned s ≠ 0 ∧ ¬ s.tlk.formed ∧
      (listedEnds s).all (fun x => (reportOf s x).isSome || goneFrom s (x / 8)) then
    let up (p : Nat) : Bool := (List.range 8).any (fun k => reportOf s (8 * p + k) == some true)
    if ¬ up 0 then { s with tlk := { s.tlk with excluded := true } }
    else
      let mask := (List.range (assigned s)).foldl (fun m p => if up p && !goneFrom s p then m ||| 2 ^ p else m) 0
      let s := flood 8 0x14 ([BitVec.ofNat 8 mask] ++ (List.range 8).flatMap (fun p => leBytes 4 (200 * p))) s
      takeGo mask s
  else s

/-- A report that has not come before is kept and passed on; the master may then send GO. -/
def addReport (k x : Nat) (ok : Bool) (s : State) : State :=
  if s.tlk.formed ∨ reportOf s x = some ok then s
  else
    let s : State := { s with tlk := { s.tlk with reports := (x, ok) :: s.tlk.reports.filter (fun r => r.1 != x) } }
    tryGo (flood k 0x01 [0x12, BitVec.ofNat 8 x, BitVec.ofNat 8 (b2n ok)] s)

/-- A device none of whose links passes attestation is left out (R360). -/
def noteExcluded (s : State) : State :=
  if s.tlk.formed = false ∧ assigned s ≠ 0 ∧ (List.range 8).all (fun k => !linkUp s k) then
    { s with tlk := { s.tlk with excluded := true } }
  else s

/-- Link `k` goes down or out of use; routes follow (R354, R358, R359). -/
def dropLink (k : Nat) (st : LinkState) (auth : Bool) (s : State) : State :=
  let l := linkU s k
  let t := setLink k { l with
    st := st, authFail := l.authFail || auth, key := none, secured := false, attested := false, peerCert := []
    seed := none, retry := [], fails := 0, naks := 0 } s
  if assigned s = 0 then t
  else
    let t := advertise t
    noteExcluded (addReport 8 (8 * s.tlk.position + k) false (rerouted s t))

/-- Link `k` is attested and keyed. -/
def keyLink (k : Nat) (z : Bytes) (s : State) : State :=
  let t := setLink k { linkU s k with st := .keyed, key := some (fit 32 z), secured := false, seed := none } s
  addReport 8 (8 * s.tlk.position + k) true (rerouted s (advertise t))

/-! ### Receiving -/

/-- A frame whose check value fails (R354): CORRECTED, a NAK with the expected number; the ninth failure in a row of
one frame takes the link down. -/
def frameBad (k seq : Nat) (s : State) : State :=
  let l := linkU s k
  let n := if seq = l.rxSeq then l.fails + 1 else l.fails
  let s := setLink k { l with fails := n } s
  let s := faultAt { blk := .tlk, checker := 0, cls := 0, unit := k } none s
  if 8 < n then dropLink k .down false (record { blk := .tlk, checker := 2, cls := 2, unit := k } s)
  else sendFrame k 0x02 8 (leBytes 8 l.rxSeq) s

/-- The plain payload of a frame under the link's key: none where the tag fails; a clear frame of a type up to 0x13
may still come before the peer has the key. -/
def openFrame (s : State) (k : Nat) (f : Bytes) : Option (Bytes × Bool) :=
  let l := linkU s k
  match l.key with
  | none => some (slice f 16 220, false)
  | some z =>
    let d := dirKey z (dirOf l.peer s.tlk.position)
    match gcmDec (d.take 32) (d.drop 32 ++ leBytes 8 (fSeq f)) (f.take 16) (slice f 16 220) (slice f 236 16) with
    | some p => some (p, true)
    | none => if ¬ l.secured ∧ byteAt f 0 ≤ 0x13 ∧ allZero (slice f 236 16) then some (slice f 16 220, false) else none

/-- A frame accepted on link `k`, `sec` under the link's key: its number, the buffer it returns, the frames it
acknowledges (R351, R354). -/
def takeFrame (k : Nat) (f : Bytes) (sec : Bool) (s : State) : State :=
  let l := linkU s k
  let ack := leAt f 14 2
  blkEvent .tlk 0x11 1 (setLink k { l with
    rxSeq := l.rxSeq + 1, returned := (l.returned + 1) % 65536, fails := 0, secured := l.secured || sec
    retry := l.retry.filter (fun r => decide ((r.1 + 2 * 65536 - ack - 1) % 65536 < 32768)) } s)

/-- Receive a frame of a type (R351–R354): its check value, its tag, its sequence number; then `go` with the source
and the payload. A frame of a lost device is discarded (R368). -/
def withFrame (k ty : Nat) (f : Bytes) (s : State) (go : Nat → Bytes → State → State) : State :=
  if ¬ carries s k ∨ f.length ≠ 256 ∨ byteAt f 0 ≠ ty ∨ 220 < byteAt f 2 ∨ (0x14 ≤ ty ∧ (linkU s k).key = none) then s
  else
    let s := access .tlk 0 0 0 true k 0 none s
    if ¬ checkOk s k f then frameBad k (fSeq f) s
    else
      let s1 := if (linkU s k).key.isSome then access .tlk 0 1 2 false k 0 none s else s
      if ¬ linkUp s1 k then rerouted s (dropLink k .down true s1)
      else match openFrame s1 k f with
        | none => dropLink k .down true (record { blk := .tlk, checker := 1, cls := 2, unit := k } s1)
        | some (p, sec) =>
          let l := linkU s1 k
          if fSeq f ≠ l.rxSeq then s1
          else
            let s := takeFrame k f sec s1
            if s.tlk.formed ∧ (s.tlk.lost.testBit (fSrc f) ∨ s.tlk.lost.testBit l.peer) then s
            else go (fSrc f) (p.take (byteAt f 2)) s

/-- Collect a long message (see `sendLong`) and go on with its transaction and bytes once it is whole. -/
def withMessage (k ty src : Nat) (p : Bytes) (s : State) (go : Nat → Bytes → State → State) : State :=
  let txn := leAt p 0 4
  let key := ((k * 256 + ty) * 8 + src) * 2 ^ 32 + txn
  let have_ : Bytes := Tbl.get [] s.tlk.parts key
  let put (b : Bytes) : State := { s with tlk := { s.tlk with parts := Tbl.set [] s.tlk.parts key b } }
  if leAt p 4 4 ≠ 0 ∧ leAt p 4 4 ≠ have_.length then s
  else
    let m := (if leAt p 4 4 = 0 then [] else have_) ++ p.drop 12
    if leAt p 8 4 ≤ m.length then go txn (m.take (leAt p 8 4)) (put []) else put m

/-- A frame for another member goes on over the next link (R353, R358). -/
def forward (ty src dst : Nat) (p : Bytes) (s : State) : State :=
  match routeTo s dst with
  | some k => passFrame k ty src dst p s
  | none => s

/-- A frame addressed to this device, or passed on. A REQ wakes the device from FREEWHEEL (R387). -/
def routed (ty : Nat) (f : Bytes) (go : Nat → Bytes → State → State) (src : Nat) (p : Bytes) (s : State) : State :=
  let s := if ty = 0x20 then wake s else s
  if ¬ s.tlk.formed ∨ s.tlk.isolated then s
  else if fDst f ≠ s.tlk.position then forward ty src (fDst f) p s
  else go src p s

/-- The acknowledgement of a message from end to end (R366, R367): what is acknowledged, its transaction. -/
def ackTo (p kind txn : Nat) (s : State) : State :=
  match routeTo s p with
  | some k => sendFrame k 0x01 p ([BitVec.ofNat 8 kind] ++ leBytes 4 txn) s
  | none => s

/-! ### Forming the cascade (R356–R362) -/

/-- This device's entry in a token (R356): identity, CASC_ID, highest minor version, link states. -/
def ownEntry (s : State) : Bytes :=
  fit 16 (identity s) ++ [BitVec.ofNat 8 s.pins.cascId, 2] ++ (List.range 8).map (fun k =>
    (match (linkU s k).st with
      | .off => 0 | .training => 1 | .trained => 2 | .keyed => 3 | .down => 4 | .unused => 5 : Byte))

/-- Does the device take part in a formation now? -/
def forming (s : State) : Bool :=
  s.pwr.mode == .discover && !s.tlk.roleConflict && !s.tlk.formed && (s.pins.cascRole == 1 || s.pins.cascRole == 2)

/-- A new TOKEN discards the results of an earlier formation (R362). -/
def newFormation (s : State) : State :=
  let anew (l : Link) : Link := { l with
    st := if l.st == .keyed || l.st == .unused && !l.foreign then .trained else l.st
    key := none, secured := false, attested := false, peerCert := [], seed := none, authFail := false, peer := 0 }
  { s with tlk := { s.tlk with
    link := s.tlk.link.map (fun x => (x.1, anew x.2)), adj := [], adjSeq := [], reports := [], assign := []
    gathered := [], tokenIn := none, excluded := false, position := 0, guard := false, verMinor := 0, verMajor := 0
    ringClosed := false } }

/-- The life-cycle state as ATTEST names it. -/
def lcByte (s : State) : Byte :=
  match s.lcs.st with
  | .maker => 0 | .integrator => 1 | .fielded => 2 | .returned => 3 | .scrapped => 4

/-- The cascade key (R359): none in Maker and Returned. -/
def cascKey (s : State) : Option Bytes :=
  match s.lcs.st with
  | .integrator => s.bbram.intSeed.map (fun z => kdf z (ascii "CASC"))
  | .fielded => s.bbram.ownSeed.map (fun z => kdf z (ascii "CASC"))
  | _ => none

/-- The transcript proof of link `k` (R359): both certificates, the lower position's first, and the ASSIGN payload. -/
def linkProof (s : State) (k : Nat) : Bytes :=
  let own := deviceCert s
  let peer := (linkU s k).peerCert.drop 4
  let m := if s.tlk.position < (linkU s k).peer then own ++ peer else peer ++ own
  match cascKey s with
  | some z => kmac256 z (m ++ s.tlk.assign) [] 32
  | none => []

/-- The peer's certificate and life-cycle state are judged; the proof goes out or the link is out of use (R359). -/
def judgePeer (k : Nat) (s : State) : State :=
  let m := (linkU s k).peerCert
  if m = [] then s
  else if byteAt m 2 = (lcByte s).toNat ∧ Config.certOk (m.drop 4) then sendLong k 0x12 0 (8 + k) ([1] ++ linkProof s k) s
  else dropLink k .unused true s

/-- ATTEST begins on a trained link: the device's certificate (R359). -/
def startAttest (k : Nat) (s : State) : State :=
  if (linkU s k).st = .trained ∧ carries s k ∧ assigned s ≠ 0 ∧ ¬ s.tlk.excluded then
    judgePeer k (sendLong k 0x12 0 k
      ([0, BitVec.ofNat 8 s.tlk.position, lcByte s, BitVec.ofNat 8 (b2n s.tlk.formed)] ++ deviceCert s) s)
  else s

/-- An ASSIGN takes effect at a position (R352, R357): version, guard, routing table; every trained link attests. -/
def applyAssign (p : Nat) (a : Bytes) (s : State) : State :=
  let s : State := { s with tlk := { s.tlk with
    position := p, assign := a, verMajor := 1, verMinor := byteAt a 1, guard := byteAt a 2 == 1
    ringClosed := byteAt a 4 == 1 && p == 0
    adj := Tbl.del (Tbl.setList 0 [] 0 ((List.range 8).map (fun q => byteAt a (5 + 16 * byteAt a 0 + q)))) p } }
  (List.range 8).foldl (fun s k => startAttest k s) s

/-- The ASSIGN payload: devices, minor version, guard, last position of the first token, closed ring, identities, the
ring neighbours of each position. -/
def mkAssign (entries : Bytes) (m : Nat) (closed : Bool) : Bytes :=
  let n := entries.length / 26
  let es := chunks 26 entries
  let minor := es.foldl (fun v e => min v (byteAt e 17)) 2
  let prs := ringPairs n m closed
  let near (p : Nat) : Nat := (prs.filter (fun x => x.1 == p || x.2 == p)).foldl
    (fun a x => a ||| 2 ^ (if x.1 = p then x.2 else x.1)) 0
  [BitVec.ofNat 8 n, BitVec.ofNat 8 minor, BitVec.ofNat 8 (b2n (decide (2 < n))), BitVec.ofNat 8 m,
    BitVec.ofNat 8 (b2n closed)] ++ es.flatMap (fun e => e.take 16) ++ (List.range 8).map (fun p => BitVec.ofNat 8 (near p))

/-- The master assigns the positions (R357): the first token's order, then the second's. -/
def assignAll (second : Bytes) (closed : Bool) (s : State) : State :=
  let es := s.tlk.gathered ++ second.drop 26
  let m := s.tlk.gathered.length / 26 - 1
  let s : State := { s with tlk := { s.tlk with gathered := es } }
  if es.length / 26 < 2 then { s with tlk := { s.tlk with excluded := true } }
  else
    let a := mkAssign es m closed
    let s := sendLong 0 0x11 0 0 a s
    applyAssign 0 a (if closed then s else sendLong 1 0x11 0 1 a s)

/-- A token leaves on ring link `k`: 0 first, 1 second. -/
def sendToken (k second : Nat) (s : State) : State :=
  sendLong k 0x10 0 k ([0, BitVec.ofNat 8 second] ++ ownEntry s) s

/-- The master's second token (R356), or none where TL1 is down. -/
def secondToken (s : State) : State := if carries s 1 then sendToken 1 1 s else assignAll [] false s

/-- The master's first token; with TL0 down the second goes at once. -/
def firstToken (s : State) : State :=
  let s := newFormation s
  let s : State := { s with tlk := { s.tlk with tokenSent := true } }
  if carries s 0 then sendToken 0 0 s
  else secondToken { s with tlk := { s.tlk with gathered := ownEntry s } }

/-- A token goes on: on the onward ring link once that is trained, or back the way it came (R356). -/
def moveToken (s : State) : State :=
  match s.tlk.tokenIn with
  | none => s
  | some (k, m) =>
    let t : State := { s with tlk := { s.tlk with tokenIn := none } }
    if carries s (otherRing k) then sendLong (otherRing k) 0x10 0 (otherRing k) m t
    else if s.tlk.waitOver then sendLong k 0x10 0 k ([1] ++ m.drop 1) t
    else s

/-- TOKEN received (R356, R362). -/
def onToken (k : Nat) (m : Bytes) (s : State) : State :=
  let es := m.drop 2
  if ¬ forming s ∨ 2 ≤ k then s
  else if s.pins.cascRole = 1 then
    if es.take 16 ≠ fit 16 (identity s) then { s with tlk := { s.tlk with roleConflict := true } }
    else if ¬ s.tlk.tokenSent ∨ assigned s ≠ 0 then s
    else if byteAt m 0 = 0 then
      if k = 1 ∧ byteAt m 1 = 0 then assignAll [] true { s with tlk := { s.tlk with gathered := es } } else s
    else if byteAt m 1 = 0 then secondToken { s with tlk := { s.tlk with gathered := es } }
    else assignAll es false (if s.tlk.gathered = [] then { s with tlk := { s.tlk with gathered := ownEntry s } } else s)
  else if byteAt m 0 = 0 then
    let s := newFormation s
    moveToken { s with tlk := { s.tlk with tokenSent := true, tokenIn := some (k, m ++ ownEntry s) } }
  else if carries s (otherRing k) then sendLong (otherRing k) 0x10 0 (otherRing k) m s
  else s

/-- ASSIGN received (R357): it goes on round the ring, is acknowledged, and takes effect. -/
def onAssign (k : Nat) (a : Bytes) (s : State) : State :=
  if forming s ∧ s.pins.cascRole = 2 ∧ s.tlk.tokenSent ∧ assigned s = 0 then
    match (List.range (byteAt a 0)).find? (fun p => slice a (5 + 16 * p) 16 == fit 16 (identity s)) with
    | some p =>
      let s := sendLong (otherRing k) 0x11 0 (otherRing k) a s
      applyAssign p a (addReport 8 (64 + p) true s)
    | none => s
  else s

/-- ATTEST received (R359). A device that learns from it that the cascade has formed is left out (R362). -/
def onAttest (k : Nat) (m : Bytes) (s : State) : State :=
  let l := linkU s k
  if byteAt m 0 = 0 then
    if byteAt m 3 = 1 ∧ s.pwr.mode = .discover ∧ assigned s = 0 then
      { s with tlk := { s.tlk with excluded := true } }
    else
      let s := setLink k { l with peer := byteAt m 1 % 8, peerCert := m } s
      if assigned s = 0 ∨ s.tlk.excluded then s else judgePeer k s
  else if l.peerCert = [] ∨ assigned s = 0 then s
  else
    let good : Bool := match cascKey s with
      | some z =>
        let own := deviceCert s
        let peer := l.peerCert.drop 4
        m.drop 1 == kmac256 z ((if s.tlk.position < l.peer then own ++ peer else peer ++ own) ++ s.tlk.assign) [] 32
      | none => true
    if ¬ good then dropLink k .unused true s
    else if s.tlk.position < l.peer then
      let r := freeBytes 64 s
      sendLong k 0x13 0 k ([0] ++ fit 1568 (publicOf 0x0103 r.1))
        (setLink k { l with attested := true, seed := some r.1 } r.2)
    else setLink k { l with attested := true } s

/-- KEYX received (R359): the higher position encapsulates, the lower decapsulates. -/
def onKeyx (k : Nat) (m : Bytes) (s : State) : State :=
  let l := linkU s k
  if ¬ l.attested ∨ l.key.isSome then s
  else if byteAt m 0 = 0 then
    if l.peer < s.tlk.position then
      let r := freeBytes 32 s
      let e := kemEncaps 3 (m.drop 1) r.1
      keyLink k e.2 (sendLong k 0x13 0 k ([1] ++ fit 1568 e.1) r.2)
    else s
  else match l.seed with
    | some z => keyLink k (kemDecaps 3 z (m.drop 1)) s
    | none => s

/-! ### Loss (R368–R370) -/

/-- A command of this device that a lost member held or owed a key (R369). -/
def loseCmd (h id : Nat) (s : State) : State :=
  match cmdU s id with
  | none => s
  | some c =>
    let home := takesKey (cmdOp c) && hHome (pKey c.pkt) == h
    let r := withHint stsRemoteLost (if home then 0xFFFF else 1)
    match c.phase with
    | .waiting => refuse c r s
    | _ => if c.remote = some h then abandon (some r) c s else s

/-- Position `h` works with this device no more (R369, R370); `gone`: it is lost (R368). -/
def partFrom (gone : Bool) (h : Nat) (s : State) : State :=
  if ¬ s.tlk.formed ∨ s.tlk.lost.testBit h ∨ ¬ s.tlk.present.testBit h ∨ h = s.tlk.position then s
  else
    let ids := (s.tlk.origins.filter (fun t => t.peer == h)).map (fun t => t.cmd)
    let t : State := { s with tlk := { s.tlk with
      lost := if gone then s.tlk.lost ||| 2 ^ h else s.tlk.lost, origins := s.tlk.origins.filter (fun t => t.peer != h)
      guests := s.tlk.guests.filter (fun t => t.peer != h || t.rsp.isNone), seen := s.tlk.seen.filter (fun x => x.1 != h)
      bcasts := (s.tlk.bcasts.map (fun b => (b.1, b.2.filter (· != h)))).filter (fun b => !b.2.isEmpty)
      adj := if gone then Tbl.del s.tlk.adj h else s.tlk.adj } }
    rerouted s (ids.foldl (fun s id => loseCmd h id s) t)

/-- Position `h` is lost (R368, R369). -/
def loseMember (h : Nat) (s : State) : State := partFrom true h s

/-- The device is cut off from the master (R368, R370): every member outside its reach is lost, and it works with none
of the others (DEDUCED, log 75). -/
def isolate (s : State) : State :=
  if s.tlk.formed ∧ s.tlk.position ≠ 0 then
    let out := (List.range 8).filter (fun h => !hasRoute s h)
    let s := out.foldl (fun s h => loseMember h s) s
    (List.range 8).foldl (fun s h => partFrom false h s) { s with tlk := { s.tlk with isolated := true } }
  else s

/-- News of a loss: kept, and passed on once. -/
def onLoss (k ty h : Nat) (s : State) : State :=
  if ¬ s.tlk.formed ∨ s.tlk.lost.testBit h ∨ 8 ≤ h then s
  else if h = s.tlk.position then isolate s
  else
    let s := flood k ty [BitVec.ofNat 8 h] s
    let s := if s.tlk.position = 0 ∧ ty = 0x15 then flood 8 0x16 [BitVec.ofNat 8 h] s else s
    if h = 0 then isolate (loseMember 0 s) else loseMember h s

/-! ### Work for other members (R364–R367) -/

/-- What a home device answers to a resolution (R365): status, hint, leaf, the marks of a stateful key, and the key. -/
def shareReply (st hint : Nat) (leaf : Option Nat) (marks : Option (Nat × Nat)) (k : Option KeyObj) : Bytes :=
  leBytes 2 st ++ leBytes 2 hint ++ leBytes 8 (match leaf with | some n => n + 1 | none => 0) ++
  (match marks with | some v => leBytes 8 (v.1 + 1) ++ leBytes 8 v.2 | none => zeros 16) ++
  (match k with | some k => encKey k | none => [])

/-- The answer to an SFS_SIGN, SFS_STATUS or SFS_RETIRE that resolved to a key of this device: the leaf, the marks, or the
retirement (R226). -/
def serveSfs (inst txn h o : Nat) (k : Option KeyObj) (blob : Bytes) (s : State) : Bytes × State :=
  let fail (st : Nat) : Bytes := shareReply st 0 none none none
  match o, k with
  | 0x0811, some k => match takeLeaf k inst (instU s inst).order s with
    | .fail st s => (fail st, s)
    | .leaf n s => (shareReply stsOk 0 (some n) none (some k), s)
  | 0x0812, some k =>
    let r := sfsMarks k.stateId s
    match r.1 with
    | none => (fail stsStateLost, r.2)
    | some v => (shareReply stsOk 0 none (some v) (some k), r.2)
  | 0x0813, k =>
    let r := retireKey (2 ^ 32 + txn) inst h k blob s
    (if r.1 = stsOk then shareReply stsOk 0 none (some (0, 0)) k else fail r.1, r.2)
  | _, k => (shareReply stsOk 0 none none k, s)

/-- Resolve a handle for another member, steps 2–7 of R256; the records of a stateful key are used here (R226). -/
def serveKey (inst txn : Nat) (m : Bytes) (s : State) : Bytes × State :=
  let pkt := m.take 64
  let h := pKey pkt
  let op := (opOf (pOp pkt)).getD (.ext (pOp pkt))
  if op = .sfs 0x0813 ∧ (resU s h).isNone ∧ m.drop 64 ≠ [] then serveSfs inst txn h 0x0813 none (m.drop 64) s
  else match resolveHere s inst s.hif.stamp (wantOf op pkt) h with
    | .key k => match op with
      | .sfs o => serveSfs inst txn h o (some k) (m.drop 64) s
      | _ => (shareReply stsOk 0 none none (some k), s)
    | .fail r => (shareReply r.status r.hint none none none,
        if r.status = stsFault then faultAt { blk := .tmp, checker := 1, cls := 3, inst := inst } none s else s)
    | .remote _ => (shareReply stsKeyUnknown 0 none none none, s)

/-- REQ received (R364, R365, R367): acknowledged; one seen before is ignored. A command joins the waiting ones as a
guest, a resolution is answered by KEYSHARE. -/
def onReq (src txn : Nat) (m : Bytes) (s : State) : State :=
  let s := ackTo src 0x20 txn s
  if s.tlk.seen.contains (src, txn) then s
  else
    let s : State := { s with tlk := { s.tlk with seen := (src, txn) :: s.tlk.seen } }
    if byteAt m 0 = 0 then
      let r := serveKey (byteAt m 1) txn (m.drop 2) s
      let t : Txn := { id := txn, peer := src, pkt := [0], rsp := some r.1 }
      sendTo src 0x22 txn r.1 { r.2 with tlk := { r.2.tlk with guests := r.2.tlk.guests ++ [t] } }
    else
      let id := s.hif.nextId
      let n := leAt m 74 4
      let c : Cmd := { id := id, port := 256, q := id, subm := s.hif.stamp, pkt := slice m 2 64, order := byteAt m 1
                       start := s.now, leaf := some (leAt m 66 8), key := if n = 0 then none else some (decKey (slice m 78 n)) }
      let t : Txn := { id := txn, cmd := id, peer := src, pkt := m }
      { s with
        hif := { s.hif with nextId := id + 1, cmds := s.hif.cmds ++ [c] }
        tlk := { s.tlk with guests := s.tlk.guests ++ [t] } }

/-- The transaction of this device with a member. -/
def originOf (s : State) (src txn : Nat) : Option Txn := s.tlk.origins.find? (fun t => t.peer == src && t.id == txn)
/-- A transaction of this device ends. -/
def endOrigin (t : Txn) (s : State) : State :=
  { s with tlk := { s.tlk with origins := s.tlk.origins.filter (fun x => x != t) } }

/-- RSP received (R364, R367): the output leaves through this device's DMA; a second one is discarded. -/
def onRsp (src txn : Nat) (m : Bytes) (s : State) : State :=
  let s := ackTo src 0x21 txn s
  match originOf s src txn with
  | none => s
  | some t =>
    let s := endOrigin t s
    match cmdU s t.cmd with
    | none => s
    | some c =>
      let f := byteAt m 6
      let c := { c with unit := byteAt m 9, inj := c.inj || f.testBit 1, switched := c.switched || f.testBit 2 }
      let s := setCmd c s
      let r : Result := { status := leAt m 0 2, outLen := leAt m 2 4, truncated := f.testBit 0, hint := leAt m 7 2 }
      if m.length ≤ 10 then finish c.id r s
      else match dmaWrite c.port (pOutA c.pkt) (m.drop 10) s with
        | some s => finish c.id r s
        | none => dmaSpill c s

/-- KEYSHARE received (R365): the command's key is here, or its resolution failed. -/
def onShare (src txn : Nat) (m : Bytes) (s : State) : State :=
  let s := ackTo src 0x22 txn s
  match originOf s src txn with
  | none => s
  | some t =>
    let s := endOrigin t s
    match cmdU s t.cmd with
    | none => s
    | some c =>
      if leAt m 0 2 ≠ 0 then refuse c (withHint (leAt m 0 2) (leAt m 2 2)) s
      else setCmd { c with
        key := if m.length ≤ 28 then none else some (decKey (m.drop 28))
        leaf := if leAt m 4 8 = 0 then c.leaf else some (leAt m 4 8 - 1)
        served := if leAt m 12 8 = 0 then none else some (leAt m 12 8 - 1, leAt m 20 8) } s

/-- BCAST received (R366): applied to the engines, and acknowledged. -/
def onCast (src txn : Nat) (m : Bytes) (s : State) : State :=
  ackTo src 0x23 txn (markEngines ⟨leAt m 0 8, leAt m 8 8⟩ s)

/-- An end-to-end acknowledgement. -/
def onAck (src kind txn : Nat) (s : State) : State :=
  match kind with
  | 0x20 => { s with tlk := { s.tlk with
      origins := s.tlk.origins.map (fun t => if t.peer = src ∧ t.id = txn then { t with acked := true } else t) } }
  | 0x23 => { s with tlk := { s.tlk with
      bcasts := (s.tlk.bcasts.map (fun b => if b.1 % 2 ^ 32 = txn then (b.1, b.2.filter (· != src)) else b)).filter
        (fun b => !b.2.isEmpty) } }
  | _ => { s with tlk := { s.tlk with
      guests := s.tlk.guests.filter (fun t => t.peer != src || t.id != txn || t.rsp.isNone) } }

/-- ACK received (R357, R366, R367): of a link report, or of a message from end to end. -/
def onAckFrame (k : Nat) (f : Bytes) (src : Nat) (p : Bytes) (s : State) : State :=
  let kind := byteAt p 0
  if kind = 0x12 then (if forming s then addReport k (byteAt p 1) (byteAt p 2 == 1) s else s)
  else if p.length ≠ 5 ∨ ¬ s.tlk.formed then s
  else if fDst f ≠ s.tlk.position then forward 0x01 src (fDst f) p s
  else onAck src kind (leAt p 1 4) s

/-- NAK received (R354): the sender replays from the named frame on; a frame replayed eight times in a row that fails
again takes the link down. -/
def onNak (k : Nat) (p : Bytes) (s : State) : State :=
  let l := linkU s k
  let e := leAt p 0 8
  let n := if e = l.nakSeq then l.naks + 1 else 1
  let fs := l.retry.filter (fun r => decide (e ≤ r.1))
  let s := setLink k { l with nakSeq := e, naks := n, replays := min 0xFFFF (l.replays + fs.length) } s
  if 8 < n then dropLink k .down false s
  else fs.foldl (fun s r => blkEvent .tlk 0x12 1 (putFrame k r.2 s)) s

/-- HEARTBEAT received (R355); one with a payload tells the sender's neighbours (R358). -/
def onBeat (k : Nat) (p : Bytes) (s : State) : State :=
  let q := byteAt p 0
  if p.length ≠ 6 ∨ 8 ≤ q ∨ q = s.tlk.position ∨ s.tlk.lost.testBit q ∨ leAt p 2 4 ≤ Tbl.get 0 s.tlk.adjSeq q then s
  else
    let t : State := { s with tlk := { s.tlk with
      adj := Tbl.set 0 s.tlk.adj q (byteAt p 1), adjSeq := Tbl.set 0 s.tlk.adjSeq q (leAt p 2 4) } }
    rerouted s (flood k 0x03 p t)

/-- GO received (R360): passed on, and the start time taken. -/
def onGo (k : Nat) (p : Bytes) (s : State) : State :=
  if forming s ∧ s.pins.cascRole = 2 ∧ assigned s ≠ 0 then
    let s := flood k 0x14 p s
    if (byteAt p 0).testBit s.tlk.position then takeGo (byteAt p 0) s
    else { s with tlk := { s.tlk with excluded := true } }
  else s

/-! ### The commands -/

/-- LINK_TRAINED (R349, R350, R355): four or two lanes work; a foreign peer's link is never used. -/
def execLinkTrained (k : Fin 8) (two foreign : Bool) (s : State) : Res :=
  .next (
    let l := linkU s k
    if linksAct s.pwr.mode ∧ (l.st = .training ∨ l.st = .down) ∧ ¬ l.authFail ∧ ¬ linkHeld s k then
      let s := setLink k { ({} : Link) with
        st := if foreign then .unused else .trained, foreign := foreign, lanes := b2n two, peer := l.peer } s
      if foreign then s
      else
        let s := if s.pins.cascRole = 1 ∧ forming s ∧ ¬ s.tlk.tokenSent ∧ carries s 0 ∧ carries s 1 then firstToken s
          else moveToken s
        startAttest k s
    else s)

/-- LINK_SILENCE_TIMEOUT (R355): the link goes down and retrains. -/
def execLinkSilenceTimeout (k : Fin 8) (s : State) : Res :=
  .next (if carries s k then dropLink k .training false s else s)

/-- HEARTBEAT_DUE (R355). -/
def execHeartbeatDue (k : Fin 8) (s : State) : Res :=
  .next (if carries s k then sendFrame k 0x03 8 [] s else s)

/-- DISC_WAIT_EXPIRY (R356): the master sends its token; a device that holds one sends it back. -/
def execDiscWaitExpiry (s : State) : Res :=
  .next (if forming s then
    let s : State := { s with tlk := { s.tlk with waitOver := true } }
    if s.pins.cascRole = 1 then (if s.tlk.tokenSent then s else firstToken s) else moveToken s
  else s)

/-- ROLE_CONFLICT_TIMEOUT (R362): a member has had no token. -/
def execRoleConflictTimeout (s : State) : Res :=
  .next (if forming s ∧ s.pins.cascRole = 2 ∧ ¬ s.tlk.tokenSent ∧ ¬ s.tlk.excluded then
    { s with tlk := { s.tlk with roleConflict := true } }
  else s)

/-- CASCADE_START (R360): the engine groups wake, and the device enters SERVICE with the last. -/
def execCascadeStart (s : State) : Res :=
  .next (if s.pwr.mode = .discover ∧ s.tlk.startAt.isSome then
    let s := (List.range 16).foldl (fun s g =>
      if canSeed s ∧ pRes s + 50 ≤ capNow s then powerGroup g s else s) s
    let s := s.ent.seedFly.foldl (fun s n => seedEngine n s) s
    let s : State := { s with ent := { s.ent with seedFly := [] } }
    let s := (List.range 64).foldl (fun s n =>
      if s.pwr.groups.contains (n / 4) ∧ (eng s n).mg.seeded then updEng n (fun e => { e with powered := true }) s else s) s
    setMode .service s
  else s)

/-- MEMBER_TIMEOUT (R368, R370): no route to a position for member_timeout. The master declares it lost; a device without
a route to the master declares every device outside its reach lost. -/
def execMemberTimeout (p : Fin 8) (s : State) : Res :=
  .next (if s.tlk.formed ∧ s.tlk.present.testBit p ∧ ¬ s.tlk.lost.testBit p ∧ p.val ≠ s.tlk.position ∧ ¬ hasRoute s p then
    if s.tlk.position = 0 then loseMember p (flood 8 0x16 [BitVec.ofNat 8 p] s)
    else if hasRoute s 0 then s
    else isolate s
  else s)

/-- ACK. -/
def execFrameAck (k : Fin 8) (frame : Bytes) (s : State) : Res := .next (withFrame k 0x01 frame s (onAckFrame k frame))

/-- NAK. -/
def execFrameNak (k : Fin 8) (frame : Bytes) (s : State) : Res := .next (withFrame k 0x02 frame s (fun _ => onNak k))

/-- HEARTBEAT. -/
def execFrameHeartbeat (k : Fin 8) (frame : Bytes) (s : State) : Res := .next (withFrame k 0x03 frame s (fun _ => onBeat k))

/-- A whole message of a link goes to its handler. -/
def linkMessage (k ty : Nat) (go : Nat → Bytes → State → State) (_ : Nat) (p : Bytes) (s : State) : State :=
  withMessage k ty 0 p s (fun _ m s => go k m s)

/-- TOKEN (R356). -/
def execFrameToken (k : Fin 8) (frame : Bytes) (s : State) : Res := .next (withFrame k 0x10 frame s (linkMessage k 0x10 onToken))

/-- ASSIGN (R357). -/
def execFrameAssign (k : Fin 8) (frame : Bytes) (s : State) : Res := .next (withFrame k 0x11 frame s (linkMessage k 0x11 onAssign))

/-- ATTEST (R359). -/
def execFrameAttest (k : Fin 8) (frame : Bytes) (s : State) : Res := .next (withFrame k 0x12 frame s (linkMessage k 0x12 onAttest))

/-- KEYX (R359). -/
def execFrameKeyx (k : Fin 8) (frame : Bytes) (s : State) : Res := .next (withFrame k 0x13 frame s (linkMessage k 0x13 onKeyx))

/-- GO. -/
def execFrameGo (k : Fin 8) (frame : Bytes) (s : State) : Res := .next (withFrame k 0x14 frame s (fun _ => onGo k))

/-- LEAVE (R368). -/
def execFrameLeave (k : Fin 8) (frame : Bytes) (s : State) : Res :=
  .next (withFrame k 0x15 frame s (fun _ p s => onLoss k 0x15 (byteAt p 0) s))

/-- LOST (R368). -/
def execFrameLost (k : Fin 8) (frame : Bytes) (s : State) : Res :=
  .next (withFrame k 0x16 frame s (fun _ p s => onLoss k 0x16 (byteAt p 0) s))

/-- A whole message from a member goes to its handler. -/
def memberMessage (ty : Nat) (go : Nat → Nat → Bytes → State → State) (src : Nat) (p : Bytes) (s : State) : State :=
  withMessage 8 ty src p s (fun txn m s => go src txn m s)

/-- REQ (R364, R365, R367). -/
def execFrameReq (k : Fin 8) (frame : Bytes) (s : State) : Res :=
  .next (withFrame k 0x20 frame s (routed 0x20 frame (memberMessage 0x20 onReq)))

/-- RSP (R364, R367). -/
def execFrameRsp (k : Fin 8) (frame : Bytes) (s : State) : Res :=
  .next (withFrame k 0x21 frame s (routed 0x21 frame (memberMessage 0x21 onRsp)))

/-- KEYSHARE (R365). -/
def execFrameKeyshare (k : Fin 8) (frame : Bytes) (s : State) : Res :=
  .next (withFrame k 0x22 frame s (routed 0x22 frame (memberMessage 0x22 onShare)))

/-- BCAST (R366). -/
def execFrameBcast (k : Fin 8) (frame : Bytes) (s : State) : Res :=
  .next (withFrame k 0x23 frame s (routed 0x23 frame (memberMessage 0x23 onCast)))

/-- TANDEM_FRAME_CHECK_FAIL (R354). -/
def execTandemFrameCheckFail (k : Fin 8) (seq : Nat) (s : State) : Res :=
  .next (if carries s k then frameBad k seq s else s)

end Sys2Proof.Machine
end

