-- ==== Sys2Proof/Machine/RegMap.lean ====
section
/-! DEFINITION. The register map: every register of function 0's BAR0 as a word, and what a write to it does
(chapter 26 and the register tables of the other chapters). -/
namespace Sys2Proof.Machine
open Sys2Proof

/-- The state that a command leaves. -/
def after (r : Res) (s : State) : State :=
  match r with
  | .next t => t
  | _ => s

/-! ### Where a register lies (Table 26-1, R6) -/

/-- Block, unit and offset in the unit of a BAR0 offset; unit 16 of DGE and unit 8 of CVU stand for DGE_FREE and
CVU_FREE. -/
def placeReg (a : Nat) : Option (Blk × Nat × Nat) :=
  let o := a % 0x100000
  if a < 0x100000 then some (.glb, 0, o)
  else if a < 0x200000 then some (.pwr, 0, o)
  else if a < 0x300000 then some (.lcs, 0, o)
  else if a < 0x400000 then some (.tmp, 0, o)
  else if a < 0x800000 then some (.hif, 0, a - 0x400000)
  else if a < 0x900000 then some (.seq, o / 0x10000, o % 0x10000)
  else if a < 0x1000000 then none
  else if a < 0x1400000 then some (.hub, (a - 0x1000000) / 0x10000, a % 0x10000)
  else if a < 0x1500000 then some (.hsa, 0, o)
  else if a < 0x1600000 then
    if o < 0x10000 then some (.dge, o / 0x1000, o % 0x1000) else if o = 0x10000 then some (.dge, 16, 0) else none
  else if a < 0x1700000 then some (.kvt, 0, o)
  else if a < 0x1800000 then some (.ent, 0, o)
  else if a < 0x1900000 then
    if o < 0x8000 then some (.cvu, o / 0x1000, o % 0x1000) else if o = 0x8000 then some (.cvu, 8, 0) else none
  else if a < 0x1A00000 then some (.mem, 0, o)
  else if a < 0x1B00000 then some (.tlk, 0, o)
  else if a < 0x1C00000 then some (.cad, 0, o)
  else if a < 0x1D00000 then some (.dbg, 0, o)
  else none

/-- A register that OTP fills reads 0 until OTP is sensed (R500). -/
def fromOtp (s : State) (v : Nat) : Nat := if s.lcs.sensed then v else 0

/-! ### Reads -/

/-- GLB registers (chapters 08 and 19). -/
def glbRead (s : State) (o : Nat) : Word :=
  let g := s.glb
  match o with
  | 0x00 => BitVec.ofNat 32 (fromOtp s (otpWord s 5))
  | 0x04 => BitVec.ofNat 32 (fromOtp s (otpWord s 5 / 2 ^ 32))
  | 0x08 => BitVec.ofNat 32 (fromOtp s (otpWord s 6))
  | 0x0C => BitVec.ofNat 32 (fromOtp s (otpWord s 6 / 2 ^ 32))
  | 0x10 => word [(0x00B1, 0), (fromOtp s (lcNum s.lcs.st), 16), (2, 24), (3, 28)]
  | 0x20 => word [(g.phase, 0), (g.image, 4), (b2n g.fallback, 6), (b2n g.svnDeferred, 7), (g.error, 8),
      (b2n g.patchRejected, 12), (b2n g.ownerRequired, 13), (s.pins.bootSrc, 14), (fromOtp s (svnMin s), 16),
      (b2n g.cfgIgnored, 31)]
  | 0x28 => lo32 g.bootAddr
  | 0x2C => hi32 g.bootAddr
  | 0x30 => BitVec.ofNat 32 g.bootLen
  | 0x34 => BitVec.ofNat 32 g.bootSeq
  | 0x38 => word [(g.svn, 0), (g.version, 16)]
  | 0x40 => word [(g.katBits, 0), (g.katFailed, 16), (b2n g.katRunning, 29), (b2n g.katDone, 30), (b2n g.katFatal, 31)]
  | 0x44 => 0xFF101A10
  | _ => 0

/-- A power-of-two mask of some numbers. -/
def maskOf (xs : List Nat) : Nat := xs.foldl (fun a g => a ||| 2 ^ g) 0

/-- The Tandem PLL runs from DISCOVER on while a link is powered, when not standalone (Table 18-2). -/
def tandemPll (s : State) : Bool := 4 ≤ modeNum s.pwr.mode && s.pins.cascRole != 0 && s.pwr.links != 0

/-- PWR registers (chapter 18). -/
def pwrRead (s : State) (o : Nat) : Word :=
  let p := s.pwr
  match o with
  | 0x00 => word [(modeNum p.mode, 0), (modeNum p.prev, 4), (p.cause, 8)]
  | 0x04 => word [(b2n p.fabLock, 0), (b2n p.seqLock, 1), (b2n (tandemPll s), 2), (b2n p.dramLock, 3), (b2n p.aoRc, 4),
      (b2n (holdupOk s), 5), (b2n p.warnPin, 6), (b2n p.cfgIgnored, 7), (maskOf p.groups, 8), (p.links, 24)]
  | 0x08 => word [(b2n p.fwEn, 0), (p.fwIdle, 8), (p.drainRun, 16)]
  | 0x0C => word [(p.capW, 0), (pRes s / 10, 16)]
  | 0x10 => word [(b2n p.surgeEn, 0), (p.maxMs, 8), (p.gapMs, 18)]
  | 0x14 => word [(b2n (p.mode == .surge), 0), (b2n p.windDown, 1), (b2n p.blockedThermal, 2), (b2n p.blockedGap, 3),
      (p.windows, 16)]
  | 0x18 => word [(p.tj, 0), (p.surgeTj, 8)]
  | 0x1C => word [(p.power, 0)]
  | 0x20 => word [(p.holdThr, 0), (p.senseMv, 16)]
  | 0x24 => word [(p.drainAbandoned, 0), (p.drainCut, 8), (p.drainSource, 9), (p.drainDur, 16)]
  | _ => 0

/-- LCS registers (chapter 20). -/
def lcsRead (s : State) (o : Nat) : Word :=
  if o = 0 then
    let burned := (List.range 5).foldl (fun a n => if otpWord s n = 0 then a else a ||| 2 ^ n) 0
    word [(fromOtp s (lcNum s.lcs.st), 0), (fromOtp s burned, 3), (fromOtp s (b2n s.lcs.invalid), 8),
      (b2n s.bbram.trans.valid, 9), (b2n s.lcs.burning.isSome, 10), (b2n s.lcs.oblit, 11)]
  else if 0x10 ≤ o ∧ o < 0x38 ∧ o % 4 = 0 then
    let n := (o - 0x10) / 4
    BitVec.ofNat 32 (fromOtp s (otpWord s (n / 2) / 2 ^ (32 * (n % 2))))
  else 0

/-- The 16 bytes of a log entry (Table 21-3). -/
def logBytes (e : LogEntry) : Bytes :=
  leBytes 4 e.count ++ leBytes 1 e.source ++ leBytes 3 e.info ++ leBytes 6 e.rtc ++ leBytes 2 (e.info / 2 ^ 24)

/-- TMP_STATUS. -/
def tmpStatus (s : State) : Word :=
  let t := s.tmp
  word [(b2n s.bbram.lockFlag, 0), (b2n t.sealed, 1), (b2n t.bbramLost, 2), (b2n t.erasing, 3), (b2n t.tamperOut, 4),
    (b2n t.hostifStopped, 5), (b2n t.cfgIgnored, 6), (b2n t.fuseBusy, 7)]

/-- TMP registers (chapter 21). -/
def tmpRead (s : State) (o : Nat) : Word :=
  let t := s.tmp
  match o with
  | 0x00 => tmpStatus s
  | 0x04 => word [(b2n t.sealed, 0)]
  | 0x08 => word ((List.range 13).map (fun n => (tamperClass s n, 2 * n)))
  | 0x0C => BitVec.ofNat 32 t.alarm
  | 0x10 => t.win0
  | 0x14 => t.win1
  | 0x18 => t.win2
  | 0x1C => t.tempWin
  | 0x20 => BitVec.ofNat 32 t.inCfg
  | 0x24 => BitVec.ofNat 32 (fromOtp s (otpWord s 20 % 2 ^ 13))
  | 0x30 => BitVec.ofNat 32 s.bbram.logNewest
  | 0x34 => BitVec.ofNat 32 (s.bbram.logNewest / 2 ^ 32)
  | 0x38 => BitVec.ofNat 32 s.bbram.lockSeq
  | 0x3C => BitVec.ofNat 32 (s.bbram.lockSeq / 2 ^ 32)
  | 0x40 => BitVec.ofNat 32 t.logIdx
  | 0x60 => BitVec.ofNat 32 t.rtc
  | 0x64 => BitVec.ofNat 32 (t.rtc / 2 ^ 32 % 2 ^ 16)
  | _ => if 0x50 ≤ o ∧ o < 0x60 ∧ o % 4 = 0 then
      BitVec.ofNat 32 (leAt (logBytes (Tbl.get {} s.bbram.log t.logIdx)) (o - 0x50) 4) else 0

/-- SEQ registers of core `u` (chapter 13). -/
def seqRead (s : State) (u o : Nat) : Word :=
  let c := coreU s u
  match o with
  | 0x00 => word [(u, 0), (0x0E01, 16)]
  | 0x04 => word [((match c.st with | .idle => 0 | .vendor => 1 | .ext => 2 | .blockReset => 3), 0), (b2n c.ie, 2),
      (c.inst % 256, 8), (c.stack.length, 16), (b2n c.cfgIgnored, 24)]
  | 0x08 => word [(b2n c.dzEn, 0), (b2n c.ovEn, 1)]
  | 0x0C => word [(c.trap.cause, 0), (c.trap.pc, 4), (c.trap.repLeft, 18), (b2n c.trap.ext, 27)]
  | _ => 0

/-- HUB_STATUS.offline (R116, R209, R210, R453). -/
def engOffline (e : Engine) : Bool := e.offline || e.heldByFault || e.failedTest || e.inReset || e.testing

/-- HUB registers of engine `u` (chapters 05, 06 and 07). -/
def hubRead (s : State) (u o : Nat) : Word :=
  let e := eng s u
  let p := s.hub.patch
  match o with
  | 0x00 => word [(u, 0), (u / 4, 6), (0x0B01, 16)]
  | 0x04 => word [(b2n e.powered, 0), (b2n e.busy, 1), (b2n (engOffline e), 2), (e.order, 3), (e.inst % 256, 8),
      (b2n e.gang, 16), (b2n e.lend, 17)]
  | 0x08 => word [(b2n e.offlineReq, 0)]
  | 0x10 => 0x00000D01
  | 0x14 => 0x007FE001
  | 0x18 => e.q2
  | 0x1C => e.q3
  | 0x20 => word [(e.gfM, 0), (e.gfPoly.toNat, 16)]
  | 0x30 => match e.key with
    | some k => word [(1, 0), (k.order, 1), (b2n k.marked, 3), (b2n k.retained, 4), (k.inst % 256, 8)]
    | none => 0
  | 0x34 => word [(e.mg.blocks, 0), (b2n e.mg.reseedReq, 21), (b2n e.mg.halted, 22), (b2n e.mg.seeded, 23)]
  | 0x40 => word [(e.vl, 0), (e.sew, 12), (1024 / 2 ^ e.sew, 16)]
  | 0x44 => word [(e.vstart, 0)]
  | 0x48 => word [(e.kexc.cause, 0), (b2n e.kexc.restartable, 4), (e.kexc.window, 5), (e.kexc.pc, 8)]
  | 0x50 => word [(e.uc.routine, 0), (b2n e.uc.running, 7), (b2n e.uc.committed, 8), (e.uc.restarts, 9), (e.uc.lastWait, 12),
      (b2n e.uc.ceilingExpired, 18), (b2n e.uc.guard, 19)]
  | 0x54 => word [(p.version, 0), (b2n p.loaded, 16), (b2n p.ownerSigned, 17), (p.redirects.length, 18), (p.rmatches.length, 26)]
  | 0x58 => word [(e.uc.cntRestarts, 0), (e.uc.cntExpiries, 16)]
  | _ => 0

/-- HSA_ARRAY_STATUS (chapter 10). -/
def hsaRead (s : State) (o : Nat) : Word :=
  if 0x100 ≤ o ∧ o < 0x140 ∧ o % 4 = 0 then
    let a := hsaU s ((o - 0x100) / 4)
    let jobs := a.run.filterMap (fun p => p.2.map (fun j => (p.1, j.who)))
    let lent := jobs.filter (fun p => (decide (p.1 < 24) && p.1 / 6 != p.2) || (p.1 == 31 && p.2 != 4))
    word [(jobs.length, 0), (b2n (jobs.any (fun p => p.1 == 31 && p.2 == 4)), 6), (min 0xFF a.wait.length, 8), (lent.length, 16)]
  else 0

/-- The owner fields of DGE_CLAIM and CVU_CLAIM. -/
def ownerWord (o : UnitOwner) (inst : Nat) : Word :=
  match o with
  | .none => 0
  | .parser => word [(1, 2), (inst % 256, 8)]
  | .core c => word [(2, 2), (c, 4), (inst % 256, 8)]
  | .manager => word [(3, 2), (inst % 256, 8)]

/-- DGE registers of unit `u` (chapter 10); unit 16 is DGE_FREE. -/
def dgeRead (s : State) (u o : Nat) : Word :=
  let d := dgeU s u
  if u = 16 then word ((List.range 16).map (fun n => (b2n ((dgeU s n).owner == .none), n)))
  else match o with
  | 0x00 => ownerWord d.owner d.inst
  | 0x04 => word [(d.alg, 0), (b2n d.compare, 4), (b2n d.keyed, 5), (b2n d.source, 6)]
  | 0x08 => BitVec.ofNat 32 d.len
  | 0x0C => BitVec.ofNat 32 d.outlen
  | 0x10 => lo32 d.dmaIn
  | 0x14 => hi32 d.dmaIn
  | 0x18 => lo32 d.dmaOut
  | 0x1C => hi32 d.dmaOut
  | 0x38 => word [(d.timeoutUs, 0)]
  | 0x3C => word [((match d.st with
      | .idle => 0 | .owned => 1 | .absorbing => 2 | .finishing => 3 | .done => 4 | .aborted => 5), 0), (b2n d.equal, 3),
      (b2n d.notEqual, 4), (b2n d.truncated, 5), (b2n d.timeout, 6), (b2n d.dmaError, 7), (b2n d.short, 8),
      (b2n d.offloaded, 9), (b2n d.cfgIgnored, 10), (b2n d.foreign, 11)]
  | 0x40 => BitVec.ofNat 32 d.count
  | _ => if 0xC0 ≤ o ∧ o < 0x100 ∧ o % 4 = 0 ∧ d.st = .done ∧ ¬ d.compare then
      BitVec.ofNat 32 (leAt d.result (o - 0xC0) 4) else 0

/-- KVT registers (chapters 09 and 11). -/
def kvtRead (s : State) (o : Nat) : Word :=
  let k := s.kvt
  match o with
  | 0x000 => word [(b2n k.root.isSome, 0), (k.rootState, 1), (b2n k.recovered, 4), (b2n (!k.sweep.isEmpty), 5),
      (b2n (k.stops.any (fun id => (cmdU s id).isSome)), 6), (pendingCount s, 8)]
  | 0x004 => word [(((List.range 7936).filter (fun n => entryOpen s (n + 256))).length, 0), (k.invalidations, 16)]
  | 0x008 => word [(usedMib s, 0), (b2n (!k.full.isEmpty), 31)]
  | 0x400 =>
    let live := (List.range 1024).filter (fun n => match viewRec (recU s n) with | .held c _ => c.live && !c.closed | _ => false)
    word [(live.length, 0), (min 1024 k.recsLost.length, 12), (b2n k.bbramLost, 23)]
  | _ => 0

/-- ENT registers but ENT_DATA (chapter 12). -/
def entRead (s : State) (o : Nat) : Word :=
  let e := s.ent
  match o with
  | 0x00 => word [(b2n e.startupDone, 0), (b2n (entReady s), 1), (b2n (entDegraded s), 2), (b2n (allFailed s), 3),
      (b2n e.switched, 4), (b2n e.entErr, 5), (b2n e.retesting, 6), (b2n e.testActive, 7), (b2n e.testDenied, 8),
      (b2n e.cfgIgnored, 9)]
  | 0x04 => word ((List.range 8).flatMap (fun n => [
      ((match (srcU s n).st with | .settling => 0 | .testing => 0 | .spare => 1 | .active => 2 | .failed => 3), 2 * n),
      (b2n (srcU s n).rctFail, 16 + n), (b2n (srcU s n).aptFail, 24 + n)]))
  | 0x0C => word [(e.wait100, 0)]
  | 0x14 => word [(e.queue.length, 0), (b2n e.queueOn, 31)]
  | 0x18 => word [(((List.range 64).filter (drbgUsable s)).length, 0), (0, 8),
      (e.seedQ.length, 16), (e.reserve, 24)]
  | 0x20 => word [(e.tstSource, 0), (b2n e.tstSubst, 3), (b2n e.tstRaw, 4)]
  | _ => 0

/-- CVU registers of unit `u` (chapter 17); unit 8 is CVU_FREE. -/
def cvuRead (s : State) (u o : Nat) : Word :=
  let c := cvuU s u
  if u = 8 then word ((List.range 8).map (fun n => (b2n ((cvuU s n).owner == .none), n)))
  else match o with
  | 0x00 => ownerWord c.owner c.inst
  | 0x04 => word [(c.alg, 0), (c.source, 3), (c.guard, 5), (b2n c.cont, 7), (c.alive, 8)]
  | 0x08 => lo32 c.addr
  | 0x0C => hi32 c.addr
  | 0x10 => BitVec.ofNat 32 c.len
  | 0x18 => c.seq
  | 0x1C => lo32 c.fold
  | 0x20 => hi32 c.fold
  | 0x24 => lo32 c.run
  | 0x28 => hi32 c.run
  | 0x2C => if c.st = .done then lo32 c.result else 0
  | 0x30 => if c.st = .done then hi32 c.result else 0
  | 0x34 => BitVec.ofNat 32 c.bytes
  | 0x38 => word [((match c.st with
      | .idle => 0 | .owned => 1 | .running => 2 | .done => 3 | .stopped => 4 | .aborted => 5), 0), (b2n c.dmaError, 3),
      (b2n c.memError, 4), (b2n c.cfgIgnored, 5), (b2n c.foreign, 6)]
  | _ => 0

/-- MEM registers (chapter 14). -/
def memRead (s : State) (o : Nat) : Word :=
  let m := s.mem
  match o with
  | 0x00 => word [(b2n m.keys, 0), (m.initDone, 1), (b2n m.selfRefresh, 8), (b2n (decide (16384 ≤ m.remaps.length)), 9),
      (b2n m.cfgIgnored, 10), (b2n m.copying.isSome, 11), (m.poison.length, 16)]
  | 0x04 => word [(b2n m.scrubEn, 0), (m.scrubHours, 8), (b2n m.spareEn, 16), (m.spareThr, 24)]
  | 0x08 => word [(m.mgrQuota, 0)]
  | 0x0C => word [(reservedMib s, 0)]
  | 0x10 => word [(m.remaps.length, 0)]
  | 0x20 => BitVec.ofNat 32 (m.err.addr / 64 * 64)
  | 0x24 => word [(m.err.addr / 2 ^ 32 % 32, 0)]
  | 0x28 => word [(m.err.kind, 0), (m.err.region, 3), (pseudoChannel m.err.addr % 64, 6), (b2n m.err.injected, 12),
      (m.err.inst % 256, 16), (m.err.requester, 24)]
  | _ => if 0x100 ≤ o ∧ o < 0x200 ∧ o % 4 = 0 then word [(Tbl.get 0 m.ceCount ((o - 0x100) / 4), 0)] else 0

/-- The positions that a route reaches now (TLK_TOPO.reachable). -/
def reachMask (s : State) : Nat :=
  maskOf ((List.range 8).filter (fun p => s.tlk.formed && p != s.tlk.position && s.tlk.present.testBit p && hasRoute s p))

/-- TLK registers (chapter 16). -/
def tlkRead (s : State) (o : Nat) : Word :=
  let t := s.tlk
  match o with
  | 0x00 => word [(s.pins.cascRole, 0), (t.position, 2), (b2n t.formed, 5), (b2n t.ringClosed, 6), (b2n t.roleConflict, 7),
      (b2n t.excluded, 8), (b2n t.isolated, 9), (b2n t.guard, 10), (b2n t.cfgIgnored, 11), (t.devices, 12),
      (t.verMinor, 16), (t.verMajor, 20)]
  | 0x04 => word [(t.discWait, 0), (t.memberTimeout, 10)]
  | 0x08 => word [(t.lendWeight, 0), (t.lendMax, 16)]
  | 0x0C => word [(t.present, 0), (t.lost, 8), (reachMask s, 16)]
  | _ =>
    if 0x100 ≤ o ∧ o < 0x120 ∧ o % 4 = 0 then
      let k := (o - 0x100) / 4
      let l := linkU s k
      word [((match l.st with | .off => 0 | .training => 1 | .trained => 2 | .keyed => 3 | .down => 4 | .unused => 5), 0),
        (l.peer, 3), (b2n (decide (2 ≤ k) && l.st != .off), 6), (b2n l.authFail, 7), (b2n l.foreign, 8), (l.lanes, 9),
        (l.replays, 16)]
    else 0

/-- The bank, unit, counter and register of an offset in the counter ranges of CAD (Table 23-1). -/
def cadPlace (o : Nat) : Option (Bank × Nat × Nat × Nat) :=
  if 0x1000 ≤ o ∧ o < 0x1800 then some (.seq, (o - 0x1000) / 0x80, o / 16 % 8, o % 16)
  else if 0x2000 ≤ o ∧ o < 0x4000 then some (.hub, (o - 0x2000) / 0x80, o / 16 % 8, o % 16)
  else if 0x4000 ≤ o ∧ o < 0x4400 then some (.block, (o - 0x4000) / 0x40, o / 16 % 4, o % 16)
  else if 0x10000 ≤ o ∧ o < 0x20000 then some (.inst, (o - 0x10000) / 0x100, o / 16 % 16, o % 16)
  else none

/-- CAD registers (chapter 23). -/
def cadRead (s : State) (o : Nat) : Word :=
  match cadPlace o with
  | some (b, u, k, r) => cntRead s b u k r
  | none =>
    if o = 0 then word [(b2n s.cad.extRead, 0)]
    else if o = 4 then word [(b2n s.cad.cfgIgnored, 0)]
    else if 0x20000 ≤ o ∧ o < 0x20000 + 0x20 * 80 then
      let n := (o - 0x20000) / 0x20
      let b := bufU s n
      let d := Tbl.get {} s.cad.out n
      match o % 0x20 with
      | 0x00 => word [(b2n b.precise, 0), (b2n b.wrap, 1), (b2n b.coreInt, 3)]
      | 0x04 => word [(b.head, 0), (b.count, 8), (b.lost, 24)]
      | 0x08 => word [(Tbl.get 0 s.cad.idx n, 0)]
      | 0x10 => d.w0
      | 0x14 => d.w1
      | 0x18 => d.w2
      | 0x1C => d.w3
      | _ => 0
    else 0

/-- DBG_STATUS. -/
def dbgStatus (s : State) : Word :=
  let d := s.dbg
  word [(b2n d.session, 0), (d.signer, 1), (b2n d.chal.isSome, 3), (b2n d.verifying, 4), (b2n d.tokenBad, 5), (b2n d.denied, 6),
    (d.perm, 8), (d.remaining, 16)]

/-- DBG registers (chapter 20). -/
def dbgRead (s : State) (o : Nat) : Word :=
  match o with
  | 0x00 => dbgStatus s
  | 0x04 => word [(b2n s.dbg.deny, 1)]
  | 0x08 => word [(b2n s.dbg.bistRun, 1), (b2n s.dbg.bistDone, 2), (b2n s.dbg.bistFail, 3), (s.dbg.bistFirst, 16)]
  | _ => 0

/-- The word a block's register holds. -/
def blkRead (s : State) (b : Blk) (u o : Nat) : Word :=
  match b with
  | .glb => glbRead s o
  | .pwr => pwrRead s o
  | .lcs => lcsRead s o
  | .tmp => tmpRead s o
  | .hif => if 0x10000 ≤ o ∧ o < 0x20000 then portRead s 0 (o - 0x10000) else hifRead s o
  | .seq => seqRead s u o
  | .hub => hubRead s u o
  | .hsa => hsaRead s o
  | .dge => dgeRead s u o
  | .kvt => kvtRead s o
  | .ent => entRead s o
  | .cvu => cvuRead s u o
  | .mem => memRead s o
  | .tlk => tlkRead s o
  | .cad => cadRead s o
  | .dbg => dbgRead s o

/-- The GLB registers that answer after a fatal stop (R209): identity, boot status, self-test status, and the soft reset that
ends it. -/
def fatalOffsets : List Nat := [0x00, 0x04, 0x08, 0x0C, 0x10, 0x20, 0x3C, 0x40]

/-- Does an offset of a block answer a source now (R381, R407): GLB and the port page from BOOT on, the rest after it? A
fatal stop leaves identity and boot status (R209). -/
def answers (src : Src) (b : Blk) (o : Nat) (s : State) : Bool :=
  match b with
  | .glb => glbOpen src s && (!s.glb.katFatal || fatalOffsets.contains o)
  | .hif => if 0x10000 ≤ o ∧ o < 0x20000 then glbOpen src s && !s.glb.katFatal else regOpen src s
  | _ => regOpen src s

/-- A read of one register, with the side effects of ENT_DATA and the RC counters (R5, R7, R8). A virtual function has its
port page and nothing else (R499). -/
def regRead1 (src : Src) (a : Nat) (s : State) : Word × State :=
  let vf : Option Nat := match src with
    | .host fn => if fn.val = 0 then none else some fn.val
    | _ => none
  match vf with
  | some f => (if portsOpen s ∧ a < 0x10000 then portRead s f a else 0, s)
  | none =>
    if a % 4 ≠ 0 then (0, s)
    else match placeReg a with
      | none => (0, s)
      | some (b, u, o) =>
        if 0x0F00 ≤ o ∧ o < 0x0F1C ∧ ¬ (b = .dge ∧ u = 16) ∧ ¬ (b = .cvu ∧ u = 8) then
          (if fltHere s src b u then fltRead s b u o else 0, s)
        else if ¬ answers src b o s then (0, s)
        else if b = .ent ∧ o = 0x10 then entDataRead s
        else if b = .mem ∧ 0x100 ≤ o ∧ o < 0x200 then
          (memRead s o, { s with mem := { s.mem with ceCount := Tbl.set 0 s.mem.ceCount ((o - 0x100) / 4) 0 } })
        else (blkRead s b u o, s)

/-- A 32-bit read (R5): one that is not aligned reads each register it touches, in ascending order and with its side
effects, and returns the bytes it addresses. -/
def regRead (src : Src) (a : Nat) (s : State) : Word × State :=
  let k := a % 4
  let x := regRead1 src (a - k) s
  if k = 0 then x
  else
    let y := regRead1 src (a - k + 4) x.2
    ((x.1 >>> (8 * k)) ||| (y.1 <<< (32 - 8 * k)), y.2)

/-! ### Writes -/

/-- A write to a GLB register (chapter 19). -/
def glbWrite (o : Nat) (v : Word) (s : State) : State :=
  let g := s.glb
  match o with
  | 0x20 => { s with glb := { g with cfgIgnored := g.cfgIgnored && !flag v 31 } }
  | 0x24 => if flag v 0 then hostGo s else s
  | 0x28 => { s with glb := { g with bootAddr := putLo g.bootAddr v } }
  | 0x2C => { s with glb := { g with bootAddr := putHi g.bootAddr v } }
  | 0x30 => { s with glb := { g with bootLen := fld v 0 22 } }
  | 0x3C => if v = 0xB007 then enterReset 3 s else s
  | _ => s

/-- A value held between two bounds. -/
def clamp (lo hi n : Nat) : Nat := max lo (min hi n)

/-- A write to a PWR register (chapter 18). -/
def pwrWrite (o : Nat) (v : Word) (s : State) : State :=
  let p := s.pwr
  match o with
  | 0x04 => { s with pwr := { p with cfgIgnored := p.cfgIgnored && !flag v 7 } }
  | 0x08 => if flag v 1 then testWrite (pwrCtrlWrite v s) else pwrCtrlWrite v s
  | 0x0C => { s with pwr := { p with capW := clamp 15 45 (fld v 0 6) } }
  | 0x10 => { s with pwr := { p with surgeEn := flag v 0, maxMs := fld v 8 10, gapMs := fld v 18 14 } }
  | 0x18 => { s with pwr := { p with surgeTj := clamp 60 100 (fld v 8 8) } }
  | 0x20 => { s with pwr := { p with holdThr := fld v 0 11 } }
  | _ => s

/-- TMP with a static field written: sealed, the write is ignored (R432). -/
def tmpStatic (f : Tmp → Tmp) (s : State) : State :=
  let t := f s.tmp
  if ¬ s.tmp.sealed then { s with tmp := t }
  else if t = s.tmp then s
  else { s with tmp := { s.tmp with cfgIgnored := true } }

/-- TMP_CLASS as a write leaves it: the field of a source that its fuse disables is ignored (R433). -/
def classesWith (s : State) (v : Word) : Word :=
  word ((List.range 13).map (fun n => (fld (if fused s n then s.tmp.classes else v) (2 * n) 2, 2 * n)))

/-- A write to a TMP register (chapter 21). -/
def tmpWrite (o : Nat) (v : Word) (s : State) : State :=
  let t := s.tmp
  match o with
  | 0x00 => { s with tmp := { t with
      bbramLost := t.bbramLost && !flag v 2, tamperOut := t.tamperOut && !flag v 4, cfgIgnored := t.cfgIgnored && !flag v 6 } }
  | 0x04 => if flag v 0 then sealWrite s else s
  | 0x08 => tmpStatic (fun t => { t with classes := classesWith s v }) s
  | 0x0C => { s with tmp := { t with alarm := t.alarm - (t.alarm &&& fld v 0 14) } }
  | 0x10 => tmpStatic (fun t => { t with win0 := v &&& 0x0FFF0FFF }) s
  | 0x14 => tmpStatic (fun t => { t with win1 := v &&& 0x0FFF0FFF }) s
  | 0x18 => tmpStatic (fun t => { t with win2 := v &&& 0x0FFF0FFF }) s
  | 0x1C => tmpStatic (fun t => { t with tempWin := v &&& 0xFFFF }) s
  | 0x20 => tmpStatic (fun t => { t with inCfg := fld v 0 16 &&& 0xFF0F }) s
  | 0x28 => fuseWrite v s
  | 0x40 => access .tmp 0 3 1 true 0 0 none { s with tmp := { t with logIdx := fld v 0 8 } }
  | _ => s

/-- A write to a register of core `u` (chapter 13): static while the core owns a command. -/
def seqWrite (u o : Nat) (v : Word) (s : State) : State :=
  let c := coreU s u
  match o with
  | 0x04 => setCore u { c with cfgIgnored := c.cfgIgnored && !flag v 24 } s
  | 0x08 =>
    let t := { c with dzEn := flag v 0, ovEn := flag v 1 }
    if c.cmd.isNone then setCore u t s
    else if t = c then s
    else setCore u { c with cfgIgnored := true } s
  | _ => s

/-- A static field of digest engine `u`: a message under way keeps it (R7, R513). -/
def dgeStatic (u : Nat) (f : Dge → Dge) (s : State) : State :=
  let d := dgeU s u
  if d.st = .absorbing ∨ d.st = .finishing then
    if f d = d then s else setDge u { d with cfgIgnored := true } s
  else setDge u (f d) s

/-- DGE_CFG as a write leaves it: keyed is a sequencer owner's alone. -/
def dgeCfg (src : Src) (v : Word) (d : Dge) : Dge :=
  let own : Bool := match src with | .core _ => true | _ => false
  { d with
    alg := fld v 0 4, compare := flag v 4, keyed := flag v 5 && own, source := flag v 6
    cfgIgnored := d.cfgIgnored || (flag v 5 && !own) }

/-- A write to a register of digest engine `u` (chapter 10). DGE_STATUS is none of the registers that R233 keeps for the
owner. With claim and release both 1 it releases and then claims (DESIGN CHOICE, log 113). -/
def dgeWrite (src : Src) (u : Fin 16) (o : Nat) (v : Word) (s : State) : State :=
  let put (f : Dge → Dge) : State := dgeOwned src u (fun s => setDge u (f (dgeU s u)) s) s
  let stat (f : Dge → Dge) : State := dgeOwned src u (dgeStatic u f) s
  match o with
  | 0x00 =>
    let s := if flag v 1 then after (execDgeRelease src u s) s else s
    if flag v 0 then after (execDgeClaim src u s) s else s
  | 0x04 => stat (dgeCfg src v)
  | 0x08 => after (execDgeLen src u v s) s
  | 0x0C => stat (fun d => { d with outlen := fld v 0 25 })
  | 0x10 => stat (fun d => { d with dmaIn := putLo d.dmaIn v })
  | 0x14 => stat (fun d => { d with dmaIn := putHi d.dmaIn v })
  | 0x18 => stat (fun d => { d with dmaOut := putLo d.dmaOut v })
  | 0x1C => stat (fun d => { d with dmaOut := putHi d.dmaOut v })
  | 0x20 => put (fun d => dgeLate { d with dataLo := v })
  | 0x24 => after (execDgeDataWord src u v s) s
  | 0x28 => put (fun d => dgeLate { d with lastLo := v })
  | 0x2C => put (fun d => dgeLate { d with lastHi := v })
  | 0x30 => after (execDgeLastCount src u v s) s
  | 0x34 => after (execDgeKeyfeedGo src u v s) s
  | 0x38 => put (fun d => { d with timeoutUs := fld v 0 16 })
  | 0x3C => if regOpen src s then setDge u { dgeU s u with
      cfgIgnored := (dgeU s u).cfgIgnored && !flag v 10, foreign := (dgeU s u).foreign && !flag v 11 } s else s
  | _ =>
    if 0x80 ≤ o ∧ o < 0xC0 ∧ o % 4 = 0 then
      put (fun d => { d with expect := overlay (fit 64 d.expect) (o - 0x80) (leBytes 4 v.toNat) })
    else s

/-- A static field of check-value unit `u`: a running scan keeps it. -/
def cvuStatic (u : Nat) (f : Cvu → Cvu) (s : State) : State :=
  let c := cvuU s u
  if c.st = .running then if f c = c then s else setCvu u { c with cfgIgnored := true } s
  else setCvu u (f c) s

/-- A write to a register of check-value unit `u` (chapter 17). With claim and release both 1 it releases and then claims,
with start and stop both 1 it starts and then stops (DESIGN CHOICE, log 113). -/
def cvuWrite (src : Src) (u : Fin 8) (o : Nat) (v : Word) (s : State) : State :=
  let stat (f : Cvu → Cvu) : State := cvuOwned src u (cvuStatic u f) s
  match o with
  | 0x00 =>
    let s := if flag v 1 then after (execCvuRelease src u s) s else s
    if flag v 0 then after (execCvuClaim src u s) s else s
  | 0x04 => stat (fun c => { c with
      alg := fld v 0 3, source := fld v 3 2, guard := fld v 5 2, cont := flag v 7, alive := fld v 8 4 })
  | 0x08 => stat (fun c => { c with addr := putLo c.addr v })
  | 0x0C => stat (fun c => { c with addr := putHi c.addr v })
  | 0x10 => stat (fun c => { c with len := v.toNat })
  | 0x14 =>
    let s := if flag v 0 then after (execCvuStart src u s) s else s
    if flag v 1 then after (execCvuStop src u s) s else s
  | 0x18 => stat (fun c => { c with seq := v })
  | 0x1C => stat (fun c => { c with fold := putLo c.fold v })
  | 0x20 => stat (fun c => { c with fold := putHi c.fold v })
  | 0x24 => stat (fun c => { c with run := putLo c.run v })
  | 0x28 => stat (fun c => { c with run := putHi c.run v })
  | 0x38 => cvuOwned src u (fun s => setCvu u { cvuU s u with
      cfgIgnored := (cvuU s u).cfgIgnored && !flag v 5, foreign := (cvuU s u).foreign && !flag v 6 } s) s
  | _ => s

/-- A write to an ENT register (chapter 12). -/
def entWrite (src : Src) (o : Nat) (v : Word) (s : State) : State :=
  let e := s.ent
  match o with
  | 0x00 => { s with ent := { e with
      switched := e.switched && !flag v 4, entErr := e.entErr && !flag v 5, testDenied := e.testDenied && !flag v 8
      cfgIgnored := e.cfgIgnored && !flag v 9 } }
  | 0x08 => if flag v 0 then after (execRetest src s) s else s
  | 0x0C => { s with ent := { e with wait100 := fld v 0 16 } }
  | 0x20 => entTestWrite v s
  | 0x24 => entPatternWrite v s
  | _ => s

/-- A write to MEM_MGR_QUOTA: busy while instance 0 has a resident key; a value that the pool does not cover is
ignored. -/
def quotaWrite (n : Nat) (s : State) : State :=
  let mine := pagesOfInst s 0
  let busy := s.kvt.res.any (fun p => hInst p.1 == 0 && p.2.isSome)
  if n = s.mem.mgrQuota then s
  else if busy ∨ 98304 < reservedMib s - mine.length + n then { s with mem := { s.mem with cfgIgnored := true } }
  else reserveMib 0 n (returnMib 0 { s with mem := { s.mem with mgrQuota := n } })

/-- A write to a MEM register (chapter 14). -/
def memWrite (o : Nat) (v : Word) (s : State) : State :=
  let m := s.mem
  match o with
  | 0x00 => { s with mem := { m with cfgIgnored := m.cfgIgnored && !flag v 10 } }
  | 0x04 => { s with mem := { m with
      scrubEn := flag v 0, scrubHours := fld v 8 8, spareEn := flag v 16, spareThr := fld v 24 3 } }
  | 0x08 => quotaWrite (fld v 0 17) s
  | _ => s

/-- A write to a TLK register (chapter 16): disc_wait is static from the start of DISCOVER, before which TLK does not
answer. -/
def tlkWrite (o : Nat) (v : Word) (s : State) : State :=
  let t := s.tlk
  match o with
  | 0x00 => { s with tlk := { t with cfgIgnored := t.cfgIgnored && !flag v 11 } }
  | 0x04 => { s with tlk := { t with
      memberTimeout := fld v 10 10, cfgIgnored := t.cfgIgnored || fld v 0 10 != t.discWait } }
  | 0x08 => { s with tlk := { t with lendWeight := fld v 0 16, lendMax := fld v 16 7 } }
  | _ => s

/-- CAD_SAMP_CTRL.clear (R467): the buffer is empty, nothing lost. -/
def sampClear (n : Nat) (s : State) : State :=
  setBuf n { bufU s n with entries := [], head := 0, count := 0, lost := 0, gap := false } s

/-- CAD_SAMP_IDX (R467): the slot's entry is copied. -/
def sampIdx (n slot : Nat) (s : State) : State :=
  { s with cad := { s.cad with
    idx := Tbl.set 0 s.cad.idx n slot, out := Tbl.set {} s.cad.out n (Tbl.get {} (bufU s n).entries slot) } }

/-- A write to a CAD register (chapter 23). -/
def cadWrite (o : Nat) (v : Word) (s : State) : State :=
  match cadPlace o with
  | some (b, u, k, r) => cntWrite b u k r v s
  | none =>
    if o = 0 then { s with cad := { s.cad with extRead := flag v 0 } }
    else if o = 4 then { s with cad := { s.cad with cfgIgnored := s.cad.cfgIgnored && !flag v 0 } }
    else if 0x20000 ≤ o ∧ o < 0x20000 + 0x20 * 80 then
      let n := (o - 0x20000) / 0x20
      match o % 0x20 with
      | 0x00 =>
        let s := setBuf n { bufU s n with precise := flag v 0, wrap := flag v 1, coreInt := flag v 3 && decide (n < 16) } s
        if flag v 2 then sampClear n s else s
      | 0x08 => sampIdx n (fld v 0 8) s
      | _ => s
    else s

/-- R427: TEST, and a session with permission 5. -/
def scanOk (s : State) : Bool := s.pwr.mode == .test && s.dbg.session && s.dbg.perm.testBit 5

/-- Before the first BIST or scan shift the working secrets are erased (R427). -/
def eraseOnce (s : State) : State :=
  if s.dbg.erased then s
  else
    let t := eraseVolatile s
    { t with dbg := { t.dbg with erased := true } }

/-- DBG_BIST.start (R427). -/
def bistStart (s : State) : State :=
  if scanOk s ∧ ¬ s.dbg.bistRun then
    let t := eraseOnce s
    { t with dbg := { t.dbg with bistRun := true, bistDone := false, bistFail := false, bistFirst := 0 } }
  else s

/-- A write to a DBG register (chapter 20). -/
def dbgWrite (o : Nat) (v : Word) (s : State) : State :=
  let d := s.dbg
  match o with
  | 0x00 => { s with dbg := { d with tokenBad := d.tokenBad && !flag v 5, denied := d.denied && !flag v 6 } }
  | 0x04 =>
    let s := if flag v 0 then closeSession s else s
    if flag v 1 then { s with dbg := { s.dbg with deny := true } } else s
  | 0x08 => if flag v 0 then bistStart s else s
  | _ => s

/-- A write to a block's register. -/
def blkWrite (src : Src) (b : Blk) (u o : Nat) (v : Word) (s : State) : State :=
  match b with
  | .glb => glbWrite o v s
  | .pwr => pwrWrite o v s
  | .tmp => tmpWrite o v s
  | .hif => if 0x10000 ≤ o ∧ o < 0x20000 then portWrite 0 (o - 0x10000) v s else hifWrite o v s
  | .seq => seqWrite u o v s
  | .hub => if h : u < 64 then if o = 8 then after (execOfflineReq ⟨u, h⟩ (flag v 0) s) s else s else s
  | .dge => if h : u < 16 then dgeWrite src ⟨u, h⟩ o v s else s
  | .ent => entWrite src o v s
  | .cvu => if h : u < 8 then cvuWrite src ⟨u, h⟩ o v s else s
  | .mem => memWrite o v s
  | .tlk => tlkWrite o v s
  | .cad => cadWrite o v s
  | .dbg => dbgWrite o v s
  | .lcs => s
  | .hsa => s
  | .kvt => s

/-- A 32-bit write to a register (R5, R7, R8, R499); one that is not aligned is discarded. -/
def regWrite (src : Src) (a : Nat) (v : Word) (s : State) : State :=
  let vf : Option Nat := match src with
    | .host fn => if fn.val = 0 then none else some fn.val
    | _ => none
  match vf with
  | some f => if portsOpen s ∧ a < 0x10000 then portWrite f a v s else s
  | none =>
    if a % 4 ≠ 0 then s
    else match placeReg a with
      | none => s
      | some (b, u, o) =>
        if 0x0F00 ≤ o ∧ o < 0x0F1C ∧ ¬ (b = .dge ∧ u = 16) ∧ ¬ (b = .cvu ∧ u = 8) then
          if fltHere s src b u then fltWrite b u o v s else s
        else if answers src b o s then blkWrite src b u o v s
        else s

/-- REGISTER_WRITE (R7): a write by the access kinds of the register's fields. -/
def execRegisterWrite (src : Src) (off : Nat) (v : Word) (s : State) : Res := .next (regWrite src off v (touch src s))

/-- CAD_SAMP_CLEAR (R467). -/
def execCadSampClear (src : Src) (n : Fin 80) (s : State) : Res :=
  let s := touch src s
  .next (if regOpen src s then sampClear n s else s)

/-- CAD_SAMP_IDX (R467). -/
def execCadSampIdx (src : Src) (n : Fin 80) (slot : BitVec 8) (s : State) : Res :=
  let s := touch src s
  .next (if regOpen src s then sampIdx n slot.toNat s else s)

/-- COUNTER_WRAP (R463): a counter at its maximum takes one more occurrence. -/
def execCounterWrap (bank : Bank) (unit k : Nat) (s : State) : Res :=
  .next (if (cntU s bank unit k).val = 2 ^ 48 - 1 then cntAdd bank unit (bankSize bank) k 1 s else s)

end Sys2Proof.Machine
end

