-- ==== Sys2Proof/Machine/Debug.lean ====
section
/-! DEFINITION. The test access port and debug sessions (R421–R427), and the SMBus target (R479). -/
namespace Sys2Proof.Machine
open Sys2Proof

/-- The functional state after the first scan shift, which is undefined until RESET (R427). -/
opaque Config.afterScan : Nat → State → State

/-! ### Boundary scan (R422, Table 18-7) -/

/-- Has the TAP power? -/
def tapOn (s : State) : Bool := s.pwr.mode != .off

/-- Does the TAP answer debug instructions? OFF, WATCH and RESET leave boundary scan alone. -/
def tapDebug (s : State) : Bool := fltOpen s.pwr.mode

/-- Load a TAP instruction; only EXTEST drives the pins. -/
def loadIr (ir : TapIr) (out : Bytes) (s : State) : State :=
  { s with dbg := { s.dbg with ir := ir, tdo := out, extPins := if ir = .extest then s.dbg.extPins else none } }

/-- EXTEST (R422): the boundary register drives the pins; what it sampled, which is open, is shifted out. -/
def execExtest (dr : Bytes) (s : State) : Res :=
  .next (if tapOn s then
    let r := freeBytes dr.length s
    let t := loadIr .extest r.1 r.2
    { t with dbg := { t.dbg with boundary := dr, extPins := some dr } }
  else s)

/-- IDCODE (R422): 0x1256_09AB. -/
def execIdcode (s : State) : Res := .next (if tapOn s then loadIr .idcode (leBytes 4 0x125609AB) s else s)

/-- SAMPLE/PRELOAD (R422): the pins' levels, which are open, are shifted out and the boundary register is loaded. -/
def execSamplePreload (dr : Bytes) (s : State) : Res :=
  .next (if tapOn s then
    let r := freeBytes dr.length s
    let t := loadIr .samplePreload r.1 r.2
    { t with dbg := { t.dbg with boundary := dr } }
  else s)

/-- BYPASS (R422): one bit, which captures 0. -/
def execBypass (s : State) : Res := .next (if tapOn s then loadIr .bypass [0] s else s)

/-- DBG_TRST_N low (R422, R425): the TAP is reset and the session closes. -/
def execDbgTrst (s : State) : Res :=
  .next (if tapOn s then
    let t := closeSession (loadIr .idcode [] s)
    { t with dbg := { t.dbg with token := if s.dbg.verifying then s.dbg.token else [], regOut := 0, memOut := [] } }
  else s)

/-! ### Challenge and token (R423, R424) -/

/-- May a challenge be drawn (R423)? -/
def mayChallenge (s : State) : Bool :=
  entReady s && !s.dbg.deny && tapDebug s && s.pwr.mode != .boot && s.pwr.mode != .locked && decide (32 ≤ s.ent.fifo.length)

/-- DBG_CHAL (R422, R423): status and challenge are shifted out; a request takes 32 bytes of the ENT_DATA FIFO. -/
def execDbgChal (request : Bool) (s : State) : Res :=
  .next (if tapDebug s then
    let t := loadIr .dbgChal (leBytes 1 (dbgStatus s).toNat ++ s.dbg.chal.getD (zeros 32)) s
    if request ∧ mayChallenge s then
      { t with
        dbg := { t.dbg with chal := some (s.ent.fifo.take 32) }, ent := { t.ent with fifo := t.ent.fifo.drop 32 } }
    else t
  else s)

/-- DBG_CHAL_EXPIRY (R423): 60 s have passed. -/
def execDbgChalExpiry (s : State) : Res := .next { s with dbg := { s.dbg with chal := none } }

/-- DBG_TOKEN (R422): a byte joins the token buffer; 0xA5 after 0xA5 0x5A submits what precedes the three. -/
def execDbgToken (b : Byte) (s : State) : Res :=
  .next (if tapDebug s then
    let t := loadIr .dbgToken [0] s
    if s.dbg.verifying then t
    else
      let m := s.dbg.token ++ [b]
      if m.drop (m.length - 3) = [0xA5, 0x5A, 0xA5] then
        { t with dbg := { t.dbg with token := m.take (m.length - 3), verifying := true } }
      else { t with dbg := { t.dbg with token := m } }
  else s)

/-- The signers and the permissions that a life-cycle state accepts (R424). -/
def signerOk (st : LcState) (signer perm : Nat) : Bool :=
  match st with
  | .maker => signer == 1 && decide (perm < 64)
  | .integrator => (signer == 1 || signer == 3) && decide (perm < 32)
  | .fielded => signer == 2 && decide (perm < 32)
  | .returned => signer == 1 && decide (perm < 64)
  | .scrapped => false

/-- Does a token's proof hold (R424)? -/
def proofOk (s : State) (t : Bytes) : Bool :=
  let m := t.take 56
  let p := t.drop 56
  match byteAt t 4 with
  | 1 => p.length == 4627 && vendorVerify m p
  | 2 => p.length == 4627 && (match s.bbram.ownDigest with | some d => ownerVerify d m p | none => false)
  | 3 => (match s.bbram.intSeed with | some z => p == kdf z m | none => false)
  | _ => false

/-- Is a token valid (R424)? -/
def debugTokenOk (s : State) (t : Bytes) : Bool :=
  t.take 4 == ascii "UQDT" && signerOk s.lcs.st (byteAt t 4) (byteAt t 5) && decide (1 ≤ leAt t 6 2) &&
    slice t 8 16 == fit 16 (identity s) && s.dbg.chal == some (slice t 24 32) && proofOk s t

/-- May a session open in the mode (Table 18-7)? -/
def sessionMode (m : Mode) : Bool :=
  match m with
  | .off | .watch | .reset | .boot | .drain | .locked => false
  | _ => true

/-- DBG_TOKEN_VERIFY (R424): the session opens, with a log entry, or token_bad is set; the challenge is spent. -/
def execDbgTokenVerify (s : State) : Res :=
  .next (if s.dbg.verifying then
    let t := s.dbg.token
    let d := { s.dbg with verifying := false, token := [], chal := none }
    if debugTokenOk s t ∧ sessionMode s.pwr.mode then
      logTamper 0x80 0 0 0 { s with
        dbg := { d with session := true, openedAt := s.now, signer := byteAt t 4, perm := byteAt t 5, remaining := leAt t 6 2 } }
    else { s with dbg := { d with tokenBad := true } }
  else s)

/-- DBG_SESSION_EXPIRY (R425). -/
def execDbgSessionExpiry (s : State) : Res := .next (if s.dbg.session then closeSession s else s)

/-- DBG_CLOSE (R425): DBG_CTRL.close. -/
def execDbgClose (src : Src) (s : State) : Res :=
  let s := touch src s
  .next (if regOpen src s then closeSession s else s)

/-- DBG_DENY (R423): DBG_CTRL.deny, until RESET. -/
def execDbgDeny (src : Src) (s : State) : Res :=
  let s := touch src s
  .next (if regOpen src s then { s with dbg := { s.dbg with deny := true } } else s)

/-! ### Accesses (R421, R422, Table 20-5) -/

/-- Does the session's token grant a permission? -/
def granted (s : State) (p : Nat) : Bool := s.dbg.session && s.dbg.perm.testBit p && s.lcs.st != .scrapped

/-- DBG_REG (R422): the result of the previous access is shifted out; an access that the token does not allow is
refused. -/
def execDbgReg (write : Bool) (off data : Word) (s : State) : Res :=
  .next (if tapDebug s then
    let t := loadIr .dbgReg (leBytes 9 s.dbg.regOut.toNat) s
    if ¬ granted t (if write then 1 else 0) then
      { t with dbg := { t.dbg with regOut := 0, denied := true } }
    else if write then
      let u := regWrite .debug off.toNat data t
      { u with dbg := { u.dbg with regOut := 0 } }
    else
      let r := regRead .debug off.toNat t
      { r.2 with dbg := { r.2.dbg with regOut := r.1 } }
  else s)

/-- May the session read a memory of Table 20-5, rows numbered 0–7 from the top? -/
def memReadable (s : State) (space addr : Nat) : Bool :=
  let open_ := s.lcs.st == .maker || s.lcs.st == .returned
  granted s 4 && (match space with
    | 1 => decide (addr < 7) || (decide (19 ≤ addr) && decide (addr < 37))
    | 2 => open_
    | 3 => true
    | 4 => open_
    | 5 => true
    | 6 => true
    | 7 => true
    | _ => false)

/-- Eight bytes of the DRAM (Table 20-5): plaintext by device address in Maker and Returned; elsewhere ciphertext by device
address, and from 2^37 on the sidebands, 16 bytes a line (DESIGN CHOICE, log 131). -/
def dramBytes (a : Nat) (s : State) : Bytes × State :=
  let p := linePlain (a % 2 ^ 37 / 64) s
  let q := linePlain (a % 2 ^ 37 / 64 + 1) p.2
  if s.lcs.st = .maker ∨ s.lcs.st = .returned then (slice (p.1 ++ q.1) (a % 64) 8, q.2)
  else if a < 2 ^ 37 then
    (slice ((lineStored s.mem.keyVal (a / 64) p.1).take 64 ++ (lineStored s.mem.keyVal (a / 64 + 1) q.1).take 64) (a % 64) 8, q.2)
  else
    let l := a % 2 ^ 37 / 16
    let p := linePlain l s
    let q := linePlain (l + 1) p.2
    (slice ((lineStored s.mem.keyVal l p.1).drop 64 ++ (lineStored s.mem.keyVal (l + 1) q.1).drop 64) (a % 16) 8, q.2)

/-- The eight bytes of a memory at an address: OTP by word, registers by BAR0 offset, the DRAM's lines, zeros while its keys
are cleared (R317). The spec gives the other memories no addresses: those bytes are open. -/
def memBytes (space addr : Nat) (s : State) : Bytes × State :=
  let openBytes := ((List.range 8).map (fun i => Config.debugByte space (addr + i) s.free), { s with free := s.free + 1 })
  match space with
  | 1 => (leBytes 8 (otpWord s addr), s)
  | 6 =>
    let a := regRead .debug addr s
    let b := regRead .debug (addr + 4) a.2
    (leBytes 4 a.1.toNat ++ leBytes 4 b.1.toNat, b.2)
  | 7 => if s.mem.keys then dramBytes addr s else (zeros 8, s)
  | _ => openBytes

/-- DBG_MEM (R421, R422): the bytes of the previous address are shifted out. -/
def execDbgMem (space : BitVec 8) (addr : BitVec 64) (s : State) : Res :=
  .next (if tapDebug s then
    let t := loadIr .dbgMem (fit 8 s.dbg.memOut) s
    if memReadable t space.toNat addr.toNat then
      let r := memBytes space.toNat addr.toNat t
      { r.2 with dbg := { r.2.dbg with memOut := r.1 } }
    else { t with dbg := { t.dbg with memOut := [], denied := true } }
  else s)

/-! ### BIST and scan (R427) -/

/-- DBG_BIST_START (R427). -/
def execDbgBistStart (src : Src) (s : State) : Res :=
  let s := touch src s
  .next (if regOpen src s then bistStart s else s)

/-- DBG_BIST_DONE (R427): the first failing block, if any, by bits [31:16] of its base. -/
def execDbgBistDone (failBlock : Option (BitVec 16)) (s : State) : Res :=
  .next (if s.dbg.bistRun then
    { s with dbg := { s.dbg with
      bistRun := false, bistDone := true, bistFail := failBlock.isSome
      bistFirst := match failBlock with | some b => b.toNat | none => 0 } }
  else s)

/-- The TAP codes of Table 20-6; a vendor scan instruction has another. -/
def tapCodes : List Nat := [0x00, 0x01, 0x02, 0x10, 0x11, 0x12, 0x13, 0xFF]

/-- SCAN_SHIFT (R427): in TEST under permission 5. The first shift erases the working secrets; from then on functional
state is undefined until RESET, the always-on domain, BBRAM, OTP, the flash, power and the TAP apart. -/
def execScanShift (ir : Byte) (dr : Bytes) (s : State) : Res :=
  .next (if scanOk s ∧ ¬ tapCodes.contains ir.toNat then
    let r := freeBytes dr.length (eraseOnce s)
    let e := loadIr .scan r.1 r.2
    let u := Config.afterScan e.free e
    { u with
      pending := e.pending, now := e.now, free := e.free + 1, host := e.host, bbram := e.bbram, pwr := e.pwr
      lcs := e.lcs, tmp := e.tmp, pins := e.pins, dbg := e.dbg
      glb := { u.glb with flashA := e.glb.flashA, flashB := e.glb.flashB, badSlots := e.glb.badSlots } }
  else if tapOn s then loadIr .bypass [0] s
  else s)

/-! ### The SMBus target (R479) -/

/-- Does the target answer its address: from the sensing of OTP until RESET? -/
def smbUp (s : State) : Bool := s.lcs.sensed && fltOpen s.pwr.mode

/-- The status block. -/
def smbBlock (s : State) : Bytes :=
  fit 16 (identity s) ++ [BitVec.ofNat 8 (lcNum s.lcs.st), BitVec.ofNat 8 (modeNum s.pwr.mode),
    BitVec.ofNat 8 (tmpStatus s).toNat, BitVec.ofNat 8 (s.glb.phase % 16 + s.glb.error * 16), BitVec.ofNat 8 s.pwr.tj] ++ zeros 11

/-- SMBUS_BLOCK_READ (R479): code 0 returns the status block and releases SMB_ALERT_N; any other is NACKed. -/
def execSmbusBlockRead (code : Byte) (s : State) : Res :=
  .next (if smbUp s ∧ code = 0 then
    { s with pins := { s.pins with smbOut := smbBlock s, smbNack := false, smbAlert := false } }
  else { s with pins := { s.pins with smbOut := [], smbNack := true } })

/-- SMBUS_ALERT_RESPONSE (R479): a target that holds SMB_ALERT_N low answers 0x5A, in the address's bits [7:1], and
releases it. -/
def execSmbusAlertResponse (s : State) : Res :=
  .next (if smbUp s ∧ s.pins.smbAlert then
    { s with pins := { s.pins with smbOut := [0xB4], smbNack := false, smbAlert := false } }
  else { s with pins := { s.pins with smbOut := [], smbNack := true } })

end Sys2Proof.Machine
end

