-- ==== Sys2Proof/Machine/IoOps.lean ====
section
/-! DEFINITION. The four data-memory instructions of the sequencer cores, which may reach the registers through the
I/O window (Table 13-1, Table 13-4). -/
namespace Sys2Proof.Machine
open Sys2Proof

/-- The BAR0 offset that a window address names (Table 13-1). -/
def windowOff (c : Core) (a : Nat) : Nat := c.win.toNat * 0x800000 + (a - 0x800000)

/-- LD or ST through the I/O window of core `n`: a read of the register into Dd, or a write of Dd to it; An
and the PC as for any memory operand. -/
def ioAccess (n : Fin 16) (o m an dd : Nat) (disp : BitVec 14) (s : State) : State :=
  let c := coreU s n
  let p := operandAddr m an disp 4 c
  let len := if m = 3 then 2 else 1
  let off := windowOff c p.1.toNat
  if o % 2 = 1 then regWrite (.core n) off (getD c dd) (updCore n (fun c => adv len (setA c an p.2)) s)
  else
    let r := regRead (.core n) off s
    updCore n (fun c => adv len (setA (setD c dd r.1) an p.2)) r.2

/-- A memory instruction of a core: `o` is 0 LD, 1 ST, 2 LDB, 3 STB. -/
def sMem (n : Fin 16) (o : Nat) (m : BitVec 2) (an : BitVec 3) (dd : BitVec 4) (ext : BitVec 14) (s : State) : State :=
  sStep (sMemIns o m an dd ext) n true 1 (memF o m.toNat an.toNat dd.toNat ext) (ioAccess n o m.toNat an.toNat dd.toNat ext) s

/-- LD (Table 13-4). -/
def execSLd (c : Fin 16) (m : BitVec 2) (an : BitVec 3) (dd : BitVec 4) (ext : BitVec 14) (s : State) : Res :=
  .next (sMem c 0 m an dd ext s)

/-- ST (Table 13-4). -/
def execSSt (c : Fin 16) (m : BitVec 2) (an : BitVec 3) (dd : BitVec 4) (ext : BitVec 14) (s : State) : Res :=
  .next (sMem c 1 m an dd ext s)

/-- LDB (Table 13-4). -/
def execSLdb (c : Fin 16) (m : BitVec 2) (an : BitVec 3) (dd : BitVec 4) (ext : BitVec 14) (s : State) : Res :=
  .next (sMem c 2 m an dd ext s)

/-- STB (Table 13-4). -/
def execSStb (c : Fin 16) (m : BitVec 2) (an : BitVec 3) (dd : BitVec 4) (ext : BitVec 14) (s : State) : Res :=
  .next (sMem c 3 m an dd ext s)

end Sys2Proof.Machine
end

