-- ==== Sys2Proof/Machine/Dispatch.lean ====
section
/-! DEFINITION. The dispatch of a command to its meaning. -/
namespace Sys2Proof.Machine
open Sys2Proof

def exec (i : Instr) (s : State) : Host.Outcome State Fault Refusal :=
  match i with
  | .sqDoorbell port q v => Sys2Proof.Machine.execSqDoorbell port q v s
  | .cqDoorbell port q v => Sys2Proof.Machine.execCqDoorbell port q v s
  | .qpEnable port q => Sys2Proof.Machine.execQpEnable port q s
  | .qpDisable port q => Sys2Proof.Machine.execQpDisable port q s
  | .msixVectorUnmask fn vec => Sys2Proof.Machine.execMsixVectorUnmask fn vec s
  | .coalTimeExpiry port q => Sys2Proof.Machine.execCoalTimeExpiry port q s
  | .packetFetch port q => Sys2Proof.Machine.execPacketFetch port q s
  | .derailleurDispatch kind unit => Sys2Proof.Machine.execDerailleurDispatch kind unit s
  | .epochBoundary => Sys2Proof.Machine.execEpochBoundary s
  | .engineCommandBoundary cmd => Sys2Proof.Machine.execEngineCommandBoundary cmd s
  | .functionLevelReset fn => Sys2Proof.Machine.execFunctionLevelReset fn s
  | .function0Reset cause => Sys2Proof.Machine.execFunction0Reset cause s
  | .instanceResetComplete inst => Sys2Proof.Machine.execInstanceResetComplete inst s
  | .pauseDrainEnd inst => Sys2Proof.Machine.execPauseDrainEnd inst s
  | .encapsulateInputKey cmd => Sys2Proof.Machine.execEncapsulateInputKey cmd s
  | .encapsulateHeldKey cmd => Sys2Proof.Machine.execEncapsulateHeldKey cmd s
  | .kemDecapsulate cmd => Sys2Proof.Machine.execKemDecapsulate cmd s
  | .sigVerifyInputKey cmd => Sys2Proof.Machine.execSigVerifyInputKey cmd s
  | .sigVerifyHeldKey cmd => Sys2Proof.Machine.execSigVerifyHeldKey cmd s
  | .sigSign cmd => Sys2Proof.Machine.execSigSign cmd s
  | .sha256 cmd => Sys2Proof.Machine.execSha256 cmd s
  | .sha384 cmd => Sys2Proof.Machine.execSha384 cmd s
  | .sha512 cmd => Sys2Proof.Machine.execSha512 cmd s
  | .sha3256 cmd => Sys2Proof.Machine.execSha3256 cmd s
  | .sha3384 cmd => Sys2Proof.Machine.execSha3384 cmd s
  | .sha3512 cmd => Sys2Proof.Machine.execSha3512 cmd s
  | .shake128 cmd => Sys2Proof.Machine.execShake128 cmd s
  | .shake256 cmd => Sys2Proof.Machine.execShake256 cmd s
  | .hmacSha256 cmd => Sys2Proof.Machine.execHmacSha256 cmd s
  | .hmacSha384 cmd => Sys2Proof.Machine.execHmacSha384 cmd s
  | .hmacSha512 cmd => Sys2Proof.Machine.execHmacSha512 cmd s
  | .kmac128 cmd => Sys2Proof.Machine.execKmac128 cmd s
  | .kmac256 cmd => Sys2Proof.Machine.execKmac256 cmd s
  | .randomFill cmd => Sys2Proof.Machine.execRandomFill cmd s
  | .randomFillPr cmd => Sys2Proof.Machine.execRandomFillPr cmd s
  | .aesEcbEncrypt cmd => Sys2Proof.Machine.execAesEcbEncrypt cmd s
  | .aesEcbDecrypt cmd => Sys2Proof.Machine.execAesEcbDecrypt cmd s
  | .aesCbcEncrypt cmd => Sys2Proof.Machine.execAesCbcEncrypt cmd s
  | .aesCbcDecrypt cmd => Sys2Proof.Machine.execAesCbcDecrypt cmd s
  | .aesCtr cmd => Sys2Proof.Machine.execAesCtr cmd s
  | .aesGcmEncrypt cmd => Sys2Proof.Machine.execAesGcmEncrypt cmd s
  | .aesGcmDecrypt cmd => Sys2Proof.Machine.execAesGcmDecrypt cmd s
  | .aesXtsEncrypt cmd => Sys2Proof.Machine.execAesXtsEncrypt cmd s
  | .aesXtsDecrypt cmd => Sys2Proof.Machine.execAesXtsDecrypt cmd s
  | .aesCmacGenerate cmd => Sys2Proof.Machine.execAesCmacGenerate cmd s
  | .aesCmacVerify cmd => Sys2Proof.Machine.execAesCmacVerify cmd s
  | .keyWrap cmd => Sys2Proof.Machine.execKeyWrap cmd s
  | .keyUnwrap cmd => Sys2Proof.Machine.execKeyUnwrap cmd s
  | .keyWrapPad cmd => Sys2Proof.Machine.execKeyWrapPad cmd s
  | .keyUnwrapPad cmd => Sys2Proof.Machine.execKeyUnwrapPad cmd s
  | .cvScan cmd => Sys2Proof.Machine.execCvScan cmd s
  | .keyGenerate cmd => Sys2Proof.Machine.execKeyGenerate cmd s
  | .keyImport cmd => Sys2Proof.Machine.execKeyImport cmd s
  | .keyReplace cmd => Sys2Proof.Machine.execKeyReplace cmd s
  | .keyCommit cmd => Sys2Proof.Machine.execKeyCommit cmd s
  | .keyAbandon cmd => Sys2Proof.Machine.execKeyAbandon cmd s
  | .keyLoad cmd => Sys2Proof.Machine.execKeyLoad cmd s
  | .keyEvict cmd => Sys2Proof.Machine.execKeyEvict cmd s
  | .keyInvalidate cmd => Sys2Proof.Machine.execKeyInvalidate cmd s
  | .keyExport cmd => Sys2Proof.Machine.execKeyExport cmd s
  | .keyPublic cmd => Sys2Proof.Machine.execKeyPublic cmd s
  | .keyInfo cmd => Sys2Proof.Machine.execKeyInfo cmd s
  | .keyShare cmd => Sys2Proof.Machine.execKeyShare cmd s
  | .keyAgreeStore cmd => Sys2Proof.Machine.execKeyAgreeStore cmd s
  | .sfsVerifyHss cmd => Sys2Proof.Machine.execSfsVerifyHss cmd s
  | .sfsVerifyXmss cmd => Sys2Proof.Machine.execSfsVerifyXmss cmd s
  | .sfsKeygen cmd => Sys2Proof.Machine.execSfsKeygen cmd s
  | .sfsSign cmd => Sys2Proof.Machine.execSfsSign cmd s
  | .sfsStatus cmd => Sys2Proof.Machine.execSfsStatus cmd s
  | .sfsRetire cmd => Sys2Proof.Machine.execSfsRetire cmd s
  | .devIdentity cmd => Sys2Proof.Machine.execDevIdentity cmd s
  | .devStatus cmd => Sys2Proof.Machine.execDevStatus cmd s
  | .instCreate cmd => Sys2Proof.Machine.execInstCreate cmd s
  | .instDestroy cmd => Sys2Proof.Machine.execInstDestroy cmd s
  | .instSetShare cmd => Sys2Proof.Machine.execInstSetShare cmd s
  | .instPause cmd => Sys2Proof.Machine.execInstPause cmd s
  | .instResume cmd => Sys2Proof.Machine.execInstResume cmd s
  | .instReset cmd => Sys2Proof.Machine.execInstReset cmd s
  | .instSetShield cmd => Sys2Proof.Machine.execInstSetShield cmd s
  | .instMigrateLog cmd => Sys2Proof.Machine.execInstMigrateLog cmd s
  | .instImportPrepare cmd => Sys2Proof.Machine.execInstImportPrepare cmd s
  | .instExport cmd => Sys2Proof.Machine.execInstExport cmd s
  | .instImport cmd => Sys2Proof.Machine.execInstImport cmd s
  | .lcAdvance cmd => Sys2Proof.Machine.execLcAdvance cmd s
  | .unlock cmd => Sys2Proof.Machine.execUnlock cmd s
  | .zeroize cmd => Sys2Proof.Machine.execZeroize cmd s
  | .reprovision cmd => Sys2Proof.Machine.execReprovision cmd s
  | .bundleStage cmd => Sys2Proof.Machine.execBundleStage cmd s
  | .patchInfo cmd => Sys2Proof.Machine.execPatchInfo cmd s
  | .extLoad cmd => Sys2Proof.Machine.execExtLoad cmd s
  | .extUnload cmd => Sys2Proof.Machine.execExtUnload cmd s
  | .extensionCommand cmd => Sys2Proof.Machine.execExtensionCommand cmd s
  | .vadd e a => Sys2Proof.Machine.execVadd e a s
  | .vsub e a => Sys2Proof.Machine.execVsub e a s
  | .vmul e a => Sys2Proof.Machine.execVmul e a s
  | .vmulh e a => Sys2Proof.Machine.execVmulh e a s
  | .vmac e a => Sys2Proof.Machine.execVmac e a s
  | .vneg e a => Sys2Proof.Machine.execVneg e a s
  | .vsqr e a => Sys2Proof.Machine.execVsqr e a s
  | .vclmul e a => Sys2Proof.Machine.execVclmul e a s
  | .vclmulh e a => Sys2Proof.Machine.execVclmulh e a s
  | .vand e a => Sys2Proof.Machine.execVand e a s
  | .vor e a => Sys2Proof.Machine.execVor e a s
  | .vxor e a => Sys2Proof.Machine.execVxor e a s
  | .vsll e a => Sys2Proof.Machine.execVsll e a s
  | .vsrl e a => Sys2Proof.Machine.execVsrl e a s
  | .vsra e a => Sys2Proof.Machine.execVsra e a s
  | .vsadd e a => Sys2Proof.Machine.execVsadd e a s
  | .vssub e a => Sys2Proof.Machine.execVssub e a s
  | .vsaddu e a => Sys2Proof.Machine.execVsaddu e a s
  | .vssubu e a => Sys2Proof.Machine.execVssubu e a s
  | .vmin e a => Sys2Proof.Machine.execVmin e a s
  | .vmax e a => Sys2Proof.Machine.execVmax e a s
  | .vwmul e u a => Sys2Proof.Machine.execVwmul e u a s
  | .vwmacc e u a => Sys2Proof.Machine.execVwmacc e u a s
  | .vwadd e u a => Sys2Proof.Machine.execVwadd e u a s
  | .vdot4 e u a => Sys2Proof.Machine.execVdot4 e u a s
  | .vdot2 e u a => Sys2Proof.Machine.execVdot2 e u a s
  | .vcmp e f a => Sys2Proof.Machine.execVcmp e f a s
  | .kLogic e f a => Sys2Proof.Machine.execKLogic e f a s
  | .kmov e a => Sys2Proof.Machine.execKmov e a s
  | .vtest e a => Sys2Proof.Machine.execVtest e a s
  | .vslideup e a => Sys2Proof.Machine.execVslideup e a s
  | .vslidedn e a => Sys2Proof.Machine.execVslidedn e a s
  | .vrgather e a => Sys2Proof.Machine.execVrgather e a s
  | .vbcast e a => Sys2Proof.Machine.execVbcast e a s
  | .vmerge e a => Sys2Proof.Machine.execVmerge e a s
  | .vredsum e a => Sys2Proof.Machine.execVredsum e a s
  | .vmv e a => Sys2Proof.Machine.execVmv e a s
  | .vld e a => Sys2Proof.Machine.execVld e a s
  | .vst e a => Sys2Proof.Machine.execVst e a s
  | .vgather e a => Sys2Proof.Machine.execVgather e a s
  | .vscatter e a => Sys2Proof.Machine.execVscatter e a s
  | .stagingResume e upTo => Sys2Proof.Machine.execStagingResume e upTo s
  | .vntt e a => Sys2Proof.Machine.execVntt e a s
  | .vintt e a => Sys2Proof.Machine.execVintt e a s
  | .vbmul e a => Sys2Proof.Machine.execVbmul e a s
  | .vsampleU e a => Sys2Proof.Machine.execVsampleU e a s
  | .vsampleCbd e a => Sys2Proof.Machine.execVsampleCbd e a s
  | .vsampleEta e a => Sys2Proof.Machine.execVsampleEta e a s
  | .vsampleBall e a => Sys2Proof.Machine.execVsampleBall e a s
  | .vdecomp e a => Sys2Proof.Machine.execVdecomp e a s
  | .vcompress e a => Sys2Proof.Machine.execVcompress e a s
  | .vdecompress e a => Sys2Proof.Machine.execVdecompress e a s
  | .vpack e a => Sys2Proof.Machine.execVpack e a s
  | .vunpack e a => Sys2Proof.Machine.execVunpack e a s
  | .va2b e a => Sys2Proof.Machine.execVa2b e a s
  | .vb2a e a => Sys2Proof.Machine.execVb2a e a s
  | .vafft e a => Sys2Proof.Machine.execVafft e a s
  | .viafft e a => Sys2Proof.Machine.execViafft e a s
  | .vgoppa e a => Sys2Proof.Machine.execVgoppa e a s
  | .vxofInit e a => Sys2Proof.Machine.execVxofInit e a s
  | .vxofAbs e a => Sys2Proof.Machine.execVxofAbs e a s
  | .vxofSq e a => Sys2Proof.Machine.execVxofSq e a s
  | .vkey e a => Sys2Proof.Machine.execVkey e a s
  | .vunmask e a => Sys2Proof.Machine.execVunmask e a s
  | .vmpmul e a => Sys2Proof.Machine.execVmpmul e a s
  | .vmpsqr e a => Sys2Proof.Machine.execVmpsqr e a s
  | .vmpred e a => Sys2Proof.Machine.execVmpred e a s
  | .vmpadd e a => Sys2Proof.Machine.execVmpadd e a s
  | .vmpsub e a => Sys2Proof.Machine.execVmpsub e a s
  | .vmpcswap e a => Sys2Proof.Machine.execVmpcswap e a s
  | .xop e a => Sys2Proof.Machine.execXop e a s
  | .xaddi e a => Sys2Proof.Machine.execXaddi e a s
  | .xshi e a => Sys2Proof.Machine.execXshi e a s
  | .xlih e a => Sys2Proof.Machine.execXlih e a s
  | .xld e a => Sys2Proof.Machine.execXld e a s
  | .xBranch e f a => Sys2Proof.Machine.execXBranch e f a s
  | .jal e xd off => Sys2Proof.Machine.execJal e xd off s
  | .jalr e a => Sys2Proof.Machine.execJalr e a s
  | .setvl e a => Sys2Proof.Machine.execSetvl e a s
  | .vsetq e a => Sys2Proof.Machine.execVsetq e a s
  | .vsetgf e a => Sys2Proof.Machine.execVsetgf e a s
  | .vend e a => Sys2Proof.Machine.execVend e a s
  | .waitCeilingExpiry e routine cond => Sys2Proof.Machine.execWaitCeilingExpiry e routine cond s
  | .holdTimerExpiry e => Sys2Proof.Machine.execHoldTimerExpiry e s
  | .engineInterrupt e kind => Sys2Proof.Machine.execEngineInterrupt e kind s
  | .sMov c dd ds => Sys2Proof.Machine.execSMov c dd ds s
  | .sAdd c dd ds => Sys2Proof.Machine.execSAdd c dd ds s
  | .sSub c dd ds => Sys2Proof.Machine.execSSub c dd ds s
  | .sAdc c dd ds => Sys2Proof.Machine.execSAdc c dd ds s
  | .sSbc c dd ds => Sys2Proof.Machine.execSSbc c dd ds s
  | .sAnd c dd ds => Sys2Proof.Machine.execSAnd c dd ds s
  | .sOr c dd ds => Sys2Proof.Machine.execSOr c dd ds s
  | .sXor c dd ds => Sys2Proof.Machine.execSXor c dd ds s
  | .sCmp c dd ds => Sys2Proof.Machine.execSCmp c dd ds s
  | .sTst c dd ds => Sys2Proof.Machine.execSTst c dd ds s
  | .sShl c dd ds => Sys2Proof.Machine.execSShl c dd ds s
  | .sShr c dd ds => Sys2Proof.Machine.execSShr c dd ds s
  | .sSar c dd ds => Sys2Proof.Machine.execSSar c dd ds s
  | .sMul c dd ds => Sys2Proof.Machine.execSMul c dd ds s
  | .sDivs c dd ds => Sys2Proof.Machine.execSDivs c dd ds s
  | .sDivu c dd ds => Sys2Proof.Machine.execSDivu c dd ds s
  | .sMovq c dd v => Sys2Proof.Machine.execSMovq c dd v s
  | .sAddq c dd v => Sys2Proof.Machine.execSAddq c dd v s
  | .sShli c dd v => Sys2Proof.Machine.execSShli c dd v s
  | .sShri c dd v => Sys2Proof.Machine.execSShri c dd v s
  | .sSari c dd v => Sys2Proof.Machine.execSSari c dd v s
  | .sRoli c dd v => Sys2Proof.Machine.execSRoli c dd v s
  | .sMovi c dd imm => Sys2Proof.Machine.execSMovi c dd imm s
  | .sAddi c dd imm => Sys2Proof.Machine.execSAddi c dd imm s
  | .sAndi c dd imm => Sys2Proof.Machine.execSAndi c dd imm s
  | .sOri c dd imm => Sys2Proof.Machine.execSOri c dd imm s
  | .sXori c dd imm => Sys2Proof.Machine.execSXori c dd imm s
  | .sCmpi c dd imm => Sys2Proof.Machine.execSCmpi c dd imm s
  | .sMovh c dd imm => Sys2Proof.Machine.execSMovh c dd imm s
  | .sTsti c dd imm => Sys2Proof.Machine.execSTsti c dd imm s
  | .sLd c m an dd ext => Sys2Proof.Machine.execSLd c m an dd ext s
  | .sSt c m an dd ext => Sys2Proof.Machine.execSSt c m an dd ext s
  | .sLdb c m an dd ext => Sys2Proof.Machine.execSLdb c m an dd ext s
  | .sStb c m an dd ext => Sys2Proof.Machine.execSStb c m an dd ext s
  | .sBset c x ext => Sys2Proof.Machine.execSBset c x ext s
  | .sBclr c x ext => Sys2Proof.Machine.execSBclr c x ext s
  | .sBnot c x ext => Sys2Proof.Machine.execSBnot c x ext s
  | .sBld c x ext => Sys2Proof.Machine.execSBld c x ext s
  | .sBst c x ext => Sys2Proof.Machine.execSBst c x ext s
  | .sJb c x ext => Sys2Proof.Machine.execSJb c x ext s
  | .sJnb c x ext => Sys2Proof.Machine.execSJnb c x ext s
  | .sWaitb c x ext => Sys2Proof.Machine.execSWaitb c x ext s
  | .waitbRelease c => Sys2Proof.Machine.execWaitbRelease c s
  | .sBcc c cond off ext => Sys2Proof.Machine.execSBcc c cond off ext s
  | .sMac c mx ds1 ds2 => Sys2Proof.Machine.execSMac c mx ds1 ds2 s
  | .sMacu c mx ds1 ds2 => Sys2Proof.Machine.execSMacu c mx ds1 ds2 s
  | .sMsu c mx ds1 ds2 => Sys2Proof.Machine.execSMsu c mx ds1 ds2 s
  | .sMulm c mx ds1 ds2 => Sys2Proof.Machine.execSMulm c mx ds1 ds2 s
  | .sMclr c mx dd => Sys2Proof.Machine.execSMclr c mx dd s
  | .sMld c mx dd => Sys2Proof.Machine.execSMld c mx dd s
  | .sMrdl c mx dd => Sys2Proof.Machine.execSMrdl c mx dd s
  | .sMrdh c mx dd => Sys2Proof.Machine.execSMrdh c mx dd s
  | .sMrdg c mx dd => Sys2Proof.Machine.execSMrdg c mx dd s
  | .sMsat c mx dd => Sys2Proof.Machine.execSMsat c mx dd s
  | .sMsar c mx dd => Sys2Proof.Machine.execSMsar c mx dd s
  | .sMins c mx dd => Sys2Proof.Machine.execSMins c mx dd s
  | .sNeg c dd => Sys2Proof.Machine.execSNeg c dd s
  | .sNot c dd => Sys2Proof.Machine.execSNot c dd s
  | .sAbs c dd => Sys2Proof.Machine.execSAbs c dd s
  | .sSextb c dd => Sys2Proof.Machine.execSSextb c dd s
  | .sSexth c dd => Sys2Proof.Machine.execSSexth c dd s
  | .sZextb c dd => Sys2Proof.Machine.execSZextb c dd s
  | .sZexth c dd => Sys2Proof.Machine.execSZexth c dd s
  | .sClz c dd => Sys2Proof.Machine.execSClz c dd s
  | .sPopc c dd => Sys2Proof.Machine.execSPopc c dd s
  | .sBswap c dd => Sys2Proof.Machine.execSBswap c dd s
  | .sMff c dd => Sys2Proof.Machine.execSMff c dd s
  | .sMtf c dd => Sys2Proof.Machine.execSMtf c dd s
  | .sMfw c dd => Sys2Proof.Machine.execSMfw c dd s
  | .sMtw c dd => Sys2Proof.Machine.execSMtw c dd s
  | .sMfpc c dd => Sys2Proof.Machine.execSMfpc c dd s
  | .sAmov c an ds => Sys2Proof.Machine.execSAmov c an ds s
  | .sDmova c an dd => Sys2Proof.Machine.execSDmova c an dd s
  | .sAaddq c an v => Sys2Proof.Machine.execSAaddq c an v s
  | .sAmod c an ds => Sys2Proof.Machine.execSAmod c an ds s
  | .sNop c => Sys2Proof.Machine.execSNop c s
  | .sRet c => Sys2Proof.Machine.execSRet c s
  | .sReti c => Sys2Proof.Machine.execSReti c s
  | .sEi c => Sys2Proof.Machine.execSEi c s
  | .sDi c => Sys2Proof.Machine.execSDi c s
  | .sSleep c => Sys2Proof.Machine.execSSleep c s
  | .sFence c => Sys2Proof.Machine.execSFence c s
  | .sRep c n => Sys2Proof.Machine.execSRep c n s
  | .sRepi c => Sys2Proof.Machine.execSRepi c s
  | .sJmp c ext => Sys2Proof.Machine.execSJmp c ext s
  | .sCall c ext => Sys2Proof.Machine.execSCall c ext s
  | .sJmpa c an => Sys2Proof.Machine.execSJmpa c an s
  | .sCalla c an => Sys2Proof.Machine.execSCalla c an s
  | .sDone c => Sys2Proof.Machine.execSDone c s
  | .sHalt c => Sys2Proof.Machine.execSHalt c s
  | .sTrap c n => Sys2Proof.Machine.execSTrap c n s
  | .svcIn c => Sys2Proof.Machine.execSvcIn c s
  | .svcOut c => Sys2Proof.Machine.execSvcOut c s
  | .svcKernel c => Sys2Proof.Machine.execSvcKernel c s
  | .svcDigest c => Sys2Proof.Machine.execSvcDigest c s
  | .svcRandom c => Sys2Proof.Machine.execSvcRandom c s
  | .svcCv c => Sys2Proof.Machine.execSvcCv c s
  | .seqInterrupt c kind => Sys2Proof.Machine.execSeqInterrupt c kind s
  | .seqAbort c => Sys2Proof.Machine.execSeqAbort c s
  | .extTimeLimit c => Sys2Proof.Machine.execExtTimeLimit c s
  | .dgeClaim src u => Sys2Proof.Machine.execDgeClaim src u s
  | .dgeRelease src u => Sys2Proof.Machine.execDgeRelease src u s
  | .dgeLen src u v => Sys2Proof.Machine.execDgeLen src u v s
  | .dgeDataWord src u v => Sys2Proof.Machine.execDgeDataWord src u v s
  | .dgeLastCount src u v => Sys2Proof.Machine.execDgeLastCount src u v s
  | .dgeKeyfeedGo src u v => Sys2Proof.Machine.execDgeKeyfeedGo src u v s
  | .dgeTimeoutExpiry u => Sys2Proof.Machine.execDgeTimeoutExpiry u s
  | .dgeFinish u => Sys2Proof.Machine.execDgeFinish u s
  | .cvuClaim src u => Sys2Proof.Machine.execCvuClaim src u s
  | .cvuRelease src u => Sys2Proof.Machine.execCvuRelease src u s
  | .cvuStart src u => Sys2Proof.Machine.execCvuStart src u s
  | .cvuStop src u => Sys2Proof.Machine.execCvuStop src u s
  | .cvuStopped u done => Sys2Proof.Machine.execCvuStopped u done s
  | .cvuScanDone u => Sys2Proof.Machine.execCvuScanDone u s
  | .offlineReq e on => Sys2Proof.Machine.execOfflineReq e on s
  | .engineGroupGate g => Sys2Proof.Machine.execEngineGroupGate g s
  | .engineGroupWake g => Sys2Proof.Machine.execEngineGroupWake g s
  | .engineReady e => Sys2Proof.Machine.execEngineReady e s
  | .blockResetEnd blk unit => Sys2Proof.Machine.execBlockResetEnd blk unit s
  | .engineTestEnd e pass => Sys2Proof.Machine.execEngineTestEnd e pass s
  | .mgReseedRequest e => Sys2Proof.Machine.execMgReseedRequest e s
  | .mgHalt e => Sys2Proof.Machine.execMgHalt e s
  | .mgSeedArrival e => Sys2Proof.Machine.execMgSeedArrival e s
  | .healthTestFail src apt => Sys2Proof.Machine.execHealthTestFail src apt s
  | .sourceSettleEnd => Sys2Proof.Machine.execSourceSettleEnd s
  | .startupTestEnd pass rct => Sys2Proof.Machine.execStartupTestEnd pass rct s
  | .conditionerBlockRelease => Sys2Proof.Machine.execConditionerBlockRelease s
  | .drbgReseedDue n => Sys2Proof.Machine.execDrbgReseedDue n s
  | .drbgStop n => Sys2Proof.Machine.execDrbgStop n s
  | .randomQueueFill n fifo => Sys2Proof.Machine.execRandomQueueFill n fifo s
  | .entWaitExpiry cmd => Sys2Proof.Machine.execEntWaitExpiry cmd s
  | .entDataRead src => Sys2Proof.Machine.execEntDataRead src s
  | .retest src => Sys2Proof.Machine.execRetest src s
  | .retestEnd pass rct => Sys2Proof.Machine.execRetestEnd pass rct s
  | .entTest src v => Sys2Proof.Machine.execEntTest src v s
  | .entTestPattern src v => Sys2Proof.Machine.execEntTestPattern src v s
  | .pendingRewrite slot => Sys2Proof.Machine.execPendingRewrite slot s
  | .pannierSweep inst => Sys2Proof.Machine.execPannierSweep inst s
  | .patrolScrubRead line errs => Sys2Proof.Machine.execPatrolScrubRead line errs s
  | .sparingCopyEnd seg => Sys2Proof.Machine.execSparingCopyEnd seg s
  | .memKeyLoad => Sys2Proof.Machine.execMemKeyLoad s
  | .memRegionInitDone region => Sys2Proof.Machine.execMemRegionInitDone region s
  | .memCeCntRead src p => Sys2Proof.Machine.execMemCeCntRead src p s
  | .fltInjectArm src blk unit v => Sys2Proof.Machine.execFltInjectArm src blk unit v s
  | .fltInjectDisarm src blk unit v => Sys2Proof.Machine.execFltInjectDisarm src blk unit v s
  | .reactAckHandled src blk unit v => Sys2Proof.Machine.execReactAckHandled src blk unit v s
  | .reactAckKeepOffline src blk unit v => Sys2Proof.Machine.execReactAckKeepOffline src blk unit v s
  | .reactAckEscalate src blk unit v => Sys2Proof.Machine.execReactAckEscalate src blk unit v s
  | .reactionTimerExpiry blk unit => Sys2Proof.Machine.execReactionTimerExpiry blk unit s
  | .continuousCheckerError blk unit checker sub real => Sys2Proof.Machine.execContinuousCheckerError blk unit checker sub real s
  | .tamperAlarm src detail => Sys2Proof.Machine.execTamperAlarm src detail s
  | .tmpSeal src => Sys2Proof.Machine.execTmpSeal src s
  | .tmpFuseReq src v => Sys2Proof.Machine.execTmpFuseReq src v s
  | .otpBurnDone good => Sys2Proof.Machine.execOtpBurnDone good s
  | .bbramLoss => Sys2Proof.Machine.execBbramLoss s
  | .aoCrystalStart => Sys2Proof.Machine.execAoCrystalStart s
  | .aoPowerUp vbat vddIo => Sys2Proof.Machine.execAoPowerUp vbat vddIo s
  | .supplyLoss => Sys2Proof.Machine.execSupplyLoss s
  | .mainRailLoss => Sys2Proof.Machine.execMainRailLoss s
  | .mainRailsValid => Sys2Proof.Machine.execMainRailsValid s
  | .perstNAssert => Sys2Proof.Machine.execPerstNAssert s
  | .glbSoftReset src v => Sys2Proof.Machine.execGlbSoftReset src v s
  | .resetRelease role cascId bootSrc => Sys2Proof.Machine.execResetRelease role cascId bootSrc s
  | .otpSenseDone => Sys2Proof.Machine.execOtpSenseDone s
  | .journalRecovery => Sys2Proof.Machine.execJournalRecovery s
  | .verifierTestEnd pass => Sys2Proof.Machine.execVerifierTestEnd pass s
  | .bootImageSelect => Sys2Proof.Machine.execBootImageSelect s
  | .bundleVerify => Sys2Proof.Machine.execBundleVerify s
  | .bundleLoad => Sys2Proof.Machine.execBundleLoad s
  | .hostBootGo src => Sys2Proof.Machine.execHostBootGo src s
  | .selfTestUnitResult digestOk aesOk => Sys2Proof.Machine.execSelfTestUnitResult digestOk aesOk s
  | .selfTestEngineResult pass => Sys2Proof.Machine.execSelfTestEngineResult pass s
  | .selfTestEnd suites => Sys2Proof.Machine.execSelfTestEnd suites s
  | .rollbackBurn => Sys2Proof.Machine.execRollbackBurn s
  | .bootEnd => Sys2Proof.Machine.execBootEnd s
  | .scrapObliterate => Sys2Proof.Machine.execScrapObliterate s
  | .freewheelEntry => Sys2Proof.Machine.execFreewheelEntry s
  | .freewheelWake => Sys2Proof.Machine.execFreewheelWake s
  | .surgeWindDown cause => Sys2Proof.Machine.execSurgeWindDown cause s
  | .surgeEnd => Sys2Proof.Machine.execSurgeEnd s
  | .testReq src v => Sys2Proof.Machine.execTestReq src v s
  | .drainEntry slow => Sys2Proof.Machine.execDrainEntry slow s
  | .drainTrim => Sys2Proof.Machine.execDrainTrim s
  | .drainRunWindowEnd => Sys2Proof.Machine.execDrainRunWindowEnd s
  | .drainQuiesce => Sys2Proof.Machine.execDrainQuiesce s
  | .drainResetEntry us => Sys2Proof.Machine.execDrainResetEntry us s
  | .linkTrained k two foreign => Sys2Proof.Machine.execLinkTrained k two foreign s
  | .linkSilenceTimeout k => Sys2Proof.Machine.execLinkSilenceTimeout k s
  | .heartbeatDue k => Sys2Proof.Machine.execHeartbeatDue k s
  | .discWaitExpiry => Sys2Proof.Machine.execDiscWaitExpiry s
  | .roleConflictTimeout => Sys2Proof.Machine.execRoleConflictTimeout s
  | .cascadeStart => Sys2Proof.Machine.execCascadeStart s
  | .memberTimeout p => Sys2Proof.Machine.execMemberTimeout p s
  | .frameAck k frame => Sys2Proof.Machine.execFrameAck k frame s
  | .frameNak k frame => Sys2Proof.Machine.execFrameNak k frame s
  | .frameHeartbeat k frame => Sys2Proof.Machine.execFrameHeartbeat k frame s
  | .frameToken k frame => Sys2Proof.Machine.execFrameToken k frame s
  | .frameAssign k frame => Sys2Proof.Machine.execFrameAssign k frame s
  | .frameAttest k frame => Sys2Proof.Machine.execFrameAttest k frame s
  | .frameKeyx k frame => Sys2Proof.Machine.execFrameKeyx k frame s
  | .frameGo k frame => Sys2Proof.Machine.execFrameGo k frame s
  | .frameLeave k frame => Sys2Proof.Machine.execFrameLeave k frame s
  | .frameLost k frame => Sys2Proof.Machine.execFrameLost k frame s
  | .frameReq k frame => Sys2Proof.Machine.execFrameReq k frame s
  | .frameRsp k frame => Sys2Proof.Machine.execFrameRsp k frame s
  | .frameKeyshare k frame => Sys2Proof.Machine.execFrameKeyshare k frame s
  | .frameBcast k frame => Sys2Proof.Machine.execFrameBcast k frame s
  | .extest dr => Sys2Proof.Machine.execExtest dr s
  | .idcode => Sys2Proof.Machine.execIdcode s
  | .samplePreload dr => Sys2Proof.Machine.execSamplePreload dr s
  | .bypass => Sys2Proof.Machine.execBypass s
  | .dbgChal request => Sys2Proof.Machine.execDbgChal request s
  | .dbgToken b => Sys2Proof.Machine.execDbgToken b s
  | .dbgTokenVerify => Sys2Proof.Machine.execDbgTokenVerify s
  | .dbgReg write off data => Sys2Proof.Machine.execDbgReg write off data s
  | .dbgMem space addr => Sys2Proof.Machine.execDbgMem space addr s
  | .dbgChalExpiry => Sys2Proof.Machine.execDbgChalExpiry s
  | .dbgSessionExpiry => Sys2Proof.Machine.execDbgSessionExpiry s
  | .dbgTrst => Sys2Proof.Machine.execDbgTrst s
  | .dbgClose src => Sys2Proof.Machine.execDbgClose src s
  | .dbgDeny src => Sys2Proof.Machine.execDbgDeny src s
  | .dbgBistStart src => Sys2Proof.Machine.execDbgBistStart src s
  | .dbgBistDone failBlock => Sys2Proof.Machine.execDbgBistDone failBlock s
  | .counterWrap bank unit k => Sys2Proof.Machine.execCounterWrap bank unit k s
  | .cadSampClear src n => Sys2Proof.Machine.execCadSampClear src n s
  | .cadSampIdx src n slot => Sys2Proof.Machine.execCadSampIdx src n slot s
  | .registerWrite src off v => Sys2Proof.Machine.execRegisterWrite src off v s
  | .fabricPllLock => Sys2Proof.Machine.execFabricPllLock s
  | .pcieLinkUp => Sys2Proof.Machine.execPcieLinkUp s
  | .dramRailsValid => Sys2Proof.Machine.execDramRailsValid s
  | .tandemFrameCheckFail k seq => Sys2Proof.Machine.execTandemFrameCheckFail k seq s
  | .hashJobComplete g core => Sys2Proof.Machine.execHashJobComplete g core s
  | .outputFifoDrain e n => Sys2Proof.Machine.execOutputFifoDrain e n s
  | .aoCrystalStop => Sys2Proof.Machine.execAoCrystalStop s
  | .smbusBlockRead code => Sys2Proof.Machine.execSmbusBlockRead code s
  | .smbusAlertResponse => Sys2Proof.Machine.execSmbusAlertResponse s
  | .scanShift ir dr => Sys2Proof.Machine.execScanShift ir dr s

end Sys2Proof.Machine
end

