-- ==== Sys2Proof/Machine/Tick.lean ====
section
/-! DEFINITION. What 10 ns of time do when no command waits. -/
namespace Sys2Proof.Machine
open Sys2Proof

/-- The completion timestamp counts from the end of BOOT; in FREEWHEEL the sleep is measured instead (R56). -/
def tickStamp (s : State) : State :=
  if ¬ s.hif.counting then s
  else if s.pwr.mode = .freewheel then { s with hif := { s.hif with asleep := s.hif.asleep + 1 } }
  else { s with hif := { s.hif with ts := s.hif.ts + 1 } }

/-- The always-on counter: 32,768 counts a second (R442). -/
def tickRtc (s : State) : State :=
  if s.pwr.mode = .off then s
  else
    let f := s.tmp.rtcFrac + 32768
    if f < 100000000 then { s with tmp := { s.tmp with rtcFrac := f } }
    else { s with tmp := { s.tmp with rtcFrac := f - 100000000, rtc := s.tmp.rtc + 1 } }

/-- DBG_STATUS.remaining counts the seconds of a session down (R425). -/
def tickSession (s : State) : State :=
  if s.dbg.session ∧ (s.now - s.dbg.openedAt) % 100000000 = 0 then
    { s with dbg := { s.dbg with remaining := s.dbg.remaining - 1 } }
  else s

/-- HOLDUP_SENSE is sampled every 10 µs (R492). -/
def tickHoldup (s : State) : State :=
  if s.now % 1000 = 0 ∧ 3 ≤ modeNum s.pwr.mode then senseHoldup s else s

/-- The cycles that a counter of event `code` counts in 10 ns: clock cycles of its bank, a core's cycles stopped at
WAITB, an engine's busy cycles (Table 23-1, Table 23-2). -/
def cyclesOf (s : State) (b : Bank) (unit code : Nat) : Nat :=
  match b with
  | .seq =>
    if s.pwr.seqLock ∧ (code = 1 ∨ (code = 5 ∧ (coreU s unit).waitb.isSome)) then 8 else 0
  | .hub => if s.pwr.fabLock ∧ (code = 1 ∨ (code = 2 ∧ (eng s unit).busy)) then 16 else 0
  | .block => if s.pwr.fabLock ∧ code = 1 then 16 else 0
  | .inst => 0

/-- Is a unit in vendor mode or the vendor kernel region (R462)? -/
def inVendor (s : State) (b : Bank) (unit : Nat) : Bool :=
  match b with
  | .seq => !(coreU s unit).extMode
  | .hub => !(eng s unit).owner
  | _ => true

/-- The instance whose command a unit runs (R462). -/
def unitInst (s : State) (b : Bank) (unit : Nat) : Nat :=
  match b with
  | .seq => (coreU s unit).inst
  | .hub => (eng s unit).inst
  | _ => 0

/-- One above the most that a counter of event `code` can count in 10 ns where the spec fixes no number: cycles of
waits and stalls inside an instruction, microwords with a tag, lines of the memory; 0 for the other events. -/
def openCycles (s : State) (b : Bank) (unit code : Nat) : Nat :=
  match b with
  | .seq => if s.pwr.seqLock ∧ code = 4 ∧ (coreU s unit).cmd.isSome then 9 else 0
  | .hub => if s.pwr.fabLock ∧ (eng s unit).busy ∧ (code = 7 ∨ code = 8 ∨ code = 9 ∨ code = 0x0D) then 17 else 0
  | .block => if s.pwr.fabLock ∧ s.mem.keys ∧ unit = blkNum .mem ∧ (code = 0x10 ∨ code = 0x11) then 0x10000 else 0
  | .inst => 0

/-- The events that count cycles, for the unit of one counter in the table. -/
def countUnit (b : Bank) (unit code : Nat) (s : State) : State :=
  let m := openCycles s b unit code
  let r := if m = 0 then (cyclesOf s b unit code, s) else freeNumber m s
  if r.1 = 0 then r.2 else cadEvent b unit code r.1 (inVendor s b unit) (unitInst s b unit) r.2

/-- The bank that a counter's number lies in. -/
def bankOf (key : Nat) : Bank :=
  if key < 0x1000 then .seq else if key < 0x2000 then .hub else if key < 0x3000 then .block else .inst

/-- The units and cycle events that an enabled counter of the table selects, each once. -/
def cycleUnits (s : State) : List (Bank × Nat × Nat) :=
  ((s.cad.cnt.filter (fun p => p.2.en)).map (fun p => (bankOf p.1, p.1 % 0x1000 / 16, p.2.event))).foldr
    (fun x xs => if xs.contains x then xs else x :: xs) []

/-- The cycle events of every unit with an enabled counter. -/
def tickCycles (s : State) : State :=
  (cycleUnits s).foldl (fun s x => countUnit x.1 x.2.1 x.2.2 s) s

/-- One 10 ns tick: the model's clock (R56, R135). -/
def tick (s : State) : State :=
  tickCycles (tickHoldup (tickSession (tickRtc (tickStamp { s with now := s.now + 1 }))))

end Sys2Proof.Machine
end

