-- ==== Sys2Proof/Safety.lean ====
section
/-! DEFINITION. What counts as safe, and the frames that the statements speak in: what a command leaves as it was. -/
namespace Sys2Proof.Machine
open Sys2Proof

/-- Host memory and OTP are in canonical form: addresses strictly rising, no entry equal to what an unlisted address
reads as. -/
def Memory.wf (s : State) : Bool := Tbl.wf 0 s.host.mem && Tbl.wf 0 s.lcs.otp

/-- Every bit set in `v` is set in OTP word `n` (R411). -/
def otpHas (n v : Nat) (s : State) : Prop := ∀ i, v.testBit i = true → (otpWord s n).testBit i = true

/-- The outcome is a next state. -/
def goesOn (r : Res) : Bool :=
  match r with
  | .next _ => true
  | _ => false

/-- What no instruction of a kernel or a core, and no register of a unit, touches: the queue and the clock, host
memory, the queue pairs and the commands, the Derailleur, vault, BBRAM, entropy, memory, power, boot, life cycle,
debug, tamper, faults, links and pins. -/
def outsideKept (s t : State) : Prop :=
  t.pending = s.pending ∧ t.now = s.now ∧ t.host.mem = s.host.mem ∧ t.hif.cmds = s.hif.cmds ∧ t.hif.qps = s.hif.qps ∧
  t.hif.inst = s.hif.inst ∧ t.hif.ts = s.hif.ts ∧ t.drl = s.drl ∧ t.kvt = s.kvt ∧ t.bbram = s.bbram ∧ t.ent = s.ent ∧
  t.mem = s.mem ∧ t.pwr = s.pwr ∧ t.glb = s.glb ∧ t.lcs = s.lcs ∧ t.dbg = s.dbg ∧ t.tmp = s.tmp ∧ t.flt = s.flt ∧
  t.tlk = s.tlk ∧ t.pins = s.pins

/-- What an instruction of the kernel on engine `n` leaves: all of `outsideKept`, the cores, the digest engines and
check-value units, every other engine. -/
def kernelFrame (s t : State) (n : Nat) : Prop :=
  outsideKept s t ∧ t.seq = s.seq ∧ t.dge = s.dge ∧ t.cvu = s.cvu ∧ (∀ m, m ≠ n → eng t m = eng s m) ∧
  t.hub.kmem = s.hub.kmem ∧ t.hub.patch = s.hub.patch ∧ t.hub.aes = s.hub.aes

/-- What an instruction of core `n` that stays in its core leaves. -/
def coreFrame (s t : State) (n : Nat) : Prop :=
  outsideKept s t ∧ t.hub = s.hub ∧ t.hsa = s.hsa ∧ t.dge = s.dge ∧ t.cvu = s.cvu ∧
  (∀ m, m ≠ n → coreU t m = coreU s m) ∧ t.seq.image = s.seq.image ∧ t.seq.exts = s.seq.exts

/-- A kernel runs on engine `n` and its next instruction meets nothing else: no micro-routine's issue is open, no
injection is armed on the engine or on the memory, no line is poisoned, the memory is initialised, and the PC stands in
the kernel's region. -/
abbrev kernelReady (s : State) (n : Nat) : Prop :=
  kernRuns (eng s n) = true ∧ (eng s n).uc.issue = false ∧ (fltU s .hub n).armed = false ∧
  (fltU s .mem 0).armed = false ∧ s.mem.poison = [] ∧ inRegion (eng s n) (eng s n).pc = true ∧ s.mem.initDone = 0x7F

/-- The instruction of Tables 13-2 to 13-4 that a row of the sequencer executes. -/
def seqIns (i : Instr) : Option SIns :=
  match i with
  | .sMov _ dd ds => some (.alu 0 dd ds)
  | .sAdd _ dd ds => some (.alu 1 dd ds)
  | .sSub _ dd ds => some (.alu 2 dd ds)
  | .sAdc _ dd ds => some (.alu 3 dd ds)
  | .sSbc _ dd ds => some (.alu 4 dd ds)
  | .sAnd _ dd ds => some (.alu 5 dd ds)
  | .sOr _ dd ds => some (.alu 6 dd ds)
  | .sXor _ dd ds => some (.alu 7 dd ds)
  | .sCmp _ dd ds => some (.alu 8 dd ds)
  | .sTst _ dd ds => some (.alu 9 dd ds)
  | .sShl _ dd ds => some (.alu 10 dd ds)
  | .sShr _ dd ds => some (.alu 11 dd ds)
  | .sSar _ dd ds => some (.alu 12 dd ds)
  | .sMul _ dd ds => some (.alu 13 dd ds)
  | .sDivs _ dd ds => some (.alu 14 dd ds)
  | .sDivu _ dd ds => some (.alu 15 dd ds)
  | .sMovq _ dd v => some (.quick 0 dd v)
  | .sAddq _ dd v => some (.quick 1 dd v)
  | .sShli _ dd v => some (.quick 2 dd v)
  | .sShri _ dd v => some (.quick 3 dd v)
  | .sSari _ dd v => some (.quick 4 dd v)
  | .sRoli _ dd v => some (.quick 5 dd v)
  | .sMovi _ dd imm => some (.imm 0 dd imm)
  | .sAddi _ dd imm => some (.imm 1 dd imm)
  | .sAndi _ dd imm => some (.imm 2 dd imm)
  | .sOri _ dd imm => some (.imm 3 dd imm)
  | .sXori _ dd imm => some (.imm 4 dd imm)
  | .sCmpi _ dd imm => some (.imm 5 dd imm)
  | .sMovh _ dd imm => some (.imm 6 dd imm)
  | .sTsti _ dd imm => some (.imm 7 dd imm)
  | .sBset _ x ext => some (.bit (bitCode .set) x ext)
  | .sBclr _ x ext => some (.bit (bitCode .clr) x ext)
  | .sBnot _ x ext => some (.bit (bitCode .inv) x ext)
  | .sBld _ x ext => some (.bit (bitCode .ld) x ext)
  | .sBst _ x ext => some (.bit (bitCode .st) x ext)
  | .sJb _ x ext => some (.bit (bitCode .jb) x ext)
  | .sJnb _ x ext => some (.bit (bitCode .jnb) x ext)
  | .sWaitb _ x ext => some (.bit (bitCode .wait) x ext)
  | .sBcc _ cond off ext => some (sBccIns cond off ext)
  | .sMac _ mx ds1 ds2 => some (.mac 0 mx ds1 ds2)
  | .sMacu _ mx ds1 ds2 => some (.mac 1 mx ds1 ds2)
  | .sMsu _ mx ds1 ds2 => some (.mac 2 mx ds1 ds2)
  | .sMulm _ mx ds1 ds2 => some (.mac 3 mx ds1 ds2)
  | .sMclr _ mx dd => some (.acc 0 mx dd)
  | .sMld _ mx dd => some (.acc 1 mx dd)
  | .sMrdl _ mx dd => some (.acc 2 mx dd)
  | .sMrdh _ mx dd => some (.acc 3 mx dd)
  | .sMrdg _ mx dd => some (.acc 4 mx dd)
  | .sMsat _ mx dd => some (.acc 5 mx dd)
  | .sMsar _ mx dd => some (.acc 6 mx dd)
  | .sMins _ mx dd => some (.acc 7 mx dd)
  | .sNeg _ dd => some (.unary 0 dd)
  | .sNot _ dd => some (.unary 1 dd)
  | .sAbs _ dd => some (.unary 2 dd)
  | .sSextb _ dd => some (.unary 3 dd)
  | .sSexth _ dd => some (.unary 4 dd)
  | .sZextb _ dd => some (.unary 5 dd)
  | .sZexth _ dd => some (.unary 6 dd)
  | .sClz _ dd => some (.unary 7 dd)
  | .sPopc _ dd => some (.unary 8 dd)
  | .sBswap _ dd => some (.unary 9 dd)
  | .sMff _ dd => some (.unary 10 dd)
  | .sMtf _ dd => some (.unary 11 dd)
  | .sMfw _ dd => some (.unary 12 dd)
  | .sMtw _ dd => some (.unary 13 dd)
  | .sMfpc _ dd => some (.unary 14 dd)
  | .sAmov _ an ds => some (.amov an ds)
  | .sDmova _ an dd => some (.dmova an dd)
  | .sAaddq _ an v => some (.aaddq an v)
  | .sAmod _ an ds => some (.amod an ds)
  | .sNop _ => some (.ctl 0 0)
  | .sRet _ => some (.ctl 1 0)
  | .sReti _ => some (.ctl 2 0)
  | .sEi _ => some (.ctl 3 0)
  | .sDi _ => some (.ctl 4 0)
  | .sSleep _ => some (.ctl 5 0)
  | .sFence _ => some (.ctl 6 0)
  | .sRep _ n => some (.rep n)
  | .sRepi _ => some (.ctl 7 0)
  | .sJmp _ ext => some (.ctl 8 ext)
  | .sCall _ ext => some (.ctl 9 ext)
  | .sJmpa _ an => some (.ctl (0x10 + an.toNat) 0)
  | .sCalla _ an => some (.ctl (0x18 + an.toNat) 0)
  | .sDone _ => some (.ctl 10 0)
  | .sHalt _ => some (.ctl 11 0)
  | .sTrap _ n => some (.ctl (0x20 + n.toNat) 0)
  | .svcIn _ => some (.ctl (0x20 + 0) 0)
  | .svcOut _ => some (.ctl (0x20 + 1) 0)
  | .svcKernel _ => some (.ctl (0x20 + 2) 0)
  | .svcDigest _ => some (.ctl (0x20 + 3) 0)
  | .svcRandom _ => some (.ctl (0x20 + 4) 0)
  | .svcCv _ => some (.ctl (0x20 + 5) 0)
  | .sLd _ m an dd ext => some (sMemIns 0 m an dd ext)
  | .sSt _ m an dd ext => some (sMemIns 1 m an dd ext)
  | .sLdb _ m an dd ext => some (sMemIns 2 m an dd ext)
  | .sStb _ m an dd ext => some (sMemIns 3 m an dd ext)
  | _ => none

/-- The word at the PC of core `n` is the row's instruction: so it is of itself in vendor mode, whose firmware the spec does
not give (log 119); an extension program's words say it. -/
abbrev coreFetches (s : State) (n : Nat) (i : Instr) : Prop := ∀ w ∈ seqIns i, sFetch (coreU s n) w = .this

/-- Core `n` executes instructions and nothing else happens at the boundary: no injection armed, no interrupt pending,
no counter of the core enabled, the counters not mapped into its data memory. -/
abbrev coreReady (s : State) (n : Nat) : Prop :=
  coreRuns s n = true ∧ (fltU s .seq n).armed = false ∧ (coreU s n).intPend = false ∧
  (∀ k, k < 8 → (cntU s .seq n k).en = false) ∧ countersSeen s (coreU s n) = false

/-- The next PC of an extension program stays in the owner region (R306); in vendor mode it may be anywhere. -/
abbrev staysIn (c d : Core) : Prop := c.extMode = true → d.extMode = true → 0x3000 ≤ d.pc

/-- An access of `n` bytes of a kernel is granted (R149, R152): aligned, in a window that allows it, staged where it is input;
`vec` says that the WORK window may be reached. -/
def accGranted (store vec : Bool) (n : Nat) (a : BitVec 64) (e : Engine) : Prop :=
  (winOf a).2 % n = 0 ∧ (winOf a).1 < 5 ∧ (winOf a).2 + n ≤ winSize e (winOf a).1 ∧ (store = true → (winOf a).1 = 1) ∧
  ((winOf a).1 = 1 → vec = true) ∧ ((winOf a).1 = 0 → (winOf a).2 + n ≤ e.staged.length)

/-- VLD or VST is legal: no reserved bit, widths and modulus in order, each active element's access granted (R160). -/
def loadLegal (store : Bool) (a : MF) (e : Engine) : Prop :=
  a.xb.getLsbD 4 = false ∧ a.xs.getLsbD 4 = false ∧ modeCheck e a.mode.toNat a.w.toNat = 0 ∧
  ∀ i, i < e.vl → e.vstart ≤ i → active e a.k.toNat i = true → accGranted store true ((8 <<< e.sew) / 8)
    (memAddr a e i) e

/-- VGATHER or VSCATTER is legal: the descriptor in a public window, each valid element's access granted (R161). -/
def gatherLegal (scatter : Bool) (a : GF) (e : Engine) : Prop :=
  a.rsv = 0 ∧ modeCheck e a.mode.toNat a.w.toNat = 0 ∧
  (e.vl ≠ 0 → accGranted false false 64 (getX e a.xd.toNat) e ∧
    ∀ n, 16 * a.g.toNat ≤ n → n < 16 * a.g.toNat + 16 → e.vstart ≤ n → n < e.vl → (gsDesc a e n).testBit 31 = true →
      accGranted scatter true ((8 <<< e.sew) / 8) (gsAddr a e n) e)

/-- A permutation is legal: its form, no reserved bit, widths and modulus in order (Table 6-7). -/
def permLegal (f : PKind) (a : VF) (e : Engine) : Prop :=
  a.form = permForm f ∧ formRsv a = false ∧ (f = .merge → a.k ≠ 0) ∧ modeCheck e a.mode.toNat a.w.toNat = 0

/-- "sew 32, VL 256" (Table 6-9). -/
def wants256 (e : Engine) : Prop := e.sew = 2 ∧ e.vl = 256

/-- "sew 16" with a binary field configured (Table 6-9). -/
def wantsField (e : Engine) : Prop := e.sew = 1 ∧ e.gfM ≠ 0

/-- A jump goes to a word of the kernel's region (R167). -/
def lands (e : Engine) (t : Int) : Prop := inRegion e t = true

/-- When a kernel's instruction, the rows of Table 6-5 and VEND apart, is legal on engine `e` by its table of chapter 6: the
encodings, widths, register groups, moduli, windows and regions that would raise an exception are ruled out (R153, R154,
R157, R168). -/
def kernelLegal (i : Instr) (e : Engine) : Prop :=
  match i with
  | .vwmul _ _ a | .vwmacc _ _ a | .vwadd _ _ a =>
    a.form = .v ∧ a.mode = 0 ∧ a.w.toNat = e.sew ∧ e.sew ≠ 3 ∧ (e.vl ≠ 0 → a.vd.toNat % 2 = 0)
  | .vdot4 _ _ a => a.form = .v ∧ a.mode = 0 ∧ a.w.toNat = e.sew ∧ (e.vl ≠ 0 → e.sew = 1)
  | .vdot2 _ _ a => a.form = .v ∧ a.mode = 0 ∧ a.w.toNat = e.sew ∧ (e.vl ≠ 0 → e.sew = 2)
  | .vcmp _ f a => formRsv a = false ∧ a.form ≠ .i ∧ 0 < a.vd.toNat ∧ a.vd.toNat < 8 ∧ a.mode.toNat ≠ 3 ∧
    (a.mode.toNat = 2 → f.val < 2) ∧ modeCheck e a.mode.toNat a.w.toNat = 0
  | .kLogic _ f a => a.vd.toNat % 8 ≠ 0 ∧ a.vs1.toNat % 8 ≠ 0 ∧ (f.val < 3 → a.f2.toNat % 8 ≠ 0)
  | .kmov _ a => a.vd.toNat % 8 ≠ 0 ∧ a.vs1.toNat % 8 ≠ 0
  | .vtest _ a => a.vs1.toNat % 8 ≠ 0
  | .vslideup _ a => permLegal .slideUp a e
  | .vslidedn _ a => permLegal .slideDn a e
  | .vrgather _ a => permLegal .rgather a e
  | .vbcast _ a => permLegal .bcast a e
  | .vmerge _ a => permLegal .merge a e
  | .vredsum _ a => permLegal .redsum a e
  | .vmv _ a => permLegal .mv a e
  | .vld _ a => loadLegal false a e
  | .vst _ a => loadLegal true a e
  | .vgather _ a => gatherLegal false a e
  | .vscatter _ a => gatherLegal true a e
  | .xop _ a => bitsOf a.f.toNat 4 10 = 0 ∧ a.f.toNat % 16 ≤ 10
  | .xshi _ a => bitsOf a.f.toNat 6 10 = 0 ∧ bitsOf a.f.toNat 16 2 ≠ 3
  | .xlih _ a => a.xs1.toNat % 4 = 0 ∧ bitsOf a.f.toNat 16 2 = 0
  | .xld _ a => accGranted false false (1 <<< (a.f.toNat >>> 16)) (xldAddr a e) e
  | .xBranch _ _ a => lands e ((e.pc : Int) + a.f.toInt)
  | .jal _ _ off => lands e ((e.pc : Int) + off.toInt)
  | .jalr _ a => a.f = 0 ∧ lands e ((getX e a.xs1.toNat).toNat : Int)
  | .setvl _ a => bitsOf a.f.toNat 2 4 = 0
  | .vsetq _ a => a.xd = 0 ∧ bitsOf a.f.toNat 2 16 = 0 ∧ 2 ≤ a.f.toNat % 4 ∧ 3 ≤ (getX e a.xs1.toNat).toNat % 2 ^ 32 ∧
    (getX e a.xs1.toNat).toNat % 2 = 1
  | .vsetgf _ a => a.xd = 0 ∧ a.f = 0 ∧ 8 ≤ (getX e a.xs1.toNat).toNat % 32 ∧ (getX e a.xs1.toNat).toNat % 32 ≤ 16
  | .vntt _ a | .vintt _ a => a.p.toNat < 4 ∧ wants256 e ∧ slotQ e a.p.toNat ≠ 0
  | .vbmul _ a | .vsampleU _ a => a.p.toNat < 2 ∧ wants256 e
  | .vsampleCbd _ a => (a.p.toNat = 2 ∨ a.p.toNat = 3) ∧ wants256 e
  | .vsampleEta _ a => (a.p.toNat = 2 ∨ a.p.toNat = 4) ∧ wants256 e
  | .vsampleBall _ a => a.p.toNat < 3 ∧ wants256 e
  | .vdecomp _ a => a.p.toNat < 2 ∧ wants256 e ∧ a.vd.toNat % 2 = 0
  | .vcompress _ a | .vdecompress _ a => a.p.toNat ∈ [1, 4, 5, 10, 11] ∧ e.sew = 2
  | .vpack _ a => (e.sew = 1 ∨ e.sew = 2) ∧ a.vd.toNat % 2 = 0 ∧
    (getX e (a.f2.toNat % 16)).toNat + e.vl * (a.p.toNat + 1) ≤ 16384
  | .vunpack _ a => (e.sew = 1 ∨ e.sew = 2) ∧ a.vd.toNat % 2 = 0 ∧ a.vs1.toNat % 2 = 0 ∧
    (getX e (a.f2.toNat % 16)).toNat + e.vl * (a.p.toNat + 1) ≤ 16384
  | .vafft _ _ | .viafft _ _ => wantsField e ∧ ∃ k, k < 11 ∧ e.vl = 2 ^ k
  | .vgoppa _ _ => wantsField e
  | .vxofInit _ a => a.p.toNat < 6
  | .vkey _ _ => e.key ≠ none
  | .vunmask _ _ => e.fifo.length + min (e.vl <<< e.sew) (e.maxOut - e.outCount) ≤ 8192 ∧
    (e.vl <<< e.sew ≤ e.maxOut - e.outCount ∨ e.varOut = true)
  | .vmpmul _ a | .vmpsqr _ a => e.sew = 3 ∧ a.vd.toNat % 2 = 0
  | .vmpred _ a => e.sew = 3 ∧ a.vs1.toNat % 2 = 0
  | .vmpadd _ _ | .vmpsub _ _ | .vmpcswap _ _ => e.sew = 3
  | _ => True

/-- The engine's mask generator has the blocks that one instruction's shares take before it asks for its next seed (R125): at
most 38, two vector registers at order 3. -/
def sharesFit (e : Engine) : Prop := 0 < e.order → e.order ≤ 3 ∧ e.mg.blocks + 38 < 983040

/-- A result that raises no overflow trap: V stays 0 or the trap is disabled (R296). -/
def noOverflow (c : Core) (o : AluOut) : Prop := c.ovEn = true → o.v ≠ some true

/-- A data access of `n` bytes is granted, and is not one of the I/O window (R287, R306): aligned, in data memory or a read
of the mailbox; an extension program reaches the upper part alone. -/
def dataGranted (store : Bool) (n a : Nat) (c : Core) : Prop :=
  a % n = 0 ∧ (areaOf a = .vendor ∧ c.extMode = false ∨ areaOf a = .ext ∨ areaOf a = .mailbox ∧ store = false)

/-- An address register after `j` accesses of `n` bytes in a mode (Table 13-4). -/
def regAfter (m an n : Nat) (c : Core) (j : Nat) : BitVec 24 :=
  Nat.repeat (fun a => (operandAddr m an 0 n (setA c an a)).2) j (getA c an)

/-- None of `k` iterations of a repeat's target traps: no overflow can come of it, each of its accesses is granted. -/
def targetQuiet (t : Tgt) (k : Nat) (c : Core) : Prop :=
  match t with
  | .alu f _ _ => c.ovEn = true → f ∉ [1, 2, 3, 4, 13]
  | .quick q _ _ => c.ovEn = true → q ≠ 1
  | .unary o _ => c.ovEn = true → o ≠ 0 ∧ o ≠ 2
  | .mem o m an _ => ∀ j, j < k → dataGranted (o % 2 == 1) (if o < 2 then 4 else 1)
      (regAfter m an (if o < 2 then 4 else 1) c j).toNat c
  | _ => True

/-- When a row that stays in its core raises no trap on core `c`, by its table of chapter 13 (R287, R290, R296–R299, R306). -/
def coreLegal (i : Instr) (c : Core) : Prop :=
  match i with
  | .sAdd _ dd ds => noOverflow c (addC (getD c dd.toNat) (getD c ds.toNat) false)
  | .sSub _ dd ds => noOverflow c (subB (getD c dd.toNat) (getD c ds.toNat) false)
  | .sAdc _ dd ds => noOverflow c (addC (getD c dd.toNat) (getD c ds.toNat) (c.f.getLsbD 0))
  | .sSbc _ dd ds => noOverflow c (subB (getD c dd.toNat) (getD c ds.toNat) (!c.f.getLsbD 0))
  | .sMul _ dd ds => noOverflow c (mulF (getD c dd.toNat) (getD c ds.toNat))
  | .sAddq _ dd v => noOverflow c (addC (getD c dd.toNat) (v.signExtend 32) false)
  | .sAddi _ dd imm => noOverflow c (addC (getD c dd.toNat) (imm.signExtend 32) false)
  | .sNeg _ dd => noOverflow c (negF (getD c dd.toNat))
  | .sAbs _ dd => noOverflow c (absF (getD c dd.toNat))
  | .sMovh _ _ imm => imm.getLsbD 16 = false
  | .sMtw _ _ | .sEi _ | .sDi _ | .sSleep _ | .sHalt _ => c.extMode = false
  | .sMclr _ _ dd => dd = 0
  | .sLd _ m an _ ext => dataGranted false 4 (operandAddr m.toNat an.toNat ext 4 c).1.toNat c
  | .sSt _ m an _ ext => dataGranted true 4 (operandAddr m.toNat an.toNat ext 4 c).1.toNat c
  | .sLdb _ m an _ ext => dataGranted false 1 (operandAddr m.toNat an.toNat ext 1 c).1.toNat c
  | .sStb _ m an _ ext => dataGranted true 1 (operandAddr m.toNat an.toNat ext 1 c).1.toNat c
  | .sRep _ x => ∃ t, decodeTgt (Tbl.get 0 c.prog ((c.pc + 1) % 0x4000)) = some t ∧ targetQuiet t (x.toNat + 1) c
  | .sRepi _ => ∃ t, decodeTgt (Tbl.get 0 c.prog ((c.pc + 1) % 0x4000)) = some t ∧ namesA7 t = false ∧
    0 < (getA c 7).toNat ∧ (getA c 7).toNat ≤ 65536 ∧ targetQuiet t 1 c
  | _ => True

/-- The word a row that stays in its core goes on at. -/
def coreNext (i : Instr) (c : Core) : Nat :=
  match i with
  | .sMovi _ _ _ | .sAddi _ _ _ | .sAndi _ _ _ | .sOri _ _ _ | .sXori _ _ _ | .sCmpi _ _ _ | .sMovh _ _ _ | .sTsti _ _ _
  | .sRep _ _ => (c.pc + 2) % 0x4000
  | .sRepi _ => if (getA c 7).toNat = 1 then (c.pc + 2) % 0x4000 else c.pc
  | .sLd _ m _ _ _ | .sSt _ m _ _ _ | .sLdb _ m _ _ _ | .sStb _ m _ _ _ => (c.pc + (if m.toNat = 3 then 2 else 1)) % 0x4000
  | .sJmp _ ext => ext.toNat % 0x4000
  | .sJmpa _ an => (getA c an.toNat).toNat % 0x4000
  | _ => (c.pc + 1) % 0x4000

/-- An instruction of an extension program goes on inside the owner region (R306). -/
def stays (i : Instr) (c : Core) : Prop := c.extMode = true → 0x3000 ≤ coreNext i c

/-- The port pages answer and no host access has to wake the device. -/
abbrev portsAnswer (s : State) : Prop := portsOpen s = true ∧ s.pwr.mode ≠ .freewheel

/-- The input of a running command (R59, R364): host memory's, or what a guest's REQ brought. -/
def inputOf (s : State) (c : Cmd) : Bytes :=
  if c.port = 256 then slice (guestInput s c) 0 (pInL c.pkt) else hostBytes s (pInA c.pkt) (pInL c.pkt)

/-- Can the command access `n` bytes at `a`? A guest's access is its home's affair. -/
abbrev canAccess (s : State) (c : Cmd) (a n : Nat) : Prop := c.port = 256 ∨ hostOk s c.port a n = true

/-- Command `c` runs here under its number `id`, none of its input has been read, and its function's DMA writes are not
logged. -/
abbrev cmdReady (s : State) (id : Nat) (c : Cmd) : Prop :=
  cmdU s id = some c ∧ c.id = id ∧ c.phase = .running ∧ c.remote = none ∧ storeReady s c = true ∧ inputRead s c = [] ∧ (c.port ≠ 256 → (instU s c.port).logging = false)

/-- As `cmdReady`, but the whole input may have been read already (R59). -/
abbrev cmdHeld (s : State) (id : Nat) (c : Cmd) : Prop :=
  cmdU s id = some c ∧ c.id = id ∧ c.phase = .running ∧ c.remote = none ∧ storeReady s c = true ∧
    (inputRead s c = [] ∨ inputRead s c = inputOf s c) ∧ (c.port ≠ 256 → (instU s c.port).logging = false)

/-- Does the message of a digest command go to core 31 (R232)? -/
def longMessage (s : State) (c : Cmd) : Bool :=
  match cmdOp c with
  | .dig _ => decide (4096 ≤ (inputOf s c).length)
  | .keyed _ => true
  | _ => false

/-- Does unit `u` have a message on core 31? -/
def msgStarted (s : State) (u : Nat) : Bool := (dgeU s u).offloaded && (dgeU s u).st == .absorbing

/-- Unit `u` has its message done on core 31. -/
abbrev msgDone (s : State) (u : Nat) : Prop := msgStarted s u = true ∧ (dgeU s u).total ≤ (dgeU s u).done

/-- Core 31 has done the message of a digest command, where it goes there, and its unit holds its key (R232, R242). -/
def messageDone (s : State) (c : Cmd) : Prop :=
  longMessage s c = true → msgDone s c.unit ∧
    ∀ alg, cmdOp c = .keyed alg → (dgeU s c.unit).key = some (keyOf c).secret

/-- The result of command `c` is known to be `r`; every other command is as it was. -/
def concluded (s t : State) (c : Cmd) (r : Result) : Prop :=
  (∃ b, cmdU t c.id = some { c with phase := .finished, res := r, input := b }) ∧ ∀ j, j ≠ c.id → cmdU t j = cmdU s j

/-- Command `c` has finished with STS_OK and the output `b`: its bytes stand at the output address and no other byte of
host memory differs; a guest's go back with its reply (R60, R364). -/
def delivered (s t : State) (c : Cmd) (b : Bytes) : Prop :=
  concluded s t (if c.port = 256 then { c with out := b } else c) { status := stsOk, outLen := b.length } ∧
  (c.port = 256 → t.host.mem = s.host.mem) ∧
  (c.port ≠ 256 → hostBytes t (pOutA c.pkt) b.length = b ∧
    ∀ a, a < pOutA c.pkt ∨ pOutA c.pkt + b.length ≤ a → Tbl.get 0 t.host.mem a = Tbl.get 0 s.host.mem a)

/-- What a data command leaves: queue pairs, instances, Derailleur, vault, BBRAM, power, life cycle, debug, tamper,
faults, links, pins, the sequencers. -/
def dataFrame (s t : State) : Prop :=
  t.pending = s.pending ∧ t.now = s.now ∧ t.hif.qps = s.hif.qps ∧ t.hif.inst = s.hif.inst ∧ t.hif.ts = s.hif.ts ∧
  t.drl = s.drl ∧ t.kvt = s.kvt ∧ t.bbram = s.bbram ∧ t.mem = s.mem ∧ t.pwr = s.pwr ∧ t.glb = s.glb ∧ t.lcs = s.lcs ∧
  t.dbg = s.dbg ∧ t.tmp = s.tmp ∧ t.flt = s.flt ∧ t.tlk = s.tlk ∧ t.seq = s.seq ∧ t.pins = s.pins

/-- The plain body of a command's extended key, empty for any other key; none where its tag fails (R189). -/
def bodyOf (c : Cmd) : Option Bytes := if (keyOf c).ext then unsealBody (keyOf c).secret (keyOf c).body else some []

/-- The Hub block but for what a command's input and body leave in its engine: the staging, WORK and the shares drawn
for it. -/
def sameHub (s t : State) (c : Cmd) : Prop :=
  t.hub = s.hub ∨ ∃ b w m l g, t.hub = (updEng c.unit (fun e =>
    { e with staged := b, work := w, workMasks := m, lines := l, mg := g }) s).hub

/-- The command as a draw of randomness leaves it: its reply says so where the source had switched (R53). -/
def drew (s : State) (c : Cmd) : Cmd := { c with switched := c.switched || s.ent.switched }

/-- Command `c` has ended, and of host memory at most its 32-byte reply has been written. -/
def replyAlone (s t : State) (c : Cmd) : Prop :=
  cmdU t c.id = none ∧ ∀ a, a < (qpU s c.port c.q).cqBase.toNat + 32 * (qpU s c.port c.q).cqTail ∨
    (qpU s c.port c.q).cqBase.toNat + 32 * (qpU s c.port c.q).cqTail + 32 ≤ a →
    Tbl.get 0 t.host.mem a = Tbl.get 0 s.host.mem a

/-- A register access from `src` reaches the block, and nothing has to wake first. -/
abbrev regsAnswer (s : State) (src : Src) : Prop := regOpen src s = true ∧ s.pwr.mode ≠ .freewheel

/-- What a scan of unit `c` leaves in it after its last byte (R372): the running value of all its bytes, and the final
value with the guard's bytes. -/
def scanned (b : Bytes) (c d : Cvu) : Prop :=
  d.st = .done ∧ d.bytes = c.len ∧ d.stopReq = false ∧ d.run.toNat = cvRun c.alg c.run.toNat b % 2 ^ 64 ∧
  d.result.toNat = cvFinal c.alg (cvRun c.alg c.run.toNat b) (guardBytes c.guard c.alive c.fold.toNat c.seq.toNat) % 2 ^ 64 ∧
  d.owner = c.owner ∧ d.inst = c.inst ∧ d.cmd = c.cmd ∧ d.alg = c.alg ∧ d.addr = c.addr ∧ d.len = c.len

/-- What an event of the stacked memory leaves: everything but MEM itself, the fault records, the counters and what the
vault caches. -/
def outsideButMem (s t : State) : Prop :=
  t.pending = s.pending ∧ t.now = s.now ∧ t.host.mem = s.host.mem ∧ t.hif.cmds = s.hif.cmds ∧ t.hif.qps = s.hif.qps ∧
  t.hif.inst = s.hif.inst ∧ t.hif.ts = s.hif.ts ∧ t.drl = s.drl ∧ t.bbram = s.bbram ∧ t.ent = s.ent ∧ t.pwr = s.pwr ∧
  t.glb = s.glb ∧ t.lcs = s.lcs ∧ t.dbg = s.dbg ∧ t.tmp = s.tmp ∧ t.tlk = s.tlk ∧ t.hub = s.hub ∧ t.seq = s.seq

/-- What an event of the entropy source leaves: everything but ENT, the counters and interrupt messages. -/
def entFrame (s t : State) : Prop :=
  t.pending = s.pending ∧ t.now = s.now ∧ t.host.mem = s.host.mem ∧ t.hif.cmds = s.hif.cmds ∧ t.hif.qps = s.hif.qps ∧
  t.hif.inst = s.hif.inst ∧ t.drl = s.drl ∧ t.hub = s.hub ∧ t.seq = s.seq ∧ t.kvt = s.kvt ∧ t.bbram = s.bbram ∧ t.mem = s.mem ∧
  t.pwr = s.pwr ∧ t.glb = s.glb ∧ t.lcs = s.lcs ∧ t.dbg = s.dbg ∧ t.tmp = s.tmp ∧ t.flt = s.flt ∧ t.tlk = s.tlk

/-- What a loss of the main state leaves (R384): BBRAM, OTP, the boot flash and host memory; every command, key, kernel and
program of a sequencer, instance and queue pair is gone. -/
def volatileLost (s t : State) : Prop :=
  t.bbram = s.bbram ∧ t.lcs.otp = s.lcs.otp ∧ t.glb.flashA = s.glb.flashA ∧ t.glb.flashB = s.glb.flashB ∧
  t.host.mem = s.host.mem ∧ t.hif.cmds = [] ∧ t.hif.qps = [] ∧ t.hif.inst = [] ∧ t.kvt.root = none ∧ t.kvt.res = [] ∧
  t.mem.keys = false ∧ t.hub.eng = [] ∧ t.seq.core = [] ∧ t.dge = [] ∧ t.cvu = [] ∧ t.ent.drbg = [] ∧ t.dbg.session = false ∧
  t.pending = s.pending

/-- A frame of type `ty` on link `k` that carries, with its check value right and no injection armed on TLK. -/
abbrev frameSound (s : State) (k : Nat) (ty : Nat) (f : Bytes) : Prop :=
  carries s k = true ∧ f.length = 256 ∧ byteAt f 0 = ty ∧ byteAt f 2 ≤ 220 ∧ (0x14 ≤ ty → (linkU s k).key ≠ none) ∧
  (fltU s .tlk 0).armed = false ∧ checkOk s k f = true

/-- What a frame of a type does once it is accepted (`takeFrame`): the frame's source and payload go to its handler. -/
def accepted (s : State) (k : Nat) (f : Bytes) (go : Nat → Bytes → State → State) : State :=
  match openFrame s k f with
  | none => dropLink k .down true (record { blk := .tlk, checker := 1, cls := 2, unit := k } s)
  | some (p, sec) =>
    if fSeq f ≠ (linkU s k).rxSeq then s
    else if s.tlk.formed = true ∧ (s.tlk.lost.testBit (fSrc f) = true ∨ s.tlk.lost.testBit (linkU s k).peer = true) then
      takeFrame k f sec s
    else go (fSrc f) (p.take (byteAt f 2)) (takeFrame k f sec s)

/-- What closing the debug session leaves: no session, no halt, the secrets, the memories and the queues as before. -/
def sessionClosed (s t : State) : Prop :=
  t.dbg.session = false ∧ t.dbg.signer = 0 ∧ t.dbg.perm = 0 ∧ t.dbg.remaining = 0 ∧
  (∀ n, n < 64 → eng t n = { eng s n with halted := false }) ∧ (∀ n, n < 16 → coreU t n = { coreU s n with haltedD := false }) ∧
  t.pending = s.pending ∧ t.host = s.host ∧ t.hif = s.hif ∧ t.kvt = s.kvt ∧ t.bbram = s.bbram ∧ t.ent = s.ent ∧ t.mem = s.mem ∧
  t.lcs = s.lcs ∧ t.pwr = s.pwr ∧ t.tmp = s.tmp ∧ t.pins = s.pins

end Sys2Proof.Machine
end

