-- ==== Sys2Proof/WellFormed.lean ====
section
/-! DEFINITION. Which commands the part can meet: the ranges of the operands that their types leave open. Every
command has an effect, well-formed or not; this file says which operands name something that exists. -/
namespace Sys2Proof

/-- What is wrong with an operand. -/
inductive Flaw where
  /-- A unit that the kind or the block does not have (Table 1-2, R448). -/
  | unitNumber
  /-- An offset past the end of BAR0, or not a multiple of 4 (R5, R6). -/
  | registerOffset
  /-- A counter or a unit that the bank does not have (Table 23-1). -/
  | counterNumber
  /-- A line of the memory past its 128 GiB (R310). -/
  | lineNumber
  /-- A segment of 128 KiB past the memory's end (R324). -/
  | segmentNumber
  /-- A frame that is not 256 bytes long (R351). -/
  | frameLength
  /-- A vector that the function does not have (R504). -/
  | vectorNumber
  /-- A code that Table 20-6 gives to another instruction of the TAP. -/
  | scanCode
deriving DecidableEq, Repr

/-- Units of a kind (Table 1-2). -/
def UnitKind.count : UnitKind → Nat
  | .hub => 64
  | .aes => 32
  | .dge => 16
  | .cvu => 8
  | .parser => 1
  | .seq => 16
  | .none => 0

/-- Fault register sets of a block (R448). -/
def Blk.sets : Blk → Nat
  | .seq => 16
  | .hub => 64
  | .dge => 16
  | .cvu => 8
  | .dbg => 0
  | _ => 1

/-- Units and counters per unit of a bank (Table 23-1). -/
def Bank.size : Bank → Nat × Nat
  | .seq => (16, 8)
  | .hub => (64, 8)
  | .block => (16, 4)
  | .inst => (256, 16)

/-- The flaw `f` where `ok` does not hold. -/
def Flaw.unless (ok : Bool) (f : Flaw) : Option Flaw := if ok then none else some f

/-- The flaw of a frame of a wrong length. -/
def Flaw.ofFrame (f : Bytes) : Option Flaw := Flaw.unless (f.length == 256) .frameLength

/-- The flaw of a register-set number that the block does not have. -/
def Flaw.ofSet (b : Blk) (u : Nat) : Option Flaw := Flaw.unless (decide (u < b.sets)) .unitNumber

/-- The first flaw of a command, none where it has none. -/
def Instr.flaw : Instr → Option Flaw
  | .msixVectorUnmask fn (some v) => Flaw.unless (fn == 0 || decide (v.val < 65)) .vectorNumber
  | .derailleurDispatch k u =>
    Flaw.unless (decide (u < k.count) || (k == .hub && u % 64 == 0 && decide (u ≤ 512))) .unitNumber
  | .blockResetEnd b u => Flaw.ofSet b u
  | .fltInjectArm _ b u _ => Flaw.ofSet b u
  | .fltInjectDisarm _ b u _ => Flaw.ofSet b u
  | .reactAckHandled _ b u _ => Flaw.ofSet b u
  | .reactAckKeepOffline _ b u _ => Flaw.ofSet b u
  | .reactAckEscalate _ b u _ => Flaw.ofSet b u
  | .reactionTimerExpiry b u => Flaw.ofSet b u
  | .continuousCheckerError b u _ _ _ => Flaw.ofSet b u
  | .patrolScrubRead l _ => Flaw.unless (decide (l < 0x80000000)) .lineNumber
  | .sparingCopyEnd g => Flaw.unless (decide (g < 0x100000)) .segmentNumber
  | .counterWrap b u k => Flaw.unless (decide (u < b.size.1) && decide (k < b.size.2)) .counterNumber
  | .registerWrite _ off _ => Flaw.unless (decide (off < 0x2000000) && decide (off % 4 = 0)) .registerOffset
  | .frameAck _ f => Flaw.ofFrame f
  | .frameNak _ f => Flaw.ofFrame f
  | .frameHeartbeat _ f => Flaw.ofFrame f
  | .frameToken _ f => Flaw.ofFrame f
  | .frameAssign _ f => Flaw.ofFrame f
  | .frameAttest _ f => Flaw.ofFrame f
  | .frameKeyx _ f => Flaw.ofFrame f
  | .frameGo _ f => Flaw.ofFrame f
  | .frameLeave _ f => Flaw.ofFrame f
  | .frameLost _ f => Flaw.ofFrame f
  | .frameReq _ f => Flaw.ofFrame f
  | .frameRsp _ f => Flaw.ofFrame f
  | .frameKeyshare _ f => Flaw.ofFrame f
  | .frameBcast _ f => Flaw.ofFrame f
  | .scanShift ir _ => Flaw.unless (!([0x00, 0x01, 0x02, 0x10, 0x11, 0x12, 0x13, 0xFF] : List Nat).contains ir.toNat) .scanCode
  | _ => none

/-- A command whose operands name things that exist. -/
def Instr.wellFormed (i : Instr) : Bool := i.flaw.isNone

end Sys2Proof
end

