-- ==== Sys2Proof/Certificates/Slice0/Obligations.lean ====
section
/-! DEFINITION. The statements for the provers, with the lists of rows they range over. -/
open Sys2Proof Sys2Proof.Machine

/-- For every command c and state s, the step of s with c at the front of its queue is exec of c on s with the
queue's rest. The queue is the model's own; this is the contract of a block. -/
def Obligations.StepRunsFrontCommand : Prop :=
  ∀ (c : Instr) (rest : List Instr) (s : State),
    step { s with pending := c :: rest } = exec c { s with pending := rest }

/-- With no command waiting, a step answers tick s: the clock of the model moves on by one, the completion timestamp
counts one unit while it counts and the device is not in FREEWHEEL (the part of R56 about FREEWHEEL apart), and the
step leaves the commands, host memory, OTP and the vault. That an empty queue ticks is the model's choice (log 2). -/
def Obligations.IdleStepIsOneTick : Prop :=
  ∀ (s : State), s.pending = [] →
    step s = .next (tick s) ∧ (tick s).now = s.now + 1 ∧
    (s.hif.counting = true → s.pwr.mode ≠ .freewheel → (tick s).hif.ts = s.hif.ts + 1) ∧
    (tick s).hif.cmds = s.hif.cmds ∧ (tick s).host.mem = s.host.mem ∧ (tick s).lcs = s.lcs ∧ (tick s).kvt = s.kvt

/-- Every command of every row answers a next state in every state, and so does a step on an empty queue. -/
def Obligations.EveryStepGoesOn : Prop :=
  ∀ (s : State), (∃ t, step s = .next t) ∧ ∀ c : Instr, ∃ t, exec c s = .next t

/-- For every OTP word and every set of its bits: if the bits are set, they are set after any step that answers a
next state, whatever the command (R411: a burn sets bits and never clears them). -/
def Obligations.OtpBitsNeverClear : Prop :=
  ∀ (s t : State) (n v : Nat), otpHas n v s → step s = .next t → otpHas n v t

/-- If host memory and OTP are in canonical form (addresses strictly rising, no entry equal to what an unlisted
address reads as), they are after any step that answers a next state. The form is the model's own. -/
def Obligations.MemoryStaysCanonical : Prop :=
  ∀ (s t : State), Memory.wf s = true → step s = .next t → Memory.wf t = true

/-- Whatever a command does, the queue after it is the queue it found: with StepRunsFrontCommand, commands are taken
strictly first in, first out, and none is added or lost by the block. -/
def Obligations.QueueIsConsumedInOrder : Prop :=
  ∀ (c : Instr) (s t : State), exec c s = .next t → t.pending = s.pending

/-- State.reset stands in mode RESET with cause 0; no command, no instance and no queue pair is there; the tables'
reset values: fw_en 1, fw_idle 0x64, drain_run 0x28, cap_w 0x2D, max_ms 0xC8, gap_ms 0x320, tj limit 0x5F, thr_mv
0x4B0, TMP_CLASS 0x03FF9C05, its windows, reaction timers 0x32, ENT_WAIT 0x64, disc_wait 0x1F4, member_timeout 0x32,
mgr_weight 0x400, mgr quota 0x400. Host memory and OTP are in canonical form. The logged identity words of OTP and
what the spec gives no reset value are the model's (log 4). -/
def Obligations.ResetRegisterValues : Prop :=
  Memory.wf State.reset = true ∧ State.reset.pwr.mode = .reset ∧ State.reset.pwr.cause = 0 ∧ State.reset.hif.cmds = [] ∧ State.reset.hif.inst = [] ∧
  State.reset.hif.qps = [] ∧ State.reset.pwr.fwEn = true ∧ State.reset.pwr.fwIdle = 0x64 ∧
  State.reset.pwr.drainRun = 0x28 ∧ State.reset.pwr.capW = 0x2D ∧ State.reset.pwr.maxMs = 0xC8 ∧
  State.reset.pwr.gapMs = 0x320 ∧ State.reset.pwr.surgeTj = 0x5F ∧ State.reset.pwr.holdThr = 0x4B0 ∧
  State.reset.tmp.classes = 0x03FF9C05 ∧ State.reset.tmp.win0 = 0x031102CB ∧ State.reset.tmp.win1 = 0x074E06C2 ∧
  State.reset.tmp.win2 = 0x0E740834 ∧ State.reset.tmp.tempWin = 0x7DE2 ∧ (fltU State.reset .kvt 0).timerUs = 0x32 ∧
  State.reset.ent.wait100 = 0x64 ∧ State.reset.tlk.discWait = 0x1F4 ∧ State.reset.tlk.memberTimeout = 0x32 ∧
  State.reset.drl.mgrWeight = 0x400 ∧ State.reset.mem.mgrQuota = 0x400 ∧ State.reset.pending = []

/-- The element-wise rows of Table 6-5 on engine `e`, each with its function. -/
def rowsElement (e : Fin 64) (a : VF) : List (Instr × VKind) :=
  [(.vadd e a, .add), (.vsub e a, .sub), (.vmul e a, .mul), (.vmulh e a, .mulh), (.vmac e a, .mac), (.vneg e a, .neg),
   (.vsqr e a, .sqr), (.vclmul e a, .clmul), (.vclmulh e a, .clmulh), (.vand e a, .and), (.vor e a, .or),
   (.vxor e a, .xor), (.vsll e a, .sll), (.vsrl e a, .srl), (.vsra e a, .sra), (.vsadd e a, .sadd),
   (.vssub e a, .ssub), (.vsaddu e a, .saddu), (.vssubu e a, .ssubu), (.vmin e a, .min), (.vmax e a, .max)]

/-- For VADD to VMAX in every form and mode that Table 6-5 gives them, on an engine whose kernel takes its next
instruction undisturbed and with VL above 0: the row answers a next state in which each active element below VL of
vd holds the function's value in the low bits of its width, each masked-off and each tail element its old value,
every other vector register, the masks, the scalars and the rest of the block are unchanged, VSTART is 0 and the PC
has moved on by one word (R155, Table 6-5). -/
def Obligations.ElementwiseRowsWriteActiveElements : Prop :=
  ∀ (s : State) (e : Fin 64) (a : VF) (r : Instr × VKind), r ∈ rowsElement e a → kernelReady s e → kFetch e (eng s e) r.1 = .this →
    (0 < (eng s e).order → (eng s e).order ≤ 3 ∧ (eng s e).mg.blocks + 19 < 983040) →
    formRsv a = false → a.mode.toNat ∈ vopModes r.2 → (r.2 = .neg → a.f2 = 0) →
    modeCheck (eng s e) a.mode.toNat a.w.toNat = 0 → 0 < (eng s e).vl →
    ∃ t, exec r.1 s = .next t ∧
      (∀ i, i < 8192 / (8 <<< (eng s e).sew) →
        elAt (getV (eng t e) a.vd.toNat).val (8 <<< (eng s e).sew) i =
          if i < (eng s e).vl ∧ active (eng s e) a.k.toNat i = true then
            vopEl (eng s e) r.2 a.mode.toNat a.w.toNat (8 <<< (eng s e).sew)
              (canon (eng s e) a.mode.toNat a.w.toNat
                (elAt (getV (eng s e) a.vs1.toNat).val (8 <<< (eng s e).sew) i))
              (second (eng s e) a (8 <<< (eng s e).sew) i (isShift r.2))
              (canon (eng s e) a.mode.toNat a.w.toNat
                (elAt (getV (eng s e) a.vd.toNat).val (8 <<< (eng s e).sew) i)) % 2 ^ (8 <<< (eng s e).sew)
          else elAt (getV (eng s e) a.vd.toNat).val (8 <<< (eng s e).sew) i) ∧
      (∀ j, j ≠ a.vd.toNat → getV (eng t e) j = getV (eng s e) j) ∧ (eng t e).k = (eng s e).k ∧
      (eng t e).x = (eng s e).x ∧ (eng t e).vl = (eng s e).vl ∧ (eng t e).sew = (eng s e).sew ∧
      (eng t e).vstart = 0 ∧ (eng t e).pc = ((eng s e).pc + 1) % 0x4000 ∧ (eng t e).work = (eng s e).work ∧
      kernelFrame s t e

/-- The other vector rows on registers (Tables 6-6 and 6-7), each with what it does to its engine. -/
def rowsVector (e : Fin 64) (u : Bool) (f8 : Fin 8) (f4 : Fin 4) (a : VF) : List (Instr × (Engine → KRes)) :=
  [(.vwmul e u a, vwop .mul u a), (.vwmacc e u a, vwop .macc u a), (.vwadd e u a, vwop .add u a),
   (.vdot4 e u a, vwop .dot4 u a), (.vdot2 e u a, vwop .dot2 u a), (.vcmp e f8 a, vcmp f8 a), (.kLogic e f4 a, kmask f4 a),
   (.kmov e a, kmask 4 a), (.vtest e a, vtest a), (.vslideup e a, vperm .slideUp a), (.vslidedn e a, vperm .slideDn a),
   (.vrgather e a, vperm .rgather a), (.vbcast e a, vperm .bcast a), (.vmerge e a, vperm .merge a),
   (.vredsum e a, vperm .redsum a), (.vmv e a, vperm .mv a)]

/-- The memory rows with no poisoned line (R160, R161). -/
def rowsMemory (e : Fin 64) (m : MF) (g : GF) : List (Instr × (Engine → KRes)) :=
  [(.vld e m, vmem (fun _ _ => false) false m), (.vst e m, vmem (fun _ _ => false) true m),
   (.vgather e g, vgs (fun _ _ => false) false g), (.vscatter e g, vgs (fun _ _ => false) true g)]

/-- The scalar rows (Table 6-10), VEND apart. -/
def rowsScalar (e : Fin 64) (f4 : Fin 4) (xd : BitVec 4) (off : BitVec 22) (a : XF) : List (Instr × (Engine → KRes)) :=
  [(.xop e a, xop a), (.xaddi e a, xaddi a), (.xshi e a, xshi a), (.xlih e a, xlih a), (.xld e a, xld (fun _ _ => false) a),
   (.xBranch e f4 a, xbranch f4 a), (.jal e xd off, jal xd off), (.jalr e a, jalr a), (.setvl e a, setvl a),
   (.vsetq e a, vsetq a), (.vsetgf e a, vsetgf a)]

/-- The long rows (Table 6-9), each with its routine and what it does to its engine; `fr` are the open bytes. -/
def rowsLong (e : Fin 64) (fr : Nat → Byte) (a : LF) : List (Instr × Nat × (Engine → KRes)) :=
  [(.vntt e a, 0, vntt false a), (.vintt e a, 1, vntt true a), (.vbmul e a, 2, vbmul a), (.vsampleU e a, 3, vsampleU fr a),
   (.vsampleCbd e a, 4, vsampleCbd fr a), (.vsampleEta e a, 5, vsampleEta fr a),
   (.vsampleBall e a, 6, vsampleBall fr a), (.vdecomp e a, 7, vdecomp a), (.vcompress e a, 8, vcompress false a),
   (.vdecompress e a, 9, vcompress true a), (.vpack e a, 10, vpack false a), (.vunpack e a, 11, vpack true a),
   (.va2b e a, 12, vconv true a), (.vb2a e a, 13, vconv false a), (.vafft e a, 14, vafft false a),
   (.viafft e a, 15, vafft true a), (.vgoppa e a, 16, vgoppa a), (.vxofInit e a, 17, vxofInit a),
   (.vxofAbs e a, 18, vxofAbs a), (.vxofSq e a, 19, vxofSq fr a), (.vkey e a, 20, vkey a), (.vunmask e a, 21, vunmask a),
   (.vmpmul e a, 24, vmp .mul a), (.vmpsqr e a, 25, vmp .sqr a), (.vmpred e a, 26, vmp .red a),
   (.vmpadd e a, 27, vmp .add a), (.vmpsub e a, 28, vmp .sub a), (.vmpcswap e a, 29, vmp .cswap a)]

/-- VWMUL, VWMACC, VWADD, VDOT4, VDOT2, VCMP, KAND to KNOT, KMOV, VTEST, the slides, VRGATHER, VBCAST, VMERGE,
VREDSUM and VMV: on an engine whose kernel takes its next instruction undisturbed, a legal instruction (kernelLegal:
by the tables' own conditions on its fields, the widths and the registers) completes: it answers a next state whose
engine is the one the instruction's table gives; so does any instruction whose table gives a result, with VSTART 0
and the PC moved on by one word, and only vector registers, masks and scalars of that engine differ; the rest of the
block is unchanged. -/
def Obligations.VectorRowsRetire : Prop :=
  ∀ (s : State) (e : Fin 64) (u : Bool) (f8 : Fin 8) (f4 : Fin 4) (a : VF) (r : Instr × (Engine → KRes)),
    r ∈ rowsVector e u f8 f4 a → kernelReady s e → kFetch e (eng s e) r.1 = .this →
    (kernelLegal r.1 (eng s e) → sharesFit (eng s e) →
      ∃ x t, r.2 (eng s e) = .ok x ∧ exec r.1 s = .next t ∧ eng t e = x ∧ kernelFrame s t e) ∧
    (∀ x, r.2 (eng s e) = .ok x → x.mg.blocks < 983040 →
      ∃ t, exec r.1 s = .next t ∧ eng t e = x ∧ x.vstart = 0 ∧ x.pc = ((eng s e).pc + 1) % 0x4000 ∧
        x = { eng s e with v := x.v, k := x.k, x := x.x, mg := x.mg, vstart := 0, pc := x.pc, stall := none } ∧ kernelFrame s t e)

/-- A VLD, VST, VGATHER or VSCATTER without reserved bits, with widths and modulus in order and each of its accesses
aligned, in a window that allows it and staged, on an engine whose kernel takes its next instruction undisturbed,
completes: it answers a next state whose engine is the one the accesses in order give, with VSTART 0 and the PC
moved on; only that engine's vector registers and WORK window differ: host memory, every other window and every
other engine are unchanged (R160 to R162). -/
def Obligations.MemoryRowsRetire : Prop :=
  ∀ (s : State) (e : Fin 64) (m : MF) (g : GF) (r : Instr × (Engine → KRes)),
    r ∈ rowsMemory e m g → kernelReady s e → kFetch e (eng s e) r.1 = .this →
    (kernelLegal r.1 (eng s e) → sharesFit (eng s e) →
      ∃ x t, r.2 (eng s e) = .ok x ∧ exec r.1 s = .next t ∧ eng t e = x ∧ kernelFrame s t e) ∧
    (∀ x, r.2 (eng s e) = .ok x → x.mg.blocks < 983040 →
      ∃ t, exec r.1 s = .next t ∧ eng t e = x ∧ x.vstart = 0 ∧ x.pc = ((eng s e).pc + 1) % 0x4000 ∧ x.k = (eng s e).k ∧
        x.x = (eng s e).x ∧ x.cache = (eng s e).cache ∧ x.staged = (eng s e).staged ∧ x.fifo = (eng s e).fifo ∧
        kernelFrame s t e)

/-- XOP, XADDI, XSHI, XLIH, XLD, the branches, JAL, JALR, SETVL, VSETQ and VSETGF: where the instruction is legal
(no reserved bit, its access granted, its jump inside the region, its modulus and field in range), on an engine
whose kernel takes its next instruction undisturbed, it completes: it answers a next state whose engine is the one
Table 6-10 gives, with VSTART 0 and the PC inside the word range; no vector register, mask or WORK byte differs, X0
keeps its value, and the rest of the block is unchanged (R167). -/
def Obligations.ScalarRowsRetire : Prop :=
  ∀ (s : State) (e : Fin 64) (f4 : Fin 4) (xd : BitVec 4) (off : BitVec 22) (a : XF) (r : Instr × (Engine → KRes)),
    r ∈ rowsScalar e f4 xd off a → kernelReady s e → kFetch e (eng s e) r.1 = .this →
    (kernelLegal r.1 (eng s e) → sharesFit (eng s e) →
      ∃ x t, r.2 (eng s e) = .ok x ∧ exec r.1 s = .next t ∧ eng t e = x ∧ kernelFrame s t e) ∧
    (∀ x, r.2 (eng s e) = .ok x → x.mg.blocks < 983040 →
      ∃ t, exec r.1 s = .next t ∧ eng t e = x ∧ x.vstart = 0 ∧ x.pc < 0x4000 ∧ x.v = (eng s e).v ∧ x.k = (eng s e).k ∧
        x.work = (eng s e).work ∧ getX x 0 = getX (eng s e) 0 ∧ kernelFrame s t e)

/-- Each long row of Table 6-9 that is legal (a listed p, the width, VL, register groups, slot, field, key or FIFO
room that the table asks), in a routine that no patch changes and on an engine whose kernel takes its next
instruction undisturbed, completes: it answers a next state whose engine is the one the routine gives, with
HUB_UC_STATUS naming the routine, committed, no restart counted and nothing in progress; other engines and the rest
of the block, the hash arrays apart, are unchanged (R165, R178). -/
def Obligations.LongRowsRetire : Prop :=
  ∀ (s : State) (e : Fin 64) (a : LF) (r : Instr × Nat × (Engine → KRes)),
    r ∈ rowsLong e (fun i => Config.freeByte (s.free + i)) a → kernelReady s e →
    kFetch e (eng s e) r.1 = .this → patched s.hub.patch r.2.1 = false →
    (kernelLegal r.1 (eng s e) → sharesFit (eng s e) →
      ∃ x t, r.2.2 (eng s e) = .ok x ∧ exec r.1 s = .next t ∧ kernelFrame s t e ∧ eng t e = { x with uc := { x.uc with
        routine := r.2.1, running := false, committed := true, refaulted := false, issue := false, restarts := 0 } }) ∧
    (∀ x, r.2.2 (eng s e) = .ok x → x.mg.blocks < 983040 →
      ∃ t, exec r.1 s = .next t ∧
        eng t e = { x with uc := { x.uc with
          routine := r.2.1, running := false, committed := true, refaulted := false
          issue := false, restarts := if x.uc.issue then x.uc.restarts else 0 } } ∧ kernelFrame s t e)

/-- On an engine whose kernel takes its next instruction undisturbed: XADDI writes X[xs1] plus its sign-extended
immediate to a destination other than X0; SETVL with an immediate n and width code s sets VL to the lesser of n and
VLMAX, the width to s, and writes VL to its destination other than X0; XLIH writes its 16-bit immediate shifted to
its place (Table 6-10). -/
def Obligations.SetvlAddImmediateAndShiftResults : Prop :=
  ∀ (s : State) (e : Fin 64) (a : XF), kernelReady s e → a.xd ≠ 0 →
    (kFetch e (eng s e) (.xaddi e a) = .this → ∃ t, exec (.xaddi e a) s = .next t ∧
      getX (eng t e) a.xd.toNat = getX (eng s e) a.xs1.toNat + a.f.signExtend 64 ∧
      ∀ j, j ≠ a.xd.toNat → getX (eng t e) j = getX (eng s e) j) ∧
    (kFetch e (eng s e) (.xlih e a) = .this → a.xs1.toNat % 4 = 0 → bitsOf a.f.toNat 16 2 = 0 → ∃ t, exec (.xlih e a) s = .next t ∧
      getX (eng t e) a.xd.toNat = BitVec.ofNat 64 (a.f.toNat % 65536) <<< (16 * (a.xs1.toNat / 4))) ∧
    (kFetch e (eng s e) (.setvl e a) = .this → a.f.toNat.testBit 17 = true → bitsOf a.f.toNat 2 4 = 0 → ∃ t, exec (.setvl e a) s = .next t ∧
      (eng t e).vl = min (bitsOf a.f.toNat 6 11) (1024 >>> (a.f.toNat % 4)) ∧ (eng t e).sew = a.f.toNat % 4 ∧
      getX (eng t e) a.xd.toNat = BitVec.ofNat 64 (eng t e).vl)

/-- A VEND with code 0, 1, 2 or 3 on an engine whose output FIFO is empty and that no service call runs on finishes
its command with STS_OK, STS_VERIFY_FAIL, STS_NOT_EQUAL or STS_BAD_PARAMETER; at code 0 the output length is the
bytes delivered, at any other 0; every other command, host memory and the other engines are unchanged (R167). -/
def Obligations.VendGivesTheCommandItsStatus : Prop :=
  ∀ (s : State) (e : Fin 64) (code : Fin 4) (id : Nat) (c : Cmd), kernelReady s e → (eng s e).fifo = [] →
    kFetch e (eng s e) (.vend e ⟨0, 0, BitVec.ofNat 18 code.val⟩) = .this →
    (eng s e).cmd = some id → cmdU s id = some c → c.id = id → c.core = none →
    ∃ t d, exec (.vend e ⟨0, 0, BitVec.ofNat 18 code.val⟩) s = .next t ∧ cmdU t id = some d ∧ d.phase = .finished ∧
      d.res.status = (if code = 0 then stsOk else if code = 1 then stsVerifyFail else if code = 2 then stsNotEqual
        else stsBadParameter) ∧ d.res.outLen = (if code = 0 then (eng s e).outCount else 0) ∧
      (∀ j, j ≠ id → cmdU t j = cmdU s j) ∧ t.host.mem = s.host.mem ∧ (∀ m, m ≠ e.val → eng t m = eng s m)

/-- With VL = 0 and the widths of R154 in order, each row of Table 6-5 answers a next state in which the engine
differs only in VSTART = 0, no wait and the PC moved on by one word (R155: an instruction executed with VL = 0
changes nothing). A row of Table 6-5 in a mode the table does not give it, or with widths that do not agree (R154),
changes no vector register, mask or scalar before the exception: it leaves the state that a CONTAINED record of
checker 9 at the engine and the end of its command leave, with HUB_KEXC holding cause 1 or the cause of R154 (R168). -/
def Obligations.ElementwiseRowsThatWriteNoElement : Prop :=
  ∀ (s : State) (e : Fin 64) (a : VF) (r : Instr × VKind), r ∈ rowsElement e a → kernelReady s e → kFetch e (eng s e) r.1 = .this →
    (formRsv a = false → a.mode.toNat ∈ vopModes r.2 → (r.2 = .neg → a.f2 = 0) →
      modeCheck (eng s e) a.mode.toNat a.w.toNat = 0 → (eng s e).vl = 0 →
      ∃ t, exec r.1 s = .next t ∧ eng t e = nextPc { eng s e with vstart := 0, stall := none } ∧ kernelFrame s t e) ∧
    (svcCore s e = none → formRsv a = true ∨ a.mode.toNat ∉ vopModes r.2 → exec r.1 s = .next (faultAt
      { blk := .hub, set := e, checker := 9, cls := 1, inst := (eng s e).inst } (eng s e).cmd
      (setEng e (excAt (eng s e) 1 0) { s with free := s.free + openSpan }))) ∧
    (svcCore s e = none → formRsv a = false → a.mode.toNat ∈ vopModes r.2 → (r.2 = .neg → a.f2 = 0) →
      modeCheck (eng s e) a.mode.toNat a.w.toNat ≠ 0 → exec r.1 s = .next (faultAt
      { blk := .hub, set := e, checker := 9, cls := 1, inst := (eng s e).inst } (eng s e).cmd
      (setEng e (excAt (eng s e) (modeCheck (eng s e) a.mode.toNat a.w.toNat) 0) { s with free := s.free + openSpan })))

/-- The register ALU, quick, immediate and unary rows (Tables 13-2 to 13-4) on core `n`, each with its function and its
length in words. -/
def rowsData (n : Fin 16) (dd ds : BitVec 4) (v : BitVec 5) (imm : BitVec 17)
    (r : Instr × (Core → SRes) × Nat) : Prop :=
  r ∈ [(.sMov n dd ds, aluF 0 dd.toNat ds.toNat, 1), (.sAdd n dd ds, aluF 1 dd.toNat ds.toNat, 1),
   (.sSub n dd ds, aluF 2 dd.toNat ds.toNat, 1), (.sAdc n dd ds, aluF 3 dd.toNat ds.toNat, 1),
   (.sSbc n dd ds, aluF 4 dd.toNat ds.toNat, 1), (.sAnd n dd ds, aluF 5 dd.toNat ds.toNat, 1),
   (.sOr n dd ds, aluF 6 dd.toNat ds.toNat, 1), (.sXor n dd ds, aluF 7 dd.toNat ds.toNat, 1),
   (.sCmp n dd ds, aluF 8 dd.toNat ds.toNat, 1), (.sTst n dd ds, aluF 9 dd.toNat ds.toNat, 1),
   (.sShl n dd ds, aluF 10 dd.toNat ds.toNat, 1), (.sShr n dd ds, aluF 11 dd.toNat ds.toNat, 1),
   (.sSar n dd ds, aluF 12 dd.toNat ds.toNat, 1), (.sMul n dd ds, aluF 13 dd.toNat ds.toNat, 1),
   (.sMovq n dd v, quickF 0 dd.toNat v.toNat, 1), (.sAddq n dd v, quickF 1 dd.toNat v.toNat, 1),
   (.sShli n dd v, quickF 2 dd.toNat v.toNat, 1), (.sShri n dd v, quickF 3 dd.toNat v.toNat, 1),
   (.sSari n dd v, quickF 4 dd.toNat v.toNat, 1), (.sRoli n dd v, quickF 5 dd.toNat v.toNat, 1),
   (.sMovi n dd imm, immF 0 dd.toNat imm, 2), (.sAddi n dd imm, immF 1 dd.toNat imm, 2),
   (.sAndi n dd imm, immF 2 dd.toNat imm, 2), (.sOri n dd imm, immF 3 dd.toNat imm, 2),
   (.sXori n dd imm, immF 4 dd.toNat imm, 2), (.sCmpi n dd imm, immF 5 dd.toNat imm, 2),
   (.sMovh n dd imm, immF 6 dd.toNat imm, 2), (.sTsti n dd imm, immF 7 dd.toNat imm, 2),
   (.sNeg n dd, unaryF 0 dd.toNat, 1), (.sNot n dd, unaryF 1 dd.toNat, 1), (.sAbs n dd, unaryF 2 dd.toNat, 1),
   (.sSextb n dd, unaryF 3 dd.toNat, 1), (.sSexth n dd, unaryF 4 dd.toNat, 1), (.sZextb n dd, unaryF 5 dd.toNat, 1),
   (.sZexth n dd, unaryF 6 dd.toNat, 1), (.sClz n dd, unaryF 7 dd.toNat, 1), (.sPopc n dd, unaryF 8 dd.toNat, 1),
   (.sBswap n dd, unaryF 9 dd.toNat, 1), (.sMff n dd, unaryF 10 dd.toNat, 1), (.sMtf n dd, unaryF 11 dd.toNat, 1),
   (.sMfw n dd, unaryF 12 dd.toNat, 1), (.sMtw n dd, unaryF 13 dd.toNat, 1), (.sMfpc n dd, unaryF 14 dd.toNat, 1)]

/-- The other rows that stay in core `n`: accumulators, address registers, data memory, control and repeats. -/
def rowsCore (n : Fin 16) (mx : BitVec 2) (d1 d2 : BitVec 3) (dd : BitVec 4) (an : BitVec 3) (m : BitVec 2) (q : BitVec 6)
    (x : BitVec 8) (ext : BitVec 14)
    (r : Instr × (Core → SRes)) : Prop :=
  r ∈ [(.sMac n mx d1 d2, macF 0 mx.toNat d1.toNat d2.toNat), (.sMacu n mx d1 d2, macF 1 mx.toNat d1.toNat d2.toNat),
   (.sMsu n mx d1 d2, macF 2 mx.toNat d1.toNat d2.toNat), (.sMulm n mx d1 d2, macF 3 mx.toNat d1.toNat d2.toNat),
   (.sMclr n mx dd, accF 0 mx.toNat dd.toNat), (.sMld n mx dd, accF 1 mx.toNat dd.toNat),
   (.sMrdl n mx dd, accF 2 mx.toNat dd.toNat), (.sMrdh n mx dd, accF 3 mx.toNat dd.toNat),
   (.sMrdg n mx dd, accF 4 mx.toNat dd.toNat), (.sMsat n mx dd, accF 5 mx.toNat dd.toNat),
   (.sMsar n mx dd, accF 6 mx.toNat dd.toNat), (.sMins n mx dd, accF 7 mx.toNat dd.toNat),
   (.sAmov n an dd, runTgt (.amov an.toNat dd.toNat)), (.sDmova n an dd, runTgt (.dmova an.toNat dd.toNat)),
   (.sAaddq n an q, runTgt (.aaddq an.toNat q)), (.sAmod n an dd, amodF an.toNat dd.toNat),
   (.sLd n m an dd ext, memF 0 m.toNat an.toNat dd.toNat ext), (.sSt n m an dd ext, memF 1 m.toNat an.toNat dd.toNat ext),
   (.sLdb n m an dd ext, memF 2 m.toNat an.toNat dd.toNat ext), (.sStb n m an dd ext, memF 3 m.toNat an.toNat dd.toNat ext),
   (.sNop n, fun k => .ok (adv 1 k)), (.sFence n, fun k => .ok (adv 1 k)),
   (.sEi n, vendorOnly (fun k => .ok (adv 1 { k with ie := true }))),
   (.sDi n, vendorOnly (fun k => .ok (adv 1 { k with ie := false }))),
   (.sSleep n, vendorOnly (fun k => .ok (adv 1 { k with sleeping := !k.intPend }))),
   (.sHalt n, vendorOnly (fun k => .ok (adv 1 { k with haltedI := true }))),
   (.sRep n x, repF x.toNat), (.sRepi n, repiF), (.sJmp n ext, goto ext.toNat),
   (.sJmpa n an, fun k => goto (getA k an.toNat).toNat k)]

/-- Each register ALU (DIVS and DIVU apart), quick, immediate and unary row completes on a core that fetches the row
and where nothing else happens at the boundary, where its result raises no overflow trap, MOVH's immediate fits, MTW
runs in vendor mode and an extension program goes on in its region: it answers a next state in which the core is as
its table gives. Wherever such a row has a result, only Dd, F, WIN and the PC can differ, the PC has moved on by the
instruction's words, and neither any other core nor any other part of the block differs. -/
def Obligations.DataRowsWriteRegisterAndFlags : Prop :=
  ∀ (s : State) (n : Fin 16) (dd ds : BitVec 4) (v : BitVec 5) (imm : BitVec 17) (r : Instr × (Core → SRes) × Nat),
    rowsData n dd ds v imm r → coreReady s n → coreFetches s n r.1 →
    (coreLegal r.1 (coreU s n) → stays r.1 (coreU s n) →
      ∃ d t, r.2.1 { coreU s n with trap := {} } = .ok d ∧ exec r.1 s = .next t ∧
        coreU t n = { d with trap := (coreU s n).trap } ∧ coreFrame s t n) ∧
    (∀ d, r.2.1 { coreU s n with trap := {} } = .ok d → staysIn (coreU s n) d →
      ∃ t, exec r.1 s = .next t ∧ coreU t n = { d with trap := (coreU s n).trap } ∧
        d = { coreU s n with trap := {}, d := d.d, f := d.f, win := d.win, pc := ((coreU s n).pc + r.2.2) % 0x4000 } ∧
        (∀ j, j < 16 → j ≠ dd.toNat → getD d j = getD (coreU s n) j) ∧ coreFrame s t n)

/-- With the overflow trap disabled and the row fetched, ADD gives Dd the sum modulo 2^32, C the carry out of bit
31, V signed overflow; SUB and CMP compute the difference with C 1 when there is no borrow; CMP writes no register.
Z and N come from the result, DZ and MS stay (R289, Table 13-5). -/
def Obligations.AdditionAndSubtractionFlags : Prop :=
  ∀ (s : State) (n : Fin 16) (dd ds : BitVec 4), coreReady s n → (coreU s n).ovEn = false →
    staysIn (coreU s n) (adv 1 (coreU s n)) →
    (coreFetches s n (.sAdd n dd ds) → ∃ t, exec (.sAdd n dd ds) s = .next t ∧
      getD (coreU t n) dd.toNat = getD (coreU s n) dd.toNat + getD (coreU s n) ds.toNat ∧
      ((coreU t n).f.getLsbD 0 = true ↔ 2 ^ 32 ≤ (getD (coreU s n) dd.toNat).toNat + (getD (coreU s n) ds.toNat).toNat) ∧
      ((coreU t n).f.getLsbD 1 = true ↔ getD (coreU t n) dd.toNat = 0) ∧
      (coreU t n).f.getLsbD 2 = (getD (coreU t n) dd.toNat).getLsbD 31 ∧
      ((coreU t n).f.getLsbD 3 = true ↔
        (getD (coreU t n) dd.toNat).toInt ≠ (getD (coreU s n) dd.toNat).toInt + (getD (coreU s n) ds.toNat).toInt) ∧
      (coreU t n).f.getLsbD 4 = (coreU s n).f.getLsbD 4 ∧ (coreU t n).f.getLsbD 5 = (coreU s n).f.getLsbD 5) ∧
    (∀ r ∈ [(Instr.sSub n dd ds, true), (.sCmp n dd ds, false)], coreFetches s n r.1 → ∃ t, exec r.1 s = .next t ∧
      (r.2 = true → getD (coreU t n) dd.toNat = getD (coreU s n) dd.toNat - getD (coreU s n) ds.toNat) ∧
      (r.2 = false → (coreU t n).d = (coreU s n).d) ∧
      ((coreU t n).f.getLsbD 0 = true ↔ (getD (coreU s n) ds.toNat).toNat ≤ (getD (coreU s n) dd.toNat).toNat) ∧
      ((coreU t n).f.getLsbD 1 = true ↔ getD (coreU s n) dd.toNat = getD (coreU s n) ds.toNat) ∧
      (coreU t n).f.getLsbD 2 = (getD (coreU s n) dd.toNat - getD (coreU s n) ds.toNat).getLsbD 31 ∧
      ((coreU t n).f.getLsbD 3 = true ↔
        (getD (coreU s n) dd.toNat - getD (coreU s n) ds.toNat).toInt ≠
          (getD (coreU s n) dd.toNat).toInt - (getD (coreU s n) ds.toNat).toInt))

/-- For a row that is fetched: an odd Dd raises the illegal-instruction trap in either. With an even Dd, a divisor
that is not 0 and the overflow trap disabled, DIVS writes Dd with the quotient truncated towards zero and Dd+1 with
the remainder, which has the dividend's sign, both from the values Dd and Ds held before, also where Ds is Dd or
Dd+1; DIVU the same on unsigned numbers. -/
def Obligations.DivisionQuotientAndRemainder : Prop :=
  ∀ (s : State) (n : Fin 16) (dd ds : BitVec 4), coreReady s n →
    (dd.toNat % 2 = 1 → ∀ i ∈ [Instr.sDivs n dd ds, .sDivu n dd ds], coreFetches s n i →
      exec i s = .next (sTrap n 1 { coreU s n with trap := {} } s)) ∧
    (dd.toNat % 2 = 0 → getD (coreU s n) ds.toNat ≠ 0 → (coreU s n).ovEn = false →
      staysIn (coreU s n) (adv 1 (coreU s n)) →
      (coreFetches s n (.sDivs n dd ds) → ∃ t, exec (.sDivs n dd ds) s = .next t ∧ (coreU t n).pc = ((coreU s n).pc + 1) % 0x4000 ∧
        getD (coreU t n) dd.toNat =
          BitVec.ofInt 32 ((getD (coreU s n) dd.toNat).toInt.tdiv (getD (coreU s n) ds.toNat).toInt) ∧
        getD (coreU t n) (dd.toNat + 1) =
          BitVec.ofInt 32 ((getD (coreU s n) dd.toNat).toInt.tmod (getD (coreU s n) ds.toNat).toInt) ∧
        (∀ j, j < 16 → j ≠ dd.toNat → j ≠ dd.toNat + 1 → getD (coreU t n) j = getD (coreU s n) j)) ∧
      (coreFetches s n (.sDivu n dd ds) → ∃ t, exec (.sDivu n dd ds) s = .next t ∧ (coreU t n).pc = ((coreU s n).pc + 1) % 0x4000 ∧
        getD (coreU t n) dd.toNat =
          BitVec.ofNat 32 ((getD (coreU s n) dd.toNat).toNat / (getD (coreU s n) ds.toNat).toNat) ∧
        getD (coreU t n) (dd.toNat + 1) =
          BitVec.ofNat 32 ((getD (coreU s n) dd.toNat).toNat % (getD (coreU s n) ds.toNat).toNat) ∧
        (∀ j, j < 16 → j ≠ dd.toNat → j ≠ dd.toNat + 1 → getD (coreU t n) j = getD (coreU s n) j)))

/-- With an even Dd, a divisor of 0 and the row fetched, DIVS and DIVU write the quotient 0xFFFFFFFF and the
remainder equal to the dividend, set DZ and clear V; with SEQ_TRAP_EN.dz = 1 the divide-by-zero trap follows, with
the next instruction as its saved PC. -/
def Obligations.DivisionByZero : Prop :=
  ∀ (s : State) (n : Fin 16) (dd ds : BitVec 4) (i : Instr), coreReady s n → i = .sDivs n dd ds ∨ i = .sDivu n dd ds → coreFetches s n i →
    dd.toNat % 2 = 0 → getD (coreU s n) ds.toNat = 0 → staysIn (coreU s n) (adv 1 (coreU s n)) →
    ∃ d : Core, getD d dd.toNat = 0xFFFFFFFF ∧ getD d (dd.toNat + 1) = getD (coreU s n) dd.toNat ∧
      d.f.getLsbD 4 = true ∧ d.f.getLsbD 3 = false ∧ d.pc = ((coreU s n).pc + 1) % 0x4000 ∧
      ((coreU s n).dzEn = false → ∃ t, exec i s = .next t ∧ coreU t n = { d with trap := (coreU s n).trap }) ∧
      ((coreU s n).dzEn = true → exec i s = .next (sTrap n 4 d s))

/-- The rows whose result sets V (Table 13-5), on core `n`. -/
def rowsV (n : Fin 16) (dd ds : BitVec 4) (v : BitVec 5) (imm : BitVec 17)
    (r : Instr × (Core → SRes)) : Prop :=
  r ∈ [(.sAdd n dd ds, aluF 1 dd.toNat ds.toNat), (.sSub n dd ds, aluF 2 dd.toNat ds.toNat),
   (.sAdc n dd ds, aluF 3 dd.toNat ds.toNat), (.sSbc n dd ds, aluF 4 dd.toNat ds.toNat),
   (.sMul n dd ds, aluF 13 dd.toNat ds.toNat), (.sDivs n dd ds, aluF 14 dd.toNat ds.toNat),
   (.sDivu n dd ds, aluF 15 dd.toNat ds.toNat), (.sAddq n dd v, quickF 1 dd.toNat v.toNat),
   (.sAddi n dd imm, immF 1 dd.toNat imm), (.sNeg n dd, unaryF 0 dd.toNat), (.sAbs n dd, unaryF 2 dd.toNat)]

/-- The rows that set V and never trap for it. -/
def rowsQuiet (n : Fin 16) (mx : BitVec 2) (dd ds : BitVec 4) (imm : BitVec 17)
    (r : Instr × (Core → SRes)) : Prop :=
  r ∈ [(.sCmp n dd ds, aluF 8 dd.toNat ds.toNat), (.sCmpi n dd imm, immF 5 dd.toNat imm),
   (.sMsat n mx dd, accF 5 mx.toNat dd.toNat)]

/-- With SEQ_TRAP_EN.ov = 1, a fetched row whose result sets V to 1 (ADD, SUB, ADC, SBC, MUL, DIVS, DIVU, ADDQ,
ADDI, NEG, ABS) takes trap 5 on the core that already holds its result and flags; CMP, CMPI and MSAT complete
whatever V becomes. MTF and RETI, which load F, are not among the rows that set V (log 110). -/
def Obligations.OverflowTrapFollowsTheResult : Prop :=
  ∀ (s : State) (n : Fin 16) (mx : BitVec 2) (dd ds : BitVec 4) (v : BitVec 5) (imm : BitVec 17) (r : Instr × (Core → SRes))
    (d : Core), coreReady s n → coreFetches s n r.1 → (coreU s n).ovEn = true →
    (rowsV n dd ds v imm r → r.2 { coreU s n with trap := {}, ovEn := false } = .ok d → d.f.getLsbD 3 = true →
      exec r.1 s = .next (sTrap n 5 { d with ovEn := true } s)) ∧
    (rowsQuiet n mx dd ds imm r → r.2 { coreU s n with trap := {} } = .ok d → staysIn (coreU s n) d →
      ∃ t, exec r.1 s = .next t ∧ coreU t n = { d with trap := (coreU s n).trap })

/-- MAC to MINS, AMOV, DMOVA, AADDQ, AMOD, the loads and stores on data memory and the mailbox, NOP, FENCE, EI, DI,
SLEEP, HALT, REP, REPI, JMP and JMPA: on a core that fetches the row and where nothing else happens at the boundary,
where its access is granted, its encoding is legal, its mode is vendor if the row asks for it, no iteration of a
repeat traps and an extension program goes on in its region, the row completes: it answers a next state in which the
core is the one its table gives; so it does wherever its table gives a result, and no other core and no other part
of the block differs. -/
def Obligations.CoreRowsStayInTheCore : Prop :=
  ∀ (s : State) (n : Fin 16) (mx : BitVec 2) (d1 d2 : BitVec 3) (dd : BitVec 4) (an : BitVec 3) (m : BitVec 2)
    (q : BitVec 6) (x : BitVec 8) (ext : BitVec 14) (r : Instr × (Core → SRes)),
    rowsCore n mx d1 d2 dd an m q x ext r → coreReady s n → coreFetches s n r.1 →
    (coreLegal r.1 (coreU s n) → stays r.1 (coreU s n) →
      ∃ d t, r.2 { coreU s n with trap := {} } = .ok d ∧ exec r.1 s = .next t ∧
        coreU t n = { d with trap := (coreU s n).trap } ∧ coreFrame s t n) ∧
    (∀ d, r.2 { coreU s n with trap := {} } = .ok d → staysIn (coreU s n) d →
      ∃ t, exec r.1 s = .next t ∧ coreU t n = { d with trap := (coreU s n).trap } ∧ coreFrame s t n ∧
        d.extMode = (coreU s n).extMode ∧ d.stack = (coreU s n).stack ∧ d.win = (coreU s n).win ∧ d.bits = (coreU s n).bits ∧
        d.prog = (coreU s n).prog ∧ d.mbox = (coreU s n).mbox ∧ d.cmd = (coreU s n).cmd)

/-- In vendor mode, ST Dd, (An) to an aligned word of data memory and then LD of the same word answers next states:
the load's destination holds the register that was stored, little-endian bytes in between, and the store leaves
every byte of data memory outside the word (Table 13-1, Table 13-4, R4). -/
def Obligations.StoreThenLoadReturnsTheWord : Prop :=
  ∀ (s : State) (n : Fin 16) (an : BitVec 3) (dd de : BitVec 4), coreReady s n → (coreU s n).extMode = false →
    (getA (coreU s n) an.toNat).toNat + 4 ≤ 0x8000 → (getA (coreU s n) an.toNat).toNat % 4 = 0 →
    ∃ t u, exec (.sSt n 0 an dd 0) s = .next t ∧ exec (.sLd n 0 an de 0) t = .next u ∧
      getD (coreU u n) de.toNat = getD (coreU s n) dd.toNat ∧ (coreU t n).f = (coreU s n).f ∧
      (∀ a, a < (getA (coreU s n) an.toNat).toNat ∨ (getA (coreU s n) an.toNat).toNat + 4 ≤ a →
        Tbl.get 0 (coreU t n).dmem a = Tbl.get 0 (coreU s n).dmem a) ∧
      (coreU u n).dmem = (coreU t n).dmem ∧ coreFrame s t n

/-- A fetched word load or store whose address names a register through the I/O window is one access to that
register in the name of the core: the state is the one that the access leaves (An and the PC moved on, Dd with the
word for a load), with one instruction retired. -/
def Obligations.IoWindowReachesTheRegisters : Prop :=
  ∀ (s : State) (n : Fin 16) (m : BitVec 2) (an : BitVec 3) (dd : BitVec 4) (ext : BitVec 14) (r : Instr × Nat),
    r ∈ [(Instr.sLd n m an dd ext, 0), (Instr.sSt n m an dd ext, 1)] → coreReady s n → coreFetches s n r.1 →
    memF r.2 m.toNat an.toNat dd.toNat ext { coreU s n with trap := {} } = .io { coreU s n with trap := {} } →
    exec r.1 s = .next (takePending n (cadEvent .seq n 2 1 (!(coreU s n).extMode) (coreU s n).inst
      (ioAccess n r.2 m.toNat an.toNat dd.toNat ext s)))

/-- On a core that fetches the row and where nothing else happens at the boundary, a bit access that Table 13-8
grants, in a form without reserved bits: BSET, BCLR, BNOT and BST answer a next state in which that bit of a core's
own bits or of the permission bits reads 1, 0, its complement and Dd[0] (bits 2048 to 2051 ignore the write), every
other such bit reads as before and the PC has moved on by two words; BLD gives Dd the bit; JB and JNB branch by
simm8 on 1 and on 0; WAITB goes on if the bit equals its polarity and stalls at its word otherwise, and
WAITB_RELEASE lets a core that is not stopped otherwise go on once it does (no counter of it enabled). -/
def Obligations.BitRowsActOnTheBitSpace : Prop :=
  ∀ (s : State) (n : Fin 16) (x : BitVec 8) (ext : BitVec 14),
    (coreReady s n → ∀ r ∈ [(Instr.sBset n x ext, BitOp.set, true), (.sBclr n x ext, .clr, false),
        (.sBnot n x ext, .inv, !bitRead s n (bitAddr (coreU s n) x ext)),
        (.sBst n x ext, .st, (getD (coreU s n) (x.toNat % 16)).getLsbD 0)],
      coreFetches s n r.1 → bitRsv r.2.1 x ext = false → bitCause (coreU s n) true (bitAddr (coreU s n) x ext) = 0 →
      staysIn (coreU s n) (adv 2 (coreU s n)) →
      ∃ t, exec r.1 s = .next t ∧ (coreU t n).pc = ((coreU s n).pc + 2) % 0x4000 ∧
        (bitAddr (coreU s n) x ext < 1024 ∨ 2052 ≤ bitAddr (coreU s n) x ext →
          bitRead t n (bitAddr (coreU s n) x ext) = r.2.2) ∧
        (∀ b, b < 1024 ∨ 2048 ≤ b → b ≠ bitAddr (coreU s n) x ext → bitRead t n b = bitRead s n b) ∧
        (∀ b, 2048 ≤ b → b < 2052 → bitRead t n b = true) ∧ (coreU t n).d = (coreU s n).d ∧ (coreU t n).f = (coreU s n).f) ∧
    (coreReady s n → coreFetches s n (.sBld n x ext) → bitRsv .ld x ext = false → bitCause (coreU s n) false (bitAddr (coreU s n) x ext) = 0 →
      staysIn (coreU s n) (adv 2 (coreU s n)) →
      ∃ t, exec (.sBld n x ext) s = .next t ∧ coreFrame s t n ∧
        coreU t n = adv 2 (setD (coreU s n) (x.toNat % 16) (if bitRead s n (bitAddr (coreU s n) x ext) then 1 else 0))) ∧
    (coreReady s n → bitRsv .jb x ext = false → bitCause (coreU s n) false (ext.toNat % 4096) = 0 → (coreU s n).extMode = false →
      ∃ t u, exec (.sJb n x ext) s = .next t ∧ exec (.sJnb n x ext) s = .next u ∧
        coreU t n = { coreU s n with pc := ((coreU s n).pc +
          if bitRead s n (ext.toNat % 4096) then (x.signExtend 14).toNat else 2) % 0x4000 } ∧
        coreU u n = { coreU s n with pc := ((coreU s n).pc +
          if bitRead s n (ext.toNat % 4096) then 2 else (x.signExtend 14).toNat) % 0x4000 } ∧ coreFrame s t n ∧ coreFrame s u n) ∧
    (coreReady s n → coreFetches s n (.sWaitb n x ext) → bitRsv .wait x ext = false → bitCause (coreU s n) false (bitAddr (coreU s n) x ext) = 0 →
      staysIn (coreU s n) (adv 2 (coreU s n)) → staysIn (coreU s n) (coreU s n) →
      ∃ t, exec (.sWaitb n x ext) s = .next t ∧ coreFrame s t n ∧
        coreU t n = if bitRead s n (bitAddr (coreU s n) x ext) = x.getLsbD 0 then adv 2 (coreU s n)
          else { coreU s n with waitb := some (bitAddr (coreU s n) x ext, x.getLsbD 0) }) ∧
    (∀ (b : Nat) (v : Bool), (coreU s n).waitb = some (b, v) → (coreU s n).intPend = false →
      coreRuns (updCore n (fun k => { k with waitb := none }) s) n = true →
      (∀ k, k < 8 → (cntU s .seq n k).en = false) →
      ∃ t, exec (.waitbRelease n) s = .next t ∧
        coreU t n = if bitRead s n b = v then adv 2 { coreU s n with waitb := none } else coreU s n)

/-- Bcc on a core that fetches the row and where nothing else happens at the boundary answers a next state whose PC
is the branch's word plus the offset (simm6, or the extension word where simm6 is 0) where the condition of R293's
table holds, and the next instruction otherwise; nothing else of the core differs. -/
def Obligations.BranchConditions : Prop :=
  ∀ (s : State) (n : Fin 16) (cond : BitVec 4) (off : BitVec 6) (ext : BitVec 14), coreReady s n → (coreU s n).extMode = false →
    ∃ t, exec (.sBcc n cond off ext) s = .next t ∧ coreFrame s t n ∧
      coreU t n = { coreU s n with pc := ((coreU s n).pc +
        if [(coreU s n).f.getLsbD 1, !(coreU s n).f.getLsbD 1, (coreU s n).f.getLsbD 0, !(coreU s n).f.getLsbD 0,
            (coreU s n).f.getLsbD 2, !(coreU s n).f.getLsbD 2, (coreU s n).f.getLsbD 3, !(coreU s n).f.getLsbD 3,
            (coreU s n).f.getLsbD 0 && !(coreU s n).f.getLsbD 1, !(coreU s n).f.getLsbD 0 || (coreU s n).f.getLsbD 1,
            (coreU s n).f.getLsbD 2 == (coreU s n).f.getLsbD 3, (coreU s n).f.getLsbD 2 != (coreU s n).f.getLsbD 3,
            !(coreU s n).f.getLsbD 1 && (coreU s n).f.getLsbD 2 == (coreU s n).f.getLsbD 3,
            (coreU s n).f.getLsbD 1 || (coreU s n).f.getLsbD 2 != (coreU s n).f.getLsbD 3, true,
            (coreU s n).f.getLsbD 4].getD cond.toNat false
        then (if off = 0 then ext.toNat else (off.signExtend 14).toNat) else (if off = 0 then 2 else 1)) % 0x4000 }

/-- In vendor mode with fewer than 16 entries stacked, CALL and CALLA push the address of the next instruction with
F and the mode, and go to their target; RET pops the PC; RETI pops PC, F and mode and sets IE. A seventeenth push,
or a return with an empty stack, is the stack fault of R302. -/
def Obligations.CallsAndReturns : Prop :=
  ∀ (s : State) (n : Fin 16) (ext : BitVec 14) (an : BitVec 3), coreReady s n → (coreU s n).extMode = false →
    ((coreU s n).stack.length < 16 →
      ∃ t u, exec (.sCall n ext) s = .next t ∧ exec (.sCalla n an) s = .next u ∧ coreFrame s t n ∧ coreFrame s u n ∧
        coreU t n = { coreU s n with
          pc := ext.toNat, stack := ⟨((coreU s n).pc + 2) % 0x4000, (coreU s n).f, false⟩ :: (coreU s n).stack } ∧
        coreU u n = { coreU s n with
          pc := (getA (coreU s n) an.toNat).toNat % 0x4000,
          stack := ⟨((coreU s n).pc + 1) % 0x4000, (coreU s n).f, false⟩ :: (coreU s n).stack }) ∧
    (16 ≤ (coreU s n).stack.length →
      exec (.sCall n ext) s = .next (stackFault n s) ∧ exec (.sCalla n an) s = .next (stackFault n s)) ∧
    ((coreU s n).stack = [] →
      exec (.sRet n) s = .next (stackFault n s) ∧ exec (.sReti n) s = .next (stackFault n s)) ∧
    (∀ fr rest, (coreU s n).stack = fr :: rest →
      ∃ t u, exec (.sRet n) s = .next t ∧ exec (.sReti n) s = .next u ∧ coreFrame s t n ∧ coreFrame s u n ∧
        coreU t n = { coreU s n with pc := fr.pc, stack := rest } ∧
        coreU u n = { coreU s n with pc := fr.pc, f := fr.f, extMode := fr.ext, ie := true, stack := rest })

/-- In vendor mode with room on the stack, TRAP #n, an interrupt due with IE = 1, an abort pending and a data row
that traps with cause k answer a next state in which the core's stack has the saved PC, F and mode on top, IE is 0,
the mode is vendor and the PC is word 2k (k is 6, 7, 8 and the cause): the saved PC is the next instruction for
TRAP, and for causes 1 to 5 and 8 SEQ_TRAP_INFO holds cause and saved PC. Data, address and accumulator registers
stay. -/
def Obligations.TrapEntryPushesAndJumps : Prop :=
  ∀ (s : State) (n : Fin 16) (i : Instr) (k : Nat) (c : Core), (coreU s n).extMode = false → (coreU s n).stack.length < 16 →
    ((∃ v, i = .sTrap n v ∧ k = 6 ∧ coreReady s n ∧ c = adv 1 (coreU s n)) ∨
     (∃ kind : Fin 4, i = .seqInterrupt n kind ∧ k = 7 ∧ c = coreU s n ∧ kind.val < 3 ∧ coreRuns s n = true ∧
       (coreU s n).ie = true ∧ (kind.val = 0 → (coreU s n).mbox ≠ []) ∧ (kind.val = 1 → (coreU s n).intPend = true)) ∨
     (i = .seqAbort n ∧ k = 8 ∧ c = coreU s n ∧ s.pwr.seqLock = true ∧ (coreU s n).abortPend = true ∧
       (coreU s n).st ≠ .blockReset ∧ (coreU s n).haltedD = false) ∨
     (∃ dd ds v imm r, rowsData n dd ds v imm r ∧ i = r.1 ∧ coreReady s n ∧
       r.2.1 { coreU s n with trap := {} } = .trap k c)) →
    ∃ t, exec i s = .next t ∧ (coreU t n).pc = 2 * k ∧ (coreU t n).ie = false ∧ (coreU t n).extMode = false ∧
      (coreU t n).stack = ⟨c.pc, c.f, false⟩ :: (coreU s n).stack ∧
      (k ≤ 5 ∨ k = 8 → (coreU t n).trap.cause = k ∧ (coreU t n).trap.pc = c.pc) ∧
      (coreU t n).d = c.d ∧ (coreU t n).a = (coreU s n).a ∧ (coreU t n).m = (coreU s n).m ∧ (coreU t n).dmem = (coreU s n).dmem

/-- DONE of vendor firmware ends the core's command with the status D0[15:0] and the output length D1, and the core
goes on at the next word; DONE fetched by an extension program does so if the status is one that R308 allows and the
length does not pass the maximum, and ends the command with STS_FAULT and a CONTAINED record otherwise. When the
run-time limit of an extension command expires, the command has ended and the core has taken an abort (vector word
16). Where the core goes on after an extension program is open in the spec; the model takes an open word (log 87). -/
def Obligations.DoneAndTheTimeLimitEndTheCommand : Prop :=
  ∀ (s : State) (n : Fin 16) (id : Nat) (k : Cmd), (coreU s n).cmd = some id → cmdU s id = some k →
    (coreReady s n → (coreU s n).extMode = false → exec (.sDone n) s = .next (updCore n
      (fun c => { c with pc := ((coreU s n).pc + 1) % 0x4000 })
      (conclude (some { status := (getD (coreU s n) 0).toNat % 65536, outLen := (getD (coreU s n) 1).toNat }) k s))) ∧
    (coreReady s n → (coreU s n).extMode = true → coreFetches s n (.sDone n) → exec (.sDone n) s = .next (updCore n
      (fun c => { c with pc := (freeNumber 0x3000 s).1 })
      (if (getD (coreU s n) 0).toNat % 65536 ∈ [0x0000, 0x0102, 0x0107, 0x0701, 0x0702] ∧
          (getD (coreU s n) 1).toNat ≤ pMax k.pkt then
        conclude (some { status := (getD (coreU s n) 0).toNat % 65536, outLen := (getD (coreU s n) 1).toNat }) k
          (freeNumber 0x3000 s).2
      else coreFault n 3 (freeNumber 0x3000 s).2))) ∧
    ((coreU s n).st = .ext → k.id = id → k.core = some n.val → (coreU s n).stack.length < 16 →
      ∃ t, exec (.extTimeLimit n) s = .next t ∧ cmdU t id = none ∧ (coreU t n).pc = 16 ∧ (coreU t n).extMode = false)

/-- In extension mode, on a core that fetches the row and where nothing else happens at the boundary, with the
command k: SVC_IN and SVC_OUT whose ranges fit copy the bytes between host memory and the core's memory and return
STS_OK in D0; SVC_RANDOM gives the bytes drawn, SVC_DIGEST the digest engine's result at A2, SVC_CV the check value
in D1 and D2; each goes on at the next word. SVC_KERNEL starts the owner kernel at its word on the declared engine
and waits. A length past the input or the maximum output returns STS_BAD_LENGTH. -/
def Obligations.ServiceCallsReturnInD0 : Prop :=
  ∀ (s : State) (n : Fin 16) (id : Nat) (k : Cmd), coreReady s n → (coreU s n).extMode = true →
    (coreU s n).cmd = some id → cmdU s id = some k → k.port ≠ 256 →
    (inExt (aNum (coreU s n) 1) (dNum (coreU s n) 2) = true → dNum (coreU s n) 1 + dNum (coreU s n) 2 ≤ pInL k.pkt →
      hostOk s k.port (pInA k.pkt + dNum (coreU s n) 1) (dNum (coreU s n) 2) = true →
      coreFetches s n (.svcIn n) → ∃ t, exec (.svcIn n) s = .next t ∧ getD (coreU t n) 0 = 0 ∧ (coreU t n).pc = ((coreU s n).pc + 1) % 0x4000 ∧
        Tbl.getList 0 (coreU t n).dmem (aNum (coreU s n) 1) (dNum (coreU s n) 2) =
          hostBytes s (pInA k.pkt + dNum (coreU s n) 1) (dNum (coreU s n) 2) ∧ t.host.mem = s.host.mem) ∧
    (inExt (aNum (coreU s n) 1) (dNum (coreU s n) 2) = true → pInL k.pkt < dNum (coreU s n) 1 + dNum (coreU s n) 2 →
      coreFetches s n (.svcIn n) → ∃ t, exec (.svcIn n) s = .next t ∧ getD (coreU t n) 0 = 0x0102 ∧ (coreU t n).dmem = (coreU s n).dmem) ∧
    (inExt (aNum (coreU s n) 1) (dNum (coreU s n) 2) = true → dNum (coreU s n) 1 + dNum (coreU s n) 2 ≤ pMax k.pkt →
      (instU s k.port).logging = false →
      hostOk s k.port (pOutA k.pkt + dNum (coreU s n) 1) (dNum (coreU s n) 2) = true →
      coreFetches s n (.svcOut n) → ∃ t, exec (.svcOut n) s = .next t ∧ getD (coreU t n) 0 = 0 ∧
        hostBytes t (pOutA k.pkt + dNum (coreU s n) 1) (dNum (coreU s n) 2) =
          Tbl.getList 0 (coreU s n).dmem (aNum (coreU s n) 1) (dNum (coreU s n) 2) ∧
        (∀ a, a < pOutA k.pkt + dNum (coreU s n) 1 ∨ pOutA k.pkt + dNum (coreU s n) 1 + dNum (coreU s n) 2 ≤ a →
          Tbl.get 0 t.host.mem a = Tbl.get 0 s.host.mem a)) ∧
    (inExt (aNum (coreU s n) 1) (dNum (coreU s n) 2) = true → 0 < dNum (coreU s n) 2 → dNum (coreU s n) 2 ≤ 4096 →
      ∀ b u, draw k.id (dNum (coreU s n) 2) s = some (b, u) →
      coreFetches s n (.svcRandom n) → ∃ t, exec (.svcRandom n) s = .next t ∧ getD (coreU t n) 0 = 0 ∧
        Tbl.getList 0 (coreU t n).dmem (aNum (coreU s n) 1) b.length = b ∧ t.host.mem = s.host.mem) ∧
    (∀ e, (coreU s n).hub = some e → kernelWord s k (dNum (coreU s n) 1) = true →
      coreFetches s n (.svcKernel n) → ∃ t, exec (.svcKernel n) s = .next t ∧ (coreU t n).svc = some (dNum (coreU s n) 2) ∧ (eng t e).owner = true ∧
        (eng t e).pc = dNum (coreU s n) 1 ∧ (eng t e).inLen = pInL k.pkt) ∧
    (inExt (aNum (coreU s n) 1) (dNum (coreU s n) 2) = true → inExt (aNum (coreU s n) 2) (dNum (coreU s n) 3) = true →
      dNum (coreU s n) 1 % 16 ≤ 6 → dNum (coreU s n) 1 % 16 ≠ 0 → dNum (coreU s n) 3 = digestLen (dNum (coreU s n) 1 % 16) →
      ∀ u, (coreU s n).dge = some u → dNum (coreU s n) 2 < 4096 ∨ msgDone s u → coreFetches s n (.svcDigest n) → ∃ t, exec (.svcDigest n) s = .next t ∧ getD (coreU t n) 0 = 0 ∧
        (dgeU t u).st = .done ∧
        Tbl.getList 0 (coreU t n).dmem (aNum (coreU s n) 2) (dgeU t u).result.length = (dgeU t u).result) ∧
    (inExt (aNum (coreU s n) 1) (dNum (coreU s n) 2) = true → dNum (coreU s n) 1 ≤ 4 → ∀ u, (coreU s n).cvu = some u →
      coreFetches s n (.svcCv n) → ∃ t, exec (.svcCv n) s = .next t ∧ getD (coreU t n) 0 = 0 ∧ getD (coreU t n) 1 = lo32 (cvuU t u).result ∧
        getD (coreU t n) 2 = hi32 (cvuU t u).result ∧ (cvuU t u).st = .done)

/-- On an engine of a command of a port that is not halted and waits for nothing, STAGING_RESUME to a point past
what is staged and not past the input's length appends exactly the next bytes of host memory to the staged input and
leaves host memory, the commands and the other engines; where the read fails the command ends with STS_DMA_ERROR,
reported to its function. -/
def Obligations.StagingBringsTheInput : Prop :=
  ∀ (s : State) (e : Fin 64) (n id : Nat) (c : Cmd), (eng s e).cmd = some id → cmdU s id = some c → (eng s e).stall = none →
    (eng s e).halted = false → c.port ≠ 256 → (eng s e).staged.length < n → n ≤ (eng s e).inLen →
    (hostOk s c.port (pInA c.pkt + (eng s e).staged.length) (n - (eng s e).staged.length) = true →
      ∃ t, exec (.stagingResume e n) s = .next t ∧ kernelFrame s t e ∧
        eng t e = { eng s e with staged := ((eng s e).staged ++
          hostBytes s (pInA c.pkt + (eng s e).staged.length) (n - (eng s e).staged.length)) }) ∧
    (hostOk s c.port (pInA c.pkt + (eng s e).staged.length) (n - (eng s e).staged.length) = false →
      exec (.stagingResume e n) s = .next (abandon (some (justStatus stsDmaError)) c (aerReport c.port s)))

/-- On an engine of a command of a port with bytes in its output FIFO, with no instruction waiting, the kernel not
ended, no service call and no migration logging: a drain of n bytes stores the first n bytes of the FIFO (all, if
fewer) at the output address advanced by the bytes already delivered, removes them from the FIFO, and leaves every
other byte of host memory and every other engine. -/
def Obligations.OutputDrainWritesInOrder : Prop :=
  ∀ (s : State) (e : Fin 64) (n id : Nat) (c : Cmd), (eng s e).cmd = some id → cmdU s id = some c → (eng s e).stall = none →
    (eng s e).ended = none → svcCore s e = none → c.port ≠ 256 → (instU s c.port).logging = false → 0 < n → (eng s e).fifo ≠ [] →
    hostOk s c.port (pOutA c.pkt + (min (eng s e).outCount (eng s e).maxOut - (eng s e).fifo.length))
      ((eng s e).fifo.take n).length = true →
    ∃ t, exec (.outputFifoDrain e n) s = .next t ∧ eng t e = { eng s e with fifo := (eng s e).fifo.drop n } ∧
      hostBytes t (pOutA c.pkt + (min (eng s e).outCount (eng s e).maxOut - (eng s e).fifo.length))
        ((eng s e).fifo.take n).length = (eng s e).fifo.take n ∧
      (∀ a, a < pOutA c.pkt + (min (eng s e).outCount (eng s e).maxOut - (eng s e).fifo.length) ∨
          pOutA c.pkt + (min (eng s e).outCount (eng s e).maxOut - (eng s e).fifo.length) + ((eng s e).fifo.take n).length ≤ a →
        Tbl.get 0 t.host.mem a = Tbl.get 0 s.host.mem a) ∧
      (∀ m, m ≠ e.val → eng t m = eng s m) ∧ t.hif.cmds = s.hif.cmds

/-- On an engine without an armed injection whose routine may wait (R173): a wait ceiling on a condition other than
9 abandons the routine, which is then in progress again, uncommitted, with one more restart counted (at most four);
after four it is a CONTAINED fault of checker 10; on condition 9 the engine's command ends as one whose entropy
failed (R126). An expiry of the hold timer is a BLOCK fault of checker 1, shown in HUB_UC_STATUS.guard. An interrupt
of kind 0 or 2 abandons a routine at its first word and counts the restart, lets one past its commit point go on to
its end, and changes nothing else of the engine; a debug halt needs the session and permission 3 and holds the
engine, past a commit point at the routine's end. -/
def Obligations.RoutineEventsFollowTheirRules : Prop :=
  ∀ (s : State) (e : Fin 64) (k : Fin 128) (cond : Fin 64),
    (mayExpire (eng s e) k cond = true → (fltU s .hub e).armed = false → cond.val ≠ 9 →
      ((eng s e).uc.issue = false ∨ (eng s e).uc.restarts ≠ 4 →
        ∃ t, exec (.waitCeilingExpiry e k cond) s = .next t ∧ kernelFrame s t e ∧ (eng t e).uc.routine = k ∧
          (eng t e).uc.running = true ∧ (eng t e).uc.issue = true ∧ (eng t e).uc.committed = false ∧
          (eng t e).uc.lastWait = cond ∧ (eng t e).uc.ceilingExpired = true ∧
          (eng t e).uc.restarts = min 4 ((if (eng s e).uc.issue then (eng s e).uc.restarts else 0) + 1)) ∧
      ((eng s e).uc.issue = true → (eng s e).uc.restarts = 4 →
        ∃ u, exec (.waitCeilingExpiry e k cond) s = .next
          (faultAt { blk := .hub, set := e, checker := 10, cls := 1, inst := (eng s e).inst } (eng s e).cmd u))) ∧
    (mayExpire (eng s e) k cond = true → (fltU s .hub e).armed = false → cond.val = 9 → ∀ id c, (eng s e).cmd = some id →
      cmdU s id = some c → ∃ u, exec (.waitCeilingExpiry e k cond) s = .next (entropyFail { c with switched := true } u) ∧
        u.hif.cmds = s.hif.cmds ∧ (eng u e).uc.running = false) ∧
    (kernRuns (eng s e) = true → exec (.holdTimerExpiry e) s = .next
      (faultAt { blk := .hub, set := e, checker := 1, cls := 2, inst := (eng s e).inst } (eng s e).cmd
        (setEng e { eng s e with uc := { (eng s e).uc with guard := true, committed := true, running := false } } s))) ∧
    ((eng s e).cmd.isSome = true → ∀ kind : Fin 3, kind = 0 ∨ kind = 2 →
      ∃ t, exec (.engineInterrupt e kind) s = .next t ∧ kernelFrame s t e ∧
        eng t e = (if (eng s e).mc.live = true ∧ (eng s e).uc.committed = true then eng s e
          else { eng s e with
            mc := {}
            uc := (if (eng s e).uc.running then { (eng s e).uc with
              running := false, issue := true, cntRestarts := min 0xFFFF ((eng s e).uc.cntRestarts + 1)
              restarts := (if (eng s e).uc.issue then (eng s e).uc.restarts else 0) } else (eng s e).uc) })) ∧
    ((eng s e).cmd.isSome = true → s.pwr.mode ≠ .freewheel →
      ∃ t, exec (.engineInterrupt e 1) s = .next t ∧
        (if (eng s e).mc.live = true ∧ (eng s e).uc.committed = true then
          (eng t e).mc.held = ((eng s e).mc.held || (s.dbg.session && s.dbg.perm.testBit 3)) ∧ (eng t e).halted = (eng s e).halted
        else (eng t e).halted = ((eng s e).halted || (s.dbg.session && s.dbg.perm.testBit 3))))

/-- On an active queue pair without ring error, SQ_DOORBELL with a tail below the ring size moves sq_tail there and
nothing else of the pointers, with one more stamp for each slot made available; CQ_DOORBELL with a head that returns
no more slots than are filled moves cq_head there. A value past the ring, or a head past cq_tail, is a ring error:
the register keeps the value written (R7) and ring_error is set with vector 0 (R31, R32). On a queue pair that is
not active or has a ring error either keeps its value and does nothing else. No other queue pair, command or byte of
host memory differs. -/
def Obligations.DoorbellsMoveTheirPointer : Prop :=
  ∀ (s : State) (p : Fin 256) (q : Fin 64) (v : Word), portsAnswer s →
    ((qpU s p q).active = true → (qpU s p q).ringError = false → fld v 0 12 < (qpU s p q).sqEntries →
      ∃ t, exec (.sqDoorbell p q v) s = .next t ∧ (qpU t p q).sqTail = fld v 0 12 ∧ (qpU t p q).sqHead = (qpU s p q).sqHead ∧
        (fld v 0 12 ≠ (qpU s p q).sqHead → (qpU t p q).subm.length = (qpU s p q).subm.length +
          (fld v 0 12 + (qpU s p q).sqEntries - (qpU s p q).sqTail) % (qpU s p q).sqEntries) ∧
        (∀ p' q', p' * 64 + q' ≠ p.val * 64 + q.val → qpU t p' q' = qpU s p' q') ∧ t.hif.cmds = s.hif.cmds ∧
        t.host = s.host) ∧
    ((qpU s p q).active = true → (qpU s p q).ringError = false → (qpU s p q).sqEntries ≤ fld v 0 12 →
      exec (.sqDoorbell p q v) s = .next (ringError p q (setQp p q { qpU s p q with sqTail := fld v 0 12 } s))) ∧
    ((qpU s p q).active = true → (qpU s p q).ringError = false → fld v 0 12 < (qpU s p q).cqEntries →
      (fld v 0 12 + (qpU s p q).cqEntries - (qpU s p q).cqHead) % (qpU s p q).cqEntries ≤
        ((qpU s p q).cqTail + (qpU s p q).cqEntries - (qpU s p q).cqHead) % (qpU s p q).cqEntries →
      exec (.cqDoorbell p q v) s = .next (setQp p q { qpU s p q with cqHead := fld v 0 12 } s)) ∧
    ((qpU s p q).active = true → (qpU s p q).ringError = false → (qpU s p q).cqEntries ≤ fld v 0 12 ∨
      ((qpU s p q).cqTail + (qpU s p q).cqEntries - (qpU s p q).cqHead) % (qpU s p q).cqEntries <
        (fld v 0 12 + (qpU s p q).cqEntries - (qpU s p q).cqHead) % (qpU s p q).cqEntries →
      exec (.cqDoorbell p q v) s = .next (ringError p q (setQp p q { qpU s p q with cqHead := fld v 0 12 } s))) ∧
    ((qpU s p q).active = false ∨ (qpU s p q).ringError = true →
      exec (.sqDoorbell p q v) s = .next (setQp p q { qpU s p q with sqTail := fld v 0 12 } s) ∧
      exec (.cqDoorbell p q v) s = .next (setQp p q { qpU s p q with cqHead := fld v 0 12 } s))

/-- An enable of an inactive queue pair that passes R35's checks makes it active with the accepted major version
equal to req_major and the accepted minor version the lower of req_minor and the highest implemented minor version
of that major (2 for major 3, 3 for major 2); its pointers are 0 and its phase 1; no other queue pair differs. -/
def Obligations.EnableAcceptsTheVersion : Prop :=
  ∀ (s : State) (p : Fin 256) (q : Fin 64), portsAnswer s → (qpU s p q).enable = false → (qpU s p q).active = false →
    enableFails s p q = none →
    ∃ t, exec (.qpEnable p q) s = .next t ∧ (qpU t p q).active = true ∧ (qpU t p q).enable = true ∧
      (qpU t p q).accMajor = (qpU s p q).reqMajor ∧
      ((qpU s p q).reqMajor = 3 → (qpU t p q).accMinor = min (qpU s p q).reqMinor 2) ∧
      ((qpU s p q).reqMajor = 2 → (qpU t p q).accMinor = min (qpU s p q).reqMinor 3) ∧
      (qpU t p q).sqHead = 0 ∧ (qpU t p q).sqTail = 0 ∧ (qpU t p q).cqHead = 0 ∧ (qpU t p q).cqTail = 0 ∧
      (qpU t p q).phase = true ∧
      (∀ p' q', p' * 64 + q' ≠ p.val * 64 + q.val → qpU t p' q' = qpU s p' q') ∧ t.hif.cmds = s.hif.cmds ∧ t.host = s.host

/-- An enable that fails a check of R35 leaves active at 0 and signals vector 0; the allotment is looked at before
the version, and the version before the ring. An enable of a queue pair whose earlier commands still complete is
kept for the boundary (R7), and one of a queue pair already enabled changes nothing. QP_DISABLE of an enabled queue
pair clears enable at once and active too where no command of the queue pair is in flight, and keeps it active while
one is (R36); of one not enabled it changes nothing. -/
def Obligations.EnableChecksInOrderAndDisable : Prop :=
  ∀ (s : State) (p : Fin 256) (q : Fin 64), portsAnswer s →
    ((qpU s p q).enable = false → (qpU s p q).active = false → ∀ k, enableFails s p q = some k →
      exec (.qpEnable p q) s = .next (signal p 0 (setQp p q { qpU s p q with
        enable := true, versionRejected := k == 0, notAllotted := k == 1, ringError := k == 2 } s)) ∧
      (qpAllotted s p ≤ q.val → k = 1)) ∧
    ((qpU s p q).enable = false → (qpU s p q).active = true →
      exec (.qpEnable p q) s = .next (setQp p q { qpU s p q with enable := true } s)) ∧
    ((qpU s p q).enable = true → exec (.qpEnable p q) s = .next s) ∧
    ((qpU s p q).enable = true →
      ∃ t, exec (.qpDisable p q) s = .next t ∧ (qpU t p q).enable = false ∧
        (qpU t p q).active = ((qpU s p q).active && qpBusy s p q) ∧
        (∀ p' q', p' * 64 + q' ≠ p.val * 64 + q.val → qpU t p' q' = qpU s p' q') ∧
        t.hif.cmds = s.hif.cmds ∧ t.host = s.host) ∧
    ((qpU s p q).enable = false → exec (.qpDisable p q) s = .next s)

/-- Unmasking a vector with a message pending, with MSI-X enabled and the function mask clear, sends that message
once and clears the pending bit; clearing the function mask clears it; at the coalescing time a queue pair with
unsignalled replies signals its vector and starts its count again (R26, R504). -/
def Obligations.VectorsAreDelivered : Prop :=
  ∀ (s : State) (p : Fin 256),
    (∀ v : Fin 128, portsAnswer s → v.val < vectors p → (msixU s p v).pend = true → (portU s p).msixEnable = true →
      (portU s p).fnMask = false →
      ∃ t, exec (.msixVectorUnmask p (some v)) s = .next t ∧ (msixU t p v).pend = false ∧ (msixU t p v).mask = false ∧
        t.host.msgs = s.host.msgs ++ [⟨p, v, (msixU s p v).addr, (msixU s p v).data⟩] ∧ t.host.mem = s.host.mem ∧
        t.hif.cmds = s.hif.cmds ∧ t.hif.qps = s.hif.qps) ∧
    (s.hif.reach = true → ∃ t, exec (.msixVectorUnmask p none) s = .next t ∧ (portU t p).fnMask = false ∧
      t.host.mem = s.host.mem ∧ t.hif.cmds = s.hif.cmds ∧ t.hif.qps = s.hif.qps) ∧
    (∀ q : Fin 64, (qpU s p q).irqOn = true → (qpU s p q).unsig ≠ 0 →
      exec (.coalTimeExpiry p q) s = .next (signal p (qpU s p q).vector (setQp p q { qpU s p q with unsig := 0 } s)))

/-- Where a packet can be fetched and read and no injection is armed on the interface: it is read once from sq_head,
which moves on by one slot modulo the ring; the command is in flight with the 64 bytes, the port, the queue pair and
the next number; a packet that passes checks 1 to 8 stays waiting and no reply is written; one that fails is
answered at once with the failing check's result. A packet that cannot be read is a ring error, reported to its
function. -/
def Obligations.FetchTakesOnePacket : Prop :=
  ∀ (s : State) (p : Fin 256) (q : Fin 64), canFetch s p q = true → (fltU s .hif 0).armed = false →
    (∀ c ∈ s.hif.cmds, c.id < s.hif.nextId) →
    (hostOk s p (packetAt s p q) 64 = true →
      cmdU (fetched p q s) s.hif.nextId = some (mkCmd s p q (hostBytes s (packetAt s p q) 64)) ∧
      (qpU (fetched p q s) p q).sqHead = ((qpU s p q).sqHead + 1) % (qpU s p q).sqEntries ∧
      (fetched p q s).host.mem = s.host.mem ∧
      (parserCheck (fetched p q s) p (qpU s p q).accMajor (qpU s p q).accMinor (hostBytes s (packetAt s p q) 64) = none →
        exec (.packetFetch p q) s = .next (fetched p q s)) ∧
      (∀ r, parserCheck (fetched p q s) p (qpU s p q).accMajor (qpU s p q).accMinor
          (hostBytes s (packetAt s p q) 64) = some r →
        exec (.packetFetch p q) s = .next
          (refuse (mkCmd s p q (hostBytes s (packetAt s p q) 64)) r (fetched p q s)))) ∧
    (hostOk s p (packetAt s p q) 64 = false →
      exec (.packetFetch p q) s = .next (ringError p q (aerReport p s)))

/-- The unit goes to the command that the Derailleur picks: if it passes checks 9 and 10, its slots and its quota
allow it, it takes no stateful leaf and runs as no gang, it starts on that unit, and a ZEROIZE then ends every other
command (R110); if a check fails, the quota's too, it is answered with that check's result (STS_FAULT is an
unreadable generation entry: a DEVICE fault of the BBRAM's ECC, R250), and with STS_BAD_OPCODE where its extension
program is gone (R114). With nothing to pick only superseded keys that nobody can use any more go. -/
def Obligations.DispatchStartsTheCommandPicked : Prop :=
  ∀ (s : State) (k : UnitKind) (u : Nat), u < 64 →
    (∀ (c : Cmd) (k1 k2 : Option KeyObj), pick (freeOld s) k u = some c → (fltU s .tmp 0).armed = false →
      extGone (freeOld s) c = false → dispatchCheck (freeOld s) c = .pass k1 k2 → slotsHeld (freeOld s) k c = false →
      (quotaCheck (freeOld s) (cmdInst c) (cmdOp c) c.pkt k1 = none → isGang (freeOld s) c = false →
        (cmdOp c ≠ .sfs 0x0811 ∨ c.leaf ≠ none) →
        exec (.derailleurDispatch k u) s = .next (startCmd c k u k1 k2 (zeroizeOthers c (freeOld s)))) ∧
      (∀ r, quotaCheck (freeOld s) (cmdInst c) (cmdOp c) c.pkt k1 = some r →
        exec (.derailleurDispatch k u) s = .next (refuse c r (unreserve c.id (freeOld s))))) ∧
    (∀ (c : Cmd) (r : Result), pick (freeOld s) k u = some c → extGone (freeOld s) c = false →
      (fltU s .tmp 0).armed = false → dispatchCheck (freeOld s) c = .fail r →
      (r.status ≠ stsFault → exec (.derailleurDispatch k u) s = .next (refuse c r (unreserve c.id (freeOld s)))) ∧
      (r.status = stsFault → ∃ t, exec (.derailleurDispatch k u) s = .next t ∧ (fltU t .tmp 0).classBits.testBit 3 = true)) ∧
    (∀ (c : Cmd), pick (freeOld s) k u = some c → extGone (freeOld s) c = true →
      exec (.derailleurDispatch k u) s = .next (refuse c (justStatus stsBadOpcode) (freeOld s))) ∧
    (pick (freeOld s) k u = none → exec (.derailleurDispatch k u) s = .next (freeOld s))

/-- Where epochs run, an epoch boundary adds 1 to the epoch count, starts both ledgers' charges at 0, brings every
instance's new weight into force, and leaves host memory, the queue pairs, the vault and BBRAM (R134, R135). -/
def Obligations.EpochsStartTheLedgersAnew : Prop :=
  ∀ (s : State), epochsRun s = true →
    ∃ t, exec .epochBoundary s = .next t ∧ t.drl.epoch = s.drl.epoch + 1 ∧ t.drl.hub.charged = [] ∧ t.drl.aes.charged = [] ∧
      (∀ i, (instU t i).weight = (instU s i).nextWeight) ∧ t.host.mem = s.host.mem ∧ t.hif.qps = s.hif.qps ∧ t.kvt = s.kvt ∧
      t.bbram = s.bbram

/-- A command of this device, DEV_STATUS apart (its output takes the timestamp then, R113), whose result is known
and that waits for nothing more ends at its boundary: its reply, with truncated set where the result or its digest
unit says so (R245), as Table 2-5 lays it out, stands in the completion slot at cq_tail, no other byte of host
memory differs, and no command of its number is left (R29, R30, R52); LC_ADVANCE and UNLOCK apart, and where the
queue pair is not retiring, cq_tail has moved on by one slot modulo the ring; a completed INST_SET_SHIELD gives its
instance the new order (R106). -/
def Obligations.CommandBoundaryWritesTheReply : Prop :=
  ∀ (s : State) (id : Nat) (c : Cmd), cmdU s id = some c → c.id = id → c.phase = .finished → c.port < 256 →
    s.tlk.bcasts = [] → s.lcs.lcCmd = none → (∀ i, (instU s i).pauseCmd = none) → (instU s c.port).logging = false →
    hostOk s c.port ((qpU s c.port c.q).cqBase.toNat + 32 * (qpU s c.port c.q).cqTail) 32 = true →
    cmdOp c ≠ .adm 0x0F02 ∨ c.res.status ≠ stsOk →
    ∃ t tr, exec (.engineCommandBoundary id) s = .next t ∧ cmdU t id = none ∧
      t.host.mem = (hostPut ((qpU s c.port c.q).cqBase.toNat + 32 * (qpU s c.port c.q).cqTail)
        (replyBytes s c { c.res with truncated := tr } (qpU s c.port c.q)) s).host.mem ∧
      (c.res.truncated = true ∨ c.trunc = true → tr = true) ∧
      (c.kind ≠ .dge → c.core = none → c.trunc = false → tr = c.res.truncated) ∧
      (cmdOp c = .adm 0x0F16 → c.res.status = stsOk → (instU t (byteAt c.pkt 40)).st ≠ .absent →
        (instU t (byteAt c.pkt 40)).st ≠ .exported → (instU t (byteAt c.pkt 40)).order = byteAt c.pkt 45) ∧
      (cmdOp c ≠ .adm 0x0F20 → cmdOp c ≠ .adm 0x0F21 → (qpU s c.port c.q).retiring = false →
        (qpU t c.port c.q).cqTail = if (qpU s c.port c.q).cqEntries ≤ (qpU s c.port c.q).cqTail + 1 then 0
          else (qpU s c.port c.q).cqTail + 1)

/-- A function-level reset of an active instance ends every command of its port without a reply, returns its queue
pairs to their reset values and makes it resetting; host memory is unchanged. A reset of function 0 leaves no other
instance in existence and no command of the manager port, writes no reply, and takes the register reach away where
the link went down (Table 15-3, R335). A resetting instance with no command left becomes active; an instance that is
pausing with nothing running is paused, and the INST_PAUSE that waited for it is answered with STS_OK (R334, R337). -/
def Obligations.ResetsAndPausesOfInstances : Prop :=
  ∀ (s : State) (fn : Fin 256) (cause : Fin 3),
    (s.hif.reach = true → fn.val ≠ 0 → (instU s fn).st = .active →
      ∃ t, exec (.functionLevelReset fn) s = .next t ∧ (∀ c ∈ t.hif.cmds, c.port ≠ fn.val) ∧
        (∀ q, q < 64 → qpU t fn q = {}) ∧ (instU t fn).st = .resetting ∧ t.host.mem = s.host.mem) ∧
    (s.hif.reach = true → ∃ t, exec (.function0Reset cause) s = .next t ∧ (∀ i, i ≠ 0 → (instU t i).st = .absent) ∧
      (∀ c ∈ t.hif.cmds, c.port ≠ 0) ∧ t.host.mem = s.host.mem ∧ t.hif.reach = decide (cause.val ≠ 2)) ∧
    (∀ i : Fin 256,
      ((instU s i).st = .resetting → (∀ c ∈ s.hif.cmds, c.port ≠ i.val) →
        exec (.instanceResetComplete i) s = .next (setInst i { instU s i with st := .active } s)) ∧
      ((instU s i).st = .pausing → runningOf s i = 0 → (instU s i).pauseCmd = none →
        exec (.pauseDrainEnd i) s = .next (setInst i { instU s i with st := .paused, pauseCmd := none } s)) ∧
      (∀ (id : Nat) (c : Cmd), (instU s i).st = .pausing → runningOf s i = 0 → (instU s i).pauseCmd = some id →
        cmdU s id = some c → exec (.pauseDrainEnd i) s = .next (conclude (some (justStatus stsOk)) c
          (setInst i { instU s i with st := .paused, pauseCmd := none } s))))

/-- One data row: the command of the row, its operation, whether byte 40 bit 0 must be 0 (no comparison asked for), and
its output from the command and its input; none where the check of the row fails. -/
structure DataRow where
  row : Instr
  op : Op
  plain : Bool
  out : Cmd → Bytes → Option Bytes

/-- A row that always has an output. -/
def outRow (i : Instr) (o : Op) (p : Bool) (f : Cmd → Bytes → Bytes) : DataRow := ⟨i, o, p, fun c m => some (f c m)⟩

/-- A symmetric row whose output depends on key, command and input. -/
def symOut (i : Instr) (o : Nat) (f : Bytes → Cmd → Bytes → Bytes) : DataRow :=
  ⟨i, .sym o, false, fun c m => some (f (keyOf c).secret c m)⟩

/-- The digest, keyed digest and symmetric rows that write an output (Tables 3-6 to 3-8; GCM with a given IV). -/
def rowsData2 (id : Nat) (r : DataRow) : Prop :=
  r ∈ [outRow (.sha256 id) (.dig 1) true (fun _ m => sha256 m), outRow (.sha384 id) (.dig 2) true (fun _ m => sha384 m),
    outRow (.sha512 id) (.dig 3) true (fun _ m => sha512 m), outRow (.sha3256 id) (.dig 4) true (fun _ m => sha3_256 m),
    outRow (.sha3384 id) (.dig 5) true (fun _ m => sha3_384 m), outRow (.sha3512 id) (.dig 6) true (fun _ m => sha3_512 m),
    outRow (.shake128 id) (.dig 7) true (fun c m => digest 7 m (pMax c.pkt)),
    outRow (.shake256 id) (.dig 8) true (fun c m => digest 8 m (pMax c.pkt))] ∨
  r ∈ [outRow (.hmacSha256 id) (.keyed 1) true (fun c b => keyedDigest 1 (keyOf c).secret (b.drop (byteAt c.pkt 41))
      (b.take (byteAt c.pkt 41)) (tagLen 1 (byteAt c.pkt 42))),
    outRow (.hmacSha384 id) (.keyed 2) true (fun c b => keyedDigest 2 (keyOf c).secret (b.drop (byteAt c.pkt 41))
      (b.take (byteAt c.pkt 41)) (tagLen 2 (byteAt c.pkt 42))),
    outRow (.hmacSha512 id) (.keyed 3) true (fun c b => keyedDigest 3 (keyOf c).secret (b.drop (byteAt c.pkt 41))
      (b.take (byteAt c.pkt 41)) (tagLen 3 (byteAt c.pkt 42))),
    outRow (.kmac128 id) (.keyed 7) true (fun c b => keyedDigest 7 (keyOf c).secret (b.drop (byteAt c.pkt 41))
      (b.take (byteAt c.pkt 41)) (tagLen 7 (byteAt c.pkt 42))),
    outRow (.kmac256 id) (.keyed 8) true (fun c b => keyedDigest 8 (keyOf c).secret (b.drop (byteAt c.pkt 41))
      (b.take (byteAt c.pkt 41)) (tagLen 8 (byteAt c.pkt 42)))] ∨
  r ∈ [symOut (.aesEcbEncrypt id) 0x0610 (fun k _ m => ecb (aesEnc k) m),
    symOut (.aesEcbDecrypt id) 0x0611 (fun k _ m => ecb (aesDec k) m),
    symOut (.aesCbcEncrypt id) 0x0620 (fun k c m => cbcEnc k (chunks 16 m) (symIv c)),
    symOut (.aesCbcDecrypt id) 0x0621 (fun k c m => cbcDec k (chunks 16 m) (symIv c)),
    symOut (.aesCtr id) 0x0630 (fun k c m => ctrMode k (symIv c) (if byteAt c.pkt 56 = 0 then 128 else byteAt c.pkt 56) m),
    symOut (.aesXtsEncrypt id) 0x0650 (fun k c m => xts true k (symIv c) m),
    symOut (.aesXtsDecrypt id) 0x0651 (fun k c m => xts false k (symIv c) m),
    symOut (.aesCmacGenerate id) 0x0660 (fun k c m => (cmac k m).take (tag16 (byteAt c.pkt 40))),
    symOut (.keyWrap id) 0x0670 (fun k _ m => kwWrap k kwIv m),
    ⟨.keyUnwrap id, .sym 0x0671, false, fun c m =>
      if (kwUnwrap (keyOf c).secret m).1 = kwIv then some (kwUnwrap (keyOf c).secret m).2 else none⟩,
    symOut (.keyWrapPad id) 0x0680 (fun k _ m => kwpWrap k m),
    ⟨.keyUnwrapPad id, .sym 0x0681, false, fun c m => kwpUnwrap (keyOf c).secret m⟩,
    ⟨.aesGcmDecrypt id, .sym 0x0641, false, fun c m =>
      gcmDec (keyOf c).secret (slice c.pkt 40 12) (m.take (leAt c.pkt 52 4))
        (slice m (leAt c.pkt 52 4) (m.length - leAt c.pkt 52 4 - tag16 (byteAt c.pkt 56)))
        (m.drop (leAt c.pkt 52 4 + (m.length - leAt c.pkt 52 4 - tag16 (byteAt c.pkt 56))))⟩]

/-- For the eight digest opcodes and the five keyed ones (without comparison) and the AES opcodes with an output
(AES_GCM_ENCRYPT apart), on a command that runs, with no injection armed on its digest engine: a message for core 31
(4,096 bytes and above, or keyed) goes there first, a keyed one with the key of its engine, which the unit takes
with its shares, and the row waits while compressions are left. When none is left, or for every other row: where
input and output addresses answer, the row's output of its input (Tables 3-6 to 3-8) stands at the output address,
no other byte of host memory differs, the command has finished with STS_OK and the output's length, every other
command and the rest of the block are as they were. Where the unwrap or the tag fails (at most 65,536 bytes of
input) the result is STS_VERIFY_FAIL and no byte is written; where the input does not answer, STS_DMA_ERROR,
reported to its function, and no byte outside the output buffer differs. -/
def Obligations.DigestAndCipherRowsWriteTheirOutput : Prop :=
  ∀ (s : State) (id : Nat) (c : Cmd) (r : DataRow), rowsData2 id r → cmdHeld s id c → cmdOp c = r.op →
    (r.plain = true → (byteAt c.pkt 40).testBit 0 = false) → (fltU s .dge c.unit).armed = false →
    (longMessage s c = true → inputRead s c = [] → canAccess s c (pInA c.pkt) (pInL c.pkt) → msgStarted s c.unit = false →
      ((∃ alg, r.op = .keyed alg) → (dgeU s c.unit).key = none ∧
        ∃ k n kr, c.core = some k ∧ (coreU s k).hub = some n ∧ (eng s n).key = some kr) →
      ∃ t, exec r.row s = .next t ∧ t.host.mem = s.host.mem ∧ t.kvt = s.kvt ∧ t.bbram = s.bbram ∧
        (∀ j, j ≠ c.id → cmdU t j = cmdU s j) ∧ (∃ b, cmdU t c.id = some { c with input := b }) ∧
        msgStarted t c.unit = true ∧ (dgeU t c.unit).done = 0 ∧
        (∀ alg, r.op = .dig alg → (dgeU t c.unit).total = digestJobs alg (inputOf s c).length (pMax c.pkt)) ∧
        (∀ alg k n kr, r.op = .keyed alg → c.core = some k → (coreU s k).hub = some n → (eng s n).key = some kr →
          (eng t n).key = none ∧ (dgeU t c.unit).key = some kr.material ∧ (dgeU t c.unit).keyMasks = kr.masks ∧
          (dgeU t c.unit).keyOrder = kr.order ∧ (dgeU t c.unit).keyed = true ∧
          (dgeU t c.unit).total = keyedJobs alg kr.material.length ((inputOf s c).take (byteAt c.pkt 41))
            ((inputOf s c).length - byteAt c.pkt 41) (tagLen alg (byteAt c.pkt 42)))) ∧
    (longMessage s c = true → msgStarted s c.unit = true → (dgeU s c.unit).done < (dgeU s c.unit).total →
      canAccess s c (pInA c.pkt) (pInL c.pkt) → ((∃ alg, r.op = .keyed alg) → (dgeU s c.unit).key.isSome = true) →
      ∃ t, exec r.row s = .next t ∧ t.host.mem = s.host.mem ∧ dataFrame s t ∧ t.dge = s.dge ∧ t.hsa = s.hsa ∧
        ∃ b, cmdU t c.id = some { c with input := b }) ∧
    (messageDone s c →
      (canAccess s c (pInA c.pkt) (pInL c.pkt) →
        (∀ b, r.out c (inputOf s c) = some b → b.length ≤ pMax c.pkt → canAccess s c (pOutA c.pkt) b.length →
          ∃ t, exec r.row s = .next t ∧ delivered s t c b ∧ dataFrame s t ∧ sameHub s t c ∧ t.ent = s.ent) ∧
        (r.out c (inputOf s c) = none → (inputOf s c).length ≤ 65536 →
          ∃ t, exec r.row s = .next t ∧ concluded s t c (justStatus stsVerifyFail) ∧ t.host.mem = s.host.mem ∧
            dataFrame s t ∧ sameHub s t c))) ∧
    (c.port ≠ 256 → inputRead s c = [] → hostOk s c.port (pInA c.pkt) (pInL c.pkt) = false →
      ∃ t, exec r.row s = .next t ∧ concluded s t c (justStatus stsDmaError) ∧ c.port ∈ t.host.aer ∧ dataFrame s t ∧
        (r.plain = true → t.host.mem = s.host.mem) ∧
        ∀ a, a < pOutA c.pkt ∨ pOutA c.pkt + pMax c.pkt ≤ a → Tbl.get 0 t.host.mem a = Tbl.get 0 s.host.mem a)

/-- The rows that compare their value with the expected one at the output address, with the status of a mismatch. -/
def rowsCompare (id : Nat) (r : Instr × Op × Nat × (Cmd → Bytes → Bytes)) : Prop :=
  r ∈ [(Instr.sha256 id, Op.dig 1, stsNotEqual, fun _ m => sha256 m), (.sha384 id, .dig 2, stsNotEqual, fun _ m => sha384 m),
    (.sha512 id, .dig 3, stsNotEqual, fun _ m => sha512 m), (.sha3256 id, .dig 4, stsNotEqual, fun _ m => sha3_256 m),
    (.sha3384 id, .dig 5, stsNotEqual, fun _ m => sha3_384 m), (.sha3512 id, .dig 6, stsNotEqual, fun _ m => sha3_512 m),
    (.shake128 id, .dig 7, stsNotEqual, fun c m => digest 7 m (pMax c.pkt)),
    (.shake256 id, .dig 8, stsNotEqual, fun c m => digest 8 m (pMax c.pkt))] ∨
  r ∈ [(Instr.hmacSha256 id, Op.keyed 1, stsVerifyFail, fun c b => keyedDigest 1 (keyOf c).secret
      (b.drop (byteAt c.pkt 41)) (b.take (byteAt c.pkt 41)) (tagLen 1 (byteAt c.pkt 42))),
    (.hmacSha384 id, .keyed 2, stsVerifyFail, fun c b => keyedDigest 2 (keyOf c).secret
      (b.drop (byteAt c.pkt 41)) (b.take (byteAt c.pkt 41)) (tagLen 2 (byteAt c.pkt 42))),
    (.hmacSha512 id, .keyed 3, stsVerifyFail, fun c b => keyedDigest 3 (keyOf c).secret
      (b.drop (byteAt c.pkt 41)) (b.take (byteAt c.pkt 41)) (tagLen 3 (byteAt c.pkt 42))),
    (.kmac128 id, .keyed 7, stsVerifyFail, fun c b => keyedDigest 7 (keyOf c).secret
      (b.drop (byteAt c.pkt 41)) (b.take (byteAt c.pkt 41)) (tagLen 7 (byteAt c.pkt 42))),
    (.kmac256 id, .keyed 8, stsVerifyFail, fun c b => keyedDigest 8 (keyOf c).secret
      (b.drop (byteAt c.pkt 41)) (b.take (byteAt c.pkt 41)) (tagLen 8 (byteAt c.pkt 42)))] ∨
  r = (.aesCmacVerify id, .sym 0x0661, stsVerifyFail, fun c m => (cmac (keyOf c).secret m).take (tag16 (byteAt c.pkt 40)))

/-- The digest rows with byte 40 bit 0 set, the keyed digests with it and AES_CMAC_VERIFY compare their value (once
core 31 has done a message that goes there) with as many bytes at the output address: equal gives STS_OK, unequal
STS_NOT_EQUAL for a digest and STS_VERIFY_FAIL for a keyed digest or CMAC; SIG_VERIFY_INPUT_KEY and
SIG_VERIFY_HELD_KEY give STS_OK or STS_VERIFY_FAIL as the signature at the front of the input (after the public key,
for the first) is valid under R78. No byte of host memory, no other command and nothing else of the block changes. -/
def Obligations.ComparisonsAndVerificationsAnswerAStatus : Prop :=
  ∀ (s : State) (id : Nat) (c : Cmd), cmdHeld s id c → (fltU s .dge c.unit).armed = false →
    canAccess s c (pInA c.pkt) (pInL c.pkt) → messageDone s c →
    (∀ (r : Instr × Op × Nat × (Cmd → Bytes → Bytes)) (v : Bytes), rowsCompare id r → c.port ≠ 256 → cmdOp c = r.2.1 →
      (byteAt c.pkt 40).testBit 0 = true ∨ r.2.1 = .sym 0x0661 → v = r.2.2.2 c (inputOf s c) →
      hostOk s c.port (pOutA c.pkt) v.length = true →
      ∃ t, exec r.1 s = .next t ∧ t.host.mem = s.host.mem ∧ dataFrame s t ∧ sameHub s t c ∧
        concluded s t c (justStatus (if hostBytes s (pOutA c.pkt) v.length = v then stsOk else r.2.2.1))) ∧
    (∀ (set : Nat) (d : Nat × Nat), cmdOp c = .sig set 0 →
      d = (sigSet set (bitsOf (byteAt c.pkt 43) 1 2)).getD (0, 0) →
      ∃ t, exec (.sigVerifyInputKey id) s = .next t ∧ t.host.mem = s.host.mem ∧ dataFrame s t ∧ sameHub s t c ∧
        concluded s t c (justStatus (if verify set ((inputOf s c).take d.1) (sigPar c.pkt)
          (slice ((inputOf s c).drop d.1) d.2 (byteAt c.pkt 42)) (((inputOf s c).drop d.1).drop (d.2 + byteAt c.pkt 42))
          (((inputOf s c).drop d.1).take d.2) then stsOk else stsVerifyFail))) ∧
    (∀ (set n : Nat), cmdOp c = .sig set 1 → n = ((sigSet set (rsaSize (keyOf c).cls)).getD (0, 0)).2 →
      ∃ t, exec (.sigVerifyHeldKey id) s = .next t ∧ t.host.mem = s.host.mem ∧ dataFrame s t ∧ sameHub s t c ∧
        concluded s t c (justStatus (if verify set (keyOf c).pub (sigPar c.pkt) (slice (inputOf s c) n (byteAt c.pkt 42))
          ((inputOf s c).drop (n + byteAt c.pkt 42)) ((inputOf s c).take n) then stsOk else stsVerifyFail)))

/-- Encapsulation to the public key in the input (which, for ML-KEM, must pass the modulus check, else
STS_BAD_PARAMETER) or of the handle draws the set's coins and delivers ciphertext and shared secret at the set's
lengths (Classic McEliece draws until an error vector comes); with no DRBG that can generate the command waits.
Decapsulation delivers the shared secret from the key's material (its body for an extended key); for X25519 and ECDH
the derived secret, or STS_BAD_PARAMETER for a peer value that R72 refuses. Nothing else changes. -/
def Obligations.KemRowsDeliverTheirResult : Prop :=
  ∀ (s : State) (id : Nat) (c : Cmd) (set : Nat) (d : Nat × Nat × Nat), cmdReady s id c →
    d = (kemSet set).getD (0, 0, 0) → (fltU s .hub c.unit).armed = false →
    (cmdOp c = .kem set 0 → canAccess s c (pInA c.pkt) (pInL c.pkt) →
      (ekOk set (inputOf s c) = false →
        ∃ t, exec (.encapsulateInputKey id) s = .next t ∧ concluded s t c (justStatus stsBadParameter) ∧
          t.host.mem = s.host.mem ∧ dataFrame s t) ∧
      (∀ s1 coins s2, ekOk set (inputOf s c) = true → readIn c s = some (inputOf s c, s1) →
        drawUntil id (coinLen set) (coinsOk set) 4096 s1 = some (coins, s2) → canAccess s c (pOutA c.pkt) (d.2.1 + d.2.2) →
        ∃ t, exec (.encapsulateInputKey id) s = .next t ∧ dataFrame s t ∧ sameHub s t c ∧
          delivered s t (drew s c) (fit d.2.1 (kemEncaps set (inputOf s c) coins).1 ++
            fit d.2.2 (kemEncaps set (inputOf s c) coins).2)) ∧
      (ekOk set (inputOf s c) = true → set ≠ 4 → set ≠ 5 → drawUnit s ≠ none → canAccess s c (pOutA c.pkt) (d.2.1 + d.2.2) →
        ∃ (t : State) (coins : Bytes), exec (.encapsulateInputKey id) s = .next t ∧ coins.length = coinLen set ∧
          dataFrame s t ∧ sameHub s t c ∧ delivered s t (drew s c) (fit d.2.1 (kemEncaps set (inputOf s c) coins).1 ++
            fit d.2.2 (kemEncaps set (inputOf s c) coins).2))) ∧
    (cmdOp c = .kem set 1 →
      (drawUnit s = none → exec (.encapsulateHeldKey id) s = .next (awaitDraw id s)) ∧
      (∀ coins s1, drawUntil id (coinLen set) (coinsOk set) 4096 s = some (coins, s1) →
        canAccess s c (pOutA c.pkt) (d.2.1 + d.2.2) →
        ∃ t, exec (.encapsulateHeldKey id) s = .next t ∧ dataFrame s t ∧ t.hub = s.hub ∧
          delivered s t (drew s c) (fit d.2.1 (kemEncaps set (keyOf c).pub coins).1 ++
            fit d.2.2 (kemEncaps set (keyOf c).pub coins).2)) ∧
      (set ≠ 4 → set ≠ 5 → drawUnit s ≠ none → canAccess s c (pOutA c.pkt) (d.2.1 + d.2.2) →
        ∃ (t : State) (coins : Bytes), exec (.encapsulateHeldKey id) s = .next t ∧ coins.length = coinLen set ∧
          dataFrame s t ∧ t.hub = s.hub ∧ delivered s t (drew s c) (fit d.2.1 (kemEncaps set (keyOf c).pub coins).1 ++
            fit d.2.2 (kemEncaps set (keyOf c).pub coins).2))) ∧
    (∀ body, cmdOp c = .kem set 2 → canAccess s c (pInA c.pkt) (pInL c.pkt) → bodyOf c = some body →
      (∀ z, (if isAgree set then agree set (materialOf (keyOf c) body) (inputOf s c)
          else some (fit d.2.2 (kemDecaps set (materialOf (keyOf c) body) (inputOf s c)))) = some z →
        canAccess s c (pOutA c.pkt) z.length →
        ∃ t, exec (.kemDecapsulate id) s = .next t ∧ delivered s t c z ∧ dataFrame s t ∧ sameHub s t c) ∧
      (isAgree set = true → agree set (materialOf (keyOf c) body) (inputOf s c) = none →
        ∃ t, exec (.kemDecapsulate id) s = .next t ∧ concluded s t c (justStatus stsBadParameter) ∧
          t.host.mem = s.host.mem ∧ dataFrame s t ∧ sameHub s t c))

/-- A signature is made from the key's material, the context and the message at the front and end of the input, with
the randomness R76 draws; where it verifies (R77), it is delivered; where it does not, or the loop of ML-DSA finds
none, the command ends and no byte of host memory but its reply changes. RANDOM_FILL delivers its bytes from the
queue where it holds them all, and else the queue's bytes followed by a DRBG's; with neither it waits.
RANDOM_FILL_PR first asks for a conditioner block, then delivers what its reseeded DRBG gives. AES_GCM_ENCRYPT
delivers ciphertext and tag; with GEN_IV the drawn IV comes first. The signatures are computed as their standards
say; that a signature just made verifies is not assumed, so both cases are stated. -/
def Obligations.SignRandomAndGcmEncryptDeliver : Prop :=
  ∀ (s : State) (id : Nat) (c : Cmd), cmdReady s id c →
    (∀ (set : Nat) (body : Bytes), cmdOp c = .sig set 2 → canAccess s c (pInA c.pkt) (pInL c.pkt) → bodyOf c = some body →
      (fltU s .hub c.unit).armed = false → (signDraw set c.pkt = 0 ∨ drawUnit s ≠ none) →
      ∃ (t : State) (r : Bytes), exec (.sigSign id) s = .next t ∧ r.length = signDraw set c.pkt ∧
        match sign set (materialOf (keyOf c) body) (keyOf c).pub (sigPar c.pkt) ((inputOf s c).take (byteAt c.pkt 42))
          ((inputOf s c).drop (byteAt c.pkt 42)) r with
        | none => replyAlone s t c
        | some sig =>
          if verify set (keyOf c).pub (sigPar c.pkt) ((inputOf s c).take (byteAt c.pkt 42))
              ((inputOf s c).drop (byteAt c.pkt 42)) sig then
            canAccess s c (pOutA c.pkt) sig.length →
              delivered s t (if signDraw set c.pkt = 0 then c else drew s c) sig ∧ dataFrame s t ∧ sameHub s t c
          else replyAlone s t c) ∧
    (cmdOp c = .rnd → canAccess s c (pOutA c.pkt) (pMax c.pkt) →
      (pMax c.pkt ≤ s.ent.queue.length ∨ drawUnit s ≠ none →
        ∃ (t : State) (b : Bytes), exec (.randomFill id) s = .next t ∧ b.length = pMax c.pkt - s.ent.queue.length ∧
          delivered s t (drew s c) (s.ent.queue.take (pMax c.pkt) ++ b) ∧ t.ent.queue = s.ent.queue.drop (pMax c.pkt) ∧
          dataFrame s t ∧ sameHub s t c) ∧
      (s.ent.queue.length < pMax c.pkt → drawUnit s = none → exec (.randomFill id) s = .next (awaitDraw id s))) ∧
    (cmdOp c = .rndPr →
      (id ∈ s.ent.prDone → drawUnit s ≠ none → canAccess s c (pOutA c.pkt) (pMax c.pkt) →
        ∃ t b, exec (.randomFillPr id) s = .next t ∧ b.length = pMax c.pkt ∧ delivered s t (drew s c) b ∧
          id ∉ t.ent.prDone ∧ t.ent.queue = s.ent.queue ∧ dataFrame s t ∧ t.hub = s.hub) ∧
      (id ∉ s.ent.prDone → id ∉ s.ent.prQ → ∃ t, exec (.randomFillPr id) s = .next t ∧ t.ent.prQ = s.ent.prQ ++ [id] ∧
        t.hif.cmds = s.hif.cmds ∧ t.host.mem = s.host.mem ∧ dataFrame s t)) ∧
    (∀ n, cmdOp c = .sym 0x0640 → canAccess s c (pInA c.pkt) (pInL c.pkt) → n = tag16 (byteAt c.pkt 56) →
      (byteAt c.pkt 57 ≠ 1 → ∀ b, b = (gcmEnc (keyOf c).secret (slice c.pkt 40 12) ((inputOf s c).take (leAt c.pkt 52 4))
            ((inputOf s c).drop (leAt c.pkt 52 4))).1 ++
          (gcmEnc (keyOf c).secret (slice c.pkt 40 12) ((inputOf s c).take (leAt c.pkt 52 4))
            ((inputOf s c).drop (leAt c.pkt 52 4))).2.take n → canAccess s c (pOutA c.pkt) b.length →
        ∃ t, exec (.aesGcmEncrypt id) s = .next t ∧ delivered s t c b ∧ dataFrame s t ∧ sameHub s t c) ∧
      (byteAt c.pkt 57 = 1 → drawUnit s ≠ none → ∃ t iv b, exec (.aesGcmEncrypt id) s = .next t ∧ iv.length = 12 ∧
        b = iv ++ (gcmEnc (keyOf c).secret iv ((inputOf s c).take (leAt c.pkt 52 4)) ((inputOf s c).drop (leAt c.pkt 52 4))).1
          ++ (gcmEnc (keyOf c).secret iv ((inputOf s c).take (leAt c.pkt 52 4)) ((inputOf s c).drop (leAt c.pkt 52 4))).2.take n ∧
        (canAccess s c (pOutA c.pkt) b.length → delivered s t (drew s c) b ∧ dataFrame s t ∧ sameHub s t c)))

/-- What an install puts out: the handle in front where asked for, the blob, the public key where asked for. -/
def installOut (k : KeyObj) (blob : Bytes) (front pub : Bool) : Bytes :=
  (if front then leBytes 8 k.handle else []) ++ blob ++ (if pub then k.pub else [])

/-- An install of a key that passes its test, with a journal slot, fewer than 256 pending installs and quota, writes
a PENDING record with the key's handle, version, class and blob digest, keeps the key as pending beside the current
one, delivers handle (but for a replacement), blob and (where there is one) public key, and leaves the current key
(R94, R95, R259). Each of the five rows is such an install: of a class key or leaf from drawn bytes, of imported
material, of the next version of a key, of an agreed secret, of a stateful key. For KEY_AGREE_STORE the classes
whose key has no public seed are stated. -/
def Obligations.InstallsAreTestedJournalledAndDelivered : Prop :=
  (∀ (s s1 : State) (c : Cmd) (kind entry slot : Nat) (k : KeyObj) (front pub : Bool) (blob : Bytes),
    cmdReady s c.id c → (fltU s .hub c.unit).armed = false → (fltU s .kvt 0).armed = false →
    keyTest k (if k.ext then (unsealBody k.secret k.body).getD [] else []) = true → takeSlot s = some slot →
    pendingCount s < 256 → quotaFits s (hInst k.handle) k = true → blobOf k s = some (blob, s1) →
    (installOut k blob front pub).length ≤ pMax c.pkt → canAccess s c (pOutA c.pkt) (installOut k blob front pub).length →
    delivered s (install c kind entry k front pub s) c (installOut k blob front pub) ∧
    resU (install c kind entry k front pub s) k.handle = some { (resU s k.handle).getD {} with
      pend := some k, slot := slot, install := kind, entry := entry } ∧
    slotU (install c kind entry k front pub s) slot = { commit := {}, pend := {
      kind := 1, install := kind, version := k.version, handle := k.handle, cls := k.cls, entry := entry
      digest := (sha3_256 blob).take 12, jseq := (s.kvt.jseq + 1) % 2 ^ 24, valid := true } } ∧
    (install c kind entry k front pub s).bbram.gens = s.bbram.gens ∧
    (install c kind entry k front pub s).lcs = s.lcs ∧ (install c kind entry k front pub s).hub = s.hub) ∧
  (∀ (s : State) (id : Nat) (c : Cmd), cmdReady s id c → (fltU s .kvt 0).armed = false →
    (cmdOp c = .key 0x0501 → installRoom s = true →
      (∀ k n r s1, leAt c.pkt 40 2 = 0x2000 → newClass (keyOf c) s = some (k, n) → draw id 32 s = some (r, s1) →
        exec (.keyGenerate id) s =
          .next (install c 1 n { k with attr := byteAt c.pkt 42, secret := r } true false s1)) ∧
      (∀ k t r s1, leAt c.pkt 40 2 ≠ 0x2000 → newLeaf (keyOf c) s = some (k, t) →
        draw id (genDraw (leAt c.pkt 40 2) (if byteAt c.pkt 47 = 0 then 32 else byteAt c.pkt 47)) t = some (r, s1) →
        exec (.keyGenerate id) s = .next (install c 0 0
          { generated (leAt c.pkt 40 2) r k with attr := byteAt c.pkt 42 } true (hasPublic (leAt c.pkt 40 2)) s1))) ∧
    (∀ b s1, cmdOp c = .key 0x0502 → readIn c s = some (b, s1) → installRoom s1 = true →
      exec (.keyImport id) s = .next (match importMaterial (c.key2.getD {}) (leAt c.pkt 40 2) b with
        | .inl st => finish id (justStatus st) s1
        | .inr m => match newLeaf (keyOf c) s1 with
          | none => finish id (withHint stsQuota 0xFFFF) s1
          | some (k, s2) => install c 0 0 { withMaterial (leAt c.pkt 40 2) m (freeBytes 32 s2).1 k with
              attr := byteAt c.pkt 42 } true false (freeBytes 32 s2).2)) ∧
    (cmdOp c = .key 0x0503 → ((resU s (keyOf c).handle).bind (·.pend)).isSome = false → installRoom s = true →
      (∀ r s1, byteAt c.pkt 43 = 0 → draw id (genDraw (keyOf c).cls (keyOf c).secret.length) s = some (r, s1) →
        exec (.keyReplace id) s =
          .next (install c 2 0 (generated (keyOf c).cls r (nextVersion (keyOf c))) false false s1)) ∧
      (∀ b s1, byteAt c.pkt 43 ≠ 0 → readIn c s = some (b, s1) →
        exec (.keyReplace id) s = .next (match importMaterial (c.key2.getD {}) (keyOf c).cls b with
          | .inl st => finish id (justStatus st) s1
          | .inr m => install c 2 0 (withMaterial (keyOf c).cls m (freeBytes 32 s1).1 (nextVersion (keyOf c))) false false
              (freeBytes 32 s1).2))) ∧
    (∀ d k t r s1 sec, cmdOp c = .sfs 0x0810 → sfsParams (sfsPar c.pkt) = some d → installRoom s = true →
      newLeaf (keyOf c) s = some (k, t) → draw id (sfsDraw (sfsPar c.pkt) d.n) t = some (r, s1) →
      sec = (if byteAt (sfsPar c.pkt) 0 = 1 then hssSecret (sfsPar c.pkt) r else r.take (2 * d.n)) →
      exec (.sfsKeygen id) s = .next (match drawUntil id 5 (fun b => !sidTaken t (ofLe b)) 4096 s1 with
        | none => awaitDraw id s
        | some (x, s2) => install c 3 0 { k with
            cls := sfsClass (byteAt (sfsPar c.pkt) 0), stateful := true, par := sfsPar c.pkt, secret := sec
            pub := sfsPublic (sfsPar c.pkt) sec (r.drop (2 * d.n)), stateId := ofLe x } true true s2)) ∧
    (∀ (b : Bytes) (s1 : State) (m : Nat) (body : Bytes), cmdOp c = .key 0x0510 →
      bodyOf c = some body → (fltU s .hub c.unit).armed = false → isSlh (leAt c.pkt 40 2) = false →
      readIn c s = some (b, s1) → installRoom s1 = true →
      m = (if isAgree (clsSet (keyOf c).cls) then ((kemSet (clsSet (keyOf c).cls)).getD (0, 0, 0)).1
        else ((kemSet (clsSet (keyOf c).cls)).getD (0, 0, 0)).2.1) →
      match (if isAgree (clsSet (keyOf c).cls) then agree (clsSet (keyOf c).cls) (materialOf (keyOf c) body) (b.take m)
        else some (fit ((kemSet (clsSet (keyOf c).cls)).getD (0, 0, 0)).2.2
          (kemDecaps (clsSet (keyOf c).cls) (materialOf (keyOf c) body) (b.take m)))).bind (fun z =>
            agreed (byteAt c.pkt 46) z (b.drop m) (leAt c.pkt 40 2) (secretLen (leAt c.pkt 40 2) (byteAt c.pkt 47))) with
      | none => exec (.keyAgreeStore id) s = .next (finish id (justStatus stsBadParameter) s1)
      | some sec => if materialValid (leAt c.pkt 40 2) sec = false then
          exec (.keyAgreeStore id) s = .next (finish id (justStatus stsBadParameter) s1)
        else match newLeaf (c.key2.getD {}) s1 with
        | none => exec (.keyAgreeStore id) s = .next (finish id (withHint stsQuota 0xFFFF) s1)
        | some (x, s2) => exec (.keyAgreeStore id) s = .next (install c 0 0 { withMaterial (leAt c.pkt 40 2) sec [] x with
            attr := byteAt c.pkt 42 } true false s2)))

/-- KEY_COMMIT makes the pending key current, keeps the earlier key for the commands submitted before, and writes
the COMMIT record; KEY_ABANDON drops the pending key and leaves the current one; both answer STS_BAD_PARAMETER where
nothing is pending. KEY_LOAD makes the key of an accepted blob resident and puts out its handle. KEY_EVICT frees the
current key of a resident handle. KEY_INVALIDATE raises the entry's generation by one, puts it out and changes no
other entry; at 0xFFFF it answers STS_QUOTA with hint 0xFFFF. KEY_EXPORT puts out the export record under the
transport key; KEY_PUBLIC the public key; KEY_INFO the 32 bytes of Table 4-4; KEY_SHARE adds or removes one grant. A
command that is answered changes no other command, and no byte of host memory beside its output. -/
def Obligations.KeyManagementRowsDoTheirWork : Prop :=
  ∀ (s : State) (id : Nat) (c : Cmd), cmdReady s id c → (fltU s .kvt 0).armed = false →
    (cmdOp c = .key 0x0504 →
      (∀ r k, resU s (pKey c.pkt) = some r → r.pend = some k → parentFault s k = false → parentHolds s k = true →
        (r.install = 3 → ∃ n, recClaim s = some n ∧ n ∉ s.bbram.badRecs) →
        ∃ t, exec (.keyCommit id) s = .next t ∧ concluded s t c (justStatus stsOk) ∧ t.host.mem = s.host.mem ∧
          resU t (pKey c.pkt) = some (committed id r) ∧
          (slotU t r.slot).pend = (slotU s r.slot).pend ∧
          (slotU t r.slot).commit = { kind := 2, install := r.install, version := k.version, handle := k.handle
                                      cls := k.cls, entry := r.entry, digest := (slotU s r.slot).pend.digest
                                      jseq := (s.kvt.jseq + 1) % 2 ^ 24, valid := true } ∧
          (r.install = 1 → (genE t r.entry).gen = (genE s r.entry).gen + 1 ∧ (genE t r.entry).st = 1) ∧
          (r.install ≠ 1 → t.bbram.gens = s.bbram.gens) ∧ t.lcs = s.lcs ∧ t.ent = s.ent) ∧
      ((resU s (pKey c.pkt)).bind (·.pend) = none →
        exec (.keyCommit id) s = .next (finish id (justStatus stsBadParameter) s))) ∧
    (cmdOp c = .key 0x0505 →
      (∀ r k, resU s (pKey c.pkt) = some r → r.pend = some k →
        ∃ t, exec (.keyAbandon id) s = .next t ∧ concluded s t c (justStatus stsOk) ∧
          resU t (pKey c.pkt) = tidyRes { r with pend := none } ∧ t.host.mem = s.host.mem ∧ t.bbram.gens = s.bbram.gens) ∧
      ((resU s (pKey c.pkt)).bind (·.pend) = none →
        exec (.keyAbandon id) s = .next (finish id (justStatus stsBadParameter) s))) ∧
    (∀ b s1, cmdOp c = .key 0x0506 → readIn c (loadNote (cmdInst c) false s) = some (b, s1) →
      (∀ st, blobRefused s1 (cmdInst c) b = some st → exec (.keyLoad id) s = .next (finish id (justStatus st) s1)) ∧
      (∀ k, blobRefused s1 (cmdInst c) b = none → (fltU s .tmp 0).armed = false → loadBlob b s1 = .inr k →
        (resU s1 k.handle).bind (·.cur) = none → quotaFits s1 (cmdInst c) k = true → canAccess s c (pOutA c.pkt) 8 →
        ∃ t, exec (.keyLoad id) s = .next t ∧ delivered s t c (leBytes 8 k.handle) ∧
          resU t k.handle = some { (resU s k.handle).getD {} with cur := some k } ∧ t.bbram = s.bbram ∧ sameHub s t c)) ∧
    (∀ r, cmdOp c = .key 0x0507 → resU s (pKey c.pkt) = some r →
      ∃ t, exec (.keyEvict id) s = .next t ∧ concluded s t c (justStatus stsOk) ∧
        resU t (pKey c.pkt) = tidyRes { r with cur := none, old := [] } ∧ t.kvt.grants = s.kvt.grants ∧ t.bbram = s.bbram ∧
        t.host.mem = s.host.mem) ∧
    (∀ n, cmdOp c = .key 0x0508 → n = (if hLevel (pKey c.pkt) = 1 then hInst (pKey c.pkt)
        else entryOf s (hInst (pKey c.pkt)) (hIndex (pKey c.pkt))) → (genE s n).unreadable = false →
      ((genE s n).gen = 0xFFFF → exec (.keyInvalidate id) s = .next (finish id (withHint stsQuota 0xFFFF) s)) ∧
      ((genE s n).gen ≠ 0xFFFF → canAccess s c (pOutA c.pkt) 2 →
        ∃ t, exec (.keyInvalidate id) s = .next t ∧ delivered s t c (leBytes 2 ((genE s n).gen + 1)) ∧
          genE t n = { genE s n with gen := (genE s n).gen + 1 } ∧ (∀ m, m ≠ n → genE t m = genE s m) ∧
          t.kvt.stops = id :: s.kvt.stops ∧ t.kvt.res = s.kvt.res)) ∧
    (∀ body, cmdOp c = .key 0x0509 → bodyOf c = some body →
      (∀ b, (c.key2.getD {}).cls = 0x3620 →
        b = kwpWrap (c.key2.getD {}).secret (exportRec (keyOf c).cls (exportMaterial (keyOf c) body)) →
        canAccess s c (pOutA c.pkt) b.length → ∃ t, exec (.keyExport id) s = .next t ∧ delivered s t c b ∧ dataFrame s t) ∧
      ((c.key2.getD {}).cls ≠ 0x3620 → drawUnit s ≠ none → ∃ (t : State) (d : Bytes) (z g : Bytes × Bytes) (b : Bytes), exec (.keyExport id) s = .next t ∧ d.length = 44 ∧
        z = kemEncaps (clsSet (c.key2.getD {}).cls) (c.key2.getD {}).pub (d.take 32) ∧
        g = gcmEnc (fit 32 z.2) (d.drop 32) (leBytes 2 (keyOf c).cls)
          (exportRec (keyOf c).cls (exportMaterial (keyOf c) body)) ∧
        b = fit ((kemSet (clsSet (c.key2.getD {}).cls)).getD (0, 0, 0)).2.1 z.1 ++ d.drop 32 ++ g.1 ++ g.2 ∧
        (canAccess s c (pOutA c.pkt) b.length → delivered s t (drew s c) b ∧ dataFrame s t))) ∧
    (cmdOp c = .key 0x050A → canAccess s c (pOutA c.pkt) (keyOf c).pub.length →
      ∃ t, exec (.keyPublic id) s = .next t ∧ delivered s t c (keyOf c).pub ∧ dataFrame s t) ∧
    (cmdOp c = .key 0x050B → (keyOf c).stateful = false → canAccess s c (pOutA c.pkt) 32 →
      ∃ t b, exec (.keyInfo id) s = .next t ∧ delivered s t c b ∧ dataFrame s t ∧ b.length = 32 ∧
        b.take 8 = leBytes 8 (keyOf c).handle ∧ slice b 8 2 = leBytes 2 (keyOf c).cls ∧
        slice b 10 1 = leBytes 1 (keyOf c).level ∧ slice b 11 1 = leBytes 1 (keyOf c).attr ∧
        slice b 12 1 = leBytes 1 (if ((resU s (keyOf c).handle).bind (·.pend)).isNone then 0
          else if ((resU s (keyOf c).handle).bind (·.cur)).isSome then 2 else 1) ∧
        slice b 13 1 = leBytes 1 (b2n ((resU s (keyOf c).handle).bind (·.cur)).isSome) ∧
        slice b 14 2 = leBytes 2 (parentGenNow s (keyOf c)) ∧ slice b 16 8 = leBytes 8 (infoTag s (keyOf c)) ∧
        slice b 24 8 = leBytes 8 (grantsOf s (keyOf c).handle).length) ∧
    (cmdOp c = .key 0x050C →
      ∃ t, exec (.keyShare id) s = .next t ∧ concluded s t c (justStatus stsOk) ∧ t.host.mem = s.host.mem ∧
        t.bbram = s.bbram ∧ t.kvt.res = s.kvt.res ∧ (∀ h, h ≠ pKey c.pkt → grantsOf t h = grantsOf s h) ∧
        (∀ i, i ∈ grantsOf t (pKey c.pkt) ↔ if i = byteAt c.pkt 44 then byteAt c.pkt 45 = 1 else i ∈ grantsOf s (pKey c.pkt)))

/-- SFS_VERIFY_HSS and SFS_VERIFY_XMSS answer STS_OK or STS_VERIFY_FAIL, STS_BAD_PARAMETER for parameters that name
no scheme. SFS_SIGN delivers the signature of the leaf the command took, where it verifies. SFS_STATUS delivers
total, next leaf and high-water mark, or STS_STATE_LOST where no live record is there. SFS_RETIRE of a resident key
closes and clears its record. A rewrite of a PENDING record changes only its sequence number; a sweep frees the
orphaned resident records of its instance and no other's. -/
def Obligations.StatefulRowsAndVaultEvents : Prop :=
  (∀ (s : State) (id : Nat) (c : Cmd), cmdReady s id c →
    (∀ r, r ∈ [(Instr.sfsVerifyHss id, 0x0801), (.sfsVerifyXmss id, 0x0802)] → cmdOp c = .sfs r.2 →
      canAccess s c (pInA c.pkt) (pInL c.pkt) →
      (sfsParams (sfsPar c.pkt) = none → ∃ t, exec r.1 s = .next t ∧ concluded s t c (justStatus stsBadParameter) ∧
        t.host.mem = s.host.mem ∧ dataFrame s t) ∧
      (∀ d, sfsParams (sfsPar c.pkt) = some d → ∃ t, exec r.1 s = .next t ∧ t.host.mem = s.host.mem ∧ dataFrame s t ∧
        concluded s t c (justStatus (if sfsVerify (sfsPar c.pkt) ((inputOf s c).take d.pub)
          (slice (inputOf s c) d.pub d.sig) ((inputOf s c).drop (d.pub + d.sig)) then stsOk else stsVerifyFail)))) ∧
    (∀ sig, cmdOp c = .sfs 0x0811 → canAccess s c (pInA c.pkt) (pInL c.pkt) → (fltU s .hub c.unit).armed = false →
      sig = sfsSign (keyOf c).par (keyOf c).secret (keyOf c).pub (c.leaf.getD 0) (inputOf s c) →
      sfsVerify (keyOf c).par (keyOf c).pub sig (inputOf s c) = true → canAccess s c (pOutA c.pkt) sig.length →
      ∃ t, exec (.sfsSign id) s = .next t ∧ delivered s t c sig ∧ dataFrame s t ∧ sameHub s t c) ∧
    (cmdOp c = .sfs 0x0812 → c.served = none →
      (∀ n r, recLive s (keyOf c).stateId = some (n, r) → canAccess s c (pOutA c.pkt) 24 →
        ∃ t, exec (.sfsStatus id) s = .next t ∧ dataFrame s t ∧
          delivered s t c (leBytes 8 (leavesTotal (keyOf c).par) ++ leBytes 8 (sfsCursor s n r) ++ leBytes 8 r.hwm)) ∧
      (recFind s (keyOf c).stateId = none →
        exec (.sfsStatus id) s = .next (finish id (justStatus stsStateLost) s))) ∧
    (∀ v, cmdOp c = .sfs 0x0812 → c.served = some v → canAccess s c (pOutA c.pkt) 24 →
      ∃ t, exec (.sfsStatus id) s = .next t ∧ dataFrame s t ∧
        delivered s t c (leBytes 8 (leavesTotal (keyOf c).par) ++ leBytes 8 v.1 ++ leBytes 8 v.2)) ∧
    (∀ k n, cmdOp c = .sfs 0x0813 → c.served = none → c.key = some k → pInL c.pkt = 0 →
      recFind s k.stateId = some n → (fltU s .kvt 0).armed = false → n ∉ s.bbram.badRecs →
      ∃ t, exec (.sfsRetire id) s = .next t ∧ concluded s t c (justStatus stsOk) ∧ recU t n = {} ∧
        (∀ m, m ≠ n → recU t m = recU s m) ∧ t.kvt.res = s.kvt.res ∧ t.host.mem = s.host.mem) ∧
    (cmdOp c = .sfs 0x0813 → c.served = none → 0 < pInL c.pkt → canAccess s c (pInA c.pkt) (pInL c.pkt) →
      leAt (inputOf s c) 8 8 ≠ pKey c.pkt → ∃ t, exec (.sfsRetire id) s = .next t ∧
        concluded s t c (justStatus stsBadParameter) ∧ t.bbram = s.bbram ∧ t.kvt = s.kvt ∧ t.host.mem = s.host.mem)) ∧
  (∀ (s : State),
    (∀ slot : Fin 256, jPending (slotU s slot) = true →
      ∃ t, exec (.pendingRewrite slot) s = .next t ∧
        slotU t slot = { slotU s slot with
          pend := { (slotU s slot).pend with jseq := (s.kvt.jseq + 1) % 2 ^ 24 } } ∧
        (∀ n, n ≠ slot.val → slotU t n = slotU s n) ∧ t.kvt.res = s.kvt.res ∧ t.bbram.gens = s.bbram.gens ∧
        t.hif = s.hif ∧ t.host = s.host) ∧
    (∀ i : Fin 256, i.val ∈ s.kvt.sweep →
      ∃ t, exec (.pannierSweep i) s = .next t ∧ i.val ∉ t.kvt.sweep ∧
        (∀ p, p ∈ t.kvt.res → hInst p.1 = i.val → ∀ r k, p.2 = some r → r.cur = some k → genCheck s k = none) ∧
        (∀ p, p ∈ s.kvt.res → hInst p.1 ≠ i.val → p ∈ t.kvt.res) ∧ t.bbram = s.bbram ∧ t.hif = s.hif ∧ t.host = s.host))

/-- DEV_IDENTITY, DEV_STATUS and PATCH_INFO put out their 64, 32 and 64 bytes (Tables 4-8, 4-10, 4-11). INST_CREATE
of an absent instance whose pools suffice makes it active with the packet's resources and permissions and puts out
its domain handle; an existing number is STS_BAD_PARAMETER, a pool that is short STS_QUOTA. INST_DESTROY makes it
absent; INST_SET_SHARE writes the share; INST_SET_SHIELD changes no instance until its reply, which then sets the
order; INST_PAUSE starts a pause; INST_RESUME ends one; INST_RESET ends its commands and disables its queue pairs;
INST_MIGRATE_LOG changes no instance until its reply, which then starts, switches or ends the log;
INST_IMPORT_PREPARE fills or frees a prepare slot. INST_EXPORT leaves the instance exported or answers why not: of a
paused instance with nothing detached or pending it is STS_BAD_LENGTH with the length needed, STS_VERIFY_FAIL, or
the state of that length is delivered. INST_IMPORT makes a paused instance of an authentic state of a prepared slot
and delivers the domain handle, or answers a status and changes no instance. Other instances keep their share, order
and state. The device certificate and the standards are constants; the record layouts of a migrated state are the
model's choice (log 46). -/
def Obligations.IdentityStatusAndInstanceCommands : Prop :=
  ∀ (s : State) (id i : Nat) (c : Cmd), cmdReady s id c → i = pTarget c.pkt → (fltU s .kvt 0).armed = false →
    (cmdOp c = .adm 0x0F01 → canAccess s c (pOutA c.pkt) 64 →
      ∃ t, exec (.devIdentity id) s = .next t ∧ delivered s t c (identityBytes s) ∧ dataFrame s t ∧
        (identityBytes s).length = 64 ∧ (identityBytes s).take 16 = identity s) ∧
    (cmdOp c = .adm 0x0F02 → canAccess s c (pOutA c.pkt) 32 →
      ∃ t, exec (.devStatus id) s = .next t ∧ delivered s t c (statusBytes s c.port) ∧ dataFrame s t ∧
        (statusBytes s c.port).length = 32) ∧
    (cmdOp c = .adm 0x0F31 → canAccess s c (pOutA c.pkt) 64 →
      ∃ t, exec (.patchInfo id) s = .next t ∧ delivered s t c (patchInfo s) ∧ dataFrame s t) ∧
    (cmdOp c = .adm 0x0F10 →
      ((instU s i).st ≠ .absent → exec (.instCreate id) s = .next (finish id (justStatus stsBadParameter) s)) ∧
      ((instU s i).st = .absent → poolsFit s (newInst (c.pkt.drop 41)) = false →
        exec (.instCreate id) s = .next (finish id (justStatus stsQuota) s)) ∧
      (i ≠ 0 → (instU s i).st = .absent → poolsFit s (newInst (c.pkt.drop 41)) = true → canAccess s c (pOutA c.pkt) 8 →
        ∃ t h, exec (.instCreate id) s = .next t ∧ delivered s t c (leBytes 8 h) ∧
          instU t i = { newInst (c.pkt.drop 41) with adopted := adoptedFor s i (slice c.pkt 56 8) } ∧
          (∀ g, g < 4 → permBit t i g = (byteAt c.pkt 44).testBit g) ∧ (∀ j, j ≠ i → instU t j = instU s j) ∧
          (genE t i).gen ≠ 0 ∧ t.hif.qps = s.hif.qps)) ∧
    (cmdOp c = .adm 0x0F11 →
      ((instU s i).st = .absent → exec (.instDestroy id) s = .next (finish id (justStatus stsBadParameter) s)) ∧
      (i ≠ 0 → (instU s i).st ≠ .absent → ∃ t, exec (.instDestroy id) s = .next t ∧ instU t i = {} ∧
        (∀ g, g < 4 → permBit t i g = false) ∧ (∀ p ∈ t.mem.pannierPages, p.2 ≠ i + 1))) ∧
    (cmdOp c = .adm 0x0F12 → ∀ n, n = byteAt c.pkt 41 → instOpen s i = true →
      ((instU s i).st = .paused ∨ (instU s i).qps ≤ n ∨ ∀ q, n ≤ q → (qpU s i q).active = false) →
      poolUsed s (·.qps) - (instU s i).qps + n ≤ 4096 →
      ∃ t, exec (.instSetShare id) s = .next t ∧ concluded s t c (justStatus stsOk) ∧
        instU t i = { instU s i with qps := n, nextWeight := leAt c.pkt 42 2 } ∧ (∀ j, j ≠ i → instU t j = instU s j) ∧
        t.host.mem = s.host.mem ∧ t.kvt = s.kvt ∧ t.bbram = s.bbram) ∧
    (cmdOp c = .adm 0x0F16 → instOpen s i = true →
      ((instU s i).st = .paused → exec (.instSetShield id) s = .next (finish id (withHint stsPaused 0xFFFF) s)) ∧
      ((instU s i).st ≠ .paused → ∃ t, exec (.instSetShield id) s = .next t ∧ concluded s t c (justStatus stsOk) ∧
        t.hif.inst = s.hif.inst ∧ instU (setShield c t) i = { instU s i with order := byteAt c.pkt 45 } ∧
        (∀ j, j ≠ i → instU (setShield c t) j = instU s j) ∧ t.host = s.host ∧ t.kvt = s.kvt ∧ t.bbram = s.bbram)) ∧
    (cmdOp c = .adm 0x0F13 →
      ((instU s i).st = .active → ∃ t, exec (.instPause id) s = .next t ∧ (instU t i).st = .pausing ∧
        (instU t i).pauseCmd = some id ∧ ∀ d ∈ t.hif.cmds, d.port = i → d.phase ≠ .waiting) ∧
      ((instU s i).st = .pausing ∨ (instU s i).st = .paused →
        exec (.instPause id) s = .next (finish id (withHint stsPaused 0xFFFF) s))) ∧
    (cmdOp c = .adm 0x0F14 →
      ((instU s i).st = .paused → ∃ t, exec (.instResume id) s = .next t ∧ concluded s t c (justStatus stsOk) ∧
        instU t i = { instU s i with st := .active } ∧ t.host.mem = s.host.mem ∧ t.hif.qps = s.hif.qps) ∧
      ((instU s i).st ≠ .paused → exec (.instResume id) s = .next (finish id (justStatus stsBadParameter) s))) ∧
    (cmdOp c = .adm 0x0F15 → instOpen s i = true →
      ∃ t, exec (.instReset id) s = .next t ∧ (instU t i).st = .resetting ∧ (instU t i).logging = false ∧
        ∀ q, q < 64 → (qpU t i q).enable = false ∧ (qpU t i q).active = false) ∧
    (cmdOp c = .adm 0x0F17 → instOpen s i = true →
      ∃ t, exec (.instMigrateLog id) s = .next t ∧ concluded s t c (justStatus stsOk) ∧ t.host.mem = s.host.mem ∧
        t.hif.inst = s.hif.inst ∧ (instU (setLog c t) i).logging = (byteAt c.pkt 41 == 1) ∧ (instU (setLog c t) i).dirty = [] ∧
        (byteAt c.pkt 41 = 1 →
          (instU (setLog c t) i).bitmap = leAt c.pkt 48 8 ∧ (instU (setLog c t) i).bitmapLen = leAt c.pkt 56 4) ∧
        (instU (setLog c t) i).st = (instU s i).st ∧ (∀ j, j ≠ i → instU (setLog c t) j = instU s j)) ∧
    (cmdOp c = .adm 0x0F18 →
      (∀ n, byteAt c.pkt 41 ≠ 1 → prepTake s = some n → drawUnit s ≠ none →
        ∃ (t : State) (seed ek : Bytes), exec (.instImportPrepare id) s = .next t ∧ seed.length = 64 ∧
          ek = fit 1568 (publicOf 0x0103 seed) ∧
          Tbl.get {} t.bbram.prep n = { used := true, seed := seed, ekDigest := (sha3_256 ek).take 16 } ∧
          (canAccess s c (pOutA c.pkt) (ek ++ deviceCert s).length → delivered s t (drew s c) (ek ++ deviceCert s))) ∧
      (∀ n, byteAt c.pkt 41 = 1 → n = byteAt c.pkt 42 → (Tbl.get {} s.bbram.prep n).used = true →
        (Tbl.get {} s.bbram.prep n).finished = false → (Tbl.get {} s.bbram.prep n).stDigest = [] →
        ∃ t, exec (.instImportPrepare id) s = .next t ∧ concluded s t c (justStatus stsOk) ∧
          Tbl.get {} t.bbram.prep n = {} ∧ (∀ m, m ≠ n → Tbl.get {} t.bbram.prep m = Tbl.get {} s.bbram.prep m))) ∧
    (∀ b s1, cmdOp c = .adm 0x0F19 → (fltU s .mem 0).armed = false → s.mem.poison = [] → readIn c s = some (b, s1) →
      ((instU s i).st ≠ .paused → exec (.instExport id) s = .next (finish id (justStatus stsBadParameter) s1)) ∧
      ((instU s i).st = .paused → drawUnit s ≠ none → ∃ t, exec (.instExport id) s = .next t ∧
        ((instU t i).st = .exported ∨ (t.bbram.gens = s.bbram.gens ∧ (instU t i).st = .paused ∧
          ∃ d, cmdU t id = some d ∧ d.phase = .finished ∧ d.res.status ≠ stsOk))) ∧
      ((instU s i).st = .paused → s.bbram.badRecs = [] → detachedOf s i = 0 → pendingIn s i = false → drawUnit s ≠ none →
        ∃ t, exec (.instExport id) s = .next t ∧
          (pMax c.pkt < exportedLen s i → concluded s t c { status := stsBadLength, outLen := exportedLen s i }) ∧
          (exportedLen s i ≤ pMax c.pkt → Config.certOk (b.drop 1568) = false → concluded s t c (justStatus stsVerifyFail)) ∧
          (exportedLen s i ≤ pMax c.pkt → Config.certOk (b.drop 1568) = true →
            canAccess s c (pOutA c.pkt) (exportedLen s i) →
            ∃ out, out.length = exportedLen s i ∧ out.take 4 = ascii "UQIS" ∧ slice out 6 16 = identity s ∧
              slice out 64 (deviceCert s).length = deviceCert s ∧ delivered s t (drew s c) out ∧
              instU t i = { instU s i with st := .exported } ∧ ∀ j, j ≠ i → instU t j = instU s j))) ∧
    (∀ b s1, cmdOp c = .adm 0x0F1A → (fltU s .mem 0).armed = false → s.mem.poison = [] → readIn c s = some (b, s1) →
      ∃ t, exec (.instImport id) s = .next t ∧
        ((∃ st, st ∈ [stsVerifyFail, stsBadParameter, stsQuota] ∧ concluded s t c (justStatus st) ∧
            t.hif.inst = s.hif.inst ∧ t.bbram = s.bbram ∧ t.host.mem = s.host.mem) ∨
          ((instU s i).st = .absent ∧ (instU t i).st = .paused)) ∧
        (stateGood b = false ∨ prepFor s b = none → concluded s t c (justStatus stsVerifyFail)) ∧
        (∀ n body, s.bbram.badRecs = [] → stateGood b = true → prepFor s b = some n → stateOpened s n b = some body →
          ((instU s i).st ≠ .absent → concluded s t c (justStatus stsBadParameter)) ∧
          ((instU s i).st = .absent → poolsFit s (newInst body) = true →
            importFits s i body ((Tbl.get {} s.bbram.prep n).stDigest != []) = true → canAccess s c (pOutA c.pkt) 8 →
            delivered s t c (leBytes 8 (domainHandle t i)) ∧ (instU t i).st = .paused ∧
            (Tbl.get {} t.bbram.prep n).finished = true ∧ ∀ j, j ≠ i → instU t j = instU s j)))

/-- While another LC_ADVANCE or its burn runs, the four life-cycle commands answer STS_RETRY with hint 100.
LC_ADVANCE to a target that Table 20-2 does not give is STS_LIFECYCLE, without authority STS_VERIFY_FAIL, with the
hold-up store low STS_RETRY with hint 1,000; else the record is staged in BBRAM and the burn of the next blank word
starts, before any reply. UNLOCK clears the lock flag for a token that R443 accepts. ZEROIZE erases every secret,
sets tamper_out and the mode ZEROIZED. REPROVISION installs seed and digest and enters RESET without a reply.
BUNDLE_STAGE writes one boot image with the next sequence. EXT_LOAD adds a program that its bundle declares;
EXT_UNLOAD clears the owner regions of every program and keeps a program only while a command of its opcodes runs;
an extension command enters its program with the registers of R305. Whether the vendor and the owner have signed is
a constant of the model, so what follows a good and a bad signature stands in the conclusion. -/
def Obligations.LifeCycleBundleAndExtensionCommands : Prop :=
  ∀ (s : State) (id : Nat) (c : Cmd), cmdReady s id c → (∀ n, n < 64 → (fltU s .hub n).armed = false) →
    (∀ r, r ∈ [(Instr.lcAdvance id, 0x0F20), (.unlock id, 0x0F21), (.zeroize id, 0x0F22), (.reprovision id, 0x0F23)] →
      cmdOp c = .adm r.2 → lcBusy s = true → exec r.1 s = .next (finish id (withHint stsRetry 100) s)) ∧
    (lcBusy s = false →
      (cmdOp c = .adm 0x0F20 →
        (lcInput s.lcs.st (byteAt c.pkt 40) s.bbram.ownDigest.isSome = none →
          exec (.lcAdvance id) s = .next (finish id (justStatus stsLifecycle) s)) ∧
        (∀ b s1, lcInput s.lcs.st (byteAt c.pkt 40) s.bbram.ownDigest.isSome ≠ none → readIn c s = some (b, s1) →
          byteAt c.pkt 40 ≠ 3 → ∃ t, exec (.lcAdvance id) s = .next t ∧
          match lcRecord (recoveryIn b s1) (byteAt c.pkt 40) b with
          | none => concluded s t c (justStatus stsVerifyFail) ∧ t.bbram = s.bbram ∧ t.lcs = s.lcs
          | some r => if holdupOk s = false then concluded s t c (withHint stsRetry 1000) ∧ t.lcs = s.lcs
            else t.bbram = { s.bbram with trans := r } ∧ t.lcs.lcCmd = some id ∧ (∃ b, cmdU t id = some { c with input := b }) ∧
              ∀ n, blankWord s = some n → s.lcs.burning = none → s.pwr.mode ≠ .drain →
                t.lcs.burning = some (n, BitVec.ofNat 64 (if r.target = 4 then allOnes else advPattern n)))) ∧
      (cmdOp c = .adm 0x0F21 →
        (s.bbram.lockFlag = false → exec (.unlock id) s = .next (finish id (justStatus stsVerifyFail) s)) ∧
        (∀ b s1, s.bbram.lockFlag = true → readIn c s = some (b, s1) → ∃ t, exec (.unlock id) s = .next t ∧
          if tokenOk (recoveryIn b s1) b then
            concluded s t c (justStatus stsOk) ∧ t.bbram.lockFlag = false ∧ t.bbram.gens = s.bbram.gens ∧
              (Tbl.get {} t.bbram.log s.bbram.logSlot).source = 0x81
          else concluded s t c (justStatus stsVerifyFail) ∧ t.bbram = s.bbram)) ∧
      (cmdOp c = .adm 0x0F22 → mayLock s.pwr.mode = true →
        ∃ t, exec (.zeroize id) s = .next t ∧ t.pwr.mode = .zeroized ∧ t.tmp.tamperOut = true ∧ t.kvt.root = none ∧
          t.mem.keys = false ∧ t.bbram.intSeed = none ∧ t.bbram.ownSeed = none ∧ t.bbram.ownDigest = none ∧
          t.bbram.retRoot = none ∧ ∀ i, i ≠ 0 → (instU t i).st = .absent) ∧
      (∀ b s1, cmdOp c = .adm 0x0F23 → readIn c s = some (b, s1) → ∃ t, exec (.reprovision id) s = .next t ∧
        match openPackage (recoveryIn b s1) b with
        | none => concluded s t c (justStatus stsVerifyFail) ∧ t.bbram = s.bbram
        | some (seed, digest) => t.pwr.mode = .reset ∧ t.pwr.cause = 4 ∧ t.hif.cmds = [] ∧
            ((∀ p ∈ s.kvt.cuts, cmdU s p.1 = none) → t.bbram.gens = s.bbram.gens ∧ t.bbram.journal = s.bbram.journal ∧
              (mayTrim s = false → t.bbram.recs = s.bbram.recs)) ∧
            (s.lcs.st = .integrator → t.bbram.intSeed = some seed) ∧
            (s.lcs.st ≠ .integrator → t.bbram.ownSeed = some seed ∧ t.bbram.ownDigest = some digest))) ∧
    (∀ b s1, cmdOp c = .adm 0x0F30 → readIn c s = some (b, s1) → ∃ t, exec (.bundleStage id) s = .next t ∧
      if candidate s1 b = true ∧ bundleError s1 b = 0 ∧ stageSlot s1 ∈ s.glb.badSlots then
        concluded s t c (justStatus stsFault) ∧
          (if stageSlot s1 = 0 then t.glb.flashB else t.glb.flashA) = (if stageSlot s1 = 0 then s.glb.flashB else s.glb.flashA) ∧
          headerGood (if stageSlot s1 = 0 then t.glb.flashA else t.glb.flashB) = false
      else if candidate s1 b = true ∧ bundleError s1 b = 0 then
        (if stageSlot s1 = 0 then t.glb.flashA else t.glb.flashB) = withSeq b ((s.glb.topSeq + 1) % 2 ^ 32) ∧
          (if stageSlot s1 = 0 then t.glb.flashB else t.glb.flashA) = (if stageSlot s1 = 0 then s.glb.flashB else s.glb.flashA) ∧
          (canAccess s c (pOutA c.pkt) 16 → ∃ o, o.length = 16 ∧ delivered s t c o)
      else concluded s t c (justStatus stsVerifyFail) ∧ t.glb = s.glb) ∧
    (∀ b s1 d, cmdOp c = .adm 0x0F40 → readIn c s = some (b, s1) →
      d = declOf b ((slice c.pkt 42 (byteAt c.pkt 41)).map (·.toNat)) → ∃ t, exec (.extLoad id) s = .next t ∧
      if Config.extVerify (s.bbram.ownDigest.getD []) b = false then
        concluded s t c (justStatus stsVerifyFail) ∧ t.seq = s.seq ∧ t.hub = s.hub
      else if declGood d = false ∨ overlapsExt s d = true then
        concluded s t c (justStatus stsBadParameter) ∧ t.seq = s.seq ∧ t.hub = s.hub
      else concluded s t c (justStatus stsOk) ∧ t.seq.exts = s.seq.exts ++ [d] ∧ t.seq.core = s.seq.core ∧
        t.seq.image = Tbl.setList 0 s.seq.image d.codeAt d.code) ∧
    (cmdOp c = .adm 0x0F41 → ∃ t, exec (.extUnload id) s = .next t ∧ concluded s t c (justStatus stsOk) ∧
      (∀ e, e ∈ t.seq.exts ↔ ∃ d ∈ s.seq.exts, e = { d with unloading := true } ∧
        ∃ x ∈ t.hif.cmds, x.phase ≠ .waiting ∧ d.first ≤ pOp x.pkt ∧ pOp x.pkt ≤ d.last) ∧
      (∀ d ∈ s.seq.exts, ∀ k, k < d.code.length → Tbl.get 0 t.seq.image (d.codeAt + k) = 0) ∧
      t.seq.core = s.seq.core ∧ t.host = s.host) ∧
    (∀ o n d, n < 16 → cmdOp c = .ext o → c.core = some n → extRunning s (pOp c.pkt) (cmdInst c) = some d →
      (coreU s n).st = .vendor → ∃ t, exec (.extensionCommand id) s = .next t ∧ (coreU t n).pc = d.entry ∧
        (coreU t n).extMode = true ∧ (coreU t n).f = 0 ∧ (coreU t n).st = .ext ∧
        getD (coreU t n) 0 = BitVec.ofNat 32 (pOp c.pkt) ∧ getD (coreU t n) 1 = BitVec.ofNat 32 (cmdInst c) ∧
        getD (coreU t n) 2 = BitVec.ofNat 32 (pInL c.pkt) ∧ getD (coreU t n) 3 = BitVec.ofNat 32 (pMax c.pkt) ∧
        (∀ m, m ≠ n → coreU t m = coreU s m) ∧ t.hif.cmds = s.hif.cmds ∧ t.host.mem = s.host.mem)

/-- Where the registers answer: manager firmware gets a free digest engine while instance 0 has a slot and nothing
happens otherwise; a write by another than the owner changes only foreign_write. The owner's DGE_LEN on the register
path arms the unit with everything cleared; during a message it does not. A data word adds its eight bytes in
ascending order, no more than the declared length needs, and sets truncated for the rest; the unit finishes at that
length. DGE_LAST_COUNT adds the low c bytes of the last word and ends the message, short of the length with an
abort. DGE_KEYFEED_GO brings the engine's key to the unit and ends the engine's part. A timeout discards the
message. A finish leaves the comparison of all bytes, or the digest of the message, in the unit, and on the DMA feed
at DGE_DMA_OUT. A release zeroes message, values and key. -/
def Obligations.DigestEngineRegisterCommands : Prop :=
  ∀ (s : State) (u : Fin 16),
    (∀ src, regsAnswer s src →
      exec (.dgeClaim src u) s = .next (if srcOwner src = .manager ∧ dgeFree s u = true ∧ dgeHeld s 0 < (instU s 0).dgeSlots then
        setDge u { dgeU s u with owner := .manager, inst := 0, st := .owned } s else s) ∧
      ((dgeU s u).owner = srcOwner src → ∃ t, exec (.dgeRelease src u) s = .next t ∧ (dgeU t u).owner = .none ∧
        (dgeU t u).st = .idle ∧ (dgeU t u).msg = [] ∧ (dgeU t u).expect = [] ∧ (dgeU t u).result = [] ∧ (dgeU t u).key = none ∧
        (dgeU t u).count = 0 ∧ (dgeU t u).alg = (dgeU s u).alg ∧ (∀ m, m ≠ u.toNat → dgeU t m = dgeU s m) ∧ t.host = s.host ∧
        ((dgeU s u).truncSeen = false → t.hif = s.hif) ∧ t.hif.qps = s.hif.qps ∧ t.hif.inst = s.hif.inst ∧ t.drl = s.drl ∧
        t.kvt = s.kvt ∧ t.bbram = s.bbram ∧ t.ent = s.ent ∧ t.mem = s.mem ∧ t.pwr = s.pwr ∧
        fltU t .dge u = fltLive (fltU s .dge u) ∧ t.hub = s.hub ∧ t.seq = s.seq ∧ t.cvu = s.cvu) ∧
      (∀ v, (dgeU s u).owner ≠ srcOwner src →
        ∀ c ∈ [Instr.dgeLen src u v, .dgeDataWord src u v, .dgeLastCount src u v, .dgeKeyfeedGo src u v],
          exec c s = .next (setDge u { dgeU s u with foreign := true } s)) ∧
      (∀ v, (dgeU s u).owner = srcOwner src →
        ((dgeU s u).st = .absorbing ∨ (dgeU s u).st = .finishing → exec (.dgeLen src u v) s =
          .next (setDge u { dgeU s u with cfgIgnored := (dgeU s u).cfgIgnored || decide ((dgeU s u).len ≠ v.toNat) } s)) ∧
        ((dgeU s u).st ≠ .absorbing → (dgeU s u).st ≠ .finishing → (dgeU s u).source = false →
          ∃ t, exec (.dgeLen src u v) s = .next t ∧ outsideKept s t ∧ t.hub = s.hub ∧ t.seq = s.seq ∧ t.cvu = s.cvu ∧
            (∀ m, m ≠ u.toNat → dgeU t m = dgeU s m) ∧ dgeU t u = { dgeU s u with
              len := v.toNat, equal := false, notEqual := false, truncated := false, timeout := false, dmaError := false,
              short := false, count := 0, msg := [], result := [],
              offloaded := dgeCfgOk (dgeU s u) && (decide (4096 ≤ v.toNat) || (dgeU s u).keyed), done := 0,
              total := if (dgeU s u).keyed then
                  keyedJobs (dgeU s u).alg ((dgeU s u).key.getD []).length [] v.toNat (dgeOutLen (dgeU s u))
                else digestJobs (dgeU s u).alg v.toNat (dgeOutLen (dgeU s u)),
              st := if dgeCfgOk (dgeU s u) = false then .aborted else if v = 0 then .finishing else .absorbing }) ∧
        ((dgeU s u).st = .absorbing → (dgeU s u).source = false →
          ∃ d, exec (.dgeDataWord src u v) s = .next (dgePump u (setDge u d s)) ∧
            d.msg = (dgeU s u).msg ++ (leBytes 4 (dgeU s u).dataLo.toNat ++ leBytes 4 v.toNat).take ((dgeU s u).len - (dgeU s u).count) ∧
            d.count = (dgeU s u).count + min 8 ((dgeU s u).len - (dgeU s u).count) ∧
            (d.truncated = true ↔ (dgeU s u).truncated = true ∨ (dgeU s u).len - (dgeU s u).count < 8) ∧
            (d.st = .finishing ↔ d.count = d.len) ∧ (d.st = .absorbing ↔ d.count ≠ d.len) ∧ d.len = (dgeU s u).len) ∧
        ((dgeU s u).st = .absorbing → (dgeU s u).source = false → srcOwner src = .manager →
          ∃ d, exec (.dgeLastCount src u v) s = .next (if d.st = .aborted then dgeStop u (setDge u d s) else dgePump u (setDge u d s)) ∧
            if (dgeU s u).len ≤ (dgeU s u).count + fld v 0 3 ∧ (dgeU s u).count ≤ (dgeU s u).len then
              d.st = .finishing ∧ d.count = (dgeU s u).len ∧ d.msg = (dgeU s u).msg ++
                (leBytes 4 (dgeU s u).lastLo.toNat ++ leBytes 4 (dgeU s u).lastHi.toNat).take ((dgeU s u).len - (dgeU s u).count)
            else (dgeU s u).count < (dgeU s u).len → d.st = .aborted ∧ d.short = true ∧ d.msg = []))) ∧
    (∀ (k : Fin 16) v kr id, regsAnswer s (.core k) → (dgeU s u).owner = .core k → (dgeU s u).keyed = true → flag v 6 = true →
      (dgeU s u).st ≠ .absorbing → (dgeU s u).st ≠ .finishing → (fltU s .dge u).armed = false →
      (eng s (fld v 0 6)).key = some kr → (eng s (fld v 0 6)).cmd = some id → (coreU s k).cmd = some id →
      ∃ t, exec (.dgeKeyfeedGo (.core k) u v) s = .next t ∧ dgeU t u = { dgeU s u with key := some kr.material, keyMasks := kr.masks, keyOrder := kr.order } ∧
        (eng t (fld v 0 6)).key = none ∧ (eng t (fld v 0 6)).cmd = none ∧ (eng t (fld v 0 6)).busy = false ∧
        t.host.mem = s.host.mem ∧ t.kvt = s.kvt ∧ t.hif.cmds = s.hif.cmds) ∧
    ((dgeU s u).st = .absorbing → (dgeU s u).source = false → (dgeU s u).owner = .manager →
      exec (.dgeTimeoutExpiry u) s = .next (dgeStop u (setDge u { dgeU s u with st := .aborted, timeout := true, msg := [] } s))) ∧
    ((dgeU s u).st ≠ .absorbing ∨ (dgeU s u).source = true → exec (.dgeTimeoutExpiry u) s = .next s) ∧
    ((dgeU s u).st = .finishing → (dgeU s u).offloaded = true → (dgeU s u).done < (dgeU s u).total →
      exec (.dgeFinish u) s = .next s) ∧
    ((dgeU s u).st = .finishing → ((dgeU s u).offloaded = true → (dgeU s u).total ≤ (dgeU s u).done) →
      ((dgeU s u).compare = true → ∃ t, exec (.dgeFinish u) s = .next t ∧ (dgeU t u).st = .done ∧ (dgeU t u).result = [] ∧
        ((dgeU t u).equal = true ↔ fit (dgeOutLen (dgeU s u)) (dgeU s u).expect = dgeValue (dgeU s u)) ∧
        (dgeU t u).notEqual = !(dgeU t u).equal ∧ (dgeU t u).msg = [] ∧ t.host.mem = s.host.mem ∧ t.hif.cmds = s.hif.cmds) ∧
      ((dgeU s u).compare = false → (dgeU s u).source = false → ∃ t, exec (.dgeFinish u) s = .next t ∧
        dgeU t u = { dgeU s u with st := .done, result := dgeValue (dgeU s u), msg := [] } ∧ t.host.mem = s.host.mem ∧
        t.hif.cmds = s.hif.cmds) ∧
      ((dgeU s u).compare = false → (dgeU s u).source = true → (instU s (dgeU s u).inst).logging = false →
        hostOk s (dgeU s u).inst (dgeU s u).dmaOut.toNat (dgeValue (dgeU s u)).length = true →
        ∃ t, exec (.dgeFinish u) s = .next t ∧ (dgeU t u).st = .done ∧
          hostBytes t (dgeU s u).dmaOut.toNat (dgeValue (dgeU s u)).length = dgeValue (dgeU s u) ∧
          ∀ a, a < (dgeU s u).dmaOut.toNat ∨ (dgeU s u).dmaOut.toNat + (dgeValue (dgeU s u)).length ≤ a →
            Tbl.get 0 t.host.mem a = Tbl.get 0 s.host.mem a))

/-- Where the registers answer: manager firmware gets a free unit while instance 0 has a check-value slot, and
nothing happens otherwise; a write by another than the owner changes only foreign_write; a release zeroes the
running value, the result and the configuration. CVU_START begins the scan of an idle unit at the algorithm's
initial value, or with continue at CVU_RUN, and aborts a configuration that is refused. CVU_STOP asks a running scan
to stop; CVU_STOPPED leaves the running value of the bytes processed, CVU_SCAN_DONE the running and the final value
of all of them; a host-memory error aborts. CV_SCAN on host memory delivers the final and the running value, or
compares the final value with the eight bytes at the output address. -/
def Obligations.CheckValueUnitCommands : Prop :=
  ∀ (s : State) (u : Fin 8),
    (∀ src, regsAnswer s src →
      exec (.cvuClaim src u) s = .next (if srcOwner src = .manager ∧ cvuFree s u = true ∧ cvuHeld s 0 < (instU s 0).cvuSlots then
        setCvu u { cvuU s u with owner := .manager, inst := 0, st := .owned } s else s) ∧
      ((cvuU s u).owner ≠ srcOwner src → ∀ c ∈ [Instr.cvuRelease src u, .cvuStart src u, .cvuStop src u],
        exec c s = .next (setCvu u { cvuU s u with foreign := true } s)) ∧
      ((cvuU s u).owner = srcOwner src →
        exec (.cvuRelease src u) s = .next (settleFlt .cvu u (setCvu u { ({} : Cvu) with
          offline := (cvuU s u).offline, inReset := (cvuU s u).inReset, cfgIgnored := (cvuU s u).cfgIgnored,
          foreign := (cvuU s u).foreign } s)) ∧
        ((cvuU s u).st = .running →
          exec (.cvuStart src u) s = .next s ∧
          exec (.cvuStop src u) s = .next (setCvu u { cvuU s u with stopReq := true } s)) ∧
        ((cvuU s u).st ≠ .running → exec (.cvuStop src u) s = .next s ∧
          ∃ d, exec (.cvuStart src u) s = .next (setCvu u d s) ∧ d.bytes = 0 ∧ d.result = 0 ∧ d.dmaError = false ∧
            d.memError = false ∧ d.owner = (cvuU s u).owner ∧
            if cvuCfgOk (cvuU s u) = true then d.st = .running ∧
              d.run.toNat = (if (cvuU s u).cont then (cvuU s u).run.toNat else cvInit (cvuU s u).alg)
            else d.st = .aborted ∧ d.run = (cvuU s u).run))) ∧
    ((cvuU s u).st = .running → (cvuU s u).source = 0 →
      (hostOk s (cvuU s u).inst ((cvuU s u).addr.toNat + (cvuU s u).bytes) ((cvuU s u).len - (cvuU s u).bytes) = true →
        ∃ t, exec (.cvuScanDone u) s = .next t ∧ outsideKept s t ∧ t.seq = s.seq ∧ (∀ m, m ≠ u.toNat → cvuU t m = cvuU s m) ∧
          scanned (hostBytes s ((cvuU s u).addr.toNat + (cvuU s u).bytes) ((cvuU s u).len - (cvuU s u).bytes))
            (cvuU s u) (cvuU t u)) ∧
      (hostOk s (cvuU s u).inst ((cvuU s u).addr.toNat + (cvuU s u).bytes) ((cvuU s u).len - (cvuU s u).bytes) = false →
        (cvuU s u).owner = .manager → (cvuU s u).cmd = none →
        exec (.cvuScanDone u) s = .next (setCvu u { cvuU s u with st := .aborted, dmaError := true, memError := false }
          (aerReport (cvuU s u).inst s))) ∧
      (∀ done, (cvuU s u).stopReq = true → done % 64 = 0 → (cvuU s u).bytes ≤ done → done < (cvuU s u).len →
        hostOk s (cvuU s u).inst ((cvuU s u).addr.toNat + (cvuU s u).bytes) (done - (cvuU s u).bytes) = true →
        ∃ t, exec (.cvuStopped u done) s = .next t ∧ outsideKept s t ∧ t.seq = s.seq ∧
          (∀ m, m ≠ u.toNat → cvuU t m = cvuU s m) ∧ cvuU t u = { cvuU s u with
            st := .stopped, bytes := done, stopReq := false
            run := BitVec.ofNat 64 (cvRun (cvuU s u).alg (cvuU s u).run.toNat
              (hostBytes s ((cvuU s u).addr.toNat + (cvuU s u).bytes) (done - (cvuU s u).bytes))) })) ∧
    ((cvuU s u).st = .running → (cvuU s u).source = 1 → regionReady s 0 = true → (fltU s .mem 0).armed = false → s.mem.poison = [] →
      (cvuU s u).addr.toNat + (cvuU s u).len ≤ (pagesOfInst s (cvuU s u).inst).length * 0x100000 →
      (cvuU s u).bytes ≤ (cvuU s u).len → ∃ t, exec (.cvuScanDone u) s = .next t ∧ t.host.mem = s.host.mem ∧
        scanned (pannierBytes s (cvuU s u).inst ((cvuU s u).addr.toNat + (cvuU s u).bytes) ((cvuU s u).len - (cvuU s u).bytes))
          (cvuU s u) (cvuU t u)) ∧
    ((cvuU s u).st ≠ .running → exec (.cvuScanDone u) s = .next s ∧ ∀ done, exec (.cvuStopped u done) s = .next s) ∧
    (∀ (id : Nat) (c : Cmd) (m : Bytes) (r : Nat), cmdReady s id c → cmdOp c = .cv → (byteAt c.pkt 41).testBit 0 = false →
      m = hostBytes s (pInA c.pkt) (pInL c.pkt) →
      r = cvRun (byteAt c.pkt 40) (if (byteAt c.pkt 41).testBit 4 then leAt c.pkt 48 8 else cvInit (byteAt c.pkt 40)) m →
      (hostOk s (cvuU s c.unit).inst (pInA c.pkt) (pInL c.pkt) = true → canAccess s c (pOutA c.pkt) 16 →
        (byteAt c.pkt 41).testBit 1 = false →
        ∃ t, exec (.cvScan id) s = .next t ∧ dataFrame s t ∧ t.hub = s.hub ∧ t.dge = s.dge ∧
          delivered s t c (leBytes 8 (cvFinal (byteAt c.pkt 40) r
            (guardBytes (bitsOf (byteAt c.pkt 41) 2 2) (bitsOf (byteAt c.pkt 42) 0 4) (leAt c.pkt 56 8) (leAt c.pkt 44 4))) ++
            leBytes 8 r)) ∧
      (hostOk s (cvuU s c.unit).inst (pInA c.pkt) (pInL c.pkt) = true → c.port ≠ 256 → hostOk s c.port (pOutA c.pkt) 8 = true →
        (byteAt c.pkt 41).testBit 1 = true →
        ∃ t, exec (.cvScan id) s = .next t ∧ dataFrame s t ∧ t.host.mem = s.host.mem ∧
          concluded s t c (justStatus (if hostBytes s (pOutA c.pkt) 8 = leBytes 8 (cvFinal (byteAt c.pkt 40) r
            (guardBytes (bitsOf (byteAt c.pkt 41) 2 2) (bitsOf (byteAt c.pkt 42) 0 4) (leAt c.pkt 56 8) (leAt c.pkt 44 4)))
            then stsOk else stsNotEqual))) ∧
      (hostOk s (cvuU s c.unit).inst (pInA c.pkt) (pInL c.pkt) = false → ∃ t, exec (.cvScan id) s = .next t ∧
        t.host.mem = s.host.mem ∧ (cvuU s c.unit).inst ∈ t.host.aer ∧ concluded s t c (justStatus stsDmaError)))

/-- An offline request takes an idle engine out at once, one reserved for a forming gang too, and a busy one at its
boundary; withdrawn, the engine is back. An idle group is gated in SERVICE, or where a command waits for room under
the power cap, but not while every noise source has failed: its four engines keep nothing but whether they are
withdrawn. A wake under demand, where a seed can be had and the cap has room for 50 units more, powers the group:
each engine waits for a seed. An engine is ready once it is seeded. A block reset ends in the engine's test, with a
fresh core, or a free unit; a passed test returns the engine, a failed one keeps it out. At 983,040 blocks a
generator asks for a seed and the reserve is not touched; at 2^20 without one it halts, and the command of its
engine ends where its order is 1 or above; a seed is absorbed into its states and restarts it at 0 blocks. A
hash-array core that completes its job takes the next one. Where the condition of a row does not hold, nothing
changes. -/
def Obligations.EngineAdministrationAndHashJobs : Prop :=
  ∀ (s : State),
    (∀ (e : Fin 64) on, fltOpen s.pwr.mode = true → s.pwr.mode ≠ .boot → on = false ∨ (eng s e).reservedBy = none →
      exec (.offlineReq e on) s =
      .next (setEng e { eng s e with offlineReq := on, offline := on && ((eng s e).offline || engIdle (eng s e)) } s)) ∧
    (∀ (e : Fin 64), fltOpen s.pwr.mode = true → s.pwr.mode ≠ .boot → (eng s e).reservedBy ≠ none → (eng s e).busy = false →
      ∃ t, exec (.offlineReq e true) s = .next t ∧ (eng t e).reservedBy = none ∧ (eng t e).offlineReq = true ∧
        ((eng t e).offline = true ↔ (eng s e).offline = true ∨ (eng s e).cmd = none ∧ (eng s e).lend = false) ∧
        (∀ m, m ≠ e.val → eng t m = eng s m) ∧ t.hif = s.hif ∧ t.host = s.host) ∧
    (∀ (g : Fin 16), s.pwr.mode = .service ∧ s.drl.idleGate ≠ 0 ∨
        (s.pwr.mode = .service ∨ s.pwr.mode = .surge ∨ s.pwr.mode = .test) ∧ capBlocked s = true → allFailed s = false → g.val ∈ s.pwr.groups →
      (∀ i, i < 4 → engIdle (eng s (4 * g.val + i)) = true) → ∃ t, exec (.engineGroupGate g) s = .next t ∧
        t.pwr = { s.pwr with groups := s.pwr.groups.filter (· != g.val) } ∧
        (∀ i, i < 4 → eng t (4 * g.val + i) = { ({} : Engine) with
          offline := (eng s (4 * g.val + i)).offline, offlineReq := (eng s (4 * g.val + i)).offlineReq,
          heldByFault := (eng s (4 * g.val + i)).heldByFault, inReset := (eng s (4 * g.val + i)).inReset,
          testing := (eng s (4 * g.val + i)).testing, failedTest := (eng s (4 * g.val + i)).failedTest }) ∧
        (∀ m, m / 4 ≠ g.val → eng t m = eng s m) ∧ t.hif = s.hif ∧ t.host = s.host ∧ t.seq = s.seq ∧ t.dge = s.dge ∧
        t.cvu = s.cvu ∧ t.kvt = s.kvt ∧ t.drl = s.drl) ∧
    (∀ (g : Fin 16), (s.pwr.mode ≠ .service ∨ s.drl.idleGate = 0) ∧ capBlocked s = false ∨ allFailed s = true ∨
        g.val ∉ s.pwr.groups → exec (.engineGroupGate g) s = .next s) ∧
    (∀ (g : Fin 16), s.pwr.mode = .service ∨ s.pwr.mode = .surge → groupDemand s = true → g.val ∉ s.pwr.groups →
      canSeed s = true → pRes s + 50 ≤ capNow s → (∀ i, i < 4 → (fltU s .hub (4 * g.val + i)).armed = false) →
      (fltU s .mem 0).armed = false →
      ∃ t, exec (.engineGroupWake g) s = .next t ∧ t.pwr.groups = g.val :: s.pwr.groups ∧
        (∀ i, i < 4 → (eng t (4 * g.val + i)).kimg = s.hub.kmem ∧ (eng t (4 * g.val + i)).mg = { ({} : Mg) with reseedReq := true } ∧
          (4 * g.val + i ∈ t.ent.seedFly ∨ 4 * g.val + i ∈ t.ent.seedQ)) ∧
        (∀ m, m / 4 ≠ g.val → eng t m = eng s m) ∧ t.hif = s.hif ∧ t.host = s.host ∧ t.kvt = s.kvt ∧ t.ent.drbg = s.ent.drbg) ∧
    (∀ (g : Fin 16), s.pwr.mode = .service → groupDemand s = false ∨ g.val ∈ s.pwr.groups ∨ canSeed s = false ∨
      capNow s < pRes s + 50 → exec (.engineGroupWake g) s = .next s) ∧
    (∀ (e : Fin 64), exec (.engineReady e) s = .next (if e.val / 4 ∈ s.pwr.groups ∧ (eng s e).mg.seeded = true then
      setEng e { eng s e with powered := true } s else s)) ∧
    (∀ (e : Fin 64), (eng s e).inReset = true → s.hub.patch.loaded = false ∨ ((fltU s .hub e).armed = false ∧ (fltU s .mem 0).armed = false) → exec (.blockResetEnd .hub e) s =
      .next (setEng e { eng s e with inReset := false, testing := true } s)) ∧
    (∀ n, (coreU s n).st = .blockReset → exec (.blockResetEnd .seq n) s =
      .next (setCore n { ({} : Core) with prog := s.seq.image, offline := (coreU s n).offline } s)) ∧
    (∀ n, (dgeU s n).inReset = true → exec (.blockResetEnd .dge n) s = .next (setDge n { dgeU s n with inReset := false } s)) ∧
    (∀ n, (cvuU s n).inReset = true → exec (.blockResetEnd .cvu n) s = .next (setCvu n { cvuU s n with inReset := false } s)) ∧
    (∀ (e : Fin 64) pass, exec (.engineTestEnd e pass) s = .next (if (eng s e).testing = true then
      setEng e { eng s e with testing := false, failedTest := (eng s e).failedTest || !pass } s else s)) ∧
    (∀ (e : Fin 64), (eng s e).powered = true → (eng s e).mg.seeded = true → (eng s e).mg.reseedReq = false →
      ∃ t, exec (.mgReseedRequest e) s = .next t ∧ 983040 ≤ (eng t e).mg.blocks ∧ (eng s e).mg.blocks ≤ (eng t e).mg.blocks ∧
        (eng t e).mg.reseedReq = true ∧ (eng t e).mg.halted = (eng s e).mg.halted ∧
        (e.val ∈ t.ent.seedFly ∨ e.val ∈ t.ent.seedQ) ∧ t.ent.reserve = s.ent.reserve ∧ (∀ m, m ≠ e.val → eng t m = eng s m) ∧
        t.hif = s.hif) ∧
    (∀ (e : Fin 64), (eng s e).powered = true → (eng s e).mg.reseedReq = true → (eng s e).mg.halted = false →
      (eng s e).lend = false → (eng s e).reservedBy = none →
      ((eng s e).cmd = none ∨ (∃ id c, (eng s e).cmd = some id ∧ cmdU s id = some c ∧ c.order = 0) → exec (.mgHalt e) s =
        .next (setEng e { eng s e with mg := { (eng s e).mg with blocks := 2 ^ 20, halted := true } } s)) ∧
      (∀ id c, (eng s e).cmd = some id → cmdU s id = some c → 0 < c.order →
        ∃ t, exec (.mgHalt e) s = .next t ∧ cmdU t id = none)) ∧
    (∀ (e : Fin 64), (eng s e).powered = false ∨ (eng s e).mg.reseedReq = false ∨ (eng s e).mg.halted = true →
      exec (.mgHalt e) s = .next s) ∧
    (∀ (e : Fin 64), e.val ∈ s.ent.seedFly → ∃ t, exec (.mgSeedArrival e) s = .next t ∧
      (eng t e).mg = { ({} : Mg) with
        states := mgAbsorb (eng s e).mg (freeBytes 32 s).1, seeded := true } ∧
      e.val ∉ t.ent.seedFly ∧ (∀ m, m ≠ e.val → eng t m = eng s m) ∧ t.ent.seedQ = s.ent.seedQ ∧ t.hif.cmds = s.hif.cmds) ∧
    (∀ (e : Fin 64), e.val ∉ s.ent.seedFly → exec (.mgSeedArrival e) s = .next s) ∧
    (∀ (g : Fin 16) (core : Fin 32), (Tbl.get none (hsaU s g).run core = none → exec (.hashJobComplete g core) s = .next s) ∧
      (∀ j, Tbl.get none (hsaU s g).run core = some j → jobStalls s g j = true → exec (.hashJobComplete g core) s = .next s) ∧
      (∀ j, Tbl.get none (hsaU s g).run core = some j → j.who < 4 → jobStalls s g j = false → ∃ t, exec (.hashJobComplete g core) s = .next t ∧
        hsaU t g = hsaFill (hsaTake core { hsaU s g with run := Tbl.set none (hsaU s g).run core none }) ∧
        (∀ m, m ≠ g.val → hsaU t m = hsaU s m) ∧ outsideKept s t ∧ t.hub = s.hub ∧ t.seq = s.seq ∧ t.dge = s.dge))

/-- A scrub read of the next line moves on by one line: clean, it changes nothing else in memory; corrected, it adds
one to the correction count of the line's pseudo-channel, which saturates; uncorrectable in a region of class
CONTAINED, it poisons the line. A sparing copy ends with its remap. MEM takes its keys once in BOOT, 96 bytes of the
ENT_DATA FIFO, and waits while fewer are there. Regions complete in order, and a command whose region is not
initialised waits. Reading a correction count clears it. A counter at 2^48 - 1 goes to 0 with ovf set, and adds one
to the next where it is chained. Clearing a sampling buffer empties it; writing the index copies the slot's entry. A
register write obeys the field: a virtual function reaches its port page alone, a write that is not aligned is
discarded, a read-only block takes none, the power cap is held between 15 and 45 W, a W1C bit is cleared by 1. -/
def Obligations.MemoryCounterAndRegisterRows : Prop :=
  ∀ (s : State),
    (∀ line errs, line = s.mem.scrubPos → line < 2 ^ 31 → s.mem.scrubEn = true → s.mem.keys = true →
      (s.pwr.mode = .service ∨ s.pwr.mode = .surge ∨ s.pwr.mode = .drain) → regionReady s (regionOf (line * 64)) = true →
      (fltU s .mem 0).armed = false → line ∉ s.mem.poison → ∃ t, exec (.patrolScrubRead line errs) s = .next t ∧
        (lineSeen s line errs = .clean → outsideButMem s t ∧ t.kvt = s.kvt ∧ t.flt = s.flt ∧ t.mem = { s.mem with scrubPos := (line + 1) % 2 ^ 31 }) ∧
        (lineSeen s line errs = .corrected → outsideButMem s t ∧ t.kvt = s.kvt ∧ t.mem.poison = s.mem.poison ∧
          t.mem.scrubPos = (line + 1) % 2 ^ 31 ∧
          Tbl.get 0 t.mem.ceCount (pseudoChannel (line * 64)) =
            min 0xFFFF (Tbl.get 0 s.mem.ceCount (pseudoChannel (line * 64)) + 1) ∧
          (fltU t .mem 0).corrCount = min 0xFF ((fltU s .mem 0).corrCount + 1)) ∧
        (lineSeen s line errs = .badEcc ∨ lineSeen s line errs = .badFix → regionClass (regionOf (line * 64)) = 1 → s.mem.poison.length < 4096 →
          outsideButMem s t ∧ line ∈ t.mem.poison ∧ t.mem.scrubPos = (line + 1) % 2 ^ 31 ∧ (fltU t .mem 0).classBits.testBit 1 = true)) ∧
    (∀ line errs, s.mem.scrubEn = false ∨ line ≠ s.mem.scrubPos → exec (.patrolScrubRead line errs) s = .next s) ∧
    (∀ c, s.mem.copying = some c → exec (.sparingCopyEnd c.seg) s =
      .next { s with mem := { s.mem with copying := none, remaps := s.mem.remaps ++ [(c.seg, c.spare)] } }) ∧
    (∀ seg, s.mem.copying = none → exec (.sparingCopyEnd seg) s = .next s) ∧
    (s.pwr.mode = .boot → s.mem.keys = false → s.glb.memDrawn = false → s.pwr.dramRails = true → s.pwr.fabLock = true →
      entReady s = true → 96 ≤ s.ent.fifo.length → exec .memKeyLoad s = .next { s with
        mem := { s.mem with keys := true, keyVal := s.ent.fifo.take 96 }, glb := { s.glb with memDrawn := true },
        ent := { s.ent with fifo := s.ent.fifo.drop 96 }, pwr := { s.pwr with dramLock := true } }) ∧
    (s.pwr.mode ≠ .boot ∨ s.mem.keys = true ∨ s.ent.fifo.length < 96 → exec .memKeyLoad s = .next s) ∧
    (∀ (r : Fin 7), exec (.memRegionInitDone r) s = .next (if s.mem.keys = true ∧ s.mem.initDone = 2 ^ r.val - 1 then
      { s with mem := { s.mem with initDone := 2 ^ (r.val + 1) - 1 } } else s)) ∧
    (∀ src (p : Fin 64), regsAnswer s src → exec (.memCeCntRead src p) s =
      .next { s with mem := { s.mem with ceCount := Tbl.set 0 s.mem.ceCount p 0 } }) ∧
    (∀ (id : Nat) (c : Cmd), cmdU s id = some c → storeReady s c = false →
      ∀ i ∈ [Instr.keyGenerate id, .keyImport id, .keyReplace id, .keyLoad id, .keyAgreeStore id, .sfsKeygen id, .cvScan id,
        .instExport id, .instImport id], exec i s = .next s) ∧
    (∀ b unit k, (cntU s b unit k).val = 2 ^ 48 - 1 → (cntU s b unit k).en = true → cntLive s b unit k = true →
      (cntU s b unit k).ovfInt = false → k < bankSize b →
      ((cntU s b unit k).chain = false → exec (.counterWrap b unit k) s =
        .next (setCnt b unit k { cntU s b unit k with val := 0, ovf := true } s)) ∧
      ((cntU s b unit k).chain = true → mayChain b k = true → (cntU s b unit (k + 1)).en = true →
        cntLive s b unit (k + 1) = true → (cntU s b unit (k + 1)).val < 2 ^ 48 - 1 → unit < 256 → k < 15 →
        ∃ t, exec (.counterWrap b unit k) s = .next t ∧ cntU t b unit k = { cntU s b unit k with val := 0, ovf := true } ∧
          (cntU t b unit (k + 1)).val = (cntU s b unit (k + 1)).val + 1 ∧ outsideKept s t)) ∧
    (∀ b unit k, (cntU s b unit k).val ≠ 2 ^ 48 - 1 → exec (.counterWrap b unit k) s = .next s) ∧
    (∀ src (n : Fin 80) (slot : BitVec 8), regsAnswer s src →
      exec (.cadSampClear src n) s =
        .next (setBuf n { bufU s n with entries := [], head := 0, count := 0, lost := 0, gap := false } s) ∧
      exec (.cadSampIdx src n slot) s = .next { s with cad := { s.cad with
        idx := Tbl.set 0 s.cad.idx n slot.toNat
        out := Tbl.set {} s.cad.out n (Tbl.get {} (bufU s n).entries slot.toNat) } }) ∧
    (s.pwr.mode ≠ .freewheel → ∀ (fn : Fin 256) off v, fn ≠ 0 → exec (.registerWrite (.host fn) off v) s =
      .next (if portsOpen s = true ∧ off < 0x10000 then portWrite fn off v s else s)) ∧
    (∀ src v, regsAnswer s src → (∀ fn : Fin 256, fn ≠ 0 → src ≠ .host fn) →
      (∀ off, off % 4 ≠ 0 → exec (.registerWrite src off v) s = .next s) ∧
      exec (.registerWrite src 0x200000 v) s = .next s ∧
      exec (.registerWrite src 0x10000C v) s = .next { s with pwr := { s.pwr with capW := max 15 (min 45 (fld v 0 6)) } } ∧
      exec (.registerWrite src 0x100004 v) s =
        .next { s with pwr := { s.pwr with cfgIgnored := s.pwr.cfgIgnored && !flag v 7 } })

/-- A failed source stays failed; where it was active the lowest-numbered spare takes its place and source_switched
is set. Settling sources go on to their test; at start-up the two lowest-numbered passing sources become active, the
other passing ones spares, the rest failed. A released block goes, in this order, to the first instantiation (two
blocks), a waiting seed, the reserve up to 64, a prediction-resistant draw, a DRBG that is due; none is released
without an active source or in a test setting. A DRBG due for its reseed stops when told to. A fill completes the
queue of 65,536 bytes or the FIFO of 256. A read of ENT_DATA takes three bytes or sets its error bit. A retest sends
every failed source through settling, and its end restores what passes. ENT_TEST and its pattern act in TEST alone.
ENT_WAIT ends a command that finds no DRBG. -/
def Obligations.EntropyRows : Prop :=
  ∀ (s : State),
    (∀ (x : Fin 8) apt, (s.ent.running = true → ((srcU s x).st = .active ∨ (srcU s x).st = .spare) →
        mayFail s x apt = true → ∃ t, exec (.healthTestFail x apt) s = .next t ∧ entFrame s t ∧ srcU t x = { srcU s x with
            st := .failed, rctFail := (srcU s x).rctFail || !apt, aptFail := (srcU s x).aptFail || apt } ∧
          (∀ n l, (srcU s x).st = .active → (srcsIn s .active).length ≤ 2 → srcsIn s .spare = n :: l →
            (srcU t n).st = .active ∧ t.ent.switched = true) ∧
          (srcsIn s .spare = [] → t.ent.switched = s.ent.switched ∧ ∀ m, m ≠ x.val → srcU t m = srcU s m)) ∧
      (s.ent.running = false ∨ ((srcU s x).st ≠ .active ∧ (srcU s x).st ≠ .spare) ∨ mayFail s x apt = false → exec (.healthTestFail x apt) s = .next s)) ∧
    (∃ t, exec .sourceSettleEnd s = .next t ∧ entFrame s t ∧ ∀ n, n < 8 →
      srcU t n = if (srcU s n).st = .settling then { srcU s n with st := .testing } else srcU s n) ∧
    (∀ pass rct, s.ent.running = true → s.ent.startupDone = false → s.ent.testActive = false → (∀ n, n < 8 → (srcU s n).st = .testing) →
      ∃ t, exec (.startupTestEnd pass rct) s = .next t ∧ entFrame s t ∧ t.ent.startupDone = true ∧ ∀ n, n < 8 →
        (srcU t n).st = (if pass.getLsbD n then
          (if ((List.range n).filter (fun k => pass.getLsbD k)).length < 2 then .active else .spare) else .failed) ∧
        (srcU t n).rctFail = (!pass.getLsbD n && rct.getLsbD n) ∧ (srcU t n).aptFail = (!pass.getLsbD n && !rct.getLsbD n)) ∧
    (∀ pass rct, s.ent.startupDone = true → exec (.startupTestEnd pass rct) s = .next s) ∧
    (s.ent.startupDone = true → allFailed s = false → s.ent.testActive = false →
      ∃ t, exec .conditionerBlockRelease s = .next t ∧ entFrame s t ∧
        ((∀ n, n < 64 → drbgWants s n = true) →
          ((drbgU s 0).inst = false → s.ent.firstPart = 0 → t.ent = { s.ent with firstPart := 1, firstBlock := (freeBytes 32 s).1 }) ∧
          (s.ent.firstPart ≠ 0 → (drbgU s 0).inst = false → (drbgU t 0).inst = true ∧ (drbgU t 0).reqs = 0 ∧
            (drbgU t 0).mustReseed = false ∧ t.ent.firstPart = 0 ∧ t.ent.queueOn = true)) ∧
        (∀ k, k < 64 → drbgWants s k = false →
          (∀ e q, s.ent.seedQ = e :: q → t.ent = { s.ent with seedQ := q, seedFly := s.ent.seedFly ++ [e] }) ∧
          (s.ent.seedQ = [] → s.ent.reserve < 64 → t.ent = { s.ent with reserve := s.ent.reserve + 1 }) ∧
          (∀ c q, s.ent.seedQ = [] → 64 ≤ s.ent.reserve → s.ent.prQ = c :: q →
            t.ent = { s.ent with prQ := q, prDone := s.ent.prDone ++ [c] }) ∧
          (∀ n, s.ent.seedQ = [] → 64 ≤ s.ent.reserve → s.ent.prQ = [] → (∀ m, m < 64 → drbgWants s m = false) →
            n < 64 → (drbgU s n).reseedDue = true → (∀ m, m < n → (drbgU s m).reseedDue = false) →
            drbgU t n = seeded (drbgReseed (freeBytes 32 s).1 ((drbgU s n).key, (drbgU s n).v)) (drbgU s n) ∧
            ∀ m, m ≠ n → drbgU t m = drbgU s m))) ∧
    (s.ent.startupDone = false ∨ allFailed s = true ∨ s.ent.testActive = true → exec .conditionerBlockRelease s = .next s) ∧
    (∀ (n : Fin 64), (drbgU s n).inst = true →
      exec (.drbgReseedDue n) s = .next (setDrbg n { drbgU s n with reseedDue := true } s) ∧
      exec (.drbgStop n) s = .next (if (drbgU s n).reseedDue = true then setDrbg n { drbgU s n with stopped := true } s else s)) ∧
    (∀ (n : Fin 64), s.ent.queueOn = true → drawUnit s = some n.val →
      (s.ent.fifo.length < 256 → ∃ t, exec (.randomQueueFill n true) s = .next t ∧ entFrame s t ∧ t.ent.fifo.length = 256 ∧
        t.ent.fifo.take s.ent.fifo.length = s.ent.fifo ∧ t.ent.queue = s.ent.queue ∧ (drbgU t n).reqs = (drbgU s n).reqs + 1) ∧
      (s.ent.queue.length < 65536 → ∃ t, exec (.randomQueueFill n false) s = .next t ∧ entFrame s t ∧
        t.ent.queue.length = 65536 ∧ t.ent.queue.take s.ent.queue.length = s.ent.queue ∧ t.ent.fifo = s.ent.fifo)) ∧
    (∀ (n : Fin 64) f, s.ent.queueOn = false → exec (.randomQueueFill n f) s = .next s) ∧
    (∀ src, regsAnswer s src → s.ent.testActive = false → exec (.entDataRead src) s = .next { s with ent :=
      if 3 ≤ s.ent.fifo.length then { s.ent with fifo := s.ent.fifo.drop 3 } else { s.ent with entErr := true } }) ∧
    (∀ src, regsAnswer s src → s.ent.running = true → s.ent.retesting = false → srcsIn s .failed ≠ [] →
      ∃ t, exec (.retest src) s = .next t ∧ entFrame s t ∧ t.ent.retesting = true ∧ ∀ n, n < 8 →
        srcU t n = if (srcU s n).st = .failed then { srcU s n with st := .settling, retest := true } else srcU s n) ∧
    (∀ src, regsAnswer s src → s.ent.retesting = true ∨ srcsIn s .failed = [] → exec (.retest src) s = .next s) ∧
    (∀ pass rct n, s.ent.retesting = true → n < 8 → (srcU s n).st = .testing → (srcU s n).retest = true →
      ∃ t, exec (.retestEnd pass rct) s = .next t ∧ entFrame s t ∧ t.ent.retesting = false ∧ (srcU t n).retest = false ∧
        (pass.getLsbD n = true → ((srcU t n).st = .active ∨ (srcU t n).st = .spare) ∧ (srcU t n).rctFail = false ∧
          (srcU t n).aptFail = false) ∧
        (pass.getLsbD n = false → mayFail s n (!rct.getLsbD n) = true → (srcU t n).st = .failed)) ∧
    (∀ src v, regsAnswer s src →
      (s.pwr.mode = .test →
        (∃ t, exec (.entTest src v) s = .next t ∧ entFrame s t ∧ t.ent.tstSource = fld v 0 3 ∧ t.ent.tstSubst = flag v 3 ∧
          t.ent.tstRaw = flag v 4 ∧ (t.ent.testActive = true ↔ s.ent.testActive = true ∨ flag v 3 = true ∨ flag v 4 = true) ∧
          (s.ent.testActive = false → t.ent.testActive = true → t.ent.queue = [] ∧ t.ent.fifo = [] ∧ t.ent.queueOn = false)) ∧
        exec (.entTestPattern src v) s =
          .next { s with ent := { s.ent with pattern := (s.ent.pattern ++ leBytes 4 v.toNat).take 4096 } }) ∧
      (s.pwr.mode ≠ .test → exec (.entTest src v) s = .next { s with ent := { s.ent with testDenied := true } } ∧
        exec (.entTestPattern src v) s = .next { s with ent := { s.ent with testDenied := true } })) ∧
    (∀ id c, cmdU s id = some c → c.phase = .running →
      exec (.entWaitExpiry id) s = .next (if drawWaits s c = true then entropyFail c s else s))

/-- Where a set answers: an injection is armed on an injectable checker in a mode that allows it and with a count of
1 to 255, and ignored with cfg_ignored otherwise; disarm ends it. An acknowledgement whose seq differs changes
nothing; code 1 clears pending and returns what was held, code 2 clears it and keeps the engine held, code 3 and the
expiry of the timer escalate: with no action configured the set records it, with action 1 an engine is held offline,
with action 2 the device is LOCKED. A continuous checker's error makes its record. An armed tamper source sets its
alarm bit; class LOG changes no mode, class ERASE erases the keys and enters ZEROIZED, LOCK sets the lock flag and
enters LOCKED, and every class but LOG makes TAMPER_OUT_N low. Sealing and fuse burns are logged; a burn sets its
bits. The loss of BBRAM leaves one log entry and the reset values of the always-on bank. -/
def Obligations.FaultAndTamperRows : Prop :=
  ∀ (s : State),
    (∀ src b unit v, s.pwr.mode ≠ .freewheel → fltHere s src b unit = true → (fltU s b unit).pending = false →
      (flag v 17 = true → flag v 19 = false → (fltU s b unit).armed = false → exec (.fltInjectArm src b unit v) s =
        .next (setFlt b unit (if fld v 8 8 ≠ 0 ∧ armMode s.pwr.mode (injectable b (fld v 0 8)) = true then
            { fltU s b unit with
              iChecker := fld v 0 8, iCount := fld v 8 8, iMode := fld v 16 1, armed := true, iLeft := fld v 8 8 }
          else { fltU s b unit with
            iChecker := fld v 0 8, iCount := fld v 8 8, iMode := fld v 16 1, cfgIgnored := true }) s)) ∧
      (flag v 19 = true → flag v 17 = false → exec (.fltInjectDisarm src b unit v) s =
        .next (setFlt b unit { fltU s b unit with
          iChecker := fld v 0 8, iCount := fld v 8 8, iMode := fld v 16 1, armed := false, iLeft := 0 } s))) ∧
    (∀ src b unit v, s.pwr.mode ≠ .freewheel → fltHere s src b unit = true →
      (fld v 8 8 ≠ (fltU s b unit).seq → ∀ c ∈ [Instr.reactAckHandled src b unit v, .reactAckKeepOffline src b unit v,
        .reactAckEscalate src b unit v], exec c s = .next s) ∧
      (fld v 8 8 = (fltU s b unit).seq →
        (fld v 0 2 = 1 → ∃ t, exec (.reactAckHandled src b unit v) s = .next t ∧ (fltU t b unit).pending = false ∧
          (fltU t b unit).pend = [] ∧ (fltU t b unit).held = [] ∧ (fltU t b unit).heldBySw = [] ∧
          (fltU t b unit).seq = (fltU s b unit).seq ∧
          ((fltU t b unit).ackLate = true ↔
            (fltU s b unit).ackLate = true ∨ ((fltU s b unit).pending = false ∧ (fltU s b unit).expired = true)) ∧
          (b = .hub → 0 ∈ (fltU s b unit).held → (eng t unit).heldByFault = false) ∧ t.hif = s.hif ∧ t.pwr = s.pwr) ∧
        (fld v 0 2 = 2 → ∃ t, exec (.reactAckKeepOffline src b unit v) s = .next t ∧ (fltU t b unit).pending = false ∧
          (fltU t b unit).pend = [] ∧ (fltU t b unit).held = [] ∧
          (b = .hub → (∃ x ∈ (fltU s b unit).pend, x.2.1 = 0) → (eng t unit).heldByFault = true ∧ 0 ∈ (fltU t b unit).heldBySw) ∧
          t.hif = s.hif ∧ t.pwr = s.pwr) ∧
        (fld v 0 2 = 3 → (fltU s b unit).pending = true →
          exec (.reactAckEscalate src b unit v) s = exec (.reactionTimerExpiry b unit) s))) ∧
    (∀ b unit, ((fltU s b unit).pending = false → exec (.reactionTimerExpiry b unit) s = .next s) ∧
      ((fltU s b unit).pending = true →
        ((∀ x ∈ (fltU s b unit).pend, x.2.2 = true → classAction (fltU s b unit) x.1 = 0) →
          ∃ t, exec (.reactionTimerExpiry b unit) s = .next t ∧ fltU t b unit = { fltU s b unit with
            pending := false, pend := [], timerEnd := none, escalated := true, expired := true
            held := uniq (fltU s b unit).held } ∧ t.pwr = s.pwr ∧ t.hub = s.hub ∧ t.hif.cmds = s.hif.cmds) ∧
        (b = .hub → (∀ x ∈ (fltU s b unit).pend, x.2.2 = true → classAction (fltU s b unit) x.1 ≤ 1) →
          (∃ x ∈ (fltU s b unit).pend, x.2.2 = true ∧ classAction (fltU s b unit) x.1 = 1 ∧ x.2.1 = 0) →
          ∃ t, exec (.reactionTimerExpiry b unit) s = .next t ∧ (eng t unit).heldByFault = true ∧
            0 ∈ (fltU t b unit).held ∧ (fltU t b unit).escalated = true ∧ t.pwr = s.pwr) ∧
        (mayLock s.pwr.mode = true → (∀ x ∈ (fltU s b unit).pend, x.2.2 = true → classAction (fltU s b unit) x.1 ≤ 2) →
          (∃ x ∈ (fltU s b unit).pend, x.2.2 = true ∧ classAction (fltU s b unit) x.1 = 2) →
          ∃ t, exec (.reactionTimerExpiry b unit) s = .next t ∧ t.pwr.mode = .locked))) ∧
    (∀ b unit checker sub, contChecker b checker sub = none → ∀ real, exec (.continuousCheckerError b unit checker sub real) s = .next s) ∧
    (fltOpen s.pwr.mode = true → (fltU s .glb 0).armed = false → ∃ t, exec (.continuousCheckerError .glb 0 0 0 true) s = .next t ∧
      (fltU t .glb 0).classBits.testBit 3 = true ∧ (fltU t .glb 0).pending = true ∧
      (fltU t .glb 0).seq = ((fltU s .glb 0).seq + 1) % 256 ∧ t.pins.faultLatch = true ∧
      (mayLock s.pwr.mode = true → t.pwr.mode = .locked)) ∧
    (∀ unit, unit < 8 → fltOpen s.pwr.mode = true → (fltU s .cvu unit).armed = false → (cvuU s unit).owner ≠ .none →
      (cvuU s unit).cmd = none → ∃ t, exec (.continuousCheckerError .cvu unit 0 0 true) s = .next t ∧
        (fltU t .cvu unit).classBits.testBit 1 = true ∧ (fltU t .cvu unit).pending = true ∧ t.pwr = s.pwr ∧ t.cvu = s.cvu) ∧
    (∀ (n : Fin 13) detail, (tamperArmed s n = false → exec (.tamperAlarm n detail) s = .next s) ∧
      (tamperArmed s n = true → n ≠ 2 → n ≠ 3 → ∃ t, exec (.tamperAlarm n detail) s = .next t ∧ t.tmp.alarm.testBit n = true ∧
        (Tbl.get {} t.bbram.log s.bbram.logSlot).source = n.val ∧
        (tamperClass s n = 0 → t.pwr.mode = s.pwr.mode ∧ t.hif.cmds = s.hif.cmds ∧ t.kvt = s.kvt ∧ t.tmp.tamperOut = s.tmp.tamperOut ∧
          t.bbram.lockFlag = s.bbram.lockFlag ∧ t.host.mem = s.host.mem) ∧
        (tamperClass s n ≠ 0 → t.tmp.tamperOut = true ∧ tamperOutN t = true) ∧
        (tamperClass s n % 2 = 1 → t.bbram.intSeed = none ∧ t.bbram.ownSeed = none ∧ t.bbram.ownDigest = none ∧
          t.bbram.retRoot = none ∧ (s.pwr.mode ≠ .watch → t.kvt.root = none ∧ t.mem.keys = false)) ∧
        (tamperClass s n = 1 → mayLock s.pwr.mode = true → t.pwr.mode = .zeroized) ∧
        (2 ≤ tamperClass s n → t.bbram.lockFlag = true ∧ (mayLock s.pwr.mode = true → t.pwr.mode = .locked))) ∧
      (tamperArmed s n = true → n = 2 ∨ n = 3 → mayDrain s.pwr.mode = true → tamperClass s n = 0 →
        ∃ t, exec (.tamperAlarm n detail) s = .next t ∧ t.tmp.alarm.testBit n = true ∧ t.pwr.mode = .drain)) ∧
    (∀ src, regsAnswer s src →
      (s.tmp.sealed = true → exec (.tmpSeal src) s = .next s) ∧
      (s.tmp.sealed = false → ∃ t, exec (.tmpSeal src) s = .next t ∧ t.tmp = { s.tmp with sealed := true } ∧
        (Tbl.get {} t.bbram.log s.bbram.logSlot).source = 0x83 ∧ t.pwr = s.pwr ∧ t.hif = s.hif) ∧
      (∀ v, (s.lcs.st = .maker ∨ s.lcs.st = .integrator) → s.tmp.sealed = false → holdupOk s = true → s.lcs.burning = none →
        exec (.tmpFuseReq src v) s = .next { s with
          tmp := { s.tmp with fuseBusy := true }
          lcs := { s.lcs with burning := some (20, BitVec.ofNat 64 (fld v 0 13)) } }) ∧
      (∀ v, (s.lcs.st ≠ .maker ∧ s.lcs.st ≠ .integrator) ∨ s.tmp.sealed = true ∨ holdupOk s = false →
        exec (.tmpFuseReq src v) s = .next { s with tmp := { s.tmp with cfgIgnored := true } })) ∧
    (s.lcs.burning = none → ∀ g, exec (.otpBurnDone g) s = .next s) ∧
    (∀ n v, s.lcs.burning = some (n, v) → ∃ t, exec (.otpBurnDone true) s = .next t ∧ otpHas n v.toNat t ∧
      (4 < n → n ≠ 20 → s.lcs.oblit = false → s.lcs.burnQ = [] → t.lcs.burning = none ∧
        otpWord t n = otpWord s n ||| v.toNat ∧ (∀ m, m ≠ n → otpWord t m = otpWord s m) ∧ t.bbram = s.bbram) ∧
      (n = 20 → s.lcs.oblit = false → t.tmp.fuseBusy = false ∧ (Tbl.get {} t.bbram.log s.bbram.logSlot).source = 0x82)) ∧
    (s.pwr.mode ≠ .watch → exec .bbramLoss s = .next s) ∧
    (s.pwr.mode = .watch → ∃ t, exec .bbramLoss s = .next t ∧ t.tmp.bbramLost = true ∧ t.tmp.sealed = false ∧
      t.tmp.classes = 0x03FF9C05 ∧ t.bbram.lockFlag = false ∧ t.bbram.retRoot = none ∧ t.bbram.ownSeed = none ∧
      t.bbram.journal = [] ∧ t.bbram.gens = [] ∧ (Tbl.get {} t.bbram.log 0).source = 13 ∧ t.pwr.mode = .watch ∧ t.lcs = s.lcs)

/-- The always-on clock changes between crystal and RC backup. From OFF a supply leads to WATCH with BBRAM lost. A
loss of every supply ends in OFF, of the main rails in WATCH; valid rails lead from WATCH to RESET with cause 0,
PERST_N with cause 1, the word 0x0000B007 from function 0 with cause 3: in each the volatile state is lost and BBRAM
and OTP stay, but for a record write, a trim or a staging that was under way. RESET ends in BOOT with the straps
latched. A wholly idle device in SERVICE goes to FREEWHEEL with its groups gated; its wake restores SERVICE with the
timestamp advanced within the bound of R56. SURGE winds down on a cause that holds and ends when the reservation
fits the cap. TEST is entered where R396 allows, with no DRBG left. DRAIN ends the waiting commands, keeps the
running ones, trims, abandons without replies, quiesces and enters RESET with cause 2. Elsewhere the rows change
nothing. -/
def Obligations.PowerAndModeRows : Prop :=
  ∀ (s : State),
    (s.pwr.mode ≠ .off →
      exec .aoCrystalStart s = .next { s with
        tmp := { s.tmp with crystal := true, armed7 := true }, pwr := { s.pwr with aoRc := false } } ∧
      exec .aoCrystalStop s = .next { s with tmp := { s.tmp with crystal := false }, pwr := { s.pwr with aoRc := true } }) ∧
    (s.pwr.mode = .off → ∀ vbat vddIo, vbat = true ∨ vddIo = true → ∃ t, exec (.aoPowerUp vbat vddIo) s = .next t ∧
      t.pwr.mode = .watch ∧ t.pwr.aoRc = true ∧ t.tmp.bbramLost = true ∧ t.tmp.sealed = false ∧ t.bbram.lockFlag = false ∧
      t.bbram.intSeed = none ∧ t.bbram.retRoot = none ∧ (Tbl.get {} t.bbram.log 0).source = 13 ∧ t.lcs.otp = s.lcs.otp) ∧
    (s.pwr.mode ≠ .off → ∀ vbat vddIo, exec (.aoPowerUp vbat vddIo) s = .next s) ∧
    (s.lcs.burning = none → mayTrim s = false ∨ s.pwr.trimmed = true → (∀ p ∈ s.kvt.cuts, cmdU s p.1 = none) →
      (∀ p ∈ s.glb.staging, cmdU s p.1 = none) →
      (s.pwr.mode ≠ .off → ∃ t, exec .supplyLoss s = .next t ∧ t.pwr.mode = .off ∧ volatileLost s t) ∧
      (s.pwr.mode ≠ .off → s.pwr.mode ≠ .watch → ∃ t, exec .mainRailLoss s = .next t ∧ t.pwr.mode = .watch ∧
        t.pwr.dramRails = false ∧ t.pwr.warnPin = false ∧ volatileLost s t) ∧
      (s.pwr.mode = .watch → ∃ t, exec .mainRailsValid s = .next t ∧ t.pwr.mode = .reset ∧ t.pwr.cause = 0 ∧ volatileLost s t) ∧
      (fltOpen s.pwr.mode = true → ∃ t, exec .perstNAssert s = .next t ∧ t.pwr.mode = .reset ∧ t.pwr.cause = 1 ∧
        volatileLost s t) ∧
      (∀ src, glbOpen src s = true → s.pwr.mode ≠ .freewheel → ∃ t, exec (.glbSoftReset src 0x0000B007) s = .next t ∧
        t.pwr.mode = .reset ∧ t.pwr.cause = 3 ∧ volatileLost s t) ∧
      (s.pwr.mode = .drain → ∀ us, us < 0x10000 → ∃ t, exec (.drainResetEntry us) s = .next t ∧ t.pwr.mode = .reset ∧
        t.pwr.cause = 2 ∧ t.pwr.drainDur = us ∧ t.pwr.drainAbandoned = s.pwr.drainAbandoned ∧
        t.pwr.drainCut = s.pwr.drainCut ∧ volatileLost s t)) ∧
    (∀ src v, s.pwr.mode ≠ .freewheel → v ≠ 0x0000B007 → exec (.glbSoftReset src v) s = .next s) ∧
    (∀ (fn : Fin 256) v, fn ≠ 0 → s.pwr.mode ≠ .freewheel → exec (.glbSoftReset (.host fn) v) s = .next s) ∧
    (s.pwr.mode ≠ .watch → exec .mainRailsValid s = .next s) ∧
    (s.pwr.mode ≠ .drain → ∀ us, exec (.drainResetEntry us) s = .next s) ∧
    (s.pwr.mode ≠ .off → s.pwr.mode ≠ .watch → exec .dramRailsValid s = .next { s with pwr := { s.pwr with dramRails := true } }) ∧
    (∀ role cascId bootSrc, (s.pwr.mode ≠ .reset → exec (.resetRelease role cascId bootSrc) s = .next s) ∧
      (s.pwr.mode = .reset → ∃ t, exec (.resetRelease role cascId bootSrc) s = .next t ∧ t.pwr.mode = .boot ∧
        t.pwr.prev = .reset ∧ t.pins.cascRole = role ∧ t.pins.cascId = cascId ∧ t.pins.bootSrc = bootSrc ∧ instU t 0 = instZero ∧
        t.tmp.hostifStopped = false ∧ t.pwr.warnPin = false ∧ t.hif.cmds = s.hif.cmds ∧ t.bbram = s.bbram ∧ t.lcs = s.lcs)) ∧
    (s.pwr.mode = .boot → s.pwr.fabLock = false → exec .fabricPllLock s = .next { s with
      pwr := { s.pwr with fabLock := true, seqLock := true }, ent := { s.ent with running := (decodeLc s).1 != .scrapped } }) ∧
    (exec .pcieLinkUp s = .next (if fltOpen s.pwr.mode = true then { s with hif := { s.hif with reach := true } } else s)) ∧
    (s.pwr.mode = .service → s.pwr.fwEn = true → allIdle s = true → ∃ t, exec .freewheelEntry s = .next t ∧
      t.pwr.mode = .freewheel ∧ t.pwr.groups = [] ∧ t.pwr.fabLock = false ∧ t.pwr.seqLock = false ∧ t.pwr.dramLock = false ∧
      t.mem.selfRefresh = true ∧ t.hif.asleep = 0 ∧ t.hif.ts = s.hif.ts ∧ t.kvt = s.kvt ∧ t.hif.inst = s.hif.inst) ∧
    (s.pwr.mode ≠ .service ∨ s.pwr.fwEn = false ∨ allIdle s = false → exec .freewheelEntry s = .next s) ∧
    (s.pwr.mode ≠ .freewheel → exec .freewheelWake s = .next s) ∧
    (s.pwr.mode = .freewheel → ∃ t, exec .freewheelWake s = .next t ∧ t.pwr.mode = .service ∧ t.mem.selfRefresh = false ∧
      t.pwr.fabLock = true ∧ t.pwr.seqLock = true ∧ t.pwr.dramLock = true ∧ s.hif.ts ≤ t.hif.ts ∧
      s.hif.ts + s.hif.asleep ≤ t.hif.ts + wakeError s ∧ t.hif.ts ≤ s.hif.ts + s.hif.asleep + wakeError s ∧
      t.drl.hub = {} ∧ t.drl.aes = {} ∧ t.kvt = s.kvt) ∧
    (∀ (c : Fin 4), exec (.surgeWindDown c) s = .next (if s.pwr.mode = .surge ∧ windCause s c = true then
      { s with pwr := { s.pwr with windDown := true } } else s)) ∧
    (s.pwr.mode = .surge → s.pwr.windDown = true → pRes s ≤ 100 * s.pwr.capW → ∃ t, exec .surgeEnd s = .next t ∧
      t.pwr.mode = .service ∧ t.pwr.windDown = false ∧ t.pwr.lastSurgeEnd = some s.now ∧ t.hif.cmds = s.hif.cmds) ∧
    (s.pwr.windDown = false → exec .surgeEnd s = .next s) ∧
    (∀ src v, regsAnswer s src → flag v 1 = true → (testOk s = true → ∃ t, exec (.testReq src v) s = .next t ∧
        t.pwr.mode = .test ∧ t.ent.queue = [] ∧ t.ent.fifo = [] ∧ (∀ n, (drbgU t n).inst = false) ∧ t.pwr.fwEn = flag v 0) ∧
      (testOk s = false → ∃ t, exec (.testReq src v) s = .next t ∧ t.pwr.mode = s.pwr.mode ∧ t.pwr.cfgIgnored = true ∧
        t.ent = s.ent)) ∧
    (∀ slow, (mayDrain s.pwr.mode = false → exec (.drainEntry slow) s = .next s) ∧
      (mayDrain s.pwr.mode = true → ∃ t, exec (.drainEntry slow) s = .next t ∧ t.pwr.mode = .drain ∧
        t.pwr.drainSource = b2n slow ∧ t.pwr.drainCap = capNow s / 100 ∧ (slow = false → t.pwr.warnPin = true) ∧
        (∀ c ∈ t.hif.cmds, c ∈ s.hif.cmds ∧ c.phase ≠ .waiting) ∧
        ∀ c ∈ s.hif.cmds, c.phase ≠ .waiting → (∀ d ∈ s.hif.cmds, d.phase = .waiting → d.id ≠ c.id) → c ∈ t.hif.cmds)) ∧
    (s.pwr.mode = .drain → s.pwr.drainQuiesced = false →
      (s.pwr.drainRunEnded = true ∨ leafHeld s = false → s.bbram.badRecs = [] → (fltU s .kvt 0).armed = false → ∃ t, exec .drainTrim s = .next t ∧
        (∀ n, n < 1024 → ∀ c, trimCopy s n = some c → recU t n = writeCopy (recU s n) c) ∧
        t.pwr = { s.pwr with trimmed := true } ∧ t.hif.cmds = s.hif.cmds ∧ t.host.mem = s.host.mem) ∧
      (mayTrim s = false ∨ s.pwr.trimmed = true → exec .drainQuiesce s = .next { s with pwr := { s.pwr with
        drainQuiesced := true, drainCut := b2n (!s.pwr.trimmed && (List.range 1024).any (fun n => (trimCopy s n).isSome)) } }) ∧
      ∃ t, exec .drainQuiesce s = .next t ∧ t.pwr.drainQuiesced = true ∧ t.hif = s.hif ∧
        ∀ n, recU t n = recU s n ∨ ∃ c, trimCopy s n = some c ∧ recU t n = writeCopy (recU s n) c) ∧
    (s.pwr.mode = .drain → s.pwr.drainRunEnded = false → ∃ t, exec .drainRunWindowEnd s = .next t ∧ t.hif.cmds = [] ∧
      t.pwr.drainAbandoned = min 0xFF s.hif.cmds.length ∧ t.pwr.drainRunEnded = true ∧ t.host.mem = s.host.mem ∧
      t.pwr.mode = .drain)

/-- In BOOT: sensing decodes the life-cycle words, drops a staged record that is not valid and installs the root of
the state; recovery abandons every journal slot with an uncommitted install and keeps the committed ones; the
verifier's test decides between phase 2 and a fatal stop. The candidate of higher sequence is read first; a bundle
that passes goes on to be loaded, one that fails gives way to the other candidate or to the wait for the host, which
may hand over a bundle by DMA. Loading gives every core the program, and starts the self-tests: a failed unit or no
engine left is fatal, a failed engine is withdrawn. The rollback burn waits for a sound hold-up store. BOOT ends
with the timestamp at 0: LOCKED while the lock flag is set, ZEROIZED without a root, else DISCOVER, and SERVICE at
once for a standalone device. Elsewhere the rows change nothing. -/
def Obligations.BootRows : Prop :=
  ∀ (s : State),
    (s.pwr.mode ≠ .boot → ∀ c ∈ [Instr.otpSenseDone, .journalRecovery, .verifierTestEnd true, .verifierTestEnd false,
      .bootImageSelect, .bundleVerify, .bundleLoad, .selfTestUnitResult false false, .selfTestEngineResult 0, .selfTestEnd 0,
      .rollbackBurn, .bootEnd], exec c s = .next s) ∧
    (s.pwr.mode = .boot →
      (s.lcs.sensed = false → s.bbram.trans.valid = false → ∃ t, exec .otpSenseDone s = .next t ∧
        t.lcs.st = (decodeLc s).1 ∧ t.lcs.invalid = (decodeLc s).2 ∧ t.lcs.sensed = true ∧ t.lcs.otp = s.lcs.otp ∧
        t.kvt.root = rootOf { s with lcs := { s.lcs with st := (decodeLc s).1 } } ∧ t.kvt.bbramLost = s.tmp.bbramLost ∧
        t.glb.phase = 1 ∧ t.bbram = { s.bbram with trans := {} } ∧ t.hif = s.hif ∧ t.pwr = s.pwr) ∧
      (s.lcs.sensed = true → exec .otpSenseDone s = .next s) ∧
      (s.lcs.sensed = true → s.kvt.recovered = false → s.lcs.st ≠ .scrapped → ∃ t, exec .journalRecovery s = .next t ∧
        t.kvt = { s.kvt with recovered := true, jseq := journalTop s } ∧ (∀ n, n < 256 →
          (jCommitted (slotU s n) = true → slotU t n = slotU s n) ∧
          (jCommitted (slotU s n) = false → jPending (slotU s n) = true → ¬ (jValid (slotU s n).pend = true ∧ (slotU s n).pend.kind = 3) →
            slotU t n = { slotU s n with commit := {}, pend := { (slotU s n).pend with kind := 3 } }))) ∧
      (s.lcs.sensed = true → s.lcs.st ≠ .scrapped → s.glb.verifierDone = false → s.glb.katFatal = false →
        exec (.verifierTestEnd true) s = .next { s with glb := { s.glb with verifierDone := true, phase := 2 } } ∧
        ∃ t, exec (.verifierTestEnd false) s = .next t ∧ t.glb.phase = 8 ∧ t.glb.error = 8 ∧ t.pins.fatal = true ∧ t.pwr = s.pwr) ∧
      (s.glb.verifierDone = true → s.glb.phase = 2 → s.glb.cand = [] → s.glb.bundle = [] →
        ∃ t, exec .bootImageSelect s = .next t ∧ t.pwr = s.pwr ∧ t.bbram = s.bbram ∧ t.glb.flashA = s.glb.flashA ∧
          match s.pins.bootSrc, flashOrder s with
          | 3, _ => t.glb.phase = 8 ∧ t.glb.error = 5 ∧ t.pins.fatal = true
          | 2, _ => t.glb.phase = 7 ∧ t.pins.fatal = s.pins.fatal
          | _, [] => t.glb.phase = 7 ∧ t.glb.image = 3 ∧ t.pins.fatal = true ∧
            t.glb.error = if headerGood s.glb.flashA = true ∨ headerGood s.glb.flashB = true then 4 else 1
          | _, k :: r => t.glb.cand = k :: r ∧ t.glb.image = k ∧ t.glb.bundle = slotImage s k ∧ t.glb.phase = 2) ∧
      (s.glb.phase = 2 ∨ s.glb.phase = 3 → s.glb.cand ≠ [] → ∃ t, exec .bundleVerify s = .next t ∧ t.pwr = s.pwr ∧
        t.bbram = s.bbram ∧ t.seq = s.seq ∧ if bundleError s s.glb.bundle = 0 then
          t.glb.phase = 4 ∧ t.glb.bootSeq = bSeq s.glb.bundle ∧ t.glb.svn = bSvn s.glb.bundle % 128 ∧ t.pins.fatal = false
        else match s.glb.cand with
          | _ :: k :: r => t.glb.cand = k :: r ∧ t.glb.image = k ∧ t.glb.bundle = slotImage s k ∧ t.glb.phase = 2 ∧
            t.glb.fallback = true ∧ t.glb.error = bundleError s s.glb.bundle
          | _ => t.glb.phase = 7 ∧ t.glb.image = 3 ∧ t.glb.cand = [] ∧ t.glb.error = bundleError s s.glb.bundle ∧
            (s.glb.phase = 2 → t.pins.fatal = true)) ∧
      (s.glb.phase = 4 → ∃ t, exec .bundleLoad s = .next t ∧ t.glb.phase = 5 ∧ t.glb.katRunning = true ∧ t.glb.katDone = false ∧
        t.glb.katBits = 0 ∧ t.seq.image = listTbl 0 (vendorWords (sectionBytes s.glb.bundle 1)) ∧
        (∀ n, n < 16 → coreU t n = { coreU s n with prog := t.seq.image }) ∧
        t.hub.kmem = listTbl 0 ((sectionBytes s.glb.bundle 2).take 0xC000) ∧
        t.hub.patch = (openPatch s (bundleKey s.glb.bundle) (sectionBytes s.glb.bundle 3)).getD {} ∧ t.kvt = s.kvt ∧ t.pwr = s.pwr) ∧
      (∀ d a, s.glb.katRunning = true → s.glb.katBits = 0 → ∃ t, exec (.selfTestUnitResult d a) s = .next t ∧
        t.glb.katBits = b2n d * 0x400 + b2n a * 0x800 ∧
        (d = true ∧ a = true → t.glb.phase = s.glb.phase ∧ t.pins = s.pins) ∧
        (d = false ∨ a = false → t.glb.phase = 8 ∧ t.pins.fatal = true)) ∧
      (s.glb.katRunning = true → s.glb.katBits = 0xC00 → s.glb.fullSet = none →
        (∀ pass : BitVec 64, pass ≠ 0 → ∃ t, exec (.selfTestEngineResult pass) s = .next t ∧ t.glb.phase = s.glb.phase ∧
          t.pins = s.pins ∧ ∀ n, n < 64 → eng t n = if pass.getLsbD n then eng s n else { eng s n with failedTest := true }) ∧
        (∃ t, exec (.selfTestEngineResult 0) s = .next t ∧ t.glb.phase = 8 ∧ t.pins.fatal = true ∧ t.glb.katFailed = 64)) ∧
      (∀ suites es, s.glb.katRunning = true → s.glb.katBits = 0xC00 → s.glb.fullSet = some es →
        exec (.selfTestEnd suites) s = .next { s with glb := { s.glb with
          katBits := 0xC00 + suites.toNat, katRunning := false, katDone := true } }) ∧
      (s.glb.katDone = true → s.glb.phase = 5 → (bFlags s.glb.header).testBit 1 = true → svnMin s < s.glb.svn →
        s.lcs.burning = none → exec .rollbackBurn s = .next (if holdupOk s = true then
          { s with lcs := { s.lcs with burning := some (19, BitVec.ofNat 64 (raiseOnes s.glb.svn 64 (otpWord s 19))) } }
        else { s with glb := { s.glb with svnDeferred := true } })) ∧
      (s.glb.svn ≤ svnMin s → exec .rollbackBurn s = .next s) ∧
      (s.glb.katDone = true → s.glb.phase = 5 → s.kvt.recovered = true → s.lcs.burning = none → burnDue s = false →
        s.lcs.st ≠ .scrapped → ∃ t, exec .bootEnd s = .next t ∧ t.hif.ts = 0 ∧ t.hif.counting = true ∧ t.glb.phase = 6 ∧
          (s.bbram.lockFlag = true → t.pwr.mode = .locked) ∧
          (s.bbram.lockFlag = false → s.kvt.root = none → t.pwr.mode = .zeroized) ∧
          (s.bbram.lockFlag = false → s.kvt.root ≠ none → s.pins.cascRole = 0 → t.pwr.mode = .service) ∧
          (s.bbram.lockFlag = false → s.kvt.root ≠ none → s.pins.cascRole = 1 ∨ s.pins.cascRole = 2 → t.pwr.mode = .discover ∧
            t.pwr.links = 0xFF ∧ ∀ k, k < 8 → (linkU t k).st = .training) ∧
          (s.bbram.logEpoch = 0 → t.bbram.logEpoch ≠ 0))) ∧
    (∀ src, glbOpen src s = true → s.pwr.mode ≠ .freewheel → s.glb.katFatal = false →
      (s.pwr.mode ≠ .boot ∨ s.glb.phase ≠ 7 → exec (.hostBootGo src) s = .next { s with glb := { s.glb with cfgIgnored := true } }) ∧
      (s.pwr.mode = .boot → s.glb.phase = 7 →
        (0 ∈ s.host.noMaster → exec (.hostBootGo src) s = .next { s with glb := { s.glb with error := 9, phase := 7 } }) ∧
        (0 ∉ s.host.noMaster → hostOk s 0 s.glb.bootAddr.toNat s.glb.bootLen = true →
          ∃ t, exec (.hostBootGo src) s = .next t ∧ t.host.mem = s.host.mem ∧
            let b := hostBytes s s.glb.bootAddr.toNat s.glb.bootLen
            if headerGood b = false then t.glb.error = 5 ∧ t.glb.phase = 7
            else if candidate s b = false then t.glb.error = 4 ∧ t.glb.phase = 7
            else t.glb.image = 2 ∧ t.glb.bundle = b ∧ t.glb.phase = 3 ∧ t.glb.cand = [2]))) ∧
    (s.lcs.st = .scrapped → s.lcs.sensed = true → s.lcs.burning = none → scrapWords s ≠ [] →
      ∃ t, exec .scrapObliterate s = .next t ∧ t.lcs.oblit = true ∧
        (holdupOk s = true → t.bbram = { badRecs := s.bbram.badRecs } ∧ t.kvt.root = none ∧ t.lcs.burning = (scrapWords s).head? ∧
          t.lcs.burnQ = s.lcs.burnQ ++ (scrapWords s).tail) ∧
        (holdupOk s = false → t = { s with lcs := { s.lcs with oblit := true } })) ∧
    (s.lcs.st ≠ .scrapped → exec .scrapObliterate s = .next s)

/-- The frame rows with their types (Table 16-1) and what each does. -/
def rowsFrame (k : Fin 8) (f : Bytes) (r : Instr × Nat × (Nat → Bytes → State → State)) : Prop :=
  r ∈ [(.frameAck k f, 0x01, onAckFrame k f), (.frameNak k f, 0x02, fun _ => onNak k), (.frameHeartbeat k f, 0x03, fun _ => onBeat k),
    (.frameToken k f, 0x10, linkMessage k 0x10 onToken), (.frameAssign k f, 0x11, linkMessage k 0x11 onAssign),
    (.frameAttest k f, 0x12, linkMessage k 0x12 onAttest), (.frameKeyx k f, 0x13, linkMessage k 0x13 onKeyx),
    (.frameGo k f, 0x14, fun _ => onGo k), (.frameLeave k f, 0x15, fun _ p => onLoss k 0x15 (byteAt p 0)),
    (.frameLost k f, 0x16, fun _ p => onLoss k 0x16 (byteAt p 0)),
    (.frameReq k f, 0x20, routed 0x20 f (memberMessage 0x20 onReq)), (.frameRsp k f, 0x21, routed 0x21 f (memberMessage 0x21 onRsp)),
    (.frameKeyshare k f, 0x22, routed 0x22 f (memberMessage 0x22 onShare)),
    (.frameBcast k f, 0x23, routed 0x23 f (memberMessage 0x23 onCast))]

/-- A frame with a right check value is opened under the link's key; one whose tag fails takes the link down, one
out of sequence is discarded, one of a lost member only counts, any other goes to its handler with the link's number
moved on by one. A failed check is answered by a NAK and counted as CORRECTED; the ninth in a row of one frame takes
the link down. A link trains with four or two lanes, falls back to training when silent, and sends its heartbeat.
NAK replays the retry buffer from the named frame; ACK ends what it acknowledges; GO sets the start 200 us times the
position later; LEAVE and LOST mark a member lost; a second REQ, RSP or KEYSHARE of a transaction changes no
command; BCAST marks or clears the engines' keys; ASSIGN sets position and version. A cascade that starts is in
SERVICE. The layouts inside payloads are the model's (log 70, 71). -/
def Obligations.TandemRows : Prop :=
  ∀ (s : State) (k : Fin 8),
    (∀ f r, rowsFrame k f r →
      (frameSound s k r.2.1 f → exec r.1 s = .next (accepted s k f r.2.2)) ∧
      (carries s k = false ∨ byteAt f 0 ≠ r.2.1 → exec r.1 s = .next s) ∧
      (carries s k = true → f.length = 256 → byteAt f 0 = r.2.1 → byteAt f 2 ≤ 220 → (0x14 ≤ r.2.1 → (linkU s k).key ≠ none) →
        (fltU s .tlk 0).armed = false → checkOk s k f = false → exec r.1 s = exec (.tandemFrameCheckFail k (fSeq f)) s)) ∧
    (∀ f sec, linkU (takeFrame k f sec s) k = { linkU s k with
        rxSeq := (linkU s k).rxSeq + 1, returned := ((linkU s k).returned + 1) % 65536, fails := 0
        secured := (linkU s k).secured || sec
        retry := (linkU s k).retry.filter (fun r => decide ((r.1 + 2 * 65536 - leAt f 14 2 - 1) % 65536 < 32768)) } ∧
      (takeFrame k f sec s).hif.cmds = s.hif.cmds ∧ ∀ j, j ≠ k.val → linkU (takeFrame k f sec s) j = linkU s j) ∧
    (∀ st auth, st ≠ .trained → st ≠ .keyed → (linkU (dropLink k st auth s) k).st = st ∧ (linkU (dropLink k st auth s) k).key = none ∧
      (linkU (dropLink k st auth s) k).retry = [] ∧ (linkU (dropLink k st auth s) k).authFail = ((linkU s k).authFail || auth)) ∧
    (∀ q, carries s k = true → (linkU s k).fails < 8 → ∃ t, exec (.tandemFrameCheckFail k q) s = .next t ∧
      t.tlk.sent.length = s.tlk.sent.length + 1 ∧ (linkU t k).st = (linkU s k).st ∧ (linkU t k).rxSeq = (linkU s k).rxSeq ∧
      (linkU t k).fails = (if q = (linkU s k).rxSeq then (linkU s k).fails + 1 else (linkU s k).fails) ∧
      (fltU t .tlk 0).corrCount = min 0xFF ((fltU s .tlk 0).corrCount + 1) ∧ t.hif.cmds = s.hif.cmds) ∧
    (carries s k = true → (linkU s k).fails = 8 → ∃ t, exec (.tandemFrameCheckFail k (linkU s k).rxSeq) s = .next t ∧
      (linkU t k).st = .down ∧ (linkU t k).key = none) ∧
    (∀ two foreign, linksAct s.pwr.mode = true → (linkU s k).st = .training ∨ (linkU s k).st = .down → (linkU s k).authFail = false →
      linkHeld s k = false → ∃ t, exec (.linkTrained k two foreign) s = .next t ∧ (linkU t k).lanes = b2n two ∧
        (linkU t k).foreign = foreign ∧ (linkU t k).st = if foreign then .unused else .trained) ∧
    (∀ two foreign, (linkU s k).authFail = true → exec (.linkTrained k two foreign) s = .next s) ∧
    (carries s k = true → (∃ t, exec (.linkSilenceTimeout k) s = .next t ∧ (linkU t k).st = .training ∧ (linkU t k).key = none ∧
        (linkU t k).retry = []) ∧
      ∃ t, exec (.heartbeatDue k) s = .next t ∧ t.tlk.sent = s.tlk.sent ++ [(k.val, mkFrame s k 0x03 s.tlk.position 8 [])] ∧
        (linkU t k).txSeq = (linkU s k).txSeq + 1 ∧ t.hif.cmds = s.hif.cmds ∧ t.host.mem = s.host.mem) ∧
    (carries s k = false → ∀ c ∈ [Instr.linkSilenceTimeout k, .heartbeatDue k, .tandemFrameCheckFail k 0], exec c s = .next s) ∧
    (forming s = false → exec .discWaitExpiry s = .next s ∧ exec .roleConflictTimeout s = .next s) ∧
    (forming s = true → (s.pins.cascRole = 1 ∧ s.tlk.tokenSent = true) ∨ (s.pins.cascRole = 2 ∧ s.tlk.tokenIn = none) →
      exec .discWaitExpiry s = .next { s with tlk := { s.tlk with waitOver := true } }) ∧
    (forming s = true → s.pins.cascRole = 2 → s.tlk.tokenSent = false → s.tlk.excluded = false →
      exec .roleConflictTimeout s = .next { s with tlk := { s.tlk with roleConflict := true } }) ∧
    (s.pwr.mode = .discover → s.tlk.startAt ≠ none → ∃ t, exec .cascadeStart s = .next t ∧ t.pwr.mode = .service ∧
      t.ent.seedFly = [] ∧ t.kvt = s.kvt ∧ t.tlk = s.tlk) ∧
    (s.tlk.startAt = none → exec .cascadeStart s = .next s) ∧
    (∀ (p : Fin 8), s.tlk.formed = true → s.tlk.present.testBit p = true → s.tlk.lost.testBit p = false → p.val ≠ s.tlk.position →
      hasRoute s p = false →
      (s.tlk.position = 0 → ∃ t, exec (.memberTimeout p) s = .next t ∧ t.tlk.lost.testBit p = true ∧ t.tlk.isolated = s.tlk.isolated) ∧
      (s.tlk.position ≠ 0 → hasRoute s 0 = true → exec (.memberTimeout p) s = .next s) ∧
      (s.tlk.position ≠ 0 → hasRoute s 0 = false → ∃ t, exec (.memberTimeout p) s = .next t ∧ t.tlk.isolated = true)) ∧
    (∀ (p : Fin 8), hasRoute s p = true → exec (.memberTimeout p) s = .next s) ∧
    (∀ p : Bytes, (if leAt p 0 8 = (linkU s k).nakSeq then (linkU s k).naks + 1 else 1) ≤ 8 →
      (onNak k p s).tlk.sent = s.tlk.sent ++ ((linkU s k).retry.filter (fun r => decide (leAt p 0 8 ≤ r.1))).map (fun r => (k.val, r.2))) ∧
    (∀ src txn, (onAck src 0x20 txn s).tlk.origins = s.tlk.origins.map (fun t =>
      if t.peer = src ∧ t.id = txn then { t with acked := true } else t)) ∧
    (∀ p : Bytes, forming s = true → s.pins.cascRole = 2 → assigned s ≠ 0 → (byteAt p 0).testBit s.tlk.position = true →
      (onGo k p s).tlk.formed = true ∧ (onGo k p s).tlk.present = byteAt p 0 ∧
      (onGo k p s).tlk.startAt = some (s.now + 20000 * s.tlk.position)) ∧
    (∀ ty h, s.tlk.formed = true → h < 8 → s.tlk.lost.testBit h = false → s.tlk.present.testBit h = true → h ≠ s.tlk.position →
      h ≠ 0 → (onLoss k ty h s).tlk.lost.testBit h = true ∧ (onLoss k ty h s).pwr = s.pwr) ∧
    (∀ src txn (m : Bytes), byteAt m 0 ≠ 0 →
      ((src, txn) ∈ s.tlk.seen → (onReq src txn m s).hif.cmds = s.hif.cmds) ∧
      ((src, txn) ∉ s.tlk.seen → ∃ c, (onReq src txn m s).hif.cmds = s.hif.cmds ++ [c] ∧ c.port = 256 ∧ c.phase = .waiting ∧
        c.pkt = slice m 2 64 ∧ c.id = s.hif.nextId)) ∧
    (∀ src txn (m : Bytes), originOf s src txn = none →
      (onRsp src txn m s).hif.cmds = s.hif.cmds ∧ (onRsp src txn m s).host.mem = s.host.mem ∧
      (onShare src txn m s).hif.cmds = s.hif.cmds) ∧
    (∀ src txn (m : Bytes) t c, originOf s src txn = some t → cmdU s t.cmd = some c → c.id = t.cmd →
      (m.length ≤ 10 → ∃ d, cmdU (onRsp src txn m s) t.cmd = some d ∧ d.phase = .finished ∧ d.res.status = leAt m 0 2 ∧
        d.res.outLen = leAt m 2 4 ∧ d.res.hint = leAt m 7 2 ∧ d.pkt = c.pkt) ∧
      (leAt m 0 2 = 0 → 28 < m.length → cmdU (onShare src txn m s) t.cmd = some { c with
        key := some (decKey (m.drop 28)), leaf := if leAt m 4 8 = 0 then c.leaf else some (leAt m 4 8 - 1)
        served := if leAt m 12 8 = 0 then none else some (leAt m 12 8 - 1, leAt m 20 8) })) ∧
    (∀ src txn (m : Bytes) n kr, n < 64 → (eng s n).key = some kr → castHit ⟨leAt m 0 8, leAt m 8 8⟩ kr.tag.toNat = true →
      (eng (onCast src txn m s) n).key =
        if (eng s n).cmd = none ∧ (eng s n).lend = false then none else some { kr with marked := true }) ∧
    (∀ (a : Bytes) p, forming s = true → s.pins.cascRole = 2 → s.tlk.tokenSent = true → assigned s = 0 →
      (List.range (byteAt a 0)).find? (fun p => slice a (5 + 16 * p) 16 == fit 16 (identity s)) = some p →
      (onAssign k a s).tlk.position = p ∧ (onAssign k a s).tlk.assign = a ∧ (onAssign k a s).tlk.verMinor = byteAt a 1) ∧
    (∀ m : Bytes, forming s = true → s.pins.cascRole = 1 → k.val < 2 → (m.drop 2).take 16 ≠ fit 16 (identity s) →
      onToken k m s = { s with tlk := { s.tlk with roleConflict := true } }) ∧
    (∀ m : Bytes, byteAt m 0 = 0 → byteAt m 3 ≠ 1 → assigned s = 0 →
      onAttest k m s = setLink k { linkU s k with peer := byteAt m 1 % 8, peerCert := m } s) ∧
    (∀ m : Bytes, (linkU s k).attested = false ∨ (linkU s k).key ≠ none → onKeyx k m s = s)

/-- With power, EXTEST drives the pins from the boundary register, SAMPLE/PRELOAD loads it without driving them,
IDCODE captures 0x125609AB and BYPASS a 0; without, nothing changes. A challenge takes the first 32 bytes of the
ENT_DATA FIFO; it lasts until it expires or is spent. Token bytes gather until A5 5A A5 submits them; a token that
holds opens a session with its signer, permissions and duration and writes a log entry, any other sets token_bad,
and the challenge is spent. A register or memory access returns what the previous one read; one without permission
reads 0, does nothing and sets denied. Expiry, DBG_TRST_N low and DBG_CTRL.close end the session and release every
halt; deny lasts. BIST runs in TEST under permission 5 after the erasure and reports the first failing block; a scan
shift keeps the always-on state, OTP, BBRAM and the flash. The SMBus target answers code 0 with the status block and
its alert response with its address, and NACKs all else. The captured pin levels and scan bits, the codes of the
vendor scan instructions, the bytes that the marker leaves in the token buffer and the memories' debug addresses are
the model's (log entries 90–92). -/
def Obligations.PortRows : Prop :=
  ∀ (s : State),
    (s.pwr.mode ≠ .off →
      (∀ dr, exec (.extest dr) s = .next { (freeBytes dr.length s).2 with dbg := { s.dbg with
        ir := .extest, tdo := (freeBytes dr.length s).1, boundary := dr, extPins := some dr } }) ∧
      (∀ dr, exec (.samplePreload dr) s = .next { (freeBytes dr.length s).2 with dbg := { s.dbg with
        ir := .samplePreload, tdo := (freeBytes dr.length s).1, boundary := dr, extPins := none } }) ∧
      exec .idcode s = .next { s with dbg := { s.dbg with ir := .idcode, tdo := [0xAB, 0x09, 0x56, 0x12], extPins := none } } ∧
      exec .bypass s = .next { s with dbg := { s.dbg with ir := .bypass, tdo := [0], extPins := none } } ∧
      (∃ t, exec .dbgTrst s = .next t ∧ sessionClosed s t ∧ t.dbg.ir = .idcode ∧ t.dbg.extPins = none ∧
        (s.dbg.verifying = false → t.dbg.token = []))) ∧
    (s.pwr.mode = .off → (∀ dr, exec (.extest dr) s = .next s ∧ exec (.samplePreload dr) s = .next s) ∧
      exec .idcode s = .next s ∧ exec .bypass s = .next s ∧ exec .dbgTrst s = .next s ∧
      ∀ ir dr, exec (.scanShift ir dr) s = .next s) ∧
    (tapDebug s = true →
      (∃ t, exec (.dbgChal true) s = .next t ∧ (mayChallenge s = true → t.dbg.chal = some (s.ent.fifo.take 32) ∧
          t.ent = { s.ent with fifo := s.ent.fifo.drop 32 }) ∧
        (mayChallenge s = false → t.dbg.chal = s.dbg.chal ∧ t.ent = s.ent) ∧
        t.dbg.tdo = leBytes 1 (dbgStatus s).toNat ++ s.dbg.chal.getD (zeros 32) ∧ t.kvt = s.kvt ∧ t.bbram = s.bbram) ∧
      (∀ b, s.dbg.verifying = false → ∃ t, exec (.dbgToken b) s = .next t ∧
        (∀ m, s.dbg.token = m ++ [0xA5, 0x5A] → b = 0xA5 → t.dbg.token = m ∧ t.dbg.verifying = true) ∧
        (b ≠ 0xA5 → t.dbg.token = s.dbg.token ++ [b] ∧ t.dbg.verifying = false)) ∧
      (∀ write off data, s.dbg.session = false ∨ s.lcs.st = .scrapped ∨ s.dbg.perm.testBit (if write then 1 else 0) = false →
        exec (.dbgReg write off data) s = .next { s with dbg := { s.dbg with
          ir := .dbgReg, tdo := leBytes 9 s.dbg.regOut.toNat, extPins := none, regOut := 0, denied := true } }) ∧
      (∀ off data, granted s 1 = true → ∃ t u, exec (.dbgReg true off data) s = .next t ∧ t = { u with dbg := t.dbg } ∧
        u = regWrite .debug off.toNat data (loadIr .dbgReg (leBytes 9 s.dbg.regOut.toNat) s) ∧ t.dbg.regOut = 0) ∧
      (∀ off data, granted s 0 = true → ∃ t, exec (.dbgReg false off data) s = .next t ∧
        t.dbg.regOut = (regRead .debug off.toNat (loadIr .dbgReg (leBytes 9 s.dbg.regOut.toNat) s)).1) ∧
      (∀ space addr, memReadable s space.toNat addr.toNat = false → exec (.dbgMem space addr) s =
        .next { s with dbg := { s.dbg with
          ir := .dbgMem, tdo := fit 8 s.dbg.memOut, extPins := none, memOut := [], denied := true } }) ∧
      (∀ addr, granted s 4 = true → addr.toNat < 7 ∨ (19 ≤ addr.toNat ∧ addr.toNat < 37) → exec (.dbgMem 1 addr) s =
        .next { s with dbg := { s.dbg with
          ir := .dbgMem, tdo := fit 8 s.dbg.memOut, extPins := none, memOut := leBytes 8 (otpWord s addr.toNat) } }) ∧
      (∀ addr, s.mem.keys = false → granted s 4 = true → exec (.dbgMem 7 addr) s = .next { s with dbg := { s.dbg with
          ir := .dbgMem, tdo := fit 8 s.dbg.memOut, extPins := none, memOut := zeros 8 } }) ∧
      (∀ addr, memReadable s 0 addr = false)) ∧
    (tapDebug s = false → (∀ r, exec (.dbgChal r) s = .next s) ∧ (∀ b, exec (.dbgToken b) s = .next s) ∧
      (∀ w off data, exec (.dbgReg w off data) s = .next s) ∧ ∀ space addr, exec (.dbgMem space addr) s = .next s) ∧
    exec .dbgChalExpiry s = .next { s with dbg := { s.dbg with chal := none } } ∧
    (∃ t, exec .dbgTokenVerify s = .next t ∧
      (s.dbg.verifying = false → t = s) ∧
      (s.dbg.verifying = true →
        (debugTokenOk s s.dbg.token = true → sessionMode s.pwr.mode = true → t.dbg = { s.dbg with
            verifying := false, token := [], chal := none, session := true, openedAt := s.now,
            signer := byteAt s.dbg.token 4, perm := byteAt s.dbg.token 5, remaining := leAt s.dbg.token 6 2 } ∧
          t.bbram.logSlot = (s.bbram.logSlot + 1) % 256 ∧ (Tbl.get {} t.bbram.log s.bbram.logSlot).source = 0x80) ∧
        (debugTokenOk s s.dbg.token = false ∨ sessionMode s.pwr.mode = false →
          t = { s with dbg := { s.dbg with verifying := false, token := [], chal := none, tokenBad := true } }) ∧
        (s.dbg.chal = none ∨ s.lcs.st = .scrapped ∨ byteAt s.dbg.token 4 = 0 ∨ leAt s.dbg.token 6 2 = 0 →
          t.dbg.session = s.dbg.session ∧ t.dbg.tokenBad = true))) ∧
    (∃ t, exec .dbgSessionExpiry s = .next t ∧ (s.dbg.session = true → sessionClosed s t) ∧ (s.dbg.session = false → t = s)) ∧
    (∀ src (u : State), u = touch src s → regOpen src u = true →
      (∃ t, exec (.dbgClose src) s = .next t ∧ sessionClosed u t) ∧
      exec (.dbgDeny src) s = .next { u with dbg := { u.dbg with deny := true } } ∧
      (u.pwr.mode = .test → u.dbg.session = true → u.dbg.perm.testBit 5 = true → u.dbg.bistRun = false →
        ∃ t, exec (.dbgBistStart src) s = .next t ∧ t.dbg.bistRun = true ∧ t.dbg.bistDone = false ∧
          t.lcs.otp = u.lcs.otp ∧ t.bbram = u.bbram ∧ t.dbg.erased = true ∧
          (u.dbg.erased = false → t.mem.keys = false ∧ ∀ e, e < 64 → (eng t e).key = none)) ∧
      (u.pwr.mode ≠ .test ∨ u.dbg.session = false ∨ u.dbg.perm.testBit 5 = false →
        exec (.dbgBistStart src) s = .next u)) ∧
    (∀ f, (s.dbg.bistRun = false → exec (.dbgBistDone f) s = .next s) ∧
      (s.dbg.bistRun = true → ∃ t, exec (.dbgBistDone f) s = .next t ∧ t.dbg = { s.dbg with
        bistRun := false, bistDone := true, bistFail := f.isSome, bistFirst := (f.getD 0).toNat } ∧ t = { s with dbg := t.dbg })) ∧
    (∀ ir dr, scanOk s = true → ir ∉ [0x00, 0x01, 0x02, 0x10, 0x11, 0x12, 0x13, 0xFF] →
      ∃ t, exec (.scanShift ir dr) s = .next t ∧ t.bbram = s.bbram ∧ t.lcs = s.lcs ∧ t.tmp = s.tmp ∧ t.host = s.host ∧
        t.pending = s.pending ∧ t.glb.flashA = s.glb.flashA ∧ t.glb.flashB = s.glb.flashB ∧ t.dbg.erased = true ∧
        t.dbg.tdo.length = dr.length) ∧
    (∀ ir dr, scanOk s = false → s.pwr.mode ≠ .off → exec (.scanShift ir dr) s =
      .next { s with dbg := { s.dbg with ir := .bypass, tdo := [0], extPins := none } }) ∧
    (∀ code, (smbUp s = true → code = 0 → exec (.smbusBlockRead code) s = .next { s with pins := { s.pins with
        smbOut := smbBlock s, smbNack := false, smbAlert := false } }) ∧
      (smbUp s = false ∨ code ≠ 0 → exec (.smbusBlockRead code) s = .next { s with pins := { s.pins with
        smbOut := [], smbNack := true } })) ∧
    (smbBlock s).length = 32 ∧ slice (smbBlock s) 0 16 = fit 16 (identity s) ∧ byteAt (smbBlock s) 17 = modeNum s.pwr.mode ∧
    (smbUp s = true → s.pins.smbAlert = true → exec .smbusAlertResponse s = .next { s with pins := { s.pins with
        smbOut := [0xB4], smbNack := false, smbAlert := false } }) ∧
    (smbUp s = false ∨ s.pins.smbAlert = false → exec .smbusAlertResponse s = .next { s with pins := { s.pins with
        smbOut := [], smbNack := true } })
end

