-- ==== Sys2Proof/Laws/CoreLegal.lean ====
section
/-! SUPPORT. A legal row that stays in its core has a result: no trap and no I/O access. -/
namespace Sys2Proof.Machine
open Sys2Proof

variable (n : Fin 16) (dd ds : BitVec 4) (v : BitVec 5) (imm : BitVec 17) (c : Core)

theorem endV_quiet (k : Nat) (o : Option Bool) (h : c.ovEn = true → o ≠ some true) : endV k o c = .ok (adv k c) := by
  unfold endV
  rw [if_neg (fun g => h g.1 g.2)]

theorem putOut_quiet (k d : Nat) (o : AluOut) (h : noOverflow c o) : ∃ x, putOut k d o c = .ok x :=
  ⟨_, endV_quiet (putRes c d o) k o.v h⟩

theorem noOverflow_plain (x : Word) : noOverflow c (plain x) := fun _ => by simp [plain]

/-- A shift sets no V. -/
theorem noOverflow_shift (a : Word) (k : Nat) :
    noOverflow c (shlF a k) ∧ noOverflow c (shrF a k) ∧ noOverflow c (sarF a k) ∧ noOverflow c (rolF a k) :=
  ⟨fun _ => by simp [shlF], fun _ => by simp [shrF], fun _ => by simp [sarF], fun _ => by simp [rolF]⟩

/-- A granted data access is not refused and does not reach the I/O window. -/
theorem accessCause_granted {store : Bool} {k a : Nat} (h : dataGranted store k a c) :
    accessCause store k a c = 0 ∧ areaOf a ≠ .io := by
  obtain ⟨h1, ⟨h2, h3⟩ | h2 | ⟨h2, h3⟩⟩ := h
  · simp [accessCause, h1, h2, h3]
  · simp [accessCause, h1, h2]
  · simp [accessCause, h1, h2, h3]

theorem memF_granted (o m an d : Nat) (disp : BitVec 14)
    (h : dataGranted (o % 2 == 1) (if o < 2 then 4 else 1) (operandAddr m an disp (if o < 2 then 4 else 1) c).1.toNat c) :
    memF o m an d disp c = .ok (adv (if m = 3 then 2 else 1)
      (setA (if o % 2 = 1 then { c with
          dmem := Tbl.setList 0 c.dmem (operandAddr m an disp (if o < 2 then 4 else 1) c).1.toNat (leBytes (if o < 2 then 4 else 1) (getD c d).toNat) }
        else setD c d (localRead c (operandAddr m an disp (if o < 2 then 4 else 1) c).1.toNat (if o < 2 then 4 else 1)))
        an (operandAddr m an disp (if o < 2 then 4 else 1) c).2)) := by
  obtain ⟨h1, h2⟩ := accessCause_granted c h
  have e : decide (o % 2 = 1) = (o % 2 == 1) := rfl
  simp only [memF]
  rw [show accessCause (decide (o % 2 = 1)) _ _ c = 0 from h1]
  simp only [if_neg h2]

/-- Every legal data row has a result. -/
theorem legal_data (i : Instr) (f : Core → SRes) (h : coreLegal i c)
    (hi : (i, f) ∈ [(Instr.sMov n dd ds, aluF 0 dd.toNat ds.toNat), (.sAdd n dd ds, aluF 1 dd.toNat ds.toNat),
      (.sSub n dd ds, aluF 2 dd.toNat ds.toNat), (.sAdc n dd ds, aluF 3 dd.toNat ds.toNat), (.sSbc n dd ds, aluF 4 dd.toNat ds.toNat),
      (.sMul n dd ds, aluF 13 dd.toNat ds.toNat), (.sMovq n dd v, quickF 0 dd.toNat v.toNat),
      (.sAddq n dd v, quickF 1 dd.toNat v.toNat), (.sMovi n dd imm, immF 0 dd.toNat imm), (.sAddi n dd imm, immF 1 dd.toNat imm),
      (.sCmpi n dd imm, immF 5 dd.toNat imm), (.sMovh n dd imm, immF 6 dd.toNat imm), (.sNeg n dd, unaryF 0 dd.toNat),
      (.sAbs n dd, unaryF 2 dd.toNat), (.sMtw n dd, unaryF 13 dd.toNat)]) : ∃ d, f c = .ok d := by
  simp only [List.mem_cons, Prod.mk.injEq, List.not_mem_nil, or_false] at hi
  rcases hi with ⟨rfl, rfl⟩ | ⟨rfl, rfl⟩ | ⟨rfl, rfl⟩ | ⟨rfl, rfl⟩ | ⟨rfl, rfl⟩ | ⟨rfl, rfl⟩ | ⟨rfl, rfl⟩ | ⟨rfl, rfl⟩ | ⟨rfl, rfl⟩ |
    ⟨rfl, rfl⟩ | ⟨rfl, rfl⟩ | ⟨rfl, rfl⟩ | ⟨rfl, rfl⟩ | ⟨rfl, rfl⟩ | ⟨rfl, rfl⟩
  · exact putOut_quiet c 1 _ _ (noOverflow_plain c _)
  · exact putOut_quiet c 1 _ _ h
  · exact putOut_quiet c 1 _ _ h
  · exact putOut_quiet c 1 _ _ h
  · exact putOut_quiet c 1 _ _ h
  · exact putOut_quiet c 1 _ _ h
  · exact putOut_quiet c 1 _ _ (noOverflow_plain c _)
  · exact putOut_quiet c 1 _ _ (by simpa [coreLegal] using h)
  · exact putOut_quiet c 2 _ _ (noOverflow_plain c _)
  · exact putOut_quiet c 2 _ _ h
  · exact ⟨_, rfl⟩
  · have g : imm.getLsbD 16 = false := h
    simp only [immF, g, Bool.false_eq_true, if_false]
    exact putOut_quiet c 2 _ _ (noOverflow_plain c _)
  · exact putOut_quiet c 1 _ _ h
  · exact putOut_quiet c 1 _ _ h
  · have g : c.extMode = false := h
    simp only [unaryF, g, Bool.false_eq_true, if_false]
    exact ⟨_, rfl⟩

end Sys2Proof.Machine
end

