-- ==== Sys2Proof/Laws/Table.lean ====
section
/-! SUPPORT. Sparse tables: what a read gives after a write, and that every write keeps the canonical form. -/
namespace Sys2Proof.Machine
open Sys2Proof

variable {α : Type}

@[simp] theorem Tbl.get_nil (d : α) (k : Nat) : Tbl.get d [] k = d := rfl

theorem Tbl.get_put (d : α) (m : Tbl α) (k j : Nat) (v : α) :
    Tbl.get d (Tbl.put m k v) j = if j = k then v else Tbl.get d m j := by
  induction m with
  | nil => simp [Tbl.put, Tbl.get, eq_comm]
  | cons p t ih =>
    obtain ⟨i, w⟩ := p
    by_cases h1 : k = i
    · subst h1; simp only [Tbl.put, Tbl.get, if_true]; by_cases h : k = j <;> simp [h, eq_comm]
    · by_cases h2 : k < i
      · simp only [Tbl.put, h1, h2, if_true, if_false, Tbl.get]
        by_cases h : k = j
        · simp [h]
        · simp [h, Ne.symm h]
      · simp only [Tbl.put, h1, h2, if_false, Tbl.get]
        by_cases h : i = j
        · subst h; simp [Ne.symm h1]
        · simp [h, ih]

theorem Tbl.get_del (d : α) (m : Tbl α) (k j : Nat) :
    Tbl.get d (Tbl.del m k) j = if j = k then d else Tbl.get d m j := by
  induction m with
  | nil => simp [Tbl.del, Tbl.get]
  | cons p t ih =>
    obtain ⟨i, w⟩ := p
    by_cases h : i = k
    · have e : Tbl.del ((i, w) :: t) k = Tbl.del t k := by simp [Tbl.del, h]
      rw [e, ih, Tbl.get]
      by_cases hj : j = k
      · simp [hj]
      · have : i ≠ j := by omega
        simp [hj, this]
    · have e : Tbl.del ((i, w) :: t) k = (i, w) :: Tbl.del t k := by simp [Tbl.del, h]
      rw [e, Tbl.get, ih, Tbl.get]
      by_cases hj : i = j
      · subst hj; simp [h]
      · simp [hj]

/-- A read after a write: the value written, or what was there. -/
theorem Tbl.get_set [DecidableEq α] (d : α) (m : Tbl α) (k j : Nat) (v : α) :
    Tbl.get d (Tbl.set d m k v) j = if j = k then v else Tbl.get d m j := by
  unfold Tbl.set
  by_cases h : v = d
  · rw [if_pos h, Tbl.get_del, h]
  · rw [if_neg h, Tbl.get_put]

@[simp] theorem Tbl.get_set_same [DecidableEq α] (d : α) (m : Tbl α) (k : Nat) (v : α) :
    Tbl.get d (Tbl.set d m k v) k = v := by simp [Tbl.get_set]

theorem Tbl.get_set_other [DecidableEq α] (d : α) (m : Tbl α) {k j : Nat} (v : α) (h : j ≠ k) :
    Tbl.get d (Tbl.set d m k v) j = Tbl.get d m j := by simp [Tbl.get_set, h]

/-- A read after a write of a run of entries. -/
theorem Tbl.get_setList [DecidableEq α] (d : α) (m : Tbl α) (k j : Nat) (vs : List α) :
    Tbl.get d (Tbl.setList d m k vs) j =
      if k ≤ j ∧ j < k + vs.length then vs.getD (j - k) d else Tbl.get d m j := by
  induction vs generalizing m k with
  | nil =>
    have : ¬ (k ≤ j ∧ j < k + ([] : List α).length) := by simp
    rw [if_neg this]; rfl
  | cons v vs ih =>
    rw [Tbl.setList, ih, Tbl.get_set]
    simp only [List.length_cons]
    by_cases h0 : j = k
    · subst h0
      rw [if_neg (by omega), if_pos rfl, if_pos (by omega)]; simp
    · by_cases h : k + 1 ≤ j ∧ j < k + 1 + vs.length
      · rw [if_pos h, if_pos (by omega)]
        obtain ⟨n, rfl⟩ : ∃ n, j = k + 1 + n := ⟨j - (k + 1), by omega⟩
        have e1 : k + 1 + n - (k + 1) = n := by omega
        have e2 : k + 1 + n - k = n + 1 := by omega
        rw [e1, e2]; simp
      · rw [if_neg h, if_neg h0, if_neg (by omega)]

/-! ### The canonical form -/

theorem Tbl.wfFrom_mono [DecidableEq α] (d : α) {a b : Nat} (h : a ≤ b) (m : Tbl α) :
    Tbl.wfFrom d b m = true → Tbl.wfFrom d a m = true := by
  cases m with
  | nil => simp [Tbl.wfFrom]
  | cons p t =>
    obtain ⟨i, w⟩ := p
    simp only [Tbl.wfFrom, Bool.and_eq_true, decide_eq_true_eq]
    rintro ⟨⟨h1, h2⟩, h3⟩
    exact ⟨⟨by omega, h2⟩, h3⟩

theorem Tbl.wfFrom_put [DecidableEq α] (d : α) (m : Tbl α) (k : Nat) (v : α) (hv : v ≠ d) (lo : Nat) (hk : lo ≤ k) :
    Tbl.wfFrom d lo m = true → Tbl.wfFrom d lo (Tbl.put m k v) = true := by
  induction m generalizing lo with
  | nil => intro _; simp [Tbl.put, Tbl.wfFrom, hk, hv]
  | cons p t ih =>
    obtain ⟨i, w⟩ := p
    simp only [Tbl.wfFrom, Bool.and_eq_true, decide_eq_true_eq]
    rintro ⟨⟨h1, h2⟩, h3⟩
    by_cases e1 : k = i
    · subst e1; simp [Tbl.put, Tbl.wfFrom, hk, hv, h3]
    · by_cases e2 : k < i
      · have h3' := Tbl.wfFrom_mono d (Nat.le_refl _) t h3
        simp [Tbl.put, e1, e2, Tbl.wfFrom, hk, hv, h2, h3']
      · simp only [Tbl.put, e1, e2, if_false, Tbl.wfFrom, Bool.and_eq_true, decide_eq_true_eq]
        exact ⟨⟨h1, h2⟩, ih (i + 1) (by omega) h3⟩

theorem Tbl.wfFrom_del [DecidableEq α] (d : α) (m : Tbl α) (k lo : Nat) :
    Tbl.wfFrom d lo m = true → Tbl.wfFrom d lo (Tbl.del m k) = true := by
  induction m generalizing lo with
  | nil => simp [Tbl.del]
  | cons p t ih =>
    obtain ⟨i, w⟩ := p
    simp only [Tbl.wfFrom, Bool.and_eq_true, decide_eq_true_eq]
    rintro ⟨⟨h1, h2⟩, h3⟩
    by_cases h : i = k
    · have e : Tbl.del ((i, w) :: t) k = Tbl.del t k := by simp [Tbl.del, h]
      rw [e]
      exact Tbl.wfFrom_mono d (by omega) _ (ih (i + 1) h3)
    · have e : Tbl.del ((i, w) :: t) k = (i, w) :: Tbl.del t k := by simp [Tbl.del, h]
      rw [e]
      simp only [Tbl.wfFrom, Bool.and_eq_true, decide_eq_true_eq]
      exact ⟨⟨h1, h2⟩, ih (i + 1) h3⟩

/-- A write of one entry keeps the canonical form. -/
theorem Tbl.wf_set [DecidableEq α] (d : α) (m : Tbl α) (k : Nat) (v : α) (h : Tbl.wf d m = true) :
    Tbl.wf d (Tbl.set d m k v) = true := by
  unfold Tbl.set Tbl.wf at *
  by_cases e : v = d
  · rw [if_pos e]; exact Tbl.wfFrom_del d m k 0 h
  · rw [if_neg e]; exact Tbl.wfFrom_put d m k v e 0 (Nat.zero_le _) h

/-- A write of a run of entries keeps the canonical form. -/
theorem Tbl.wf_setList [DecidableEq α] (d : α) (m : Tbl α) (k : Nat) (vs : List α) (h : Tbl.wf d m = true) :
    Tbl.wf d (Tbl.setList d m k vs) = true := by
  induction vs generalizing m k with
  | nil => exact h
  | cons v vs ih => exact ih _ _ (Tbl.wf_set d m k v h)

@[simp] theorem Tbl.wf_nil [DecidableEq α] (d : α) : Tbl.wf d ([] : Tbl α) = true := rfl

@[simp] theorem Tbl.length_getList (d : α) (m : Tbl α) (k n : Nat) : (Tbl.getList d m k n).length = n := by
  induction n generalizing k with
  | zero => rfl
  | succ n ih => simp [Tbl.getList, ih]

end Sys2Proof.Machine
end

