-- ==== Sys2Proof/Laws/State.lean ====
section
/-! SUPPORT. What each named update of the state leaves as it was, one lemma per field per update, and what a read gives
after a write. -/
namespace Sys2Proof.Machine
open Sys2Proof

/-! ### setEng -/

@[simp] theorem setEng_pending (n : Nat) (e : Engine) (s : State) : (setEng n e s).pending = s.pending := rfl
@[simp] theorem setEng_now (n : Nat) (e : Engine) (s : State) : (setEng n e s).now = s.now := rfl
@[simp] theorem setEng_free (n : Nat) (e : Engine) (s : State) : (setEng n e s).free = s.free := rfl
@[simp] theorem setEng_host (n : Nat) (e : Engine) (s : State) : (setEng n e s).host = s.host := rfl
@[simp] theorem setEng_hif (n : Nat) (e : Engine) (s : State) : (setEng n e s).hif = s.hif := rfl
@[simp] theorem setEng_drl (n : Nat) (e : Engine) (s : State) : (setEng n e s).drl = s.drl := rfl
@[simp] theorem setEng_hsa (n : Nat) (e : Engine) (s : State) : (setEng n e s).hsa = s.hsa := rfl
@[simp] theorem setEng_dge (n : Nat) (e : Engine) (s : State) : (setEng n e s).dge = s.dge := rfl
@[simp] theorem setEng_cvu (n : Nat) (e : Engine) (s : State) : (setEng n e s).cvu = s.cvu := rfl
@[simp] theorem setEng_seq (n : Nat) (e : Engine) (s : State) : (setEng n e s).seq = s.seq := rfl
@[simp] theorem setEng_kvt (n : Nat) (e : Engine) (s : State) : (setEng n e s).kvt = s.kvt := rfl
@[simp] theorem setEng_bbram (n : Nat) (e : Engine) (s : State) : (setEng n e s).bbram = s.bbram := rfl
@[simp] theorem setEng_ent (n : Nat) (e : Engine) (s : State) : (setEng n e s).ent = s.ent := rfl
@[simp] theorem setEng_mem (n : Nat) (e : Engine) (s : State) : (setEng n e s).mem = s.mem := rfl
@[simp] theorem setEng_pwr (n : Nat) (e : Engine) (s : State) : (setEng n e s).pwr = s.pwr := rfl
@[simp] theorem setEng_glb (n : Nat) (e : Engine) (s : State) : (setEng n e s).glb = s.glb := rfl
@[simp] theorem setEng_lcs (n : Nat) (e : Engine) (s : State) : (setEng n e s).lcs = s.lcs := rfl
@[simp] theorem setEng_dbg (n : Nat) (e : Engine) (s : State) : (setEng n e s).dbg = s.dbg := rfl
@[simp] theorem setEng_tmp (n : Nat) (e : Engine) (s : State) : (setEng n e s).tmp = s.tmp := rfl
@[simp] theorem setEng_flt (n : Nat) (e : Engine) (s : State) : (setEng n e s).flt = s.flt := rfl
@[simp] theorem setEng_cad (n : Nat) (e : Engine) (s : State) : (setEng n e s).cad = s.cad := rfl
@[simp] theorem setEng_tlk (n : Nat) (e : Engine) (s : State) : (setEng n e s).tlk = s.tlk := rfl
@[simp] theorem setEng_pins (n : Nat) (e : Engine) (s : State) : (setEng n e s).pins = s.pins := rfl
@[simp] theorem setEng_hub_aes (n : Nat) (e : Engine) (s : State) : (setEng n e s).hub.aes = s.hub.aes := rfl
@[simp] theorem setEng_hub_kmem (n : Nat) (e : Engine) (s : State) : (setEng n e s).hub.kmem = s.hub.kmem := rfl
@[simp] theorem setEng_hub_patch (n : Nat) (e : Engine) (s : State) : (setEng n e s).hub.patch = s.hub.patch := rfl
@[simp] theorem setEng_hub_recovery (n : Nat) (e : Engine) (s : State) : (setEng n e s).hub.recovery = s.hub.recovery := rfl

/-! ### setAes -/

@[simp] theorem setAes_pending (n : Nat) (c : AesCore) (s : State) : (setAes n c s).pending = s.pending := rfl
@[simp] theorem setAes_now (n : Nat) (c : AesCore) (s : State) : (setAes n c s).now = s.now := rfl
@[simp] theorem setAes_free (n : Nat) (c : AesCore) (s : State) : (setAes n c s).free = s.free := rfl
@[simp] theorem setAes_host (n : Nat) (c : AesCore) (s : State) : (setAes n c s).host = s.host := rfl
@[simp] theorem setAes_hif (n : Nat) (c : AesCore) (s : State) : (setAes n c s).hif = s.hif := rfl
@[simp] theorem setAes_drl (n : Nat) (c : AesCore) (s : State) : (setAes n c s).drl = s.drl := rfl
@[simp] theorem setAes_hsa (n : Nat) (c : AesCore) (s : State) : (setAes n c s).hsa = s.hsa := rfl
@[simp] theorem setAes_dge (n : Nat) (c : AesCore) (s : State) : (setAes n c s).dge = s.dge := rfl
@[simp] theorem setAes_cvu (n : Nat) (c : AesCore) (s : State) : (setAes n c s).cvu = s.cvu := rfl
@[simp] theorem setAes_seq (n : Nat) (c : AesCore) (s : State) : (setAes n c s).seq = s.seq := rfl
@[simp] theorem setAes_kvt (n : Nat) (c : AesCore) (s : State) : (setAes n c s).kvt = s.kvt := rfl
@[simp] theorem setAes_bbram (n : Nat) (c : AesCore) (s : State) : (setAes n c s).bbram = s.bbram := rfl
@[simp] theorem setAes_ent (n : Nat) (c : AesCore) (s : State) : (setAes n c s).ent = s.ent := rfl
@[simp] theorem setAes_mem (n : Nat) (c : AesCore) (s : State) : (setAes n c s).mem = s.mem := rfl
@[simp] theorem setAes_pwr (n : Nat) (c : AesCore) (s : State) : (setAes n c s).pwr = s.pwr := rfl
@[simp] theorem setAes_glb (n : Nat) (c : AesCore) (s : State) : (setAes n c s).glb = s.glb := rfl
@[simp] theorem setAes_lcs (n : Nat) (c : AesCore) (s : State) : (setAes n c s).lcs = s.lcs := rfl
@[simp] theorem setAes_dbg (n : Nat) (c : AesCore) (s : State) : (setAes n c s).dbg = s.dbg := rfl
@[simp] theorem setAes_tmp (n : Nat) (c : AesCore) (s : State) : (setAes n c s).tmp = s.tmp := rfl
@[simp] theorem setAes_flt (n : Nat) (c : AesCore) (s : State) : (setAes n c s).flt = s.flt := rfl
@[simp] theorem setAes_cad (n : Nat) (c : AesCore) (s : State) : (setAes n c s).cad = s.cad := rfl
@[simp] theorem setAes_tlk (n : Nat) (c : AesCore) (s : State) : (setAes n c s).tlk = s.tlk := rfl
@[simp] theorem setAes_pins (n : Nat) (c : AesCore) (s : State) : (setAes n c s).pins = s.pins := rfl
@[simp] theorem setAes_hub_eng (n : Nat) (c : AesCore) (s : State) : (setAes n c s).hub.eng = s.hub.eng := rfl
@[simp] theorem setAes_hub_kmem (n : Nat) (c : AesCore) (s : State) : (setAes n c s).hub.kmem = s.hub.kmem := rfl
@[simp] theorem setAes_hub_patch (n : Nat) (c : AesCore) (s : State) : (setAes n c s).hub.patch = s.hub.patch := rfl
@[simp] theorem setAes_hub_recovery (n : Nat) (c : AesCore) (s : State) : (setAes n c s).hub.recovery = s.hub.recovery := rfl

/-! ### setDge -/

@[simp] theorem setDge_pending (n : Nat) (u : Dge) (s : State) : (setDge n u s).pending = s.pending := rfl
@[simp] theorem setDge_now (n : Nat) (u : Dge) (s : State) : (setDge n u s).now = s.now := rfl
@[simp] theorem setDge_free (n : Nat) (u : Dge) (s : State) : (setDge n u s).free = s.free := rfl
@[simp] theorem setDge_host (n : Nat) (u : Dge) (s : State) : (setDge n u s).host = s.host := rfl
@[simp] theorem setDge_hif (n : Nat) (u : Dge) (s : State) : (setDge n u s).hif = s.hif := rfl
@[simp] theorem setDge_drl (n : Nat) (u : Dge) (s : State) : (setDge n u s).drl = s.drl := rfl
@[simp] theorem setDge_hub (n : Nat) (u : Dge) (s : State) : (setDge n u s).hub = s.hub := rfl
@[simp] theorem setDge_hsa (n : Nat) (u : Dge) (s : State) : (setDge n u s).hsa = s.hsa := rfl
@[simp] theorem setDge_cvu (n : Nat) (u : Dge) (s : State) : (setDge n u s).cvu = s.cvu := rfl
@[simp] theorem setDge_seq (n : Nat) (u : Dge) (s : State) : (setDge n u s).seq = s.seq := rfl
@[simp] theorem setDge_kvt (n : Nat) (u : Dge) (s : State) : (setDge n u s).kvt = s.kvt := rfl
@[simp] theorem setDge_bbram (n : Nat) (u : Dge) (s : State) : (setDge n u s).bbram = s.bbram := rfl
@[simp] theorem setDge_ent (n : Nat) (u : Dge) (s : State) : (setDge n u s).ent = s.ent := rfl
@[simp] theorem setDge_mem (n : Nat) (u : Dge) (s : State) : (setDge n u s).mem = s.mem := rfl
@[simp] theorem setDge_pwr (n : Nat) (u : Dge) (s : State) : (setDge n u s).pwr = s.pwr := rfl
@[simp] theorem setDge_glb (n : Nat) (u : Dge) (s : State) : (setDge n u s).glb = s.glb := rfl
@[simp] theorem setDge_lcs (n : Nat) (u : Dge) (s : State) : (setDge n u s).lcs = s.lcs := rfl
@[simp] theorem setDge_dbg (n : Nat) (u : Dge) (s : State) : (setDge n u s).dbg = s.dbg := rfl
@[simp] theorem setDge_tmp (n : Nat) (u : Dge) (s : State) : (setDge n u s).tmp = s.tmp := rfl
@[simp] theorem setDge_flt (n : Nat) (u : Dge) (s : State) : (setDge n u s).flt = s.flt := rfl
@[simp] theorem setDge_cad (n : Nat) (u : Dge) (s : State) : (setDge n u s).cad = s.cad := rfl
@[simp] theorem setDge_tlk (n : Nat) (u : Dge) (s : State) : (setDge n u s).tlk = s.tlk := rfl
@[simp] theorem setDge_pins (n : Nat) (u : Dge) (s : State) : (setDge n u s).pins = s.pins := rfl

/-! ### setCvu -/

@[simp] theorem setCvu_pending (n : Nat) (u : Cvu) (s : State) : (setCvu n u s).pending = s.pending := rfl
@[simp] theorem setCvu_now (n : Nat) (u : Cvu) (s : State) : (setCvu n u s).now = s.now := rfl
@[simp] theorem setCvu_free (n : Nat) (u : Cvu) (s : State) : (setCvu n u s).free = s.free := rfl
@[simp] theorem setCvu_host (n : Nat) (u : Cvu) (s : State) : (setCvu n u s).host = s.host := rfl
@[simp] theorem setCvu_hif (n : Nat) (u : Cvu) (s : State) : (setCvu n u s).hif = s.hif := rfl
@[simp] theorem setCvu_drl (n : Nat) (u : Cvu) (s : State) : (setCvu n u s).drl = s.drl := rfl
@[simp] theorem setCvu_hub (n : Nat) (u : Cvu) (s : State) : (setCvu n u s).hub = s.hub := rfl
@[simp] theorem setCvu_hsa (n : Nat) (u : Cvu) (s : State) : (setCvu n u s).hsa = s.hsa := rfl
@[simp] theorem setCvu_dge (n : Nat) (u : Cvu) (s : State) : (setCvu n u s).dge = s.dge := rfl
@[simp] theorem setCvu_seq (n : Nat) (u : Cvu) (s : State) : (setCvu n u s).seq = s.seq := rfl
@[simp] theorem setCvu_kvt (n : Nat) (u : Cvu) (s : State) : (setCvu n u s).kvt = s.kvt := rfl
@[simp] theorem setCvu_bbram (n : Nat) (u : Cvu) (s : State) : (setCvu n u s).bbram = s.bbram := rfl
@[simp] theorem setCvu_ent (n : Nat) (u : Cvu) (s : State) : (setCvu n u s).ent = s.ent := rfl
@[simp] theorem setCvu_mem (n : Nat) (u : Cvu) (s : State) : (setCvu n u s).mem = s.mem := rfl
@[simp] theorem setCvu_pwr (n : Nat) (u : Cvu) (s : State) : (setCvu n u s).pwr = s.pwr := rfl
@[simp] theorem setCvu_glb (n : Nat) (u : Cvu) (s : State) : (setCvu n u s).glb = s.glb := rfl
@[simp] theorem setCvu_lcs (n : Nat) (u : Cvu) (s : State) : (setCvu n u s).lcs = s.lcs := rfl
@[simp] theorem setCvu_dbg (n : Nat) (u : Cvu) (s : State) : (setCvu n u s).dbg = s.dbg := rfl
@[simp] theorem setCvu_tmp (n : Nat) (u : Cvu) (s : State) : (setCvu n u s).tmp = s.tmp := rfl
@[simp] theorem setCvu_flt (n : Nat) (u : Cvu) (s : State) : (setCvu n u s).flt = s.flt := rfl
@[simp] theorem setCvu_cad (n : Nat) (u : Cvu) (s : State) : (setCvu n u s).cad = s.cad := rfl
@[simp] theorem setCvu_tlk (n : Nat) (u : Cvu) (s : State) : (setCvu n u s).tlk = s.tlk := rfl
@[simp] theorem setCvu_pins (n : Nat) (u : Cvu) (s : State) : (setCvu n u s).pins = s.pins := rfl

/-! ### setCore -/

@[simp] theorem setCore_pending (n : Nat) (c : Core) (s : State) : (setCore n c s).pending = s.pending := rfl
@[simp] theorem setCore_now (n : Nat) (c : Core) (s : State) : (setCore n c s).now = s.now := rfl
@[simp] theorem setCore_free (n : Nat) (c : Core) (s : State) : (setCore n c s).free = s.free := rfl
@[simp] theorem setCore_host (n : Nat) (c : Core) (s : State) : (setCore n c s).host = s.host := rfl
@[simp] theorem setCore_hif (n : Nat) (c : Core) (s : State) : (setCore n c s).hif = s.hif := rfl
@[simp] theorem setCore_drl (n : Nat) (c : Core) (s : State) : (setCore n c s).drl = s.drl := rfl
@[simp] theorem setCore_hub (n : Nat) (c : Core) (s : State) : (setCore n c s).hub = s.hub := rfl
@[simp] theorem setCore_hsa (n : Nat) (c : Core) (s : State) : (setCore n c s).hsa = s.hsa := rfl
@[simp] theorem setCore_dge (n : Nat) (c : Core) (s : State) : (setCore n c s).dge = s.dge := rfl
@[simp] theorem setCore_cvu (n : Nat) (c : Core) (s : State) : (setCore n c s).cvu = s.cvu := rfl
@[simp] theorem setCore_kvt (n : Nat) (c : Core) (s : State) : (setCore n c s).kvt = s.kvt := rfl
@[simp] theorem setCore_bbram (n : Nat) (c : Core) (s : State) : (setCore n c s).bbram = s.bbram := rfl
@[simp] theorem setCore_ent (n : Nat) (c : Core) (s : State) : (setCore n c s).ent = s.ent := rfl
@[simp] theorem setCore_mem (n : Nat) (c : Core) (s : State) : (setCore n c s).mem = s.mem := rfl
@[simp] theorem setCore_pwr (n : Nat) (c : Core) (s : State) : (setCore n c s).pwr = s.pwr := rfl
@[simp] theorem setCore_glb (n : Nat) (c : Core) (s : State) : (setCore n c s).glb = s.glb := rfl
@[simp] theorem setCore_lcs (n : Nat) (c : Core) (s : State) : (setCore n c s).lcs = s.lcs := rfl
@[simp] theorem setCore_dbg (n : Nat) (c : Core) (s : State) : (setCore n c s).dbg = s.dbg := rfl
@[simp] theorem setCore_tmp (n : Nat) (c : Core) (s : State) : (setCore n c s).tmp = s.tmp := rfl
@[simp] theorem setCore_flt (n : Nat) (c : Core) (s : State) : (setCore n c s).flt = s.flt := rfl
@[simp] theorem setCore_cad (n : Nat) (c : Core) (s : State) : (setCore n c s).cad = s.cad := rfl
@[simp] theorem setCore_tlk (n : Nat) (c : Core) (s : State) : (setCore n c s).tlk = s.tlk := rfl
@[simp] theorem setCore_pins (n : Nat) (c : Core) (s : State) : (setCore n c s).pins = s.pins := rfl
@[simp] theorem setCore_seq_image (n : Nat) (c : Core) (s : State) : (setCore n c s).seq.image = s.seq.image := rfl
@[simp] theorem setCore_seq_exts (n : Nat) (c : Core) (s : State) : (setCore n c s).seq.exts = s.seq.exts := rfl

/-! ### setQp -/

@[simp] theorem setQp_pending (p q : Nat) (v : Qp) (s : State) : (setQp p q v s).pending = s.pending := rfl
@[simp] theorem setQp_now (p q : Nat) (v : Qp) (s : State) : (setQp p q v s).now = s.now := rfl
@[simp] theorem setQp_free (p q : Nat) (v : Qp) (s : State) : (setQp p q v s).free = s.free := rfl
@[simp] theorem setQp_host (p q : Nat) (v : Qp) (s : State) : (setQp p q v s).host = s.host := rfl
@[simp] theorem setQp_drl (p q : Nat) (v : Qp) (s : State) : (setQp p q v s).drl = s.drl := rfl
@[simp] theorem setQp_hub (p q : Nat) (v : Qp) (s : State) : (setQp p q v s).hub = s.hub := rfl
@[simp] theorem setQp_hsa (p q : Nat) (v : Qp) (s : State) : (setQp p q v s).hsa = s.hsa := rfl
@[simp] theorem setQp_dge (p q : Nat) (v : Qp) (s : State) : (setQp p q v s).dge = s.dge := rfl
@[simp] theorem setQp_cvu (p q : Nat) (v : Qp) (s : State) : (setQp p q v s).cvu = s.cvu := rfl
@[simp] theorem setQp_seq (p q : Nat) (v : Qp) (s : State) : (setQp p q v s).seq = s.seq := rfl
@[simp] theorem setQp_kvt (p q : Nat) (v : Qp) (s : State) : (setQp p q v s).kvt = s.kvt := rfl
@[simp] theorem setQp_bbram (p q : Nat) (v : Qp) (s : State) : (setQp p q v s).bbram = s.bbram := rfl
@[simp] theorem setQp_ent (p q : Nat) (v : Qp) (s : State) : (setQp p q v s).ent = s.ent := rfl
@[simp] theorem setQp_mem (p q : Nat) (v : Qp) (s : State) : (setQp p q v s).mem = s.mem := rfl
@[simp] theorem setQp_pwr (p q : Nat) (v : Qp) (s : State) : (setQp p q v s).pwr = s.pwr := rfl
@[simp] theorem setQp_glb (p q : Nat) (v : Qp) (s : State) : (setQp p q v s).glb = s.glb := rfl
@[simp] theorem setQp_lcs (p q : Nat) (v : Qp) (s : State) : (setQp p q v s).lcs = s.lcs := rfl
@[simp] theorem setQp_dbg (p q : Nat) (v : Qp) (s : State) : (setQp p q v s).dbg = s.dbg := rfl
@[simp] theorem setQp_tmp (p q : Nat) (v : Qp) (s : State) : (setQp p q v s).tmp = s.tmp := rfl
@[simp] theorem setQp_flt (p q : Nat) (v : Qp) (s : State) : (setQp p q v s).flt = s.flt := rfl
@[simp] theorem setQp_cad (p q : Nat) (v : Qp) (s : State) : (setQp p q v s).cad = s.cad := rfl
@[simp] theorem setQp_tlk (p q : Nat) (v : Qp) (s : State) : (setQp p q v s).tlk = s.tlk := rfl
@[simp] theorem setQp_pins (p q : Nat) (v : Qp) (s : State) : (setQp p q v s).pins = s.pins := rfl
@[simp] theorem setQp_hif_port (p q : Nat) (v : Qp) (s : State) : (setQp p q v s).hif.port = s.hif.port := rfl
@[simp] theorem setQp_hif_msix (p q : Nat) (v : Qp) (s : State) : (setQp p q v s).hif.msix = s.hif.msix := rfl
@[simp] theorem setQp_hif_cmds (p q : Nat) (v : Qp) (s : State) : (setQp p q v s).hif.cmds = s.hif.cmds := rfl
@[simp] theorem setQp_hif_nextId (p q : Nat) (v : Qp) (s : State) : (setQp p q v s).hif.nextId = s.hif.nextId := rfl
@[simp] theorem setQp_hif_stamp (p q : Nat) (v : Qp) (s : State) : (setQp p q v s).hif.stamp = s.hif.stamp := rfl
@[simp] theorem setQp_hif_ts (p q : Nat) (v : Qp) (s : State) : (setQp p q v s).hif.ts = s.hif.ts := rfl
@[simp] theorem setQp_hif_counting (p q : Nat) (v : Qp) (s : State) : (setQp p q v s).hif.counting = s.hif.counting := rfl
@[simp] theorem setQp_hif_asleep (p q : Nat) (v : Qp) (s : State) : (setQp p q v s).hif.asleep = s.hif.asleep := rfl
@[simp] theorem setQp_hif_reach (p q : Nat) (v : Qp) (s : State) : (setQp p q v s).hif.reach = s.hif.reach := rfl
@[simp] theorem setQp_hif_inst (p q : Nat) (v : Qp) (s : State) : (setQp p q v s).hif.inst = s.hif.inst := rfl
@[simp] theorem setQp_hif_perms (p q : Nat) (v : Qp) (s : State) : (setQp p q v s).hif.perms = s.hif.perms := rfl

/-! ### setInst -/

@[simp] theorem setInst_pending (i : Nat) (v : Inst) (s : State) : (setInst i v s).pending = s.pending := rfl
@[simp] theorem setInst_now (i : Nat) (v : Inst) (s : State) : (setInst i v s).now = s.now := rfl
@[simp] theorem setInst_free (i : Nat) (v : Inst) (s : State) : (setInst i v s).free = s.free := rfl
@[simp] theorem setInst_host (i : Nat) (v : Inst) (s : State) : (setInst i v s).host = s.host := rfl
@[simp] theorem setInst_drl (i : Nat) (v : Inst) (s : State) : (setInst i v s).drl = s.drl := rfl
@[simp] theorem setInst_hub (i : Nat) (v : Inst) (s : State) : (setInst i v s).hub = s.hub := rfl
@[simp] theorem setInst_hsa (i : Nat) (v : Inst) (s : State) : (setInst i v s).hsa = s.hsa := rfl
@[simp] theorem setInst_dge (i : Nat) (v : Inst) (s : State) : (setInst i v s).dge = s.dge := rfl
@[simp] theorem setInst_cvu (i : Nat) (v : Inst) (s : State) : (setInst i v s).cvu = s.cvu := rfl
@[simp] theorem setInst_seq (i : Nat) (v : Inst) (s : State) : (setInst i v s).seq = s.seq := rfl
@[simp] theorem setInst_kvt (i : Nat) (v : Inst) (s : State) : (setInst i v s).kvt = s.kvt := rfl
@[simp] theorem setInst_bbram (i : Nat) (v : Inst) (s : State) : (setInst i v s).bbram = s.bbram := rfl
@[simp] theorem setInst_ent (i : Nat) (v : Inst) (s : State) : (setInst i v s).ent = s.ent := rfl
@[simp] theorem setInst_mem (i : Nat) (v : Inst) (s : State) : (setInst i v s).mem = s.mem := rfl
@[simp] theorem setInst_pwr (i : Nat) (v : Inst) (s : State) : (setInst i v s).pwr = s.pwr := rfl
@[simp] theorem setInst_glb (i : Nat) (v : Inst) (s : State) : (setInst i v s).glb = s.glb := rfl
@[simp] theorem setInst_lcs (i : Nat) (v : Inst) (s : State) : (setInst i v s).lcs = s.lcs := rfl
@[simp] theorem setInst_dbg (i : Nat) (v : Inst) (s : State) : (setInst i v s).dbg = s.dbg := rfl
@[simp] theorem setInst_tmp (i : Nat) (v : Inst) (s : State) : (setInst i v s).tmp = s.tmp := rfl
@[simp] theorem setInst_flt (i : Nat) (v : Inst) (s : State) : (setInst i v s).flt = s.flt := rfl
@[simp] theorem setInst_cad (i : Nat) (v : Inst) (s : State) : (setInst i v s).cad = s.cad := rfl
@[simp] theorem setInst_tlk (i : Nat) (v : Inst) (s : State) : (setInst i v s).tlk = s.tlk := rfl
@[simp] theorem setInst_pins (i : Nat) (v : Inst) (s : State) : (setInst i v s).pins = s.pins := rfl
@[simp] theorem setInst_hif_qps (i : Nat) (v : Inst) (s : State) : (setInst i v s).hif.qps = s.hif.qps := rfl
@[simp] theorem setInst_hif_port (i : Nat) (v : Inst) (s : State) : (setInst i v s).hif.port = s.hif.port := rfl
@[simp] theorem setInst_hif_msix (i : Nat) (v : Inst) (s : State) : (setInst i v s).hif.msix = s.hif.msix := rfl
@[simp] theorem setInst_hif_cmds (i : Nat) (v : Inst) (s : State) : (setInst i v s).hif.cmds = s.hif.cmds := rfl
@[simp] theorem setInst_hif_nextId (i : Nat) (v : Inst) (s : State) : (setInst i v s).hif.nextId = s.hif.nextId := rfl
@[simp] theorem setInst_hif_stamp (i : Nat) (v : Inst) (s : State) : (setInst i v s).hif.stamp = s.hif.stamp := rfl
@[simp] theorem setInst_hif_ts (i : Nat) (v : Inst) (s : State) : (setInst i v s).hif.ts = s.hif.ts := rfl
@[simp] theorem setInst_hif_counting (i : Nat) (v : Inst) (s : State) : (setInst i v s).hif.counting = s.hif.counting := rfl
@[simp] theorem setInst_hif_asleep (i : Nat) (v : Inst) (s : State) : (setInst i v s).hif.asleep = s.hif.asleep := rfl
@[simp] theorem setInst_hif_reach (i : Nat) (v : Inst) (s : State) : (setInst i v s).hif.reach = s.hif.reach := rfl
@[simp] theorem setInst_hif_perms (i : Nat) (v : Inst) (s : State) : (setInst i v s).hif.perms = s.hif.perms := rfl

/-! ### setPort -/

@[simp] theorem setPort_pending (p : Nat) (v : Port) (s : State) : (setPort p v s).pending = s.pending := rfl
@[simp] theorem setPort_now (p : Nat) (v : Port) (s : State) : (setPort p v s).now = s.now := rfl
@[simp] theorem setPort_free (p : Nat) (v : Port) (s : State) : (setPort p v s).free = s.free := rfl
@[simp] theorem setPort_host (p : Nat) (v : Port) (s : State) : (setPort p v s).host = s.host := rfl
@[simp] theorem setPort_drl (p : Nat) (v : Port) (s : State) : (setPort p v s).drl = s.drl := rfl
@[simp] theorem setPort_hub (p : Nat) (v : Port) (s : State) : (setPort p v s).hub = s.hub := rfl
@[simp] theorem setPort_hsa (p : Nat) (v : Port) (s : State) : (setPort p v s).hsa = s.hsa := rfl
@[simp] theorem setPort_dge (p : Nat) (v : Port) (s : State) : (setPort p v s).dge = s.dge := rfl
@[simp] theorem setPort_cvu (p : Nat) (v : Port) (s : State) : (setPort p v s).cvu = s.cvu := rfl
@[simp] theorem setPort_seq (p : Nat) (v : Port) (s : State) : (setPort p v s).seq = s.seq := rfl
@[simp] theorem setPort_kvt (p : Nat) (v : Port) (s : State) : (setPort p v s).kvt = s.kvt := rfl
@[simp] theorem setPort_bbram (p : Nat) (v : Port) (s : State) : (setPort p v s).bbram = s.bbram := rfl
@[simp] theorem setPort_ent (p : Nat) (v : Port) (s : State) : (setPort p v s).ent = s.ent := rfl
@[simp] theorem setPort_mem (p : Nat) (v : Port) (s : State) : (setPort p v s).mem = s.mem := rfl
@[simp] theorem setPort_pwr (p : Nat) (v : Port) (s : State) : (setPort p v s).pwr = s.pwr := rfl
@[simp] theorem setPort_glb (p : Nat) (v : Port) (s : State) : (setPort p v s).glb = s.glb := rfl
@[simp] theorem setPort_lcs (p : Nat) (v : Port) (s : State) : (setPort p v s).lcs = s.lcs := rfl
@[simp] theorem setPort_dbg (p : Nat) (v : Port) (s : State) : (setPort p v s).dbg = s.dbg := rfl
@[simp] theorem setPort_tmp (p : Nat) (v : Port) (s : State) : (setPort p v s).tmp = s.tmp := rfl
@[simp] theorem setPort_flt (p : Nat) (v : Port) (s : State) : (setPort p v s).flt = s.flt := rfl
@[simp] theorem setPort_cad (p : Nat) (v : Port) (s : State) : (setPort p v s).cad = s.cad := rfl
@[simp] theorem setPort_tlk (p : Nat) (v : Port) (s : State) : (setPort p v s).tlk = s.tlk := rfl
@[simp] theorem setPort_pins (p : Nat) (v : Port) (s : State) : (setPort p v s).pins = s.pins := rfl
@[simp] theorem setPort_hif_qps (p : Nat) (v : Port) (s : State) : (setPort p v s).hif.qps = s.hif.qps := rfl
@[simp] theorem setPort_hif_msix (p : Nat) (v : Port) (s : State) : (setPort p v s).hif.msix = s.hif.msix := rfl
@[simp] theorem setPort_hif_cmds (p : Nat) (v : Port) (s : State) : (setPort p v s).hif.cmds = s.hif.cmds := rfl
@[simp] theorem setPort_hif_nextId (p : Nat) (v : Port) (s : State) : (setPort p v s).hif.nextId = s.hif.nextId := rfl
@[simp] theorem setPort_hif_stamp (p : Nat) (v : Port) (s : State) : (setPort p v s).hif.stamp = s.hif.stamp := rfl
@[simp] theorem setPort_hif_ts (p : Nat) (v : Port) (s : State) : (setPort p v s).hif.ts = s.hif.ts := rfl
@[simp] theorem setPort_hif_counting (p : Nat) (v : Port) (s : State) : (setPort p v s).hif.counting = s.hif.counting := rfl
@[simp] theorem setPort_hif_asleep (p : Nat) (v : Port) (s : State) : (setPort p v s).hif.asleep = s.hif.asleep := rfl
@[simp] theorem setPort_hif_reach (p : Nat) (v : Port) (s : State) : (setPort p v s).hif.reach = s.hif.reach := rfl
@[simp] theorem setPort_hif_inst (p : Nat) (v : Port) (s : State) : (setPort p v s).hif.inst = s.hif.inst := rfl
@[simp] theorem setPort_hif_perms (p : Nat) (v : Port) (s : State) : (setPort p v s).hif.perms = s.hif.perms := rfl

/-! ### setMsix -/

@[simp] theorem setMsix_pending (p v : Nat) (m : Msix) (s : State) : (setMsix p v m s).pending = s.pending := rfl
@[simp] theorem setMsix_now (p v : Nat) (m : Msix) (s : State) : (setMsix p v m s).now = s.now := rfl
@[simp] theorem setMsix_free (p v : Nat) (m : Msix) (s : State) : (setMsix p v m s).free = s.free := rfl
@[simp] theorem setMsix_host (p v : Nat) (m : Msix) (s : State) : (setMsix p v m s).host = s.host := rfl
@[simp] theorem setMsix_drl (p v : Nat) (m : Msix) (s : State) : (setMsix p v m s).drl = s.drl := rfl
@[simp] theorem setMsix_hub (p v : Nat) (m : Msix) (s : State) : (setMsix p v m s).hub = s.hub := rfl
@[simp] theorem setMsix_hsa (p v : Nat) (m : Msix) (s : State) : (setMsix p v m s).hsa = s.hsa := rfl
@[simp] theorem setMsix_dge (p v : Nat) (m : Msix) (s : State) : (setMsix p v m s).dge = s.dge := rfl
@[simp] theorem setMsix_cvu (p v : Nat) (m : Msix) (s : State) : (setMsix p v m s).cvu = s.cvu := rfl
@[simp] theorem setMsix_seq (p v : Nat) (m : Msix) (s : State) : (setMsix p v m s).seq = s.seq := rfl
@[simp] theorem setMsix_kvt (p v : Nat) (m : Msix) (s : State) : (setMsix p v m s).kvt = s.kvt := rfl
@[simp] theorem setMsix_bbram (p v : Nat) (m : Msix) (s : State) : (setMsix p v m s).bbram = s.bbram := rfl
@[simp] theorem setMsix_ent (p v : Nat) (m : Msix) (s : State) : (setMsix p v m s).ent = s.ent := rfl
@[simp] theorem setMsix_mem (p v : Nat) (m : Msix) (s : State) : (setMsix p v m s).mem = s.mem := rfl
@[simp] theorem setMsix_pwr (p v : Nat) (m : Msix) (s : State) : (setMsix p v m s).pwr = s.pwr := rfl
@[simp] theorem setMsix_glb (p v : Nat) (m : Msix) (s : State) : (setMsix p v m s).glb = s.glb := rfl
@[simp] theorem setMsix_lcs (p v : Nat) (m : Msix) (s : State) : (setMsix p v m s).lcs = s.lcs := rfl
@[simp] theorem setMsix_dbg (p v : Nat) (m : Msix) (s : State) : (setMsix p v m s).dbg = s.dbg := rfl
@[simp] theorem setMsix_tmp (p v : Nat) (m : Msix) (s : State) : (setMsix p v m s).tmp = s.tmp := rfl
@[simp] theorem setMsix_flt (p v : Nat) (m : Msix) (s : State) : (setMsix p v m s).flt = s.flt := rfl
@[simp] theorem setMsix_cad (p v : Nat) (m : Msix) (s : State) : (setMsix p v m s).cad = s.cad := rfl
@[simp] theorem setMsix_tlk (p v : Nat) (m : Msix) (s : State) : (setMsix p v m s).tlk = s.tlk := rfl
@[simp] theorem setMsix_pins (p v : Nat) (m : Msix) (s : State) : (setMsix p v m s).pins = s.pins := rfl
@[simp] theorem setMsix_hif_qps (p v : Nat) (m : Msix) (s : State) : (setMsix p v m s).hif.qps = s.hif.qps := rfl
@[simp] theorem setMsix_hif_port (p v : Nat) (m : Msix) (s : State) : (setMsix p v m s).hif.port = s.hif.port := rfl
@[simp] theorem setMsix_hif_cmds (p v : Nat) (m : Msix) (s : State) : (setMsix p v m s).hif.cmds = s.hif.cmds := rfl
@[simp] theorem setMsix_hif_nextId (p v : Nat) (m : Msix) (s : State) : (setMsix p v m s).hif.nextId = s.hif.nextId := rfl
@[simp] theorem setMsix_hif_stamp (p v : Nat) (m : Msix) (s : State) : (setMsix p v m s).hif.stamp = s.hif.stamp := rfl
@[simp] theorem setMsix_hif_ts (p v : Nat) (m : Msix) (s : State) : (setMsix p v m s).hif.ts = s.hif.ts := rfl
@[simp] theorem setMsix_hif_counting (p v : Nat) (m : Msix) (s : State) : (setMsix p v m s).hif.counting = s.hif.counting := rfl
@[simp] theorem setMsix_hif_asleep (p v : Nat) (m : Msix) (s : State) : (setMsix p v m s).hif.asleep = s.hif.asleep := rfl
@[simp] theorem setMsix_hif_reach (p v : Nat) (m : Msix) (s : State) : (setMsix p v m s).hif.reach = s.hif.reach := rfl
@[simp] theorem setMsix_hif_inst (p v : Nat) (m : Msix) (s : State) : (setMsix p v m s).hif.inst = s.hif.inst := rfl
@[simp] theorem setMsix_hif_perms (p v : Nat) (m : Msix) (s : State) : (setMsix p v m s).hif.perms = s.hif.perms := rfl

/-! ### setPerm -/

@[simp] theorem setPerm_pending (i g : Nat) (v : Bool) (s : State) : (setPerm i g v s).pending = s.pending := rfl
@[simp] theorem setPerm_now (i g : Nat) (v : Bool) (s : State) : (setPerm i g v s).now = s.now := rfl
@[simp] theorem setPerm_free (i g : Nat) (v : Bool) (s : State) : (setPerm i g v s).free = s.free := rfl
@[simp] theorem setPerm_host (i g : Nat) (v : Bool) (s : State) : (setPerm i g v s).host = s.host := rfl
@[simp] theorem setPerm_drl (i g : Nat) (v : Bool) (s : State) : (setPerm i g v s).drl = s.drl := rfl
@[simp] theorem setPerm_hub (i g : Nat) (v : Bool) (s : State) : (setPerm i g v s).hub = s.hub := rfl
@[simp] theorem setPerm_hsa (i g : Nat) (v : Bool) (s : State) : (setPerm i g v s).hsa = s.hsa := rfl
@[simp] theorem setPerm_dge (i g : Nat) (v : Bool) (s : State) : (setPerm i g v s).dge = s.dge := rfl
@[simp] theorem setPerm_cvu (i g : Nat) (v : Bool) (s : State) : (setPerm i g v s).cvu = s.cvu := rfl
@[simp] theorem setPerm_seq (i g : Nat) (v : Bool) (s : State) : (setPerm i g v s).seq = s.seq := rfl
@[simp] theorem setPerm_kvt (i g : Nat) (v : Bool) (s : State) : (setPerm i g v s).kvt = s.kvt := rfl
@[simp] theorem setPerm_bbram (i g : Nat) (v : Bool) (s : State) : (setPerm i g v s).bbram = s.bbram := rfl
@[simp] theorem setPerm_ent (i g : Nat) (v : Bool) (s : State) : (setPerm i g v s).ent = s.ent := rfl
@[simp] theorem setPerm_mem (i g : Nat) (v : Bool) (s : State) : (setPerm i g v s).mem = s.mem := rfl
@[simp] theorem setPerm_pwr (i g : Nat) (v : Bool) (s : State) : (setPerm i g v s).pwr = s.pwr := rfl
@[simp] theorem setPerm_glb (i g : Nat) (v : Bool) (s : State) : (setPerm i g v s).glb = s.glb := rfl
@[simp] theorem setPerm_lcs (i g : Nat) (v : Bool) (s : State) : (setPerm i g v s).lcs = s.lcs := rfl
@[simp] theorem setPerm_dbg (i g : Nat) (v : Bool) (s : State) : (setPerm i g v s).dbg = s.dbg := rfl
@[simp] theorem setPerm_tmp (i g : Nat) (v : Bool) (s : State) : (setPerm i g v s).tmp = s.tmp := rfl
@[simp] theorem setPerm_flt (i g : Nat) (v : Bool) (s : State) : (setPerm i g v s).flt = s.flt := rfl
@[simp] theorem setPerm_cad (i g : Nat) (v : Bool) (s : State) : (setPerm i g v s).cad = s.cad := rfl
@[simp] theorem setPerm_tlk (i g : Nat) (v : Bool) (s : State) : (setPerm i g v s).tlk = s.tlk := rfl
@[simp] theorem setPerm_pins (i g : Nat) (v : Bool) (s : State) : (setPerm i g v s).pins = s.pins := rfl
@[simp] theorem setPerm_hif_qps (i g : Nat) (v : Bool) (s : State) : (setPerm i g v s).hif.qps = s.hif.qps := rfl
@[simp] theorem setPerm_hif_port (i g : Nat) (v : Bool) (s : State) : (setPerm i g v s).hif.port = s.hif.port := rfl
@[simp] theorem setPerm_hif_msix (i g : Nat) (v : Bool) (s : State) : (setPerm i g v s).hif.msix = s.hif.msix := rfl
@[simp] theorem setPerm_hif_cmds (i g : Nat) (v : Bool) (s : State) : (setPerm i g v s).hif.cmds = s.hif.cmds := rfl
@[simp] theorem setPerm_hif_nextId (i g : Nat) (v : Bool) (s : State) : (setPerm i g v s).hif.nextId = s.hif.nextId := rfl
@[simp] theorem setPerm_hif_stamp (i g : Nat) (v : Bool) (s : State) : (setPerm i g v s).hif.stamp = s.hif.stamp := rfl
@[simp] theorem setPerm_hif_ts (i g : Nat) (v : Bool) (s : State) : (setPerm i g v s).hif.ts = s.hif.ts := rfl
@[simp] theorem setPerm_hif_counting (i g : Nat) (v : Bool) (s : State) : (setPerm i g v s).hif.counting = s.hif.counting := rfl
@[simp] theorem setPerm_hif_asleep (i g : Nat) (v : Bool) (s : State) : (setPerm i g v s).hif.asleep = s.hif.asleep := rfl
@[simp] theorem setPerm_hif_reach (i g : Nat) (v : Bool) (s : State) : (setPerm i g v s).hif.reach = s.hif.reach := rfl
@[simp] theorem setPerm_hif_inst (i g : Nat) (v : Bool) (s : State) : (setPerm i g v s).hif.inst = s.hif.inst := rfl

/-! ### setSrc -/

@[simp] theorem setSrc_pending (n : Nat) (v : Source) (s : State) : (setSrc n v s).pending = s.pending := rfl
@[simp] theorem setSrc_now (n : Nat) (v : Source) (s : State) : (setSrc n v s).now = s.now := rfl
@[simp] theorem setSrc_free (n : Nat) (v : Source) (s : State) : (setSrc n v s).free = s.free := rfl
@[simp] theorem setSrc_host (n : Nat) (v : Source) (s : State) : (setSrc n v s).host = s.host := rfl
@[simp] theorem setSrc_hif (n : Nat) (v : Source) (s : State) : (setSrc n v s).hif = s.hif := rfl
@[simp] theorem setSrc_drl (n : Nat) (v : Source) (s : State) : (setSrc n v s).drl = s.drl := rfl
@[simp] theorem setSrc_hub (n : Nat) (v : Source) (s : State) : (setSrc n v s).hub = s.hub := rfl
@[simp] theorem setSrc_hsa (n : Nat) (v : Source) (s : State) : (setSrc n v s).hsa = s.hsa := rfl
@[simp] theorem setSrc_dge (n : Nat) (v : Source) (s : State) : (setSrc n v s).dge = s.dge := rfl
@[simp] theorem setSrc_cvu (n : Nat) (v : Source) (s : State) : (setSrc n v s).cvu = s.cvu := rfl
@[simp] theorem setSrc_seq (n : Nat) (v : Source) (s : State) : (setSrc n v s).seq = s.seq := rfl
@[simp] theorem setSrc_kvt (n : Nat) (v : Source) (s : State) : (setSrc n v s).kvt = s.kvt := rfl
@[simp] theorem setSrc_bbram (n : Nat) (v : Source) (s : State) : (setSrc n v s).bbram = s.bbram := rfl
@[simp] theorem setSrc_mem (n : Nat) (v : Source) (s : State) : (setSrc n v s).mem = s.mem := rfl
@[simp] theorem setSrc_pwr (n : Nat) (v : Source) (s : State) : (setSrc n v s).pwr = s.pwr := rfl
@[simp] theorem setSrc_glb (n : Nat) (v : Source) (s : State) : (setSrc n v s).glb = s.glb := rfl
@[simp] theorem setSrc_lcs (n : Nat) (v : Source) (s : State) : (setSrc n v s).lcs = s.lcs := rfl
@[simp] theorem setSrc_dbg (n : Nat) (v : Source) (s : State) : (setSrc n v s).dbg = s.dbg := rfl
@[simp] theorem setSrc_tmp (n : Nat) (v : Source) (s : State) : (setSrc n v s).tmp = s.tmp := rfl
@[simp] theorem setSrc_flt (n : Nat) (v : Source) (s : State) : (setSrc n v s).flt = s.flt := rfl
@[simp] theorem setSrc_cad (n : Nat) (v : Source) (s : State) : (setSrc n v s).cad = s.cad := rfl
@[simp] theorem setSrc_tlk (n : Nat) (v : Source) (s : State) : (setSrc n v s).tlk = s.tlk := rfl
@[simp] theorem setSrc_pins (n : Nat) (v : Source) (s : State) : (setSrc n v s).pins = s.pins := rfl

/-! ### setDrbg -/

@[simp] theorem setDrbg_pending (n : Nat) (v : Drbg) (s : State) : (setDrbg n v s).pending = s.pending := rfl
@[simp] theorem setDrbg_now (n : Nat) (v : Drbg) (s : State) : (setDrbg n v s).now = s.now := rfl
@[simp] theorem setDrbg_free (n : Nat) (v : Drbg) (s : State) : (setDrbg n v s).free = s.free := rfl
@[simp] theorem setDrbg_host (n : Nat) (v : Drbg) (s : State) : (setDrbg n v s).host = s.host := rfl
@[simp] theorem setDrbg_hif (n : Nat) (v : Drbg) (s : State) : (setDrbg n v s).hif = s.hif := rfl
@[simp] theorem setDrbg_drl (n : Nat) (v : Drbg) (s : State) : (setDrbg n v s).drl = s.drl := rfl
@[simp] theorem setDrbg_hub (n : Nat) (v : Drbg) (s : State) : (setDrbg n v s).hub = s.hub := rfl
@[simp] theorem setDrbg_hsa (n : Nat) (v : Drbg) (s : State) : (setDrbg n v s).hsa = s.hsa := rfl
@[simp] theorem setDrbg_dge (n : Nat) (v : Drbg) (s : State) : (setDrbg n v s).dge = s.dge := rfl
@[simp] theorem setDrbg_cvu (n : Nat) (v : Drbg) (s : State) : (setDrbg n v s).cvu = s.cvu := rfl
@[simp] theorem setDrbg_seq (n : Nat) (v : Drbg) (s : State) : (setDrbg n v s).seq = s.seq := rfl
@[simp] theorem setDrbg_kvt (n : Nat) (v : Drbg) (s : State) : (setDrbg n v s).kvt = s.kvt := rfl
@[simp] theorem setDrbg_bbram (n : Nat) (v : Drbg) (s : State) : (setDrbg n v s).bbram = s.bbram := rfl
@[simp] theorem setDrbg_mem (n : Nat) (v : Drbg) (s : State) : (setDrbg n v s).mem = s.mem := rfl
@[simp] theorem setDrbg_pwr (n : Nat) (v : Drbg) (s : State) : (setDrbg n v s).pwr = s.pwr := rfl
@[simp] theorem setDrbg_glb (n : Nat) (v : Drbg) (s : State) : (setDrbg n v s).glb = s.glb := rfl
@[simp] theorem setDrbg_lcs (n : Nat) (v : Drbg) (s : State) : (setDrbg n v s).lcs = s.lcs := rfl
@[simp] theorem setDrbg_dbg (n : Nat) (v : Drbg) (s : State) : (setDrbg n v s).dbg = s.dbg := rfl
@[simp] theorem setDrbg_tmp (n : Nat) (v : Drbg) (s : State) : (setDrbg n v s).tmp = s.tmp := rfl
@[simp] theorem setDrbg_flt (n : Nat) (v : Drbg) (s : State) : (setDrbg n v s).flt = s.flt := rfl
@[simp] theorem setDrbg_cad (n : Nat) (v : Drbg) (s : State) : (setDrbg n v s).cad = s.cad := rfl
@[simp] theorem setDrbg_tlk (n : Nat) (v : Drbg) (s : State) : (setDrbg n v s).tlk = s.tlk := rfl
@[simp] theorem setDrbg_pins (n : Nat) (v : Drbg) (s : State) : (setDrbg n v s).pins = s.pins := rfl

/-! ### setLink -/

@[simp] theorem setLink_pending (k : Nat) (v : Link) (s : State) : (setLink k v s).pending = s.pending := rfl
@[simp] theorem setLink_now (k : Nat) (v : Link) (s : State) : (setLink k v s).now = s.now := rfl
@[simp] theorem setLink_free (k : Nat) (v : Link) (s : State) : (setLink k v s).free = s.free := rfl
@[simp] theorem setLink_host (k : Nat) (v : Link) (s : State) : (setLink k v s).host = s.host := rfl
@[simp] theorem setLink_hif (k : Nat) (v : Link) (s : State) : (setLink k v s).hif = s.hif := rfl
@[simp] theorem setLink_drl (k : Nat) (v : Link) (s : State) : (setLink k v s).drl = s.drl := rfl
@[simp] theorem setLink_hub (k : Nat) (v : Link) (s : State) : (setLink k v s).hub = s.hub := rfl
@[simp] theorem setLink_hsa (k : Nat) (v : Link) (s : State) : (setLink k v s).hsa = s.hsa := rfl
@[simp] theorem setLink_dge (k : Nat) (v : Link) (s : State) : (setLink k v s).dge = s.dge := rfl
@[simp] theorem setLink_cvu (k : Nat) (v : Link) (s : State) : (setLink k v s).cvu = s.cvu := rfl
@[simp] theorem setLink_seq (k : Nat) (v : Link) (s : State) : (setLink k v s).seq = s.seq := rfl
@[simp] theorem setLink_kvt (k : Nat) (v : Link) (s : State) : (setLink k v s).kvt = s.kvt := rfl
@[simp] theorem setLink_bbram (k : Nat) (v : Link) (s : State) : (setLink k v s).bbram = s.bbram := rfl
@[simp] theorem setLink_ent (k : Nat) (v : Link) (s : State) : (setLink k v s).ent = s.ent := rfl
@[simp] theorem setLink_mem (k : Nat) (v : Link) (s : State) : (setLink k v s).mem = s.mem := rfl
@[simp] theorem setLink_pwr (k : Nat) (v : Link) (s : State) : (setLink k v s).pwr = s.pwr := rfl
@[simp] theorem setLink_glb (k : Nat) (v : Link) (s : State) : (setLink k v s).glb = s.glb := rfl
@[simp] theorem setLink_lcs (k : Nat) (v : Link) (s : State) : (setLink k v s).lcs = s.lcs := rfl
@[simp] theorem setLink_dbg (k : Nat) (v : Link) (s : State) : (setLink k v s).dbg = s.dbg := rfl
@[simp] theorem setLink_tmp (k : Nat) (v : Link) (s : State) : (setLink k v s).tmp = s.tmp := rfl
@[simp] theorem setLink_flt (k : Nat) (v : Link) (s : State) : (setLink k v s).flt = s.flt := rfl
@[simp] theorem setLink_cad (k : Nat) (v : Link) (s : State) : (setLink k v s).cad = s.cad := rfl
@[simp] theorem setLink_pins (k : Nat) (v : Link) (s : State) : (setLink k v s).pins = s.pins := rfl

/-! ### setCnt -/

@[simp] theorem setCnt_pending (b : Bank) (u k : Nat) (c : Cnt) (s : State) : (setCnt b u k c s).pending = s.pending := rfl
@[simp] theorem setCnt_now (b : Bank) (u k : Nat) (c : Cnt) (s : State) : (setCnt b u k c s).now = s.now := rfl
@[simp] theorem setCnt_free (b : Bank) (u k : Nat) (c : Cnt) (s : State) : (setCnt b u k c s).free = s.free := rfl
@[simp] theorem setCnt_host (b : Bank) (u k : Nat) (c : Cnt) (s : State) : (setCnt b u k c s).host = s.host := rfl
@[simp] theorem setCnt_hif (b : Bank) (u k : Nat) (c : Cnt) (s : State) : (setCnt b u k c s).hif = s.hif := rfl
@[simp] theorem setCnt_drl (b : Bank) (u k : Nat) (c : Cnt) (s : State) : (setCnt b u k c s).drl = s.drl := rfl
@[simp] theorem setCnt_hub (b : Bank) (u k : Nat) (c : Cnt) (s : State) : (setCnt b u k c s).hub = s.hub := rfl
@[simp] theorem setCnt_hsa (b : Bank) (u k : Nat) (c : Cnt) (s : State) : (setCnt b u k c s).hsa = s.hsa := rfl
@[simp] theorem setCnt_dge (b : Bank) (u k : Nat) (c : Cnt) (s : State) : (setCnt b u k c s).dge = s.dge := rfl
@[simp] theorem setCnt_cvu (b : Bank) (u k : Nat) (c : Cnt) (s : State) : (setCnt b u k c s).cvu = s.cvu := rfl
@[simp] theorem setCnt_seq (b : Bank) (u k : Nat) (c : Cnt) (s : State) : (setCnt b u k c s).seq = s.seq := rfl
@[simp] theorem setCnt_kvt (b : Bank) (u k : Nat) (c : Cnt) (s : State) : (setCnt b u k c s).kvt = s.kvt := rfl
@[simp] theorem setCnt_bbram (b : Bank) (u k : Nat) (c : Cnt) (s : State) : (setCnt b u k c s).bbram = s.bbram := rfl
@[simp] theorem setCnt_ent (b : Bank) (u k : Nat) (c : Cnt) (s : State) : (setCnt b u k c s).ent = s.ent := rfl
@[simp] theorem setCnt_mem (b : Bank) (u k : Nat) (c : Cnt) (s : State) : (setCnt b u k c s).mem = s.mem := rfl
@[simp] theorem setCnt_pwr (b : Bank) (u k : Nat) (c : Cnt) (s : State) : (setCnt b u k c s).pwr = s.pwr := rfl
@[simp] theorem setCnt_glb (b : Bank) (u k : Nat) (c : Cnt) (s : State) : (setCnt b u k c s).glb = s.glb := rfl
@[simp] theorem setCnt_lcs (b : Bank) (u k : Nat) (c : Cnt) (s : State) : (setCnt b u k c s).lcs = s.lcs := rfl
@[simp] theorem setCnt_dbg (b : Bank) (u k : Nat) (c : Cnt) (s : State) : (setCnt b u k c s).dbg = s.dbg := rfl
@[simp] theorem setCnt_tmp (b : Bank) (u k : Nat) (c : Cnt) (s : State) : (setCnt b u k c s).tmp = s.tmp := rfl
@[simp] theorem setCnt_flt (b : Bank) (u k : Nat) (c : Cnt) (s : State) : (setCnt b u k c s).flt = s.flt := rfl
@[simp] theorem setCnt_tlk (b : Bank) (u k : Nat) (c : Cnt) (s : State) : (setCnt b u k c s).tlk = s.tlk := rfl
@[simp] theorem setCnt_pins (b : Bank) (u k : Nat) (c : Cnt) (s : State) : (setCnt b u k c s).pins = s.pins := rfl

/-! ### setBuf -/

@[simp] theorem setBuf_pending (n : Nat) (b : SampBuf) (s : State) : (setBuf n b s).pending = s.pending := rfl
@[simp] theorem setBuf_now (n : Nat) (b : SampBuf) (s : State) : (setBuf n b s).now = s.now := rfl
@[simp] theorem setBuf_free (n : Nat) (b : SampBuf) (s : State) : (setBuf n b s).free = s.free := rfl
@[simp] theorem setBuf_host (n : Nat) (b : SampBuf) (s : State) : (setBuf n b s).host = s.host := rfl
@[simp] theorem setBuf_hif (n : Nat) (b : SampBuf) (s : State) : (setBuf n b s).hif = s.hif := rfl
@[simp] theorem setBuf_drl (n : Nat) (b : SampBuf) (s : State) : (setBuf n b s).drl = s.drl := rfl
@[simp] theorem setBuf_hub (n : Nat) (b : SampBuf) (s : State) : (setBuf n b s).hub = s.hub := rfl
@[simp] theorem setBuf_hsa (n : Nat) (b : SampBuf) (s : State) : (setBuf n b s).hsa = s.hsa := rfl
@[simp] theorem setBuf_dge (n : Nat) (b : SampBuf) (s : State) : (setBuf n b s).dge = s.dge := rfl
@[simp] theorem setBuf_cvu (n : Nat) (b : SampBuf) (s : State) : (setBuf n b s).cvu = s.cvu := rfl
@[simp] theorem setBuf_seq (n : Nat) (b : SampBuf) (s : State) : (setBuf n b s).seq = s.seq := rfl
@[simp] theorem setBuf_kvt (n : Nat) (b : SampBuf) (s : State) : (setBuf n b s).kvt = s.kvt := rfl
@[simp] theorem setBuf_bbram (n : Nat) (b : SampBuf) (s : State) : (setBuf n b s).bbram = s.bbram := rfl
@[simp] theorem setBuf_ent (n : Nat) (b : SampBuf) (s : State) : (setBuf n b s).ent = s.ent := rfl
@[simp] theorem setBuf_mem (n : Nat) (b : SampBuf) (s : State) : (setBuf n b s).mem = s.mem := rfl
@[simp] theorem setBuf_pwr (n : Nat) (b : SampBuf) (s : State) : (setBuf n b s).pwr = s.pwr := rfl
@[simp] theorem setBuf_glb (n : Nat) (b : SampBuf) (s : State) : (setBuf n b s).glb = s.glb := rfl
@[simp] theorem setBuf_lcs (n : Nat) (b : SampBuf) (s : State) : (setBuf n b s).lcs = s.lcs := rfl
@[simp] theorem setBuf_dbg (n : Nat) (b : SampBuf) (s : State) : (setBuf n b s).dbg = s.dbg := rfl
@[simp] theorem setBuf_tmp (n : Nat) (b : SampBuf) (s : State) : (setBuf n b s).tmp = s.tmp := rfl
@[simp] theorem setBuf_flt (n : Nat) (b : SampBuf) (s : State) : (setBuf n b s).flt = s.flt := rfl
@[simp] theorem setBuf_tlk (n : Nat) (b : SampBuf) (s : State) : (setBuf n b s).tlk = s.tlk := rfl
@[simp] theorem setBuf_pins (n : Nat) (b : SampBuf) (s : State) : (setBuf n b s).pins = s.pins := rfl

/-! ### hostPut -/

@[simp] theorem hostPut_pending (a : Nat) (b : Bytes) (s : State) : (hostPut a b s).pending = s.pending := rfl
@[simp] theorem hostPut_now (a : Nat) (b : Bytes) (s : State) : (hostPut a b s).now = s.now := rfl
@[simp] theorem hostPut_free (a : Nat) (b : Bytes) (s : State) : (hostPut a b s).free = s.free := rfl
@[simp] theorem hostPut_hif (a : Nat) (b : Bytes) (s : State) : (hostPut a b s).hif = s.hif := rfl
@[simp] theorem hostPut_drl (a : Nat) (b : Bytes) (s : State) : (hostPut a b s).drl = s.drl := rfl
@[simp] theorem hostPut_hub (a : Nat) (b : Bytes) (s : State) : (hostPut a b s).hub = s.hub := rfl
@[simp] theorem hostPut_hsa (a : Nat) (b : Bytes) (s : State) : (hostPut a b s).hsa = s.hsa := rfl
@[simp] theorem hostPut_dge (a : Nat) (b : Bytes) (s : State) : (hostPut a b s).dge = s.dge := rfl
@[simp] theorem hostPut_cvu (a : Nat) (b : Bytes) (s : State) : (hostPut a b s).cvu = s.cvu := rfl
@[simp] theorem hostPut_seq (a : Nat) (b : Bytes) (s : State) : (hostPut a b s).seq = s.seq := rfl
@[simp] theorem hostPut_kvt (a : Nat) (b : Bytes) (s : State) : (hostPut a b s).kvt = s.kvt := rfl
@[simp] theorem hostPut_bbram (a : Nat) (b : Bytes) (s : State) : (hostPut a b s).bbram = s.bbram := rfl
@[simp] theorem hostPut_ent (a : Nat) (b : Bytes) (s : State) : (hostPut a b s).ent = s.ent := rfl
@[simp] theorem hostPut_mem (a : Nat) (b : Bytes) (s : State) : (hostPut a b s).mem = s.mem := rfl
@[simp] theorem hostPut_pwr (a : Nat) (b : Bytes) (s : State) : (hostPut a b s).pwr = s.pwr := rfl
@[simp] theorem hostPut_glb (a : Nat) (b : Bytes) (s : State) : (hostPut a b s).glb = s.glb := rfl
@[simp] theorem hostPut_lcs (a : Nat) (b : Bytes) (s : State) : (hostPut a b s).lcs = s.lcs := rfl
@[simp] theorem hostPut_dbg (a : Nat) (b : Bytes) (s : State) : (hostPut a b s).dbg = s.dbg := rfl
@[simp] theorem hostPut_tmp (a : Nat) (b : Bytes) (s : State) : (hostPut a b s).tmp = s.tmp := rfl
@[simp] theorem hostPut_flt (a : Nat) (b : Bytes) (s : State) : (hostPut a b s).flt = s.flt := rfl
@[simp] theorem hostPut_cad (a : Nat) (b : Bytes) (s : State) : (hostPut a b s).cad = s.cad := rfl
@[simp] theorem hostPut_tlk (a : Nat) (b : Bytes) (s : State) : (hostPut a b s).tlk = s.tlk := rfl
@[simp] theorem hostPut_pins (a : Nat) (b : Bytes) (s : State) : (hostPut a b s).pins = s.pins := rfl
@[simp] theorem hostPut_host_bad (a : Nat) (b : Bytes) (s : State) : (hostPut a b s).host.bad = s.host.bad := rfl
@[simp] theorem hostPut_host_noMaster (a : Nat) (b : Bytes) (s : State) : (hostPut a b s).host.noMaster = s.host.noMaster := rfl
@[simp] theorem hostPut_host_msgs (a : Nat) (b : Bytes) (s : State) : (hostPut a b s).host.msgs = s.host.msgs := rfl
@[simp] theorem hostPut_host_aer (a : Nat) (b : Bytes) (s : State) : (hostPut a b s).host.aer = s.host.aer := rfl

/-! ### burnWord -/

@[simp] theorem burnWord_pending (n v : Nat) (s : State) : (burnWord n v s).pending = s.pending := rfl
@[simp] theorem burnWord_now (n v : Nat) (s : State) : (burnWord n v s).now = s.now := rfl
@[simp] theorem burnWord_free (n v : Nat) (s : State) : (burnWord n v s).free = s.free := rfl
@[simp] theorem burnWord_host (n v : Nat) (s : State) : (burnWord n v s).host = s.host := rfl
@[simp] theorem burnWord_hif (n v : Nat) (s : State) : (burnWord n v s).hif = s.hif := rfl
@[simp] theorem burnWord_drl (n v : Nat) (s : State) : (burnWord n v s).drl = s.drl := rfl
@[simp] theorem burnWord_hub (n v : Nat) (s : State) : (burnWord n v s).hub = s.hub := rfl
@[simp] theorem burnWord_hsa (n v : Nat) (s : State) : (burnWord n v s).hsa = s.hsa := rfl
@[simp] theorem burnWord_dge (n v : Nat) (s : State) : (burnWord n v s).dge = s.dge := rfl
@[simp] theorem burnWord_cvu (n v : Nat) (s : State) : (burnWord n v s).cvu = s.cvu := rfl
@[simp] theorem burnWord_seq (n v : Nat) (s : State) : (burnWord n v s).seq = s.seq := rfl
@[simp] theorem burnWord_kvt (n v : Nat) (s : State) : (burnWord n v s).kvt = s.kvt := rfl
@[simp] theorem burnWord_bbram (n v : Nat) (s : State) : (burnWord n v s).bbram = s.bbram := rfl
@[simp] theorem burnWord_ent (n v : Nat) (s : State) : (burnWord n v s).ent = s.ent := rfl
@[simp] theorem burnWord_mem (n v : Nat) (s : State) : (burnWord n v s).mem = s.mem := rfl
@[simp] theorem burnWord_pwr (n v : Nat) (s : State) : (burnWord n v s).pwr = s.pwr := rfl
@[simp] theorem burnWord_glb (n v : Nat) (s : State) : (burnWord n v s).glb = s.glb := rfl
@[simp] theorem burnWord_dbg (n v : Nat) (s : State) : (burnWord n v s).dbg = s.dbg := rfl
@[simp] theorem burnWord_tmp (n v : Nat) (s : State) : (burnWord n v s).tmp = s.tmp := rfl
@[simp] theorem burnWord_flt (n v : Nat) (s : State) : (burnWord n v s).flt = s.flt := rfl
@[simp] theorem burnWord_cad (n v : Nat) (s : State) : (burnWord n v s).cad = s.cad := rfl
@[simp] theorem burnWord_tlk (n v : Nat) (s : State) : (burnWord n v s).tlk = s.tlk := rfl
@[simp] theorem burnWord_pins (n v : Nat) (s : State) : (burnWord n v s).pins = s.pins := rfl

/-! ### setFlt -/

@[simp] theorem setFlt_pending (b : Blk) (u : Nat) (f : FltSet) (s : State) : (setFlt b u f s).pending = s.pending := rfl
@[simp] theorem setFlt_now (b : Blk) (u : Nat) (f : FltSet) (s : State) : (setFlt b u f s).now = s.now := rfl
@[simp] theorem setFlt_free (b : Blk) (u : Nat) (f : FltSet) (s : State) : (setFlt b u f s).free = s.free := rfl
@[simp] theorem setFlt_host (b : Blk) (u : Nat) (f : FltSet) (s : State) : (setFlt b u f s).host = s.host := rfl
@[simp] theorem setFlt_hif (b : Blk) (u : Nat) (f : FltSet) (s : State) : (setFlt b u f s).hif = s.hif := rfl
@[simp] theorem setFlt_drl (b : Blk) (u : Nat) (f : FltSet) (s : State) : (setFlt b u f s).drl = s.drl := rfl
@[simp] theorem setFlt_hub (b : Blk) (u : Nat) (f : FltSet) (s : State) : (setFlt b u f s).hub = s.hub := rfl
@[simp] theorem setFlt_hsa (b : Blk) (u : Nat) (f : FltSet) (s : State) : (setFlt b u f s).hsa = s.hsa := rfl
@[simp] theorem setFlt_dge (b : Blk) (u : Nat) (f : FltSet) (s : State) : (setFlt b u f s).dge = s.dge := rfl
@[simp] theorem setFlt_cvu (b : Blk) (u : Nat) (f : FltSet) (s : State) : (setFlt b u f s).cvu = s.cvu := rfl
@[simp] theorem setFlt_seq (b : Blk) (u : Nat) (f : FltSet) (s : State) : (setFlt b u f s).seq = s.seq := rfl
@[simp] theorem setFlt_kvt (b : Blk) (u : Nat) (f : FltSet) (s : State) : (setFlt b u f s).kvt = s.kvt := rfl
@[simp] theorem setFlt_bbram (b : Blk) (u : Nat) (f : FltSet) (s : State) : (setFlt b u f s).bbram = s.bbram := rfl
@[simp] theorem setFlt_ent (b : Blk) (u : Nat) (f : FltSet) (s : State) : (setFlt b u f s).ent = s.ent := rfl
@[simp] theorem setFlt_mem (b : Blk) (u : Nat) (f : FltSet) (s : State) : (setFlt b u f s).mem = s.mem := rfl
@[simp] theorem setFlt_pwr (b : Blk) (u : Nat) (f : FltSet) (s : State) : (setFlt b u f s).pwr = s.pwr := rfl
@[simp] theorem setFlt_glb (b : Blk) (u : Nat) (f : FltSet) (s : State) : (setFlt b u f s).glb = s.glb := rfl
@[simp] theorem setFlt_lcs (b : Blk) (u : Nat) (f : FltSet) (s : State) : (setFlt b u f s).lcs = s.lcs := rfl
@[simp] theorem setFlt_dbg (b : Blk) (u : Nat) (f : FltSet) (s : State) : (setFlt b u f s).dbg = s.dbg := rfl
@[simp] theorem setFlt_tmp (b : Blk) (u : Nat) (f : FltSet) (s : State) : (setFlt b u f s).tmp = s.tmp := rfl
@[simp] theorem setFlt_cad (b : Blk) (u : Nat) (f : FltSet) (s : State) : (setFlt b u f s).cad = s.cad := rfl
@[simp] theorem setFlt_tlk (b : Blk) (u : Nat) (f : FltSet) (s : State) : (setFlt b u f s).tlk = s.tlk := rfl
@[simp] theorem setFlt_pins (b : Blk) (u : Nat) (f : FltSet) (s : State) : (setFlt b u f s).pins = s.pins := rfl

/-! ### A read after a write -/

theorem eng_setEng (n m : Nat) (e : Engine) (s : State) : eng (setEng n e s) m = if m = n then e else eng s m := Tbl.get_set _ _ _ _ _
@[simp] theorem eng_setEng_same (n : Nat) (e : Engine) (s : State) : eng (setEng n e s) n = e := Tbl.get_set_same _ _ _ _
@[simp] theorem eng_setAes (j : Nat) (n : Nat) (c : AesCore) (s : State) : eng (setAes n c s) j = eng s j := rfl
@[simp] theorem eng_setDge (j : Nat) (n : Nat) (u : Dge) (s : State) : eng (setDge n u s) j = eng s j := rfl
@[simp] theorem eng_setCvu (j : Nat) (n : Nat) (u : Cvu) (s : State) : eng (setCvu n u s) j = eng s j := rfl
@[simp] theorem eng_setCore (j : Nat) (n : Nat) (c : Core) (s : State) : eng (setCore n c s) j = eng s j := rfl
@[simp] theorem eng_setQp (j : Nat) (p q : Nat) (v : Qp) (s : State) : eng (setQp p q v s) j = eng s j := rfl
@[simp] theorem eng_setInst (j : Nat) (i : Nat) (v : Inst) (s : State) : eng (setInst i v s) j = eng s j := rfl
@[simp] theorem eng_setPort (j : Nat) (p : Nat) (v : Port) (s : State) : eng (setPort p v s) j = eng s j := rfl
@[simp] theorem eng_setMsix (j : Nat) (p v : Nat) (m : Msix) (s : State) : eng (setMsix p v m s) j = eng s j := rfl
@[simp] theorem eng_setCnt (j : Nat) (b : Bank) (u k : Nat) (c : Cnt) (s : State) : eng (setCnt b u k c s) j = eng s j := rfl
@[simp] theorem eng_setBuf (j : Nat) (n : Nat) (b : SampBuf) (s : State) : eng (setBuf n b s) j = eng s j := rfl
@[simp] theorem eng_hostPut (j : Nat) (a : Nat) (b : Bytes) (s : State) : eng (hostPut a b s) j = eng s j := rfl
@[simp] theorem eng_setFlt (j : Nat) (b : Blk) (u : Nat) (f : FltSet) (s : State) : eng (setFlt b u f s) j = eng s j := rfl
theorem aesCore_setAes (n m : Nat) (e : AesCore) (s : State) : aesCore (setAes n e s) m = if m = n then e else aesCore s m := Tbl.get_set _ _ _ _ _
@[simp] theorem aesCore_setAes_same (n : Nat) (e : AesCore) (s : State) : aesCore (setAes n e s) n = e := Tbl.get_set_same _ _ _ _
@[simp] theorem aesCore_setEng (j : Nat) (n : Nat) (e : Engine) (s : State) : aesCore (setEng n e s) j = aesCore s j := rfl
@[simp] theorem aesCore_setDge (j : Nat) (n : Nat) (u : Dge) (s : State) : aesCore (setDge n u s) j = aesCore s j := rfl
@[simp] theorem aesCore_setCvu (j : Nat) (n : Nat) (u : Cvu) (s : State) : aesCore (setCvu n u s) j = aesCore s j := rfl
@[simp] theorem aesCore_setCore (j : Nat) (n : Nat) (c : Core) (s : State) : aesCore (setCore n c s) j = aesCore s j := rfl
@[simp] theorem aesCore_setQp (j : Nat) (p q : Nat) (v : Qp) (s : State) : aesCore (setQp p q v s) j = aesCore s j := rfl
@[simp] theorem aesCore_setInst (j : Nat) (i : Nat) (v : Inst) (s : State) : aesCore (setInst i v s) j = aesCore s j := rfl
@[simp] theorem aesCore_setPort (j : Nat) (p : Nat) (v : Port) (s : State) : aesCore (setPort p v s) j = aesCore s j := rfl
@[simp] theorem aesCore_setMsix (j : Nat) (p v : Nat) (m : Msix) (s : State) : aesCore (setMsix p v m s) j = aesCore s j := rfl
@[simp] theorem aesCore_setCnt (j : Nat) (b : Bank) (u k : Nat) (c : Cnt) (s : State) : aesCore (setCnt b u k c s) j = aesCore s j := rfl
@[simp] theorem aesCore_setBuf (j : Nat) (n : Nat) (b : SampBuf) (s : State) : aesCore (setBuf n b s) j = aesCore s j := rfl
@[simp] theorem aesCore_hostPut (j : Nat) (a : Nat) (b : Bytes) (s : State) : aesCore (hostPut a b s) j = aesCore s j := rfl
@[simp] theorem aesCore_setFlt (j : Nat) (b : Blk) (u : Nat) (f : FltSet) (s : State) : aesCore (setFlt b u f s) j = aesCore s j := rfl
theorem dgeU_setDge (n m : Nat) (e : Dge) (s : State) : dgeU (setDge n e s) m = if m = n then e else dgeU s m := Tbl.get_set _ _ _ _ _
@[simp] theorem dgeU_setDge_same (n : Nat) (e : Dge) (s : State) : dgeU (setDge n e s) n = e := Tbl.get_set_same _ _ _ _
@[simp] theorem dgeU_setEng (j : Nat) (n : Nat) (e : Engine) (s : State) : dgeU (setEng n e s) j = dgeU s j := rfl
@[simp] theorem dgeU_setAes (j : Nat) (n : Nat) (c : AesCore) (s : State) : dgeU (setAes n c s) j = dgeU s j := rfl
@[simp] theorem dgeU_setCvu (j : Nat) (n : Nat) (u : Cvu) (s : State) : dgeU (setCvu n u s) j = dgeU s j := rfl
@[simp] theorem dgeU_setCore (j : Nat) (n : Nat) (c : Core) (s : State) : dgeU (setCore n c s) j = dgeU s j := rfl
@[simp] theorem dgeU_setQp (j : Nat) (p q : Nat) (v : Qp) (s : State) : dgeU (setQp p q v s) j = dgeU s j := rfl
@[simp] theorem dgeU_setInst (j : Nat) (i : Nat) (v : Inst) (s : State) : dgeU (setInst i v s) j = dgeU s j := rfl
@[simp] theorem dgeU_setPort (j : Nat) (p : Nat) (v : Port) (s : State) : dgeU (setPort p v s) j = dgeU s j := rfl
@[simp] theorem dgeU_setMsix (j : Nat) (p v : Nat) (m : Msix) (s : State) : dgeU (setMsix p v m s) j = dgeU s j := rfl
@[simp] theorem dgeU_setCnt (j : Nat) (b : Bank) (u k : Nat) (c : Cnt) (s : State) : dgeU (setCnt b u k c s) j = dgeU s j := rfl
@[simp] theorem dgeU_setBuf (j : Nat) (n : Nat) (b : SampBuf) (s : State) : dgeU (setBuf n b s) j = dgeU s j := rfl
@[simp] theorem dgeU_hostPut (j : Nat) (a : Nat) (b : Bytes) (s : State) : dgeU (hostPut a b s) j = dgeU s j := rfl
@[simp] theorem dgeU_setFlt (j : Nat) (b : Blk) (u : Nat) (f : FltSet) (s : State) : dgeU (setFlt b u f s) j = dgeU s j := rfl
theorem cvuU_setCvu (n m : Nat) (e : Cvu) (s : State) : cvuU (setCvu n e s) m = if m = n then e else cvuU s m := Tbl.get_set _ _ _ _ _
@[simp] theorem cvuU_setCvu_same (n : Nat) (e : Cvu) (s : State) : cvuU (setCvu n e s) n = e := Tbl.get_set_same _ _ _ _
@[simp] theorem cvuU_setEng (j : Nat) (n : Nat) (e : Engine) (s : State) : cvuU (setEng n e s) j = cvuU s j := rfl
@[simp] theorem cvuU_setAes (j : Nat) (n : Nat) (c : AesCore) (s : State) : cvuU (setAes n c s) j = cvuU s j := rfl
@[simp] theorem cvuU_setDge (j : Nat) (n : Nat) (u : Dge) (s : State) : cvuU (setDge n u s) j = cvuU s j := rfl
@[simp] theorem cvuU_setCore (j : Nat) (n : Nat) (c : Core) (s : State) : cvuU (setCore n c s) j = cvuU s j := rfl
@[simp] theorem cvuU_setQp (j : Nat) (p q : Nat) (v : Qp) (s : State) : cvuU (setQp p q v s) j = cvuU s j := rfl
@[simp] theorem cvuU_setInst (j : Nat) (i : Nat) (v : Inst) (s : State) : cvuU (setInst i v s) j = cvuU s j := rfl
@[simp] theorem cvuU_setPort (j : Nat) (p : Nat) (v : Port) (s : State) : cvuU (setPort p v s) j = cvuU s j := rfl
@[simp] theorem cvuU_setMsix (j : Nat) (p v : Nat) (m : Msix) (s : State) : cvuU (setMsix p v m s) j = cvuU s j := rfl
@[simp] theorem cvuU_setCnt (j : Nat) (b : Bank) (u k : Nat) (c : Cnt) (s : State) : cvuU (setCnt b u k c s) j = cvuU s j := rfl
@[simp] theorem cvuU_setBuf (j : Nat) (n : Nat) (b : SampBuf) (s : State) : cvuU (setBuf n b s) j = cvuU s j := rfl
@[simp] theorem cvuU_hostPut (j : Nat) (a : Nat) (b : Bytes) (s : State) : cvuU (hostPut a b s) j = cvuU s j := rfl
@[simp] theorem cvuU_setFlt (j : Nat) (b : Blk) (u : Nat) (f : FltSet) (s : State) : cvuU (setFlt b u f s) j = cvuU s j := rfl
theorem coreU_setCore (n m : Nat) (e : Core) (s : State) : coreU (setCore n e s) m = if m = n then e else coreU s m := Tbl.get_set _ _ _ _ _
@[simp] theorem coreU_setCore_same (n : Nat) (e : Core) (s : State) : coreU (setCore n e s) n = e := Tbl.get_set_same _ _ _ _
@[simp] theorem coreU_setEng (j : Nat) (n : Nat) (e : Engine) (s : State) : coreU (setEng n e s) j = coreU s j := rfl
@[simp] theorem coreU_setAes (j : Nat) (n : Nat) (c : AesCore) (s : State) : coreU (setAes n c s) j = coreU s j := rfl
@[simp] theorem coreU_setDge (j : Nat) (n : Nat) (u : Dge) (s : State) : coreU (setDge n u s) j = coreU s j := rfl
@[simp] theorem coreU_setCvu (j : Nat) (n : Nat) (u : Cvu) (s : State) : coreU (setCvu n u s) j = coreU s j := rfl
@[simp] theorem coreU_setQp (j : Nat) (p q : Nat) (v : Qp) (s : State) : coreU (setQp p q v s) j = coreU s j := rfl
@[simp] theorem coreU_setInst (j : Nat) (i : Nat) (v : Inst) (s : State) : coreU (setInst i v s) j = coreU s j := rfl
@[simp] theorem coreU_setPort (j : Nat) (p : Nat) (v : Port) (s : State) : coreU (setPort p v s) j = coreU s j := rfl
@[simp] theorem coreU_setMsix (j : Nat) (p v : Nat) (m : Msix) (s : State) : coreU (setMsix p v m s) j = coreU s j := rfl
@[simp] theorem coreU_setCnt (j : Nat) (b : Bank) (u k : Nat) (c : Cnt) (s : State) : coreU (setCnt b u k c s) j = coreU s j := rfl
@[simp] theorem coreU_setBuf (j : Nat) (n : Nat) (b : SampBuf) (s : State) : coreU (setBuf n b s) j = coreU s j := rfl
@[simp] theorem coreU_hostPut (j : Nat) (a : Nat) (b : Bytes) (s : State) : coreU (hostPut a b s) j = coreU s j := rfl
@[simp] theorem coreU_setFlt (j : Nat) (b : Blk) (u : Nat) (f : FltSet) (s : State) : coreU (setFlt b u f s) j = coreU s j := rfl
theorem instU_setInst (n m : Nat) (e : Inst) (s : State) : instU (setInst n e s) m = if m = n then e else instU s m := Tbl.get_set _ _ _ _ _
@[simp] theorem instU_setInst_same (n : Nat) (e : Inst) (s : State) : instU (setInst n e s) n = e := Tbl.get_set_same _ _ _ _
@[simp] theorem instU_setEng (j : Nat) (n : Nat) (e : Engine) (s : State) : instU (setEng n e s) j = instU s j := rfl
@[simp] theorem instU_setAes (j : Nat) (n : Nat) (c : AesCore) (s : State) : instU (setAes n c s) j = instU s j := rfl
@[simp] theorem instU_setDge (j : Nat) (n : Nat) (u : Dge) (s : State) : instU (setDge n u s) j = instU s j := rfl
@[simp] theorem instU_setCvu (j : Nat) (n : Nat) (u : Cvu) (s : State) : instU (setCvu n u s) j = instU s j := rfl
@[simp] theorem instU_setCore (j : Nat) (n : Nat) (c : Core) (s : State) : instU (setCore n c s) j = instU s j := rfl
@[simp] theorem instU_setQp (j : Nat) (p q : Nat) (v : Qp) (s : State) : instU (setQp p q v s) j = instU s j := rfl
@[simp] theorem instU_setPort (j : Nat) (p : Nat) (v : Port) (s : State) : instU (setPort p v s) j = instU s j := rfl
@[simp] theorem instU_setMsix (j : Nat) (p v : Nat) (m : Msix) (s : State) : instU (setMsix p v m s) j = instU s j := rfl
@[simp] theorem instU_setCnt (j : Nat) (b : Bank) (u k : Nat) (c : Cnt) (s : State) : instU (setCnt b u k c s) j = instU s j := rfl
@[simp] theorem instU_setBuf (j : Nat) (n : Nat) (b : SampBuf) (s : State) : instU (setBuf n b s) j = instU s j := rfl
@[simp] theorem instU_hostPut (j : Nat) (a : Nat) (b : Bytes) (s : State) : instU (hostPut a b s) j = instU s j := rfl
@[simp] theorem instU_setFlt (j : Nat) (b : Blk) (u : Nat) (f : FltSet) (s : State) : instU (setFlt b u f s) j = instU s j := rfl
theorem portU_setPort (n m : Nat) (e : Port) (s : State) : portU (setPort n e s) m = if m = n then e else portU s m := Tbl.get_set _ _ _ _ _
@[simp] theorem portU_setPort_same (n : Nat) (e : Port) (s : State) : portU (setPort n e s) n = e := Tbl.get_set_same _ _ _ _
@[simp] theorem portU_setEng (j : Nat) (n : Nat) (e : Engine) (s : State) : portU (setEng n e s) j = portU s j := rfl
@[simp] theorem portU_setAes (j : Nat) (n : Nat) (c : AesCore) (s : State) : portU (setAes n c s) j = portU s j := rfl
@[simp] theorem portU_setDge (j : Nat) (n : Nat) (u : Dge) (s : State) : portU (setDge n u s) j = portU s j := rfl
@[simp] theorem portU_setCvu (j : Nat) (n : Nat) (u : Cvu) (s : State) : portU (setCvu n u s) j = portU s j := rfl
@[simp] theorem portU_setCore (j : Nat) (n : Nat) (c : Core) (s : State) : portU (setCore n c s) j = portU s j := rfl
@[simp] theorem portU_setQp (j : Nat) (p q : Nat) (v : Qp) (s : State) : portU (setQp p q v s) j = portU s j := rfl
@[simp] theorem portU_setInst (j : Nat) (i : Nat) (v : Inst) (s : State) : portU (setInst i v s) j = portU s j := rfl
@[simp] theorem portU_setMsix (j : Nat) (p v : Nat) (m : Msix) (s : State) : portU (setMsix p v m s) j = portU s j := rfl
@[simp] theorem portU_setCnt (j : Nat) (b : Bank) (u k : Nat) (c : Cnt) (s : State) : portU (setCnt b u k c s) j = portU s j := rfl
@[simp] theorem portU_setBuf (j : Nat) (n : Nat) (b : SampBuf) (s : State) : portU (setBuf n b s) j = portU s j := rfl
@[simp] theorem portU_hostPut (j : Nat) (a : Nat) (b : Bytes) (s : State) : portU (hostPut a b s) j = portU s j := rfl
@[simp] theorem portU_setFlt (j : Nat) (b : Blk) (u : Nat) (f : FltSet) (s : State) : portU (setFlt b u f s) j = portU s j := rfl
theorem srcU_setSrc (n m : Nat) (e : Source) (s : State) : srcU (setSrc n e s) m = if m = n then e else srcU s m := Tbl.get_set _ _ _ _ _
@[simp] theorem srcU_setSrc_same (n : Nat) (e : Source) (s : State) : srcU (setSrc n e s) n = e := Tbl.get_set_same _ _ _ _
@[simp] theorem srcU_setEng (j : Nat) (n : Nat) (e : Engine) (s : State) : srcU (setEng n e s) j = srcU s j := rfl
@[simp] theorem srcU_setAes (j : Nat) (n : Nat) (c : AesCore) (s : State) : srcU (setAes n c s) j = srcU s j := rfl
@[simp] theorem srcU_setDge (j : Nat) (n : Nat) (u : Dge) (s : State) : srcU (setDge n u s) j = srcU s j := rfl
@[simp] theorem srcU_setCvu (j : Nat) (n : Nat) (u : Cvu) (s : State) : srcU (setCvu n u s) j = srcU s j := rfl
@[simp] theorem srcU_setCore (j : Nat) (n : Nat) (c : Core) (s : State) : srcU (setCore n c s) j = srcU s j := rfl
@[simp] theorem srcU_setQp (j : Nat) (p q : Nat) (v : Qp) (s : State) : srcU (setQp p q v s) j = srcU s j := rfl
@[simp] theorem srcU_setInst (j : Nat) (i : Nat) (v : Inst) (s : State) : srcU (setInst i v s) j = srcU s j := rfl
@[simp] theorem srcU_setPort (j : Nat) (p : Nat) (v : Port) (s : State) : srcU (setPort p v s) j = srcU s j := rfl
@[simp] theorem srcU_setMsix (j : Nat) (p v : Nat) (m : Msix) (s : State) : srcU (setMsix p v m s) j = srcU s j := rfl
@[simp] theorem srcU_setCnt (j : Nat) (b : Bank) (u k : Nat) (c : Cnt) (s : State) : srcU (setCnt b u k c s) j = srcU s j := rfl
@[simp] theorem srcU_setBuf (j : Nat) (n : Nat) (b : SampBuf) (s : State) : srcU (setBuf n b s) j = srcU s j := rfl
@[simp] theorem srcU_hostPut (j : Nat) (a : Nat) (b : Bytes) (s : State) : srcU (hostPut a b s) j = srcU s j := rfl
@[simp] theorem srcU_setFlt (j : Nat) (b : Blk) (u : Nat) (f : FltSet) (s : State) : srcU (setFlt b u f s) j = srcU s j := rfl
theorem drbgU_setDrbg (n m : Nat) (e : Drbg) (s : State) : drbgU (setDrbg n e s) m = if m = n then e else drbgU s m := Tbl.get_set _ _ _ _ _
@[simp] theorem drbgU_setDrbg_same (n : Nat) (e : Drbg) (s : State) : drbgU (setDrbg n e s) n = e := Tbl.get_set_same _ _ _ _
@[simp] theorem drbgU_setEng (j : Nat) (n : Nat) (e : Engine) (s : State) : drbgU (setEng n e s) j = drbgU s j := rfl
@[simp] theorem drbgU_setAes (j : Nat) (n : Nat) (c : AesCore) (s : State) : drbgU (setAes n c s) j = drbgU s j := rfl
@[simp] theorem drbgU_setDge (j : Nat) (n : Nat) (u : Dge) (s : State) : drbgU (setDge n u s) j = drbgU s j := rfl
@[simp] theorem drbgU_setCvu (j : Nat) (n : Nat) (u : Cvu) (s : State) : drbgU (setCvu n u s) j = drbgU s j := rfl
@[simp] theorem drbgU_setCore (j : Nat) (n : Nat) (c : Core) (s : State) : drbgU (setCore n c s) j = drbgU s j := rfl
@[simp] theorem drbgU_setQp (j : Nat) (p q : Nat) (v : Qp) (s : State) : drbgU (setQp p q v s) j = drbgU s j := rfl
@[simp] theorem drbgU_setInst (j : Nat) (i : Nat) (v : Inst) (s : State) : drbgU (setInst i v s) j = drbgU s j := rfl
@[simp] theorem drbgU_setPort (j : Nat) (p : Nat) (v : Port) (s : State) : drbgU (setPort p v s) j = drbgU s j := rfl
@[simp] theorem drbgU_setMsix (j : Nat) (p v : Nat) (m : Msix) (s : State) : drbgU (setMsix p v m s) j = drbgU s j := rfl
@[simp] theorem drbgU_setCnt (j : Nat) (b : Bank) (u k : Nat) (c : Cnt) (s : State) : drbgU (setCnt b u k c s) j = drbgU s j := rfl
@[simp] theorem drbgU_setBuf (j : Nat) (n : Nat) (b : SampBuf) (s : State) : drbgU (setBuf n b s) j = drbgU s j := rfl
@[simp] theorem drbgU_hostPut (j : Nat) (a : Nat) (b : Bytes) (s : State) : drbgU (hostPut a b s) j = drbgU s j := rfl
@[simp] theorem drbgU_setFlt (j : Nat) (b : Blk) (u : Nat) (f : FltSet) (s : State) : drbgU (setFlt b u f s) j = drbgU s j := rfl
theorem linkU_setLink (n m : Nat) (e : Link) (s : State) : linkU (setLink n e s) m = if m = n then e else linkU s m := Tbl.get_set _ _ _ _ _
@[simp] theorem linkU_setLink_same (n : Nat) (e : Link) (s : State) : linkU (setLink n e s) n = e := Tbl.get_set_same _ _ _ _
@[simp] theorem linkU_setEng (j : Nat) (n : Nat) (e : Engine) (s : State) : linkU (setEng n e s) j = linkU s j := rfl
@[simp] theorem linkU_setAes (j : Nat) (n : Nat) (c : AesCore) (s : State) : linkU (setAes n c s) j = linkU s j := rfl
@[simp] theorem linkU_setDge (j : Nat) (n : Nat) (u : Dge) (s : State) : linkU (setDge n u s) j = linkU s j := rfl
@[simp] theorem linkU_setCvu (j : Nat) (n : Nat) (u : Cvu) (s : State) : linkU (setCvu n u s) j = linkU s j := rfl
@[simp] theorem linkU_setCore (j : Nat) (n : Nat) (c : Core) (s : State) : linkU (setCore n c s) j = linkU s j := rfl
@[simp] theorem linkU_setQp (j : Nat) (p q : Nat) (v : Qp) (s : State) : linkU (setQp p q v s) j = linkU s j := rfl
@[simp] theorem linkU_setInst (j : Nat) (i : Nat) (v : Inst) (s : State) : linkU (setInst i v s) j = linkU s j := rfl
@[simp] theorem linkU_setPort (j : Nat) (p : Nat) (v : Port) (s : State) : linkU (setPort p v s) j = linkU s j := rfl
@[simp] theorem linkU_setMsix (j : Nat) (p v : Nat) (m : Msix) (s : State) : linkU (setMsix p v m s) j = linkU s j := rfl
@[simp] theorem linkU_setCnt (j : Nat) (b : Bank) (u k : Nat) (c : Cnt) (s : State) : linkU (setCnt b u k c s) j = linkU s j := rfl
@[simp] theorem linkU_setBuf (j : Nat) (n : Nat) (b : SampBuf) (s : State) : linkU (setBuf n b s) j = linkU s j := rfl
@[simp] theorem linkU_hostPut (j : Nat) (a : Nat) (b : Bytes) (s : State) : linkU (hostPut a b s) j = linkU s j := rfl
@[simp] theorem linkU_setFlt (j : Nat) (b : Blk) (u : Nat) (f : FltSet) (s : State) : linkU (setFlt b u f s) j = linkU s j := rfl
theorem bufU_setBuf (n m : Nat) (e : SampBuf) (s : State) : bufU (setBuf n e s) m = if m = n then e else bufU s m := Tbl.get_set _ _ _ _ _
@[simp] theorem bufU_setBuf_same (n : Nat) (e : SampBuf) (s : State) : bufU (setBuf n e s) n = e := Tbl.get_set_same _ _ _ _
@[simp] theorem bufU_setEng (j : Nat) (n : Nat) (e : Engine) (s : State) : bufU (setEng n e s) j = bufU s j := rfl
@[simp] theorem bufU_setAes (j : Nat) (n : Nat) (c : AesCore) (s : State) : bufU (setAes n c s) j = bufU s j := rfl
@[simp] theorem bufU_setDge (j : Nat) (n : Nat) (u : Dge) (s : State) : bufU (setDge n u s) j = bufU s j := rfl
@[simp] theorem bufU_setCvu (j : Nat) (n : Nat) (u : Cvu) (s : State) : bufU (setCvu n u s) j = bufU s j := rfl
@[simp] theorem bufU_setCore (j : Nat) (n : Nat) (c : Core) (s : State) : bufU (setCore n c s) j = bufU s j := rfl
@[simp] theorem bufU_setQp (j : Nat) (p q : Nat) (v : Qp) (s : State) : bufU (setQp p q v s) j = bufU s j := rfl
@[simp] theorem bufU_setInst (j : Nat) (i : Nat) (v : Inst) (s : State) : bufU (setInst i v s) j = bufU s j := rfl
@[simp] theorem bufU_setPort (j : Nat) (p : Nat) (v : Port) (s : State) : bufU (setPort p v s) j = bufU s j := rfl
@[simp] theorem bufU_setMsix (j : Nat) (p v : Nat) (m : Msix) (s : State) : bufU (setMsix p v m s) j = bufU s j := rfl
@[simp] theorem bufU_setCnt (j : Nat) (b : Bank) (u k : Nat) (c : Cnt) (s : State) : bufU (setCnt b u k c s) j = bufU s j := rfl
@[simp] theorem bufU_hostPut (j : Nat) (a : Nat) (b : Bytes) (s : State) : bufU (hostPut a b s) j = bufU s j := rfl
@[simp] theorem bufU_setFlt (j : Nat) (b : Blk) (u : Nat) (f : FltSet) (s : State) : bufU (setFlt b u f s) j = bufU s j := rfl

/-- Host memory after a write of a run of bytes. -/
theorem hostPut_get (a j : Nat) (b : Bytes) (s : State) :
    Tbl.get 0 (hostPut a b s).host.mem j = if a ≤ j ∧ j < a + b.length then b.getD (j - a) 0 else Tbl.get 0 s.host.mem j :=
  Tbl.get_setList _ _ _ _ _

/-- A write of host memory keeps its canonical form. -/
theorem hostPut_wf (a : Nat) (b : Bytes) (s : State) (h : Tbl.wf 0 s.host.mem = true) :
    Tbl.wf 0 (hostPut a b s).host.mem = true := Tbl.wf_setList _ _ _ _ h

/-- A burn keeps OTP in canonical form. -/
theorem burnWord_wf (n v : Nat) (s : State) (h : Tbl.wf 0 s.lcs.otp = true) :
    Tbl.wf 0 (burnWord n v s).lcs.otp = true := Tbl.wf_set _ _ _ _ h

end Sys2Proof.Machine
end

