-- ==== Sys2Proof/Laws/Count.lean ====
section
/-! SUPPORT. What counting an event, signalling a vector, an unarmed checker and an access to host memory can do. -/
namespace Sys2Proof.Machine
open Sys2Proof

/-- `t` is `s` but for the counters, the open values used, the messages sent and the MSI-X entries. -/
def Counted (s t : State) : Prop :=
  { t with
    cad := s.cad, free := s.free, host := { t.host with msgs := s.host.msgs }, hif := { t.hif with msix := s.hif.msix } } = s

theorem Counted.refl (s : State) : Counted s s := rfl

theorem Counted.trans {s t u : State} (h : Counted s t) (k : Counted t u) : Counted s u := by
  unfold Counted at *
  rw [← k] at h
  exact h

theorem Counted.pending {s t : State} (h : Counted s t) : t.pending = s.pending := by
  have e := congrArg (fun x : State => x.pending) h
  exact e
theorem Counted.now {s t : State} (h : Counted s t) : t.now = s.now := by
  have e := congrArg (fun x : State => x.now) h
  exact e
theorem Counted.hostMem {s t : State} (h : Counted s t) : t.host.mem = s.host.mem := by
  have e := congrArg (·.host.mem) h
  exact e
theorem Counted.hostBad {s t : State} (h : Counted s t) : t.host.bad = s.host.bad := by
  have e := congrArg (·.host.bad) h
  exact e
theorem Counted.aer {s t : State} (h : Counted s t) : t.host.aer = s.host.aer := by
  have e := congrArg (·.host.aer) h
  exact e
theorem Counted.noMaster {s t : State} (h : Counted s t) : t.host.noMaster = s.host.noMaster := by
  have e := congrArg (·.host.noMaster) h
  exact e
theorem Counted.cmds {s t : State} (h : Counted s t) : t.hif.cmds = s.hif.cmds := by
  have e := congrArg (·.hif.cmds) h
  exact e
theorem Counted.qps {s t : State} (h : Counted s t) : t.hif.qps = s.hif.qps := by
  have e := congrArg (·.hif.qps) h
  exact e
theorem Counted.inst {s t : State} (h : Counted s t) : t.hif.inst = s.hif.inst := by
  have e := congrArg (·.hif.inst) h
  exact e
theorem Counted.port {s t : State} (h : Counted s t) : t.hif.port = s.hif.port := by
  have e := congrArg (·.hif.port) h
  exact e
theorem Counted.perms {s t : State} (h : Counted s t) : t.hif.perms = s.hif.perms := by
  have e := congrArg (·.hif.perms) h
  exact e
theorem Counted.ts {s t : State} (h : Counted s t) : t.hif.ts = s.hif.ts := by
  have e := congrArg (·.hif.ts) h
  exact e
theorem Counted.stamp {s t : State} (h : Counted s t) : t.hif.stamp = s.hif.stamp := by
  have e := congrArg (·.hif.stamp) h
  exact e
theorem Counted.drl {s t : State} (h : Counted s t) : t.drl = s.drl := by
  have e := congrArg (fun x : State => x.drl) h
  exact e
theorem Counted.hub {s t : State} (h : Counted s t) : t.hub = s.hub := by
  have e := congrArg (fun x : State => x.hub) h
  exact e
theorem Counted.hsa {s t : State} (h : Counted s t) : t.hsa = s.hsa := by
  have e := congrArg (fun x : State => x.hsa) h
  exact e
theorem Counted.dge {s t : State} (h : Counted s t) : t.dge = s.dge := by
  have e := congrArg (fun x : State => x.dge) h
  exact e
theorem Counted.cvu {s t : State} (h : Counted s t) : t.cvu = s.cvu := by
  have e := congrArg (fun x : State => x.cvu) h
  exact e
theorem Counted.seq {s t : State} (h : Counted s t) : t.seq = s.seq := by
  have e := congrArg (fun x : State => x.seq) h
  exact e
theorem Counted.kvt {s t : State} (h : Counted s t) : t.kvt = s.kvt := by
  have e := congrArg (fun x : State => x.kvt) h
  exact e
theorem Counted.bbram {s t : State} (h : Counted s t) : t.bbram = s.bbram := by
  have e := congrArg (fun x : State => x.bbram) h
  exact e
theorem Counted.ent {s t : State} (h : Counted s t) : t.ent = s.ent := by
  have e := congrArg (fun x : State => x.ent) h
  exact e
theorem Counted.mem {s t : State} (h : Counted s t) : t.mem = s.mem := by
  have e := congrArg (fun x : State => x.mem) h
  exact e
theorem Counted.pwr {s t : State} (h : Counted s t) : t.pwr = s.pwr := by
  have e := congrArg (fun x : State => x.pwr) h
  exact e
theorem Counted.glb {s t : State} (h : Counted s t) : t.glb = s.glb := by
  have e := congrArg (fun x : State => x.glb) h
  exact e
theorem Counted.lcs {s t : State} (h : Counted s t) : t.lcs = s.lcs := by
  have e := congrArg (fun x : State => x.lcs) h
  exact e
theorem Counted.dbg {s t : State} (h : Counted s t) : t.dbg = s.dbg := by
  have e := congrArg (fun x : State => x.dbg) h
  exact e
theorem Counted.tmp {s t : State} (h : Counted s t) : t.tmp = s.tmp := by
  have e := congrArg (fun x : State => x.tmp) h
  exact e
theorem Counted.flt {s t : State} (h : Counted s t) : t.flt = s.flt := by
  have e := congrArg (fun x : State => x.flt) h
  exact e
theorem Counted.tlk {s t : State} (h : Counted s t) : t.tlk = s.tlk := by
  have e := congrArg (fun x : State => x.tlk) h
  exact e
theorem Counted.pins {s t : State} (h : Counted s t) : t.pins = s.pins := by
  have e := congrArg (fun x : State => x.pins) h
  exact e

/-- An engine is the same before and after counting. -/
theorem Counted.eng {s t : State} (h : Counted s t) (n : Nat) : eng t n = eng s n := by
  unfold Sys2Proof.Machine.eng; rw [h.hub]
theorem Counted.cmdU {s t : State} (h : Counted s t) (n : Nat) : cmdU t n = cmdU s n := by
  unfold Sys2Proof.Machine.cmdU; rw [h.cmds]
theorem Counted.coreU {s t : State} (h : Counted s t) (n : Nat) : coreU t n = coreU s n := by
  unfold Sys2Proof.Machine.coreU; rw [h.seq]
theorem Counted.instU {s t : State} (h : Counted s t) (n : Nat) : instU t n = instU s n := by
  unfold Sys2Proof.Machine.instU; rw [h.inst]
theorem Counted.fltU {s t : State} (h : Counted s t) (b : Blk) (n : Nat) : fltU t b n = fltU s b n := by
  unfold Sys2Proof.Machine.fltU; rw [h.flt]

/-- A signal sends a message or holds it pending. -/
theorem signal_counted (fn v : Nat) (s : State) : Counted s (signal fn v s) := by
  unfold signal; dsimp only; split
  · exact .refl s
  · split <;> rfl

/-- A sample of a bank other than the sequencers' touches no unit. -/
theorem sampleAt_counted (b : Bank) (u k : Nat) (s : State) (hb : b ≠ .seq) : Counted s (sampleAt b u k s) := by
  cases b with
  | seq => exact absurd rfl hb
  | hub =>
    unfold sampleAt; dsimp only; split
    · by_cases hp : (bufU s (16 + u)).precise = true
      · simp only [hp, if_true]; rfl
      · simp only [hp]; rfl
    · exact .refl s
  | block => exact .refl s
  | inst => exact .refl s

theorem cntAdd_counted (b : Bank) (u : Nat) (hb : b ≠ .seq) (n k amt : Nat) (s : State) :
    Counted s (cntAdd b u n k amt s) := by
  induction n generalizing k amt s with
  | zero => exact .refl s
  | succ n ih =>
    unfold cntAdd; dsimp only
    split
    · exact .refl s
    · split
      · rfl
      · have h0 : Counted s (setCnt b u k { cntU s b u k with
            val := ((cntU s b u k).val + amt) % 2 ^ 48
            ovf := (cntU s b u k).ovf || decide (0 < ((cntU s b u k).val + amt) / 2 ^ 48) } s) := rfl
        have h1 : ∀ S, Counted s S →
            Counted s (if (cntU s b u k).ovfInt = true then signal 0 114 (sampleAt b u k S) else S) := by
          intro S h; split
          · exact h.trans ((sampleAt_counted b u k S hb).trans (signal_counted 0 114 _))
          · exact h
        split
        · exact (h1 _ h0).trans (ih _ _ _)
        · exact h1 _ h0

theorem ite_counted {s t : State} {p : Prop} [Decidable p] (h : Counted s t) : Counted s (if p then t else s) := by
  split
  · exact h
  · exact .refl s

/-- An event of a bank other than the sequencers' touches no unit. -/
theorem cadEvent_counted (b : Bank) (u code amt : Nat) (v : Bool) (i : Nat) (s : State) (hb : b ≠ .seq) :
    Counted s (cadEvent b u code amt v i s) := by
  have key : ∀ (l : List Nat) (g : State → Nat → State) (s : State), (∀ s k, Counted s (g s k)) → Counted s (l.foldl g s) := by
    intro l g
    induction l with
    | nil => exact fun s _ => .refl s
    | cons k l ih => exact fun s h => (h s k).trans (ih _ h)
  unfold cadEvent
  refine key _ _ s (fun s k => ?_)
  dsimp only
  exact ite_counted (cntAdd_counted b u hb _ _ _ _)

theorem blkEvent_counted (b : Blk) (code amt : Nat) (s : State) : Counted s (blkEvent b code amt s) :=
  cadEvent_counted .block _ _ _ _ _ _ (by decide)

theorem instEvent_counted (i code amt : Nat) (s : State) : Counted s (instEvent i code amt s) :=
  cadEvent_counted .inst _ _ _ _ _ _ (by decide)

theorem bytesEvent_counted (b : Blk) (code n : Nat) (s : State) : Counted s (bytesEvent b code n s) := by
  unfold bytesEvent; dsimp only
  refine Counted.trans ?_ (blkEvent_counted _ _ _ _)
  rfl

/-- Nothing is counted where no counter of the unit is enabled. -/
theorem cadEvent_off (b : Bank) (u code amt : Nat) (v : Bool) (i : Nat) (s : State)
    (h : ∀ k, k < bankSize b → (cntU s b u k).en = false) : cadEvent b u code amt v i s = s := by
  have key : ∀ (l : List Nat) (g : State → Nat → State), (∀ k ∈ l, g s k = s) → l.foldl g s = s := by
    intro l g h
    induction l with
    | nil => rfl
    | cons k l ih => rw [List.foldl_cons, h k (by simp), ih (fun j hj => h j (by simp [hj]))]
  have hz : ∀ k m, k < bankSize b → cntAdd b u m k amt s = s := by
    intro k m hk
    cases m with
    | zero => rfl
    | succ m => unfold cntAdd; simp only [h k hk, Bool.false_eq_true, not_false_iff, true_or, if_true]
  unfold cadEvent
  refine key _ _ (fun k hk => ?_)
  dsimp only
  rw [hz k _ (by simpa using hk), ite_self]

/-- An access of a checker on which nothing is armed leaves the state. -/
theorem access_unarmed (b : Blk) (set c cls : Nat) (dec : Bool) (u i : Nat) (id : Option Nat) (s : State)
    (h : (fltU s b set).armed = false) : access b set c cls dec u i id s = s := by
  simp [access, injArmed, h]

/-- A DMA read that succeeds gives the bytes of host memory and counts. -/
theorem dmaRead_ok (fn a n : Nat) (s : State) (h : hostOk s fn a n = true) :
    ∃ t, dmaRead fn a n s = some (hostBytes s a n, t) ∧ Counted s t := by
  refine ⟨instEvent fn 6 n (bytesEvent .hif 0x12 n s), ?_, (bytesEvent_counted _ _ _ _).trans (instEvent_counted _ _ _ _)⟩
  simp only [dmaRead, h, if_true]

/-- A DMA write that succeeds, with no logging, stores its bytes and counts. -/
theorem dmaWrite_ok (fn a : Nat) (b : Bytes) (s : State) (h : hostOk s fn a b.length = true)
    (hl : (instU s fn).logging = false) :
    ∃ t, dmaWrite fn a b s = some t ∧ Counted (hostPut a b s) t := by
  have hl' : (instU (hostPut a b s) fn).logging = false := hl
  refine ⟨instEvent fn 7 b.length (bytesEvent .hif 0x13 b.length (hostPut a b s)), ?_, ?_⟩
  · simp only [dmaWrite, h, if_true, logWrite, hl', Bool.false_eq_true, if_false]
  exact (bytesEvent_counted _ _ _ _).trans (instEvent_counted _ _ _ _)

/-- The bytes written read back. -/
theorem hostBytes_hostPut (a : Nat) (b : Bytes) (s : State) : hostBytes (hostPut a b s) a b.length = b := by
  have key : ∀ (n k : Nat) (m : Tbl Byte), (∀ i, i < n → Tbl.get 0 m (k + i) = b.getD (k + i - a) 0) → a ≤ k →
      Tbl.getList 0 m k n = ((List.range n).map (fun i => b.getD (k + i - a) 0)) := by
    intro n
    induction n with
    | zero => intros; rfl
    | succ n ih =>
      intro k m h hk
      rw [Tbl.getList, ih (k + 1) m (fun i hi => by
        have := h (i + 1) (by omega); rwa [show k + (i + 1) = k + 1 + i by omega] at this) (by omega),
        List.range_succ_eq_map, List.map_cons, List.map_map]
      have h0 := h 0 (by omega)
      simp only [Nat.add_zero] at h0 ⊢
      rw [h0]
      congr 1
      apply List.map_congr_left
      intro i _
      simp only [Function.comp]
      rw [show k + 1 + i = k + (i + 1) by omega]
  unfold hostBytes
  rw [key b.length a _ (fun i hi => by
    simp only [hostPut]; rw [Tbl.get_setList, if_pos (by omega)]) (le_refl a)]
  apply List.ext_getElem
  · simp
  · intro i h1 h2
    simp [List.getD_eq_getElem?_getD, List.getElem?_eq_getElem h2]

end Sys2Proof.Machine
end

