-- ==== Sys2Proof/Laws/Cores.lean ====
section
/-! SUPPORT. One instruction of a core at which nothing else happens: its effect and nothing else. -/
namespace Sys2Proof.Machine
open Sys2Proof

/-- The core a ready core's instruction function is applied to. -/
theorem core_unseen (s : State) (n : Nat) (h : countersSeen s (coreU s n) = false) :
    ({ coreU s n with
       trap := {}
       dmem := if countersSeen s (coreU s n) then Tbl.setList 0 (coreU s n).dmem 0x7FC0 (counterBytes s n)
         else (coreU s n).dmem } : Core) = { coreU s n with trap := {} } := by
  rw [h]; rfl

/-- A pending interrupt that is not there is not taken. -/
theorem takePending_none (n : Nat) (s : State) (h : (coreU s n).intPend = false) : takePending n s = s := by
  unfold takePending; dsimp only; rw [if_neg]; simp [h]

/-- An instruction that completes on a ready core writes the core and nothing else. -/
theorem sStep_ok (s : State) (w : SIns) (n : Nat) (data : Bool) (reps : Nat) (f : Core → SRes) (io : State → State) (d : Core)
    (h : coreReady s n) (hw : sFetch (coreU s n) w = .this) (hf : f { coreU s n with trap := {} } = .ok d)
    (hs : staysIn (coreU s n) d) :
    sStep w n data reps f io s = setCore n { d with trap := (coreU s n).trap, intPend := false } s := by
  obtain ⟨h1, h2, h3, h4, h5⟩ := h
  have ha : ∀ c cls, access .seq n c cls true 0 (coreU s n).inst (coreU s n).cmd s = s :=
    fun c cls => access_unarmed _ _ _ _ _ _ _ _ _ h2
  have hc : ∀ code amt v i, cadEvent .seq n code amt v i s = s := fun code amt v i => cadEvent_off _ _ _ _ _ _ _ h4
  have hn : ¬ ((coreU s n).extMode = true ∧ d.extMode = true ∧ d.pc < 0x3000) := by
    rintro ⟨a, b, c⟩; have := hs a b; omega
  dsimp only at hf
  unfold sStep
  simp only [ha, ite_self, h1, hw, ne_eq, reduceCtorEq, not_false_eq_true, and_self, if_true, h5, Bool.false_eq_true,
    if_false, hf, hn, hc, Bool.true_eq_false]
  rw [takePending_none _ _ (by simp [h3]), h3]

/-- An instruction that traps on a ready core is the trap, with the core its function gives. -/
theorem sStep_trap (s : State) (w : SIns) (n : Nat) (data : Bool) (reps : Nat) (f : Core → SRes) (io : State → State) (k : Nat)
    (d : Core) (h : coreReady s n) (hw : sFetch (coreU s n) w = .this) (hf : f { coreU s n with trap := {} } = .trap k d) :
    sStep w n data reps f io s = sTrap n k d s := by
  obtain ⟨h1, h2, h3, h4, h5⟩ := h
  have ha : ∀ c cls, access .seq n c cls true 0 (coreU s n).inst (coreU s n).cmd s = s :=
    fun c cls => access_unarmed _ _ _ _ _ _ _ _ _ h2
  dsimp only at hf
  unfold sStep
  simp only [ha, ite_self, h1, hw, ne_eq, reduceCtorEq, not_false_eq_true, and_self, if_true, h5, Bool.false_eq_true,
    if_false, hf, Bool.true_eq_false]

/-- Writing a core keeps everything else. -/
theorem setCore_frame (s : State) (n : Nat) (c : Core) : coreFrame s (setCore n c s) n := by
  refine ⟨⟨rfl, rfl, rfl, rfl, rfl, rfl, rfl, rfl, rfl, rfl, rfl, rfl, rfl, rfl, rfl, rfl, rfl, rfl, rfl, rfl⟩, rfl, rfl, rfl, rfl,
    fun m hm => ?_, rfl, rfl⟩
  rw [coreU_setCore, if_neg hm]

end Sys2Proof.Machine
end

