-- ==== Sys2Proof/Laws/Kernels.lean ====
section
/-! SUPPORT. One instruction of a kernel at which nothing else happens: its effect on its engine and nothing else. -/
namespace Sys2Proof.Machine
open Sys2Proof

/-- The accesses of an instruction are nothing where no injection is armed on the engine. -/
theorem kAccess_unarmed (n inst : Nat) (id : Option Nat) (l : List (Nat × Nat × Bool)) (s : State)
    (h : (fltU s .hub n).armed = false) : kAccess n inst id l s = s := by
  induction l with
  | nil => rfl
  | cons p l ih =>
    obtain ⟨c, cls, d⟩ := p
    have h1 : ∀ c cls d, access .hub n c cls d 0 inst id s = s := fun c cls d => access_unarmed _ _ _ _ _ _ _ _ _ h
    have h2 : scratchFault n c d inst id s = s := by
      simp [scratchFault, injArmed, h, h1]
    simp only [kAccess, h1, h2, ite_self, ih]

/-- The memory access of an instruction is nothing where no injection is armed on the memory. -/
theorem dramAccess_unarmed (i : Instr) (n : Nat) (s : State) (h : (fltU s .mem 0).armed = false) : dramAccess i n s = s := by
  simp [dramAccess, memArmed, injArmed, h]

/-- Every access of an instruction finds its region where the memory is initialised. -/
theorem dramReady_done (i : Instr) (n : Nat) (s : State) (h : s.mem.initDone = 0x7F) : dramReady i n s = true := by
  have g : ∀ code, regionReady s code = true := fun code => by
    unfold regionReady initBit
    rw [h]
    split <;> decide
  unfold dramReady
  rw [List.all_eq_true]
  intro a _
  split
  · exact g _
  · rfl

/-- No job is issued where the XOF contexts stay. -/
theorem xofJobs_same (n k : Nat) (a : Tbl Xof) : xofJobs n k a a = [] := by
  simp [xofJobs]

theorem kStep_ok (i : Instr) (s : State) (n : Nat) (chk : List (Nat × Nat × Bool))
    (f : (Nat → Byte) → (Nat → Nat → Bool) → Engine → KRes) (x : Engine) (h : kernelReady s n)
    (hf : f (fun i => Config.freeByte (s.free + i)) (fun _ _ => false) (eng s n) = .ok x) (hx : x.xof = (eng s n).xof)
    (hi : kFetch n (eng s n) i = .this) (hu : x.uc.issue = false) (hb : x.mg.blocks < 983040) :
    ∃ t, kStep i n none chk f s = setEng n x t ∧ Counted s t := by
  obtain ⟨h1, h2, h3, h4, h5, h6, h7⟩ := h
  have hr : (eng s n).inReset = false := by
    simp only [kernRuns, Bool.and_eq_true] at h1
    simpa using h1.2
  have hcnt := cadEvent_counted .hub n 3 1 (!(eng s n).owner) (eng s n).inst { s with free := s.free + openSpan } (by decide)
  have h0 : Counted s { s with free := s.free + openSpan } := rfl
  refine ⟨_, ?_, h0.trans hcnt⟩
  have hc := hcnt.eng n
  have hm := hcnt.mem
  have hpois : (fun w l => (poisonedAt s n (eng s n) w l).isSome) = (fun _ _ => false) := by
    funext w l; simp [poisonedAt, h5]
  unfold kStep
  dsimp only
  rw [h6, if_pos rfl, hi]
  rw [if_pos (show kernRuns (eng s n) = true ∧ sameIssue (Option.map (·.1) (none : Option (Nat × LF))) (eng s n).uc = true ∧ Fetch.this ≠ .other ∧ dramReady i n s = true from
    ⟨h1, by simp [sameIssue, h2], by decide, dramReady_done i n s h7⟩)]
  rw [kAccess_unarmed _ _ _ _ _ h3, dramAccess_unarmed _ _ _ h4, ite_self]
  rw [if_pos (show (eng s n).cmd = (eng s n).cmd ∧ ¬ (eng s n).inReset = true from ⟨rfl, by rw [hr]; decide⟩)]
  rw [hpois, h6, if_neg (by decide), if_neg (by decide), hf]
  unfold kApply
  simp only [Option.map_none]
  rw [show eng _ n = eng s n from hc, hu]
  simp only [Bool.false_eq_true, if_false]
  rw [hx, xofJobs_same]
  unfold mgSettle
  rw [eng_setEng, if_pos rfl, if_pos hb]
  unfold unpoison
  rw [if_pos]
  left
  rw [setEng_mem, hm]
  exact h5
/-- XOR over a list can start anywhere. -/
theorem foldl_xor_start (ms : List (BitVec 8192)) (a : BitVec 8192) :
    ms.foldl (· ^^^ ·) a = a ^^^ ms.foldl (· ^^^ ·) 0#8192 := by
  induction ms generalizing a with
  | nil => simp
  | cons m ms ih => rw [List.foldl_cons, List.foldl_cons, ih, ih (0#8192 ^^^ m), BitVec.zero_xor, BitVec.xor_assoc]
/-- The shares of a register in the boolean domain recover its value (R121). -/
theorem recover_shares_boolean (q : Nat → Nat) (r : VReg) (h : r.dom = .boolean) :
    recover q .boolean (r.shares q) = r.val := by
  show (r.shares q).foldl (· ^^^ ·) 0#8192 = r.val
  simp only [VReg.shares, VReg.share0, h, List.foldl_cons, BitVec.zero_xor]
  rw [foldl_xor_start r.masks (r.masks.foldl _ _), foldl_xor_start r.masks r.val, BitVec.xor_assoc, BitVec.xor_self,
    BitVec.xor_zero]
/-- Counting and the writing of engine `n` keep what an instruction of its kernel keeps. -/
theorem kernelFrame_of {s t : State} (n : Nat) (x : Engine) (h : Counted s t) : kernelFrame s (setEng n x t) n := by
  refine ⟨⟨h.pending, h.now, h.hostMem, h.cmds, h.qps, h.inst, h.ts, h.drl, h.kvt, h.bbram, h.ent, h.mem, h.pwr, h.glb, h.lcs,
    h.dbg, h.tmp, h.flt, h.tlk, h.pins⟩, h.seq, h.dge, h.cvu, fun m hm => ?_, ?_, ?_, ?_⟩
  · rw [eng_setEng, if_neg hm, h.eng]
  · rw [setEng_hub_kmem, h.hub]
  · rw [setEng_hub_patch, h.hub]
  · rw [setEng_hub_aes, h.hub]

end Sys2Proof.Machine
end

