-- ==== Sys2Proof/Laws/Legal.lean ====
section
/-! SUPPORT. A legal instruction of a kernel has the result of its table: no exception and no wait. -/
namespace Sys2Proof.Machine
open Sys2Proof

variable (e : Fin 64) (u : Bool) (f8 : Fin 8) (f4 : Fin 4) (a : VF) (x : Engine)

theorem legal_vwmul (h : kernelLegal (.vwmul e u a) x) : ∃ y, vwop .mul u a x = .ok y := by
  obtain ⟨h1, h2, h3, h4, h5⟩ := h
  simp only [vwop, retire, h1, h2, h3]; by_cases hv : x.vl = 0 <;> simp [hv, h4, h5, h3]

theorem legal_vwmacc (h : kernelLegal (.vwmacc e u a) x) : ∃ y, vwop .macc u a x = .ok y := by
  obtain ⟨h1, h2, h3, h4, h5⟩ := h
  simp only [vwop, retire, h1, h2, h3]; by_cases hv : x.vl = 0 <;> simp [hv, h4, h5, h3]

theorem legal_vwadd (h : kernelLegal (.vwadd e u a) x) : ∃ y, vwop .add u a x = .ok y := by
  obtain ⟨h1, h2, h3, h4, h5⟩ := h
  simp only [vwop, retire, h1, h2, h3]; by_cases hv : x.vl = 0 <;> simp [hv, h4, h5, h3]

theorem legal_vdot4 (h : kernelLegal (.vdot4 e u a) x) : ∃ y, vwop .dot4 u a x = .ok y := by
  obtain ⟨h1, h2, h3, h5⟩ := h
  simp only [vwop, retire, h1, h2, h3]; by_cases hv : x.vl = 0 <;> simp [hv, h5]

theorem legal_vdot2 (h : kernelLegal (.vdot2 e u a) x) : ∃ y, vwop .dot2 u a x = .ok y := by
  obtain ⟨h1, h2, h3, h5⟩ := h
  simp only [vwop, retire, h1, h2, h3]; by_cases hv : x.vl = 0 <;> simp [hv, h5]

theorem legal_vcmp (h : kernelLegal (.vcmp e f8 a) x) : ∃ y, vcmp f8 a x = .ok y := by
  obtain ⟨h1, h2, h3, h4, h5, h6, h7⟩ := h
  have := f8.2
  have c : ¬ (formRsv a = true ∨ a.form = .i ∨ a.vd.toNat ≥ 8 ∨ a.vd.toNat % 8 = 0 ∨ f8.val ≥ 8 ∨ a.mode.toNat = 3 ∨ (a.mode.toNat = 2 ∧ f8.val ≥ 2)) := by
    simp [h1, h2, h5]; omega
  simp only [vcmp, c, if_false, h7, retire]; exact ⟨_, rfl⟩

theorem legal_kLogic (h : kernelLegal (.kLogic e f4 a) x) : ∃ y, kmask f4 a x = .ok y := by
  obtain ⟨h1, h2, h3⟩ := h
  have := f4.2
  have c : ¬ (a.vd.toNat % 8 = 0 ∨ a.vs1.toNat % 8 = 0 ∨ (f4.val < 3 ∧ a.f2.toNat % 8 = 0) ∨ f4.val ≥ 5) := by omega
  simp only [kmask, c, if_false, retire]; exact ⟨_, rfl⟩

theorem legal_kmov (h : kernelLegal (.kmov e a) x) : ∃ y, kmask 4 a x = .ok y := by
  obtain ⟨h1, h2⟩ := h
  have c : ¬ (a.vd.toNat % 8 = 0 ∨ a.vs1.toNat % 8 = 0 ∨ (4 < 3 ∧ a.f2.toNat % 8 = 0) ∨ 4 ≥ 5) := by omega
  simp only [kmask, c, if_false, retire]; exact ⟨_, rfl⟩

theorem legal_vtest (h : kernelLegal (.vtest e a) x) : ∃ y, vtest a x = .ok y := by
  have h : a.vs1.toNat % 8 ≠ 0 := h
  simp only [vtest, h, if_false, retire]; exact ⟨_, rfl⟩

theorem legal_perm (f : PKind) (h : permLegal f a x) : ∃ y, vperm f a x = .ok y := by
  obtain ⟨h1, h2, h3, h4⟩ := h
  have c : ¬ (a.form ≠ permForm f ∨ formRsv a = true ∨ (f = .merge ∧ a.k = 0)) := by
    simp [h1, h2]; exact h3
  simp only [vperm, c, if_false, h4, retire]; exact ⟨_, rfl⟩
variable (s : XF)

theorem legal_xop (h : kernelLegal (.xop e s) x) : ∃ y, xop s x = .ok y := by
  obtain ⟨h1, h2⟩ := h
  simp only [xop, h1, ne_eq, not_true_eq_false, if_false, retire]
  have : s.f.toNat % 16 < 11 := by omega
  generalize s.f.toNat % 16 = k at *
  unfold xopVal
  interval_cases k <;> exact ⟨_, rfl⟩

theorem legal_xshi (h : kernelLegal (.xshi e s) x) : ∃ y, xshi s x = .ok y := by
  obtain ⟨h1, h2⟩ := h
  simp [xshi, h1, h2, retire]

theorem legal_xBranch (h : kernelLegal (.xBranch e f4 s) x) : ∃ y, xbranch f4 s x = .ok y := by
  have h : inRegion x _ = true := h
  simp only [xbranch, jumpTo, h, if_true, retire]; split_ifs <;> exact ⟨_, rfl⟩

theorem legal_jal (xd off) (h : kernelLegal (.jal e xd off) x) : ∃ y, jal xd off x = .ok y := by
  have h : inRegion x _ = true := h
  simp only [jal, jumpTo, h, if_true]; exact ⟨_, rfl⟩

theorem legal_jalr (h : kernelLegal (.jalr e s) x) : ∃ y, jalr s x = .ok y := by
  obtain ⟨h0, h⟩ := h
  have h : inRegion x _ = true := h
  simp only [jalr, jumpTo, h, h0, if_true]; exact ⟨_, rfl⟩

theorem legal_vsetq (h : kernelLegal (.vsetq e s) x) : ∃ y, vsetq s x = .ok y := by
  obtain ⟨h1, h2, h3, h4, h5⟩ := h
  have c1 : ¬ (s.xd ≠ 0 ∨ bitsOf s.f.toNat 2 16 ≠ 0) := by simp [h1, h2]
  have c2 : ¬ (s.f.toNat % 4 < 2 ∨ (BitVec.ofNat 32 (getX x s.xs1.toNat).toNat).toNat < 3 ∨ (BitVec.ofNat 32 (getX x s.xs1.toNat).toNat).toNat % 2 = 0) := by
    simp only [BitVec.toNat_ofNat]; omega
  simp only [vsetq, c1, c2, if_false, retire]; exact ⟨_, rfl⟩

theorem legal_vsetgf (h : kernelLegal (.vsetgf e s) x) : ∃ y, vsetgf s x = .ok y := by
  obtain ⟨h1, h2, h3, h4⟩ := h
  have c1 : ¬ (s.xd ≠ 0 ∨ s.f ≠ 0) := by simp [h1, h2]
  have c2 : ¬ ((getX x s.xs1.toNat).toNat % 32 < 8 ∨ 16 < (getX x s.xs1.toNat).toNat % 32) := by omega
  simp only [vsetgf, c1, c2, if_false, retire]; exact ⟨_, rfl⟩
/-- A granted access is fine where no line is poisoned. -/
theorem checkAcc_granted (store vec : Bool) (n ad) (h : accGranted store vec n ad x) : checkAcc (fun _ _ => false) store vec n ad x = .ok := by
  obtain ⟨h1, h2, h3, h4, h5, h6⟩ := h
  unfold checkAcc
  rw [show winOf ad = ((winOf ad).1, (winOf ad).2) from rfl]
  generalize (winOf ad).1 = w at *
  generalize (winOf ad).2 = o at *
  have c1 : ¬ (5 ≤ w ∨ winSize x w < o + n ∨ (store = true ∧ w ≠ 1) ∨ (w = 1 ∧ ¬ vec = true)) := by
    rintro (c | c | ⟨c, d⟩ | ⟨c, d⟩)
    · omega
    · omega
    · exact d (h4 c)
    · exact d (h5 c)
  have c2 : ¬ (w = 0 ∧ x.staged.length < o + n) := by omega
  dsimp only
  rw [if_neg (not_not.2 h1), if_neg c1, if_neg c2]
  simp

theorem legal_xld (h : kernelLegal (.xld e s) x) : ∃ y, xld (fun _ _ => false) s x = .ok y := by
  simp only [xld]; rw [checkAcc_granted x _ _ _ _ h]; exact ⟨_, rfl⟩

/-- A run of elements whose accesses are all granted ends well. -/
theorem runElems_granted (store : Bool) (vd mode w width : Nat) (addr : Nat → BitVec 64) (again : Stall) (is : List Nat) :
    ∀ y : Engine, y.inLen = x.inLen → y.workSize = x.workSize → y.cache = x.cache → y.staged = x.staged →
      (∀ i, i ∈ is → accGranted store true (width / 8) (addr i) x) →
      ∃ z, runElems (fun _ _ => false) store vd mode w width addr again is y = .ok z := by
  induction is with
  | nil => exact fun _ _ _ _ _ _ => ⟨_, rfl⟩
  | cons i is ih =>
    intro y h1 h2 h3 h4 h
    have g : accGranted store true (width / 8) (addr i) y := by
      obtain ⟨a, b, c, d⟩ := h i List.mem_cons_self
      refine ⟨a, b, ?_, by rw [h4]; exact d⟩
      rw [show winSize y = winSize x from funext fun k => by simp only [winSize, h1, h2, h3]]
      exact c
    simp only [runElems, checkAcc_granted y _ _ _ _ g]
    refine ih _ ?_ ?_ ?_ ?_ (fun j hj => h j (List.mem_cons_of_mem _ hj)) <;>
      (simp only [elemAcc]; split <;> simp [workWrite, *])

theorem legal_vmem (store : Bool) (m : MF) (h : loadLegal store m x) : ∃ y, vmem (fun _ _ => false) store m x = .ok y := by
  obtain ⟨h1, h2, h3, h4⟩ := h
  by_cases hv : x.vl = 0
  · simp only [vmem, h1, h2, h3, hv, Bool.false_eq_true, or_self, if_false, if_true]
    exact ⟨_, rfl⟩
  · simp only [vmem, h1, h2, h3, hv, Bool.false_eq_true, or_self, if_false]
    refine runElems_granted x _ _ _ _ _ _ _ _ x rfl rfl rfl rfl fun i hi => ?_
    simp only [memElems, List.mem_filter, List.mem_range, Bool.and_eq_true, decide_eq_true_eq] at hi
    exact h4 i hi.1 hi.2.1 hi.2.2

theorem legal_vgs (scatter : Bool) (g : GF) (h : gatherLegal scatter g x) : ∃ y, vgs (fun _ _ => false) scatter g x = .ok y := by
  obtain ⟨h1, h2, h3⟩ := h
  by_cases hv : x.vl = 0
  · simp [vgs, h1, h2, hv, retire]
  · obtain ⟨h4, h5⟩ := h3 hv
    simp only [vgs, h1, h2, hv, ne_eq, not_true_eq_false, if_false, checkAcc_granted x _ _ _ _ h4]
    refine runElems_granted x _ _ _ _ _ _ _ _ x rfl rfl rfl rfl fun i hi => ?_
    simp only [gsElems, List.mem_filter, List.mem_map, List.mem_range, Bool.and_eq_true, decide_eq_true_eq] at hi
    obtain ⟨⟨j, hj, rfl⟩, ⟨a, b⟩, c⟩ := hi
    exact h5 _ (by omega) (by omega) a b c

variable (l : LF) (fr : Nat → Byte)

theorem need256_wants (h : wants256 x) : need256 x = 0 := by simp [need256, h.1, h.2]

theorem legal_vntt (i : Bool) (h : kernelLegal (.vntt e l) x) : ∃ y, vntt i l x = .ok y := by
  obtain ⟨h1, h2, h3⟩ := h
  simp only [vntt, Nat.not_le.2 h1, if_false, need256_wants x h2, h3, orExc, retire, ne_eq, not_true_eq_false, if_true]; exact ⟨_, rfl⟩

theorem legal_vbmul (h : kernelLegal (.vbmul e l) x) : ∃ y, vbmul l x = .ok y := by
  obtain ⟨h1, h2⟩ := h
  simp only [vbmul, Nat.not_le.2 h1, if_false, need256_wants x h2, orExc, retire, if_true]; exact ⟨_, rfl⟩

theorem legal_vsampleU (h : kernelLegal (.vsampleU e l) x) : ∃ y, vsampleU fr l x = .ok y := by
  obtain ⟨h1, h2⟩ := h
  simp only [vsampleU, Nat.not_le.2 h1, if_false, need256_wants x h2, orExc, retire, if_true]; exact ⟨_, rfl⟩

theorem legal_vsampleCbd (h : kernelLegal (.vsampleCbd e l) x) : ∃ y, vsampleCbd fr l x = .ok y := by
  obtain ⟨h1, h2⟩ := h
  have c : ¬ (l.p.toNat ≠ 2 ∧ l.p.toNat ≠ 3) := by omega
  simp only [vsampleCbd, c, if_false, need256_wants x h2, orExc, retire, if_true]; exact ⟨_, rfl⟩

theorem legal_vsampleEta (h : kernelLegal (.vsampleEta e l) x) : ∃ y, vsampleEta fr l x = .ok y := by
  obtain ⟨h1, h2⟩ := h
  have c : ¬ (l.p.toNat ≠ 2 ∧ l.p.toNat ≠ 4) := by omega
  simp only [vsampleEta, c, if_false, need256_wants x h2, orExc, retire, if_true]; exact ⟨_, rfl⟩

theorem legal_vsampleBall (h : kernelLegal (.vsampleBall e l) x) : ∃ y, vsampleBall fr l x = .ok y := by
  obtain ⟨h1, h2⟩ := h
  simp only [vsampleBall, Nat.not_le.2 h1, if_false, need256_wants x h2, orExc, retire, if_true]; exact ⟨_, rfl⟩

theorem legal_vdecomp (h : kernelLegal (.vdecomp e l) x) : ∃ y, vdecomp l x = .ok y := by
  obtain ⟨h1, h2, h3⟩ := h
  simp only [vdecomp, Nat.not_le.2 h1, if_false, need256_wants x h2, h3, orExc, retire, ne_eq, not_true_eq_false, if_true, Nat.zero_ne_one]; exact ⟨_, rfl⟩

theorem legal_vcompress (i : Bool) (h : kernelLegal (.vcompress e l) x) : ∃ y, vcompress i l x = .ok y := by
  obtain ⟨h1, h2⟩ := h
  simp only [vcompress, h1, h2, not_true_eq_false, if_false, ne_eq, orExc, retire, if_true]; exact ⟨_, rfl⟩

theorem legal_vpack (h : kernelLegal (.vpack e l) x) : ∃ y, vpack false l x = .ok y := by
  obtain ⟨h1, h2, h3⟩ := h
  have c1 : ¬ (x.sew ≠ 1 ∧ x.sew ≠ 2) := by omega
  simp only [vpack]
  simp [c1, h2, Nat.not_lt.2 h3, orExc, retire]

theorem legal_vunpack (h : kernelLegal (.vunpack e l) x) : ∃ y, vpack true l x = .ok y := by
  obtain ⟨h1, h2, h4, h3⟩ := h
  have c1 : ¬ (x.sew ≠ 1 ∧ x.sew ≠ 2) := by omega
  simp only [vpack]
  simp [c1, h2, h4, Nat.not_lt.2 h3, orExc, retire]

theorem legal_vafft (i : Bool) (h : kernelLegal (.vafft e l) x) : ∃ y, vafft i l x = .ok y := by
  obtain ⟨⟨h1, h2⟩,k,h3,h4⟩ := h
  have c : ((List.range 11).any (fun i => x.vl == 2 ^ i)) = true := List.any_eq_true.2 ⟨k, List.mem_range.2 h3, by simp [h4]⟩
  have d : needGf x = 0 := by simp [needGf, h1, h2]
  simp only [vafft, d, c, ne_eq, not_true_eq_false, if_false, if_true, orExc, retire]; exact ⟨_, rfl⟩

theorem legal_vgoppa (h : kernelLegal (.vgoppa e l) x) : ∃ y, vgoppa l x = .ok y := by
  obtain ⟨h1, h2⟩ := h
  have d : needGf x = 0 := by simp [needGf, h1, h2]
  simp only [vgoppa, d, if_true, orExc, retire]; exact ⟨_, rfl⟩

theorem legal_vxofInit (h : kernelLegal (.vxofInit e l) x) : ∃ y, vxofInit l x = .ok y := by
  have h : l.p.toNat < 6 := h
  simp only [vxofInit, Nat.not_le.2 h, if_false, retire]; exact ⟨_, rfl⟩

theorem legal_vkey (h : kernelLegal (.vkey e l) x) : ∃ y, vkey l x = .ok y := by
  have h : x.key ≠ none := h
  simp only [vkey]; split
  · contradiction
  · exact ⟨_, rfl⟩

theorem leBytes_length' (n k : Nat) : (leBytes n k).length = n := by induction n generalizing k <;> simp_all [leBytes]

theorem legal_vunmask (h : kernelLegal (.vunmask e l) x) : ∃ y, vunmask l x = .ok y := by
  obtain ⟨h1, h2⟩ := h
  have hl : (vlBytes x l.vs1.toNat).length = x.vl <<< x.sew := leBytes_length' _ _
  have c1 : ¬ (fifoSize < x.fifo.length + ((vlBytes x l.vs1.toNat).take (x.maxOut - x.outCount)).length) := by
    rw [List.length_take, hl, Nat.min_comm]; exact Nat.not_lt.2 h1
  have c2 : ¬ (x.maxOut - x.outCount < (vlBytes x l.vs1.toNat).length ∧ ¬ x.varOut = true) := by
    rw [hl]; rintro ⟨a, b⟩; rcases h2 with h2 | h2
    · omega
    · exact b h2
  simp only [vunmask, c1, c2, if_false, retire]; exact ⟨_, rfl⟩

theorem legal_vmpmul (h : kernelLegal (.vmpmul e l) x) : ∃ y, vmp .mul l x = .ok y := by
  obtain ⟨h1, h2⟩ := h
  simp only [vmp]; simp [h1, h2, orExc, retire]

theorem legal_vmpred (h : kernelLegal (.vmpred e l) x) : ∃ y, vmp .red l x = .ok y := by
  obtain ⟨h1, h2⟩ := h
  simp only [vmp]; simp [h1, h2, orExc, retire]

theorem legal_vmpcswap (h : kernelLegal (.vmpcswap e l) x) : ∃ y, vmp .cswap l x = .ok y := by
  have h1 : x.sew = 3 := h
  simp only [vmp]; simp [h1, orExc, retire]

end Sys2Proof.Machine
end

