-- ==== Sys2Proof/Laws/Line.lean ====
section
/-! SUPPORT. A line that is read back as it was written passes its checks (14 R312, R314). -/
namespace Sys2Proof.Machine
open Sys2Proof

theorem byte_xor_left_comm (a b c : Byte) : a ^^^ (b ^^^ c) = b ^^^ (a ^^^ c) := by ac_rfl

theorem lineAlpha_xor (a b : Byte) : lineAlpha (a ^^^ b) = lineAlpha a ^^^ lineAlpha b := by
  simp only [lineAlpha, BitVec.getLsbD_xor]
  cases a.getLsbD 7 <;> cases b.getLsbD 7 <;> 
    simp [BitVec.shiftLeft_xor_distrib, BitVec.xor_assoc, byte_xor_left_comm, BitVec.xor_comm]

theorem linePow_xor (k : Nat) (a b : Byte) : linePow k (a ^^^ b) = linePow k a ^^^ linePow k b := by
  induction k with
  | zero => rfl
  | succ k ih =>
    have h (x : Byte) : linePow (k + 1) x = lineAlpha (linePow k x) := rfl
    rw [h, h, h, ih, lineAlpha_xor]

theorem linePow_add (j k : Nat) (a : Byte) : linePow j (linePow k a) = linePow (j + k) a := by
  induction j with
  | zero => rw [Nat.zero_add]; rfl
  | succ j ih =>
    have h (n : Nat) (x : Byte) : linePow (n + 1) x = lineAlpha (linePow n x) := rfl
    rw [h, ih, Nat.succ_add, h]

/-- The generator polynomial vanishes at 1, α and α². -/
theorem lineGen_root (j : Fin 3) (f : Byte) :
    linePow (2 * j) (linePow 2 f ^^^ linePow 1 f ^^^ f) ^^^ linePow j (linePow 3 f ^^^ linePow 2 f ^^^ linePow 1 f) ^^^ linePow 3 f =
      linePow (3 * j) f := by
  revert j f
  decide +kernel

/-- The check register agrees with the syndrome of what has gone in. -/
def lineAgree (j : Nat) (a : Byte) (r : Byte × Byte × Byte) : Prop :=
  linePow (3 * j) a = linePow (2 * j) r.1 ^^^ linePow j r.2.1 ^^^ r.2.2

theorem lineAgree_step (j : Fin 3) (a x : Byte) (r : Byte × Byte × Byte) (h : lineAgree j a r) :
    lineAgree j (linePow j a ^^^ x) (lineStep r x) := by
  have e : linePow (3 * j) (linePow j a ^^^ x) =
      linePow (3 * j) (x ^^^ r.1) ^^^ (linePow (2 * j) r.2.1 ^^^ linePow j r.2.2) := by
    rw [linePow_xor, linePow_add, Nat.add_comm, ← linePow_add, h, linePow_xor, linePow_xor, linePow_add, linePow_add, linePow_xor]
    have h1 : (j : Nat) + 2 * j = 3 * j := by omega
    have h2 : (j : Nat) + j = 2 * j := by omega
    rw [h1, h2]
    ac_rfl
  rw [lineAgree, e, ← lineGen_root]
  simp only [lineStep, linePow_xor]
  ac_rfl

theorem lineAgree_fold (j : Fin 3) (m : Bytes) : ∀ (a : Byte) (r : Byte × Byte × Byte), lineAgree j a r →
    lineAgree j (m.foldl (fun a c => linePow j a ^^^ c) a) (m.foldl lineStep r) := by
  induction m with
  | nil => exact fun _ _ h => h
  | cons x m ih => exact fun a r h => ih _ _ (lineAgree_step j a x r h)

/-- A word with its check symbols has syndromes 0. -/
theorem lineSyn_word (j : Fin 3) (m : Bytes) : lineSyn j (m ++ lineCheck m) = 0 := by
  have h := lineAgree_fold j m 0 (0, 0, 0) (by unfold lineAgree; revert j; decide +kernel)
  have h1 : (j : Nat) + 2 * j = 3 * j := by omega
  have h2 : (j : Nat) + j = 2 * j := by omega
  simp only [lineSyn, lineCheck, List.foldl_append, List.foldl_cons, List.foldl_nil, linePow_xor, linePow_add, h1, h2]
  rw [show linePow (3 * ↑j) (m.foldl (fun a c => linePow j a ^^^ c) 0) = _ from h]
  simp [BitVec.xor_assoc, byte_xor_left_comm]

theorem lineSyn_start (j : Nat) (x : Byte) (w : Bytes) : ∀ a : Byte, w.foldl (fun a c => linePow j a ^^^ c) (a ^^^ x) =
    w.foldl (fun a c => linePow j a ^^^ c) a ^^^ linePow (j * w.length) x := by
  induction w generalizing x with
  | nil => exact fun _ => rfl
  | cons c w ih =>
    intro a
    simp only [List.foldl_cons, List.length_cons]
    rw [linePow_xor, show linePow j a ^^^ linePow j x ^^^ c = (linePow j a ^^^ c) ^^^ linePow j x by ac_rfl, ih, linePow_add,
      Nat.mul_succ]

/-- A cell error of value `x` at symbol `i` adds x·α^(j·(38 − i)) to syndrome `j`. -/
theorem lineSyn_modify (j i : Nat) (x : Byte) (w : Bytes) (h : i < w.length) :
    lineSyn j (w.modify i (· ^^^ x)) = lineSyn j w ^^^ linePow (j * (w.length - 1 - i)) x := by
  suffices g : ∀ (w : Bytes) (i : Nat) (a : Byte), i < w.length → (w.modify i (· ^^^ x)).foldl (fun a c => linePow j a ^^^ c) a =
      w.foldl (fun a c => linePow j a ^^^ c) a ^^^ linePow (j * (w.length - 1 - i)) x from g w i 0 h
  clear h
  intro w
  induction w with
  | nil => exact fun i a h => absurd h (Nat.not_lt_zero i)
  | cons c w ih =>
    intro i a h
    cases i with
    | zero =>
      simp only [List.modify_zero_cons, List.foldl_cons, List.length_cons, Nat.add_sub_cancel, Nat.sub_zero]
      rw [← BitVec.xor_assoc, lineSyn_start]
    | succ i =>
      simp only [List.modify_succ_cons, List.foldl_cons, List.length_cons]
      rw [ih i _ (by simpa using h), show w.length + 1 - 1 - (i + 1) = w.length - 1 - i by omega]

theorem word_modify_modify (i : Nat) (x : Byte) (w : Bytes) : (w.modify i (· ^^^ x)).modify i (· ^^^ x) = w := by
  induction w generalizing i with
  | nil => cases i <;> rfl
  | cons c w ih =>
    cases i with
    | zero => simp [BitVec.xor_assoc]
    | succ i => simp [ih]

theorem lineDecode_zero {w : Bytes} (h : ∀ j : Fin 3, lineSyn j w = 0) : lineDecode w = .clean := by
  simp [lineDecode, show lineSyn 0 _ = 0 from h 0, show lineSyn 1 _ = 0 from h 1, show lineSyn 2 _ = 0 from h 2]

/-- One symbol in error is put right where the seek finds it. -/
theorem lineDecode_one {w : Bytes} {i : Nat} {x : Byte} (h : ∀ j : Fin 3, lineSyn j w = 0) (hl : w.length = 39) (hi : i < 39)
    (hx : x ≠ 0) (hf : lineSeek x (linePow (38 - i) x) (linePow (2 * (38 - i)) x) = some i) :
    lineDecode (w.modify i (· ^^^ x)) = .fixed w := by
  have g (j : Fin 3) : lineSyn j (w.modify i (· ^^^ x)) = linePow (j * (38 - i)) x := by
    rw [lineSyn_modify _ _ _ _ (by omega), h, hl]
    exact BitVec.zero_xor
  have g0 : lineSyn 0 (w.modify i (· ^^^ x)) = x := (g 0).trans (by rw [show ((0 : Fin 3) : Nat) * (38 - i) = 0 by simp]; rfl)
  have g1 : lineSyn 1 (w.modify i (· ^^^ x)) = linePow (38 - i) x := (g 1).trans (by simp)
  have g2 : lineSyn 2 (w.modify i (· ^^^ x)) = linePow (2 * (38 - i)) x := (g 2).trans (by simp)
  simp only [lineDecode, g0, g1, g2, hf, word_modify_modify, hx, false_and, if_false]

/-- Two symbols in error are uncorrectable where the seek finds nothing. -/
theorem lineDecode_two {w : Bytes} {i k : Nat} {x y : Byte} (h : ∀ j : Fin 3, lineSyn j w = 0) (hl : w.length = 39) (hi : i < 39)
    (hk : k < 39) (hx : x ^^^ y ≠ 0)
    (hf : lineSeek (x ^^^ y) (linePow (38 - i) x ^^^ linePow (38 - k) y) (linePow (2 * (38 - i)) x ^^^ linePow (2 * (38 - k)) y) = none) :
    lineDecode ((w.modify i (· ^^^ x)).modify k (· ^^^ y)) = .bad := by
  have g (j : Fin 3) : lineSyn j ((w.modify i (· ^^^ x)).modify k (· ^^^ y)) = linePow (j * (38 - i)) x ^^^ linePow (j * (38 - k)) y := by
    rw [lineSyn_modify _ _ _ _ (by rw [List.length_modify]; omega), lineSyn_modify _ _ _ _ (by omega), h, List.length_modify, hl]
    rw [show (0 : Byte) ^^^ linePow (j * (39 - 1 - i)) x = linePow (j * (38 - i)) x from BitVec.zero_xor]
  have g0 : lineSyn 0 _ = x ^^^ y := (g 0).trans
    (by rw [show ((0 : Fin 3) : Nat) * (38 - i) = 0 by simp, show ((0 : Fin 3) : Nat) * (38 - k) = 0 by simp]; rfl)
  have g1 : lineSyn 1 _ = linePow (38 - i) x ^^^ linePow (38 - k) y := (g 1).trans (by simp)
  have g2 : lineSyn 2 _ = linePow (2 * (38 - i)) x ^^^ linePow (2 * (38 - k)) y := (g 2).trans (by simp)
  simp only [lineDecode, g0, g1, g2, hf, hx, false_and, if_false]

theorem slice_take (b : Bytes) (n k : Nat) (h : k + n ≤ b.length) : slice b k n = (b.drop k).take n := by
  rw [slice, fit, List.take_append_of_le_length (by rw [List.length_drop]; omega)]

theorem word_parts (x y z : Bytes) (hx : x.length = 32) (hy : y.length = 4) :
    (x ++ y ++ z).take 32 = x ∧ slice (x ++ y ++ z) 32 4 = y := by
  have hl : 32 + 4 ≤ (x ++ y ++ z).length := by rw [List.length_append, List.length_append]; omega
  rw [slice_take (x ++ y ++ z) 4 32 hl, List.append_assoc]
  exact ⟨List.take_left' hx, by rw [List.drop_left' hx, List.take_left' hy]⟩
/-- The two codewords of a line: no syndrome, 39 symbols, and the tag of what they hold. -/
theorem lineWord_good (kt ct : Bytes) (l : Nat) (hc : ct.length = 64) (ht : (lineTag kt l ct).length = 8) :
    (∀ j : Fin 3, lineSyn j (lineWord ct (lineTag kt l ct) 0) = 0) ∧ (∀ j : Fin 3, lineSyn j (lineWord ct (lineTag kt l ct) 1) = 0) ∧
      (lineWord ct (lineTag kt l ct) 0).length = 39 ∧ (lineWord ct (lineTag kt l ct) 1).length = 39 ∧
      lineTagged kt l (lineWord ct (lineTag kt l ct) 0) (lineWord ct (lineTag kt l ct) 1) = true := by
  generalize ht' : lineTag kt l ct = tag at ht ⊢
  have hw (k : Nat) (hk : k < 2) : lineWord ct tag k = ((ct.drop (32 * k)).take 32 ++ (tag.drop (4 * k)).take 4) ++
      lineCheck ((ct.drop (32 * k)).take 32 ++ (tag.drop (4 * k)).take 4) := by
    rw [lineWord, slice_take ct 32 (32 * k) (by omega), slice_take _ 4 (4 * k) (by omega)]
  have h0 := hw 0 (by omega)
  have h1 := hw 1 (by omega)
  have l0 : ((ct.drop (32 * 0)).take 32).length = 32 := by simp; omega
  have l1 : ((ct.drop (32 * 1)).take 32).length = 32 := by simp; omega
  have t0 : ((tag.drop (4 * 0)).take 4).length = 4 := by simp; omega
  have t1 : ((tag.drop (4 * 1)).take 4).length = 4 := by simp; omega
  obtain ⟨a0, b0⟩ := word_parts _ _ (lineCheck ((ct.drop (32 * 0)).take 32 ++ (tag.drop (4 * 0)).take 4)) l0 t0
  obtain ⟨a1, b1⟩ := word_parts _ _ (lineCheck ((ct.drop (32 * 1)).take 32 ++ (tag.drop (4 * 1)).take 4)) l1 t1
  rw [← h0] at a0 b0
  rw [← h1] at a1 b1
  have ec : (ct.drop (32 * 0)).take 32 ++ (ct.drop (32 * 1)).take 32 = ct := by
    rw [Nat.mul_zero, List.drop_zero, Nat.mul_one, List.take_of_length_le (l := ct.drop 32) (by simp; omega), List.take_append_drop]
  have et : (tag.drop (4 * 0)).take 4 ++ (tag.drop (4 * 1)).take 4 = tag := by
    rw [Nat.mul_zero, List.drop_zero, Nat.mul_one, List.take_of_length_le (l := tag.drop 4) (by simp; omega), List.take_append_drop]
  have hl (m : Bytes) : (lineCheck m).length = 3 := rfl
  refine ⟨fun j => by rw [h0]; exact lineSyn_word j _, fun j => by rw [h1]; exact lineSyn_word j _, ?_, ?_, decide_eq_true ?_⟩
  · rw [h0, List.length_append, List.length_append, l0, t0, hl]
  · rw [h1, List.length_append, List.length_append, l1, t1, hl]
  · rw [a0, a1, b0, b1, ec, et, ht']

/-- A line whose cells give back what was written reads clean. -/
theorem lineOutcome_clean (keys : Bytes) (l : Nat) (p : Bytes) (hc : (lineCipher (keys.take 64) l p).length = 64)
    (ht : (lineTag (keys.drop 64) l (lineCipher (keys.take 64) l p)).length = 8) : lineOutcome keys l p [] = .clean := by
  obtain ⟨s0, s1, -, -, g⟩ := lineWord_good _ _ l hc ht
  simp only [lineOutcome, cellWord, List.filter_nil, List.foldl_nil]
  simp [lineJudge, lineDecode_zero s0, lineDecode_zero s1, g]

/-- One symbol in error in the second codeword is corrected. -/
theorem lineOutcome_one (keys : Bytes) (l : Nat) (p : Bytes) (i : Fin 39) (x : Byte) (hc : (lineCipher (keys.take 64) l p).length = 64)
    (ht : (lineTag (keys.drop 64) l (lineCipher (keys.take 64) l p)).length = 8) (hx : x ≠ 0)
    (hf : lineSeek x (linePow (38 - i) x) (linePow (2 * (38 - i)) x) = some i.val) :
    lineOutcome keys l p [⟨1, i, x⟩] = .corrected := by
  obtain ⟨s0, s1, -, n1, g⟩ := lineWord_good _ _ l hc ht
  have e0 (w : Bytes) : cellWord w 0 [⟨1, i, x⟩] = w := rfl
  have e1 (w : Bytes) : cellWord w 1 [⟨1, i, x⟩] = w.modify i (· ^^^ x) := rfl
  simp only [lineOutcome, e0, e1]
  simp [lineJudge, lineDecode_zero s0, lineDecode_one s1 n1 i.2 hx hf, g]

/-- Two symbols in error in the first codeword are not. -/
theorem lineOutcome_two (keys : Bytes) (l : Nat) (p : Bytes) (i k : Fin 39) (x y : Byte)
    (hc : (lineCipher (keys.take 64) l p).length = 64) (ht : (lineTag (keys.drop 64) l (lineCipher (keys.take 64) l p)).length = 8)
    (hx : x ^^^ y ≠ 0) (hf : lineSeek (x ^^^ y) (linePow (38 - i) x ^^^ linePow (38 - k) y)
      (linePow (2 * (38 - i)) x ^^^ linePow (2 * (38 - k)) y) = none) :
    lineOutcome keys l p [⟨0, i, x⟩, ⟨0, k, y⟩] = .badEcc := by
  obtain ⟨s0, s1, n0, -, -⟩ := lineWord_good _ _ l hc ht
  have e0 (w : Bytes) : cellWord w 0 [⟨0, i, x⟩, ⟨0, k, y⟩] = (w.modify i (· ^^^ x)).modify k (· ^^^ y) := rfl
  have e1 (w : Bytes) : cellWord w 1 [⟨0, i, x⟩, ⟨0, k, y⟩] = w := rfl
  simp only [lineOutcome, e0, e1]
  simp [lineJudge, lineDecode_two s0 n0 i.2 k.2 hx hf]

end Sys2Proof.Machine
end

