-- ==== Sys2Proof/Tests/Slice0.lean ====
section
/-! SUPPORT. Tests: ill-formed commands, single steps with results from the spec, and for every statement with
hypotheses a state that meets them. -/
namespace Sys2Proof.Tests
open Sys2Proof Sys2Proof.Machine

/-! ### Ill-formed commands are refused -/
theorem test_ill_unit : (Instr.derailleurDispatch .hub 5000).flaw = some .unitNumber := by decide
theorem test_ill_register : (Instr.registerWrite (.core 0) 0x01050042 0).flaw = some .registerOffset := by decide
theorem test_ill_counter : (Instr.counterWrap .seq 0 8).flaw = some .counterNumber := by decide
theorem test_ill_line : (Instr.patrolScrubRead 0x80000000 []).flaw = some .lineNumber := by decide
theorem test_ill_segment : (Instr.sparingCopyEnd 0x100000).flaw = some .segmentNumber := by decide
theorem test_ill_frame : (Instr.frameNak 0 []).flaw = some .frameLength := by decide
theorem test_ill_vector : (Instr.msixVectorUnmask 1 (some 65)).flaw = some .vectorNumber := by decide
theorem test_ill_scan : (Instr.scanShift 0x10 []).flaw = some .scanCode := by decide
theorem test_well_formed : (Instr.vadd 0 ⟨.v, 1, 2, 3, 0, 0, 0⟩).wellFormed = true := by decide

/-! ### Values that the spec prints -/
/-- The example of chapter 0: HUB_VL of engine 5, and the unit base of digest unit 3. -/
theorem test_register_addresses : placeReg 0x01050040 = some (.hub, 5, 0x40) ∧ placeReg 0x01503000 = some (.dge, 3, 0) := by decide
/-- Chapter 26: the fault status of digest engine 5. -/
theorem test_fault_register_address : placeReg 0x01505F00 = some (.dge, 5, 0xF00) := by decide
/-- The nine bytes "123456789" of Table 17-1. -/
def digits : Bytes := [0x31, 0x32, 0x33, 0x34, 0x35, 0x36, 0x37, 0x38, 0x39]
/-- Table 17-1, algorithm 0. -/
theorem test_crc32c : cvRun 0 (cvInit 0) digits ^^^ cvXor 0 = 0xE3069283 := by decide +kernel
/-- Table 17-1, algorithm 1. -/
theorem test_crc32 : cvRun 1 (cvInit 1) digits ^^^ cvXor 1 = 0xCBF43926 := by decide +kernel
/-- Table 17-1, algorithm 2. -/
theorem test_crc64 : cvRun 2 (cvInit 2) digits ^^^ cvXor 2 = 0x6C40DF5F0B497347 := by decide +kernel
/-- Table 17-1, algorithm 3. -/
theorem test_crc16 : cvRun 3 (cvInit 3) digits ^^^ cvXor 3 = 0x29B1 := by decide +kernel
/-- Table 17-1, algorithm 4. -/
theorem test_adler32 : cvRun 4 (cvInit 4) digits ^^^ cvXor 4 = 0x091E01DE := by decide
/-- The handle of chapter 4's example. -/
theorem test_handle : (hHome 0x0198000012340007, hInst 0x0198000012340007, hLevel 0x0198000012340007, hIndex 0x0198000012340007,
    hGen 0x0198000012340007) = (0, 0x0C, 3, 0x1234, 7) := by decide
/-- The lineage tag of chapter 11's example. -/
theorem test_lineage_tag : mkTag 0x0C 0x105 3 4 0 = 0x0C08280018002000 := by decide
/-- Chapter 18's example: two links, ten AES cores, a cap of 45 W. -/
theorem test_engines_allowed : engAllowed { State.reset with
    pwr := { State.reset.pwr with mode := .service, capW := 45, links := 3 }
    hub := { State.reset.hub with aes := (List.range 10).map (fun n => (n, { cmd := some n })) } } = 60 := by decide
/-- Chapter 18's example in SURGE: all engines fit under 55 W. -/
theorem test_engines_surge : engAllowed { State.reset with
    pwr := { State.reset.pwr with mode := .surge, capW := 45, links := 3 }
    hub := { State.reset.hub with aes := (List.range 10).map (fun n => (n, { cmd := some n })) } } = 64 := by decide
/-- Chapter 20's example: Fielded, words 0–2 burned. -/
theorem test_life_cycle_state : lcsRead { State.reset with lcs := { State.reset.lcs with
    sensed := true, st := .fielded, otp := [(0, 0x0F0F0F0F0F0F0F0F), (1, 0x3333333333333333), (2, 0x5555555555555555)] } } 0 = 0x3A := by
  decide

/-! ### Single steps -/
/-- IDCODE (R422) shifts out 0x125609AB. -/
theorem test_idcode : (match exec .idcode { State.reset with pwr := { State.reset.pwr with mode := .watch } } with
    | .next t => ofLe t.dbg.tdo | _ => 0) = 0x125609AB := by decide
/-- The command at the front runs and leaves the queue. -/
theorem test_step_order : (match step { State.reset with pending := [.idcode, .bypass] } with
    | .next t => t.pending | _ => []) = [.bypass] := by decide
/-- R146: X0 reads 0 and ignores a write. -/
theorem test_x0 : getX (setX {} 0 5) 0 = 0 := by decide
/-- Table 13-5: a shift by 32 to the right leaves 0 with C the last bit out. -/
theorem test_shr_full : shrF 0x80000000 32 = ⟨0, some true, none⟩ := by decide
/-- Table 13-5: 0x7FFFFFFF + 1 overflows and does not carry. -/
theorem test_add_overflow : addC 0x7FFFFFFF 1 false = ⟨0x80000000, some false, some true⟩ := by decide
/-- R291: the quotient truncates towards 0 and the remainder has the dividend's sign. -/
theorem test_divs : divF true (-7) 2 = (⟨-3, none, some false⟩, -1) := by decide

/-! ### Kernel words (06: the words its examples spell) -/

theorem test_kdecode_setvl : kDecode 0 0xE8424002 = some (.setvl 0 ⟨1, 0, 0x24002⟩) := by decide
theorem test_kdecode_vbmul : kDecode 0 0x416C4821 = some (.vbmul 0 ⟨11, 12, 9, 1⟩) := by decide
theorem test_kdecode_vadd : kDecode 0 0x016B6810 = some (.vadd 0 ⟨.v, 11, 11, 13, 0, 0, 1⟩) := by decide
theorem test_kdecode_gather : kDecode 0 0x2484A008 = some (.vgather 0 ⟨4, 2, 5, 0, 0, 2, 0⟩) := by decide
theorem test_kdecode_reserved : kDecode 0 (0x0A * 2 ^ 26) = none ∧ kDecode 0 (0x10 * 2 ^ 26 + 22 * 16) = none := by decide

/-! ### Sequencer words (13: the words its examples spell) -/

theorem test_sdecode_movi : sDecode 0x1C38 0x0258 = some (.imm 0 7 600) := by decide
theorem test_sdecode_amov : sDecode 0x3B77 0 = some (.amov 7 7) := by decide
theorem test_sdecode_repi : sDecode 0x3E87 0 = some (.ctl 7 0) := by decide
theorem test_sdecode_store : sDecode 0x2290 0 = some (sMemIns 1 1 1 0 0) := by decide
theorem test_sdecode_reserved : sDecode 0x3E8C 0 = none ∧ sDecode 0x3AF0 0 = none := by decide
/-- An extension program executes the word it fetches: the word of TRAP #0 is not TRAP #1, and a reserved one is none. -/
theorem test_sfetch : sFetch { extMode := true, pc := 0x3000, prog := [(0x3000, 0x3EA0)] } (.ctl 0x20 0) = .this ∧
    sFetch { extMode := true, pc := 0x3000, prog := [(0x3000, 0x3EA0)] } (.ctl 0x21 0) = .other ∧
    sFetch { extMode := true, pc := 0x3000, prog := [(0x3000, 0x3E8C)] } (.ctl 0 0) = .reserved := by decide

/-- The check value of Table 9-1 over the nine ASCII bytes "123456789". -/
theorem test_crc8 : crc8 (ascii "123456789") = 0xDF#8 := by decide +kernel

/-! ### Witnesses of the hypotheses of the statements -/

theorem witness_IdleStepIsOneTick : ∃ s : State, s.pending = [] ∧ s.hif.counting = true ∧ s.pwr.mode ≠ .freewheel :=
  ⟨{ State.reset with hif := { counting := true } }, by decide⟩

theorem witness_OtpBitsNeverClear : ∃ (s t : State) (n v : Nat), v ≠ 0 ∧ otpHas n v s ∧ step s = .next t :=
  ⟨State.reset, tick State.reset, 0, 1, by decide, by
    intro i h
    rw [Nat.testBit_one_eq_true_iff_self_eq_zero.mp h]
    decide, rfl⟩

theorem witness_MemoryStaysCanonical : ∃ s t : State, Memory.wf s = true ∧ step s = .next t :=
  ⟨State.reset, tick State.reset, by decide, rfl⟩

theorem witness_QueueIsConsumedInOrder : ∃ (c : Instr) (s t : State), exec c s = .next t := ⟨.idcode, State.reset, _, rfl⟩

/-- An engine with a running kernel of command 1, at VL 4 with 8-bit elements. -/
def wKernel (e : Engine) : State :=
  setEng 0 { e with busy := true, cmd := some 1, powered := true } { State.reset with mem := { initDone := 0x7F } }

theorem witness_ElementwiseRows : ∃ (s : State) (e : Fin 64) (a : VF) (r : Instr × VKind),
    r ∈ rowsElement e a ∧ kernelReady s e ∧ kFetch e (eng s e) r.1 = .this ∧ formRsv a = false ∧ a.mode.toNat ∈ vopModes r.2 ∧ (r.2 = .neg → a.f2 = 0) ∧
    modeCheck (eng s e) a.mode.toNat a.w.toNat = 0 ∧ 0 < (eng s e).vl :=
  ⟨wKernel { vl := 4 }, 0, ⟨.v, 1, 2, 3, 0, 0, 0⟩, (.vadd 0 ⟨.v, 1, 2, 3, 0, 0, 0⟩, .add), by decide⟩

theorem witness_ElementwiseVlZero : ∃ (s : State) (e : Fin 64) (a : VF) (r : Instr × VKind),
    r ∈ rowsElement e a ∧ kernelReady s e ∧ kFetch e (eng s e) r.1 = .this ∧ formRsv a = false ∧ a.mode.toNat ∈ vopModes r.2 ∧ (r.2 = .neg → a.f2 = 0) ∧
    modeCheck (eng s e) a.mode.toNat a.w.toNat = 0 ∧ (eng s e).vl = 0 :=
  ⟨wKernel {}, 0, ⟨.v, 1, 2, 3, 0, 0, 0⟩, (.vadd 0 ⟨.v, 1, 2, 3, 0, 0, 0⟩, .add), by decide⟩

theorem witness_VectorRowsLegal : ∃ (s : State) (e : Fin 64) (u : Bool) (f8 : Fin 8) (f4 : Fin 4) (a : VF)
    (r : Instr × (Engine → KRes)), r ∈ rowsVector e u f8 f4 a ∧ kernelReady s e ∧ kFetch e (eng s e) r.1 = .this ∧
    kernelLegal r.1 (eng s e) ∧ sharesFit (eng s e) :=
  ⟨wKernel { order := 3 }, 0, false, 0, 0, ⟨.v, 1, 2, 3, 0, 0, 0⟩, (.kmov 0 ⟨.v, 1, 2, 3, 0, 0, 0⟩, kmask 4 ⟨.v, 1, 2, 3, 0, 0, 0⟩),
    by simp [rowsVector], by decide, by decide, ⟨by decide, by decide⟩, fun _ => by decide⟩
theorem witness_VectorRowsRetire : ∃ (s : State) (e : Fin 64) (u : Bool) (f8 : Fin 8) (f4 : Fin 4) (a : VF)
    (r : Instr × (Engine → KRes)) (x : Engine),
    r ∈ rowsVector e u f8 f4 a ∧ kernelReady s e ∧ r.2 (eng s e) = .ok x ∧
    kFetch e (eng s e) r.1 = .this ∧ x.mg.blocks < 983040 :=
  ⟨wKernel {}, 0, false, 0, 0, ⟨.v, 1, 2, 3, 0, 0, 0⟩, (.kmov 0 ⟨.v, 1, 2, 3, 0, 0, 0⟩, kmask 4 ⟨.v, 1, 2, 3, 0, 0, 0⟩), _,
    by simp [rowsVector], by decide, rfl, by decide, by decide⟩

theorem witness_MemoryRowsLegal : ∃ (s : State) (e : Fin 64) (m : MF) (g : GF) (r : Instr × (Engine → KRes)),
    r ∈ rowsMemory e m g ∧ kernelReady s e ∧ kFetch e (eng s e) r.1 = .this ∧ kernelLegal r.1 (eng s e) ∧
    sharesFit (eng s e) ∧ (eng s e).vl = 4 :=
  ⟨wKernel { vl := 4, inLen := 8, staged := zeros 8 }, 0, ⟨1, 0, 0, 0, 0, 0⟩, ⟨0, 0, 0, 0, 0, 0, 0⟩,
    (.vld 0 ⟨1, 0, 0, 0, 0, 0⟩, vmem (fun _ _ => false) false ⟨1, 0, 0, 0, 0, 0⟩), by simp [rowsMemory], by decide, by decide,
    ⟨by decide, by decide, by decide, fun i hi _ _ => by
      replace hi : i < 4 := hi
      unfold accGranted
      interval_cases i <;> decide⟩, fun h => absurd h (by decide), by decide⟩
theorem witness_MemoryRowsRetire : ∃ (s : State) (e : Fin 64) (m : MF) (g : GF) (r : Instr × (Engine → KRes)) (x : Engine),
    r ∈ rowsMemory e m g ∧ kernelReady s e ∧ r.2 (eng s e) = .ok x ∧
    kFetch e (eng s e) r.1 = .this ∧ x.mg.blocks < 983040 :=
  ⟨wKernel {}, 0, ⟨1, 0, 0, 0, 0, 0⟩, ⟨0, 0, 0, 0, 0, 0, 0⟩,
    (.vld 0 ⟨1, 0, 0, 0, 0, 0⟩, vmem (fun _ _ => false) false ⟨1, 0, 0, 0, 0, 0⟩), _, by simp [rowsMemory], by decide, rfl, by decide, by decide⟩

theorem witness_ScalarRowsLegal : ∃ (s : State) (e : Fin 64) (f4 : Fin 4) (xd : BitVec 4) (off : BitVec 22) (a : XF)
    (r : Instr × (Engine → KRes)), r ∈ rowsScalar e f4 xd off a ∧ kernelReady s e ∧ kFetch e (eng s e) r.1 = .this ∧
    kernelLegal r.1 (eng s e) ∧ sharesFit (eng s e) :=
  ⟨wKernel {}, 0, 0, 1, 5, ⟨1, 0, 7⟩, (.jal 0 1 5, jal 1 5), by simp [rowsScalar], by decide, by decide, rfl,
    fun h => absurd h (by decide)⟩
theorem witness_ScalarRowsRetire : ∃ (s : State) (e : Fin 64) (f4 : Fin 4) (xd : BitVec 4) (off : BitVec 22) (a : XF)
    (r : Instr × (Engine → KRes)) (x : Engine),
    r ∈ rowsScalar e f4 xd off a ∧ kernelReady s e ∧ r.2 (eng s e) = .ok x ∧
    kFetch e (eng s e) r.1 = .this ∧ x.mg.blocks < 983040 :=
  ⟨wKernel {}, 0, 0, 1, 5, ⟨1, 0, 7⟩, (.xaddi 0 ⟨1, 0, 7⟩, xaddi ⟨1, 0, 7⟩), _, by simp [rowsScalar], by decide, rfl, by decide, by decide⟩

theorem witness_LongRowsLegal : ∃ (s : State) (e : Fin 64) (a : LF) (r : Instr × Nat × (Engine → KRes)),
    r ∈ rowsLong e (fun i => Config.freeByte (s.free + i)) a ∧ kernelReady s e ∧ kFetch e (eng s e) r.1 = .this ∧
    patched s.hub.patch r.2.1 = false ∧ kernelLegal r.1 (eng s e) ∧ sharesFit (eng s e) :=
  ⟨wKernel { vl := 256, sew := 2 }, 0, ⟨0, 0, 0, 0⟩, (.vntt 0 ⟨0, 0, 0, 0⟩, 0, vntt false ⟨0, 0, 0, 0⟩), by simp [rowsLong], by decide,
    by decide, by decide, ⟨by decide, ⟨rfl, rfl⟩, by decide⟩, fun h => absurd h (by decide)⟩
theorem witness_LongRowsRetire : ∃ (s : State) (e : Fin 64) (a : LF) (r : Instr × Nat × (Engine → KRes)) (x : Engine),
    r ∈ rowsLong e (fun i => Config.freeByte (s.free + i)) a ∧ kernelReady s e ∧ r.2.2 (eng s e) = .ok x ∧
    kFetch e (eng s e) r.1 = .this ∧ patched s.hub.patch r.2.1 = false ∧ x.mg.blocks < 983040 :=
  ⟨wKernel {}, 0, ⟨0, 0, 0, 0⟩, (.vxofInit 0 ⟨0, 0, 0, 0⟩, 17, vxofInit ⟨0, 0, 0, 0⟩), _, by simp [rowsLong], by decide, rfl, by decide, by decide, by decide⟩

theorem witness_SetvlAddImmediate : ∃ (s : State) (e : Fin 64) (a : XF), kernelReady s e ∧ a.xd ≠ 0 ∧
    kFetch e (eng s e) (.xaddi e a) = .this ∧ kFetch e (eng s e) (.xlih e a) = .this ∧ a.xs1.toNat % 4 = 0 ∧ bitsOf a.f.toNat 16 2 = 0 := ⟨wKernel {}, 0, ⟨1, 0, 7⟩, by decide⟩
theorem witness_SetvlImmediate : ∃ (s : State) (e : Fin 64) (a : XF), kernelReady s e ∧ a.xd ≠ 0 ∧
    kFetch e (eng s e) (.setvl e a) = .this ∧ a.f.toNat.testBit 17 = true ∧ bitsOf a.f.toNat 2 4 = 0 := ⟨wKernel {}, 0, ⟨1, 0, 0x3FFC0⟩, by decide⟩

/-- A state with one command 1 that runs on engine 0. -/
def wRunning (pkt : Bytes) (kind : UnitKind) : State :=
  let s := wKernel {}
  { s with hif := { s.hif with cmds := [{ id := 1, pkt := pkt, phase := .running, kind := kind }] } }

theorem witness_VendGivesStatus : ∃ (s : State) (e : Fin 64) (id : Nat) (c : Cmd), kernelReady s e ∧ (eng s e).fifo = [] ∧
    kFetch e (eng s e) (.vend e ⟨0, 0, 0⟩) = .this ∧ (eng s e).cmd = some id ∧ cmdU s id = some c ∧ c.id = id ∧ c.core = none :=
  ⟨wRunning [] .hub, 0, 1, { id := 1, phase := .running, kind := .hub }, by decide⟩

theorem witness_ReservedVectorForms : ∃ (s : State) (e : Fin 64) (a : VF) (r : Instr × VKind), r ∈ rowsElement e a ∧
    kernelReady s e ∧ kFetch e (eng s e) r.1 = .this ∧ svcCore s e = none ∧ a.mode.toNat ∉ vopModes r.2 :=
  ⟨wRunning [] .hub, 0, ⟨.v, 1, 2, 3, 0, 0, 3⟩, (.vadd 0 ⟨.v, 1, 2, 3, 0, 0, 3⟩, .add), by decide⟩
theorem witness_WrongVectorWidths : ∃ (s : State) (e : Fin 64) (a : VF) (r : Instr × VKind), r ∈ rowsElement e a ∧
    kernelReady s e ∧ kFetch e (eng s e) r.1 = .this ∧ svcCore s e = none ∧ formRsv a = false ∧ a.mode.toNat ∈ vopModes r.2 ∧ (r.2 = .neg → a.f2 = 0) ∧
    modeCheck (eng s e) a.mode.toNat a.w.toNat ≠ 0 :=
  ⟨wRunning [] .hub, 0, ⟨.v, 1, 2, 3, 0, 1, 0⟩, (.vadd 0 ⟨.v, 1, 2, 3, 0, 1, 0⟩, .add), by decide⟩

/-- Core 0 runs vendor firmware at word 0x100, with the PLLs locked. -/
def wCoreWith (c : Core) : State :=
  setCore 0 c { State.reset with pwr := { State.reset.pwr with mode := .service, seqLock := true, fabLock := true } }

/-- The core of the witnesses. -/
def wCore : State := wCoreWith { pc := 0x100, st := .vendor, d := [(1, 7), (2, 0x80000000)] }

theorem witness_DataRowsLegal : ∃ (s : State) (n : Fin 16) (dd ds : BitVec 4) (v : BitVec 5) (imm : BitVec 17)
    (r : Instr × (Core → SRes) × Nat), rowsData n dd ds v imm r ∧ coreReady s n ∧ coreFetches s n r.1 ∧ coreLegal r.1 (coreU s n) ∧
    stays r.1 (coreU s n) ∧ (coreU s n).ovEn = true :=
  ⟨wCoreWith { pc := 0x100, st := .vendor, ovEn := true, d := [(2, 0x7FFFFFFF)] }, 0, 2, 1, 0, 0, (.sAdd 0 2 1, aluF 1 2 1, 1),
    by simp [rowsData], by decide, by decide, by unfold coreLegal noOverflow; decide, by unfold stays; decide, by decide⟩
theorem witness_DataRows : ∃ (s : State) (n : Fin 16) (dd ds : BitVec 4) (v : BitVec 5) (imm : BitVec 17)
    (r : Instr × (Core → SRes) × Nat) (d : Core), rowsData n dd ds v imm r ∧ coreReady s n ∧ staysIn (coreU s n) d ∧
    r.2.1 { coreU s n with trap := {} } = .ok d :=
  ⟨wCore, 0, 1, 2, 0, 0, (.sAdd 0 1 2, aluF 1 1 2, 1), _, by simp [rowsData], by decide, by decide, rfl⟩

theorem witness_AddFlags : ∃ (s : State) (n : Fin 16), coreReady s n ∧ (coreU s n).ovEn = false ∧
    staysIn (coreU s n) (adv 1 (coreU s n)) :=
  ⟨wCore, 0, by decide, by decide, by decide⟩

theorem witness_Division : ∃ (s : State) (n : Fin 16) (dd ds : BitVec 4), coreReady s n ∧ dd.toNat % 2 = 0 ∧
    getD (coreU s n) ds.toNat ≠ 0 ∧ (coreU s n).ovEn = false ∧ staysIn (coreU s n) (adv 1 (coreU s n)) :=
  ⟨wCore, 0, 2, 1, by decide, by decide, by decide, by decide, by decide⟩

theorem witness_DivisionByZero : ∃ (s : State) (n : Fin 16) (dd ds : BitVec 4), coreReady s n ∧ dd.toNat % 2 = 0 ∧
    getD (coreU s n) ds.toNat = 0 ∧ staysIn (coreU s n) (adv 1 (coreU s n)) :=
  ⟨wCore, 0, 2, 0, by decide, by decide, by decide, by decide⟩

theorem witness_OverflowTrap : ∃ (s : State) (n : Fin 16) (dd ds : BitVec 4) (v : BitVec 5) (imm : BitVec 17)
    (r : Instr × (Core → SRes)) (d : Core), coreReady s n ∧ (coreU s n).ovEn = true ∧ rowsV n dd ds v imm r ∧
    r.2 { coreU s n with trap := {}, ovEn := false } = .ok d ∧ d.f.getLsbD 3 = true :=
  ⟨wCoreWith { pc := 0x100, st := .vendor, ovEn := true, d := [(2, 0x80000000)] }, 0, 2, 2, 0, 0,
    (.sAdd 0 2 2, aluF 1 2 2), _, by decide, by decide,
    by simp [rowsV], rfl, by decide⟩
theorem witness_NoOverflowTrap : ∃ (s : State) (n : Fin 16) (mx : BitVec 2) (dd ds : BitVec 4) (imm : BitVec 17)
    (r : Instr × (Core → SRes)) (d : Core), coreReady s n ∧ (coreU s n).ovEn = true ∧ rowsQuiet n mx dd ds imm r ∧
    r.2 { coreU s n with trap := {} } = .ok d ∧ staysIn (coreU s n) d ∧ d.f.getLsbD 3 = true :=
  ⟨wCoreWith { pc := 0x100, st := .vendor, ovEn := true, d := [(2, 0x80000000), (1, 1)] }, 0, 0, 2, 1, 0,
    (.sCmp 0 2 1, aluF 8 2 1), _, by decide, by decide,
    by simp [rowsQuiet], rfl, by decide, by decide⟩

theorem witness_CoreRowsLegal : ∃ (s : State) (n : Fin 16) (mx : BitVec 2) (d1 d2 : BitVec 3) (dd : BitVec 4) (an : BitVec 3)
    (m : BitVec 2) (q : BitVec 6) (x : BitVec 8) (ext : BitVec 14) (r : Instr × (Core → SRes)),
    rowsCore n mx d1 d2 dd an m q x ext r ∧ coreReady s n ∧ coreLegal r.1 (coreU s n) ∧ stays r.1 (coreU s n) :=
  ⟨wCore, 0, 0, 1, 2, 0, 0, 0, 0, 0, 0, (.sSt 0 0 0 0 0, memF 1 0 0 0 0), by simp [rowsCore], by decide,
    ⟨by decide, .inl ⟨by decide, by decide⟩⟩, by unfold stays; decide⟩
theorem witness_CoreRows : ∃ (s : State) (n : Fin 16) (mx : BitVec 2) (d1 d2 : BitVec 3) (dd : BitVec 4) (an : BitVec 3)
    (m : BitVec 2) (q : BitVec 6) (x : BitVec 8) (ext : BitVec 14) (r : Instr × (Core → SRes)) (d : Core),
    rowsCore n mx d1 d2 dd an m q x ext r ∧ coreReady s n ∧ r.2 { coreU s n with trap := {} } = .ok d ∧
    staysIn (coreU s n) d :=
  ⟨wCore, 0, 0, 1, 2, 0, 0, 0, 0, 0, 0, (.sMac 0 0 1 2, macF 0 0 1 2), _, by simp [rowsCore],
    by decide, rfl, by decide⟩

theorem witness_StoreThenLoad : ∃ (s : State) (n : Fin 16) (an : BitVec 3), coreReady s n ∧ (coreU s n).extMode = false ∧
    (getA (coreU s n) an.toNat).toNat + 4 ≤ 0x8000 ∧ (getA (coreU s n) an.toNat).toNat % 4 = 0 :=
  ⟨wCore, 0, 0, by decide, by decide, by decide, by decide⟩

theorem witness_IoWindow : ∃ (s : State) (n : Fin 16) (m : BitVec 2) (an : BitVec 3) (dd : BitVec 4) (ext : BitVec 14)
    (r : Instr × Nat), r ∈ [(Instr.sLd n m an dd ext, 0), (Instr.sSt n m an dd ext, 1)] ∧ coreReady s n ∧
    memF r.2 m.toNat an.toNat dd.toNat ext { coreU s n with trap := {} } = .io { coreU s n with trap := {} } :=
  ⟨wCoreWith { pc := 0x100, st := .vendor, a := [(1, 0x800004)] }, 0, 0, 1, 0, 0, (Instr.sLd 0 0 1 0 0, 0), by simp,
    by decide, by decide⟩

theorem witness_BitRows : ∃ (s : State) (n : Fin 16) (x : BitVec 8) (ext : BitVec 14), coreReady s n ∧
    bitRsv .set x ext = false ∧ bitCause (coreU s n) true (bitAddr (coreU s n) x ext) = 0 ∧ bitRsv .wait x ext = false ∧
    bitRsv .jb x ext = false ∧ (coreU s n).extMode = false ∧ staysIn (coreU s n) (adv 2 (coreU s n)) :=
  ⟨wCore, 0, 0, 1023, by decide, by decide⟩
theorem witness_PermissionBit : ∃ (s : State) (n : Fin 16) (x : BitVec 8) (ext : BitVec 14), coreReady s n ∧
    bitRsv .set x ext = false ∧ bitCause (coreU s n) true (bitAddr (coreU s n) x ext) = 0 ∧
    bitAddr (coreU s n) x ext = 2052 :=
  ⟨wCore, 0, 0, 2052, by decide, by decide⟩
theorem witness_WaitbRelease : ∃ (s : State) (n : Fin 16) (b : Nat) (v : Bool), (coreU s n).waitb = some (b, v) ∧
    (coreU s n).intPend = false ∧ coreRuns (updCore n (fun k => { k with waitb := none }) s) n = true ∧
    (∀ k, k < 8 → (cntU s .seq n k).en = false) :=
  ⟨wCoreWith { st := .vendor, waitb := some (3, false) }, 0, 3, false, by decide⟩

theorem witness_Branch : ∃ (s : State) (n : Fin 16), coreReady s n ∧ (coreU s n).extMode = false :=
  ⟨wCore, 0, by decide, by decide⟩

theorem witness_Calls : ∃ (s : State) (n : Fin 16), coreReady s n ∧ (coreU s n).extMode = false ∧
    (coreU s n).stack.length = 15 :=
  ⟨wCoreWith { pc := 0x100, st := .vendor, stack := List.replicate 15 ⟨7, 0, false⟩ }, 0,
    by decide, by decide, by decide⟩
theorem witness_CallTooDeep : ∃ (s : State) (n : Fin 16), coreReady s n ∧ (coreU s n).extMode = false ∧
    (coreU s n).stack.length = 16 :=
  ⟨wCoreWith { pc := 0x100, st := .vendor, stack := List.replicate 16 ⟨7, 0, false⟩ }, 0,
    by decide, by decide, by decide⟩

theorem witness_TrapEntry : ∃ (s : State) (n : Fin 16), (coreU s n).extMode = false ∧ (coreU s n).stack.length < 16 ∧
    coreReady s n := ⟨wCore, 0, by decide, by decide, by decide⟩
theorem witness_InterruptEntry : ∃ (s : State) (n : Fin 16), (coreU s n).extMode = false ∧ (coreU s n).stack.length < 16 ∧
    coreRuns s n = true ∧ (coreU s n).ie = true ∧ (coreU s n).mbox ≠ [] ∧ (coreU s n).intPend = true :=
  ⟨wCoreWith { st := .vendor, ie := true, mbox := [1], intPend := true }, 0, by decide⟩
theorem witness_AbortEntry : ∃ (s : State) (n : Fin 16), (coreU s n).extMode = false ∧ (coreU s n).stack.length < 16 ∧
    s.pwr.seqLock = true ∧ (coreU s n).abortPend = true ∧ (coreU s n).st ≠ .blockReset ∧ (coreU s n).haltedD = false :=
  ⟨wCoreWith { st := .vendor, abortPend := true }, 0, by decide⟩

theorem witness_Done : ∃ (s : State) (n : Fin 16) (id : Nat) (k : Cmd), coreReady s n ∧ (coreU s n).cmd = some id ∧
    cmdU s id = some k ∧ (coreU s n).extMode = true :=
  ⟨{ wCoreWith { pc := 0x3000, st := .ext, extMode := true, cmd := some 1 } with
      hif := { cmds := [{ id := 1, phase := .running, kind := .seq, core := some 0 }] } }, 0, 1,
    { id := 1, phase := .running, kind := .seq, core := some 0 },
    by decide, by decide, by decide, by decide⟩
theorem witness_ExtTimeLimit : ∃ (s : State) (n : Fin 16) (id : Nat) (k : Cmd), (coreU s n).st = .ext ∧
    (coreU s n).cmd = some id ∧ cmdU s id = some k ∧ k.id = id ∧ k.core = some n.val ∧ (coreU s n).stack.length < 16 :=
  ⟨{ wCoreWith { pc := 0x3000, st := .ext, extMode := true, cmd := some 1 } with
      hif := { cmds := [{ id := 1, phase := .running, kind := .seq, core := some 0 }] } }, 0, 1,
    { id := 1, phase := .running, kind := .seq, core := some 0 }, by decide⟩

/-- An extension program with all its units and lengths of 32 bytes. -/
def wExt : State :=
  { wCoreWith { pc := 0x3000, st := .ext, extMode := true, cmd := some 1, hub := some 0, dge := some 0, cvu := some 0,
                a := [(1, 0x6000), (2, 0x7000)], d := [(1, 1), (2, 32), (3, 32)]
                prog := [(0x3000, 0x3EA0)] } with
    hif := { cmds := [{ id := 1, phase := .running, kind := .hub, core := some 0,
                        pkt := zeros 24 ++ leBytes 4 64 ++ leBytes 4 64 ++ zeros 32 }] } }

theorem witness_ServiceCalls : ∃ (s : State) (n : Fin 16) (id : Nat) (k : Cmd), coreReady s n ∧ (coreU s n).extMode = true ∧
    (coreU s n).cmd = some id ∧ cmdU s id = some k ∧ k.port ≠ 256 ∧
    inExt (aNum (coreU s n) 1) (dNum (coreU s n) 2) = true ∧ dNum (coreU s n) 1 + dNum (coreU s n) 2 ≤ pInL k.pkt ∧
    hostOk s k.port (pInA k.pkt + dNum (coreU s n) 1) (dNum (coreU s n) 2) = true ∧
    dNum (coreU s n) 1 + dNum (coreU s n) 2 ≤ pMax k.pkt ∧ (instU s k.port).logging = false ∧
    inExt (aNum (coreU s n) 2) (dNum (coreU s n) 3) = true ∧ dNum (coreU s n) 3 = digestLen (dNum (coreU s n) 1 % 16) ∧
    (coreU s n).dge = some 0 ∧ (coreU s n).cvu = some 0 ∧ coreFetches s n (.svcIn n) :=
  ⟨wExt, 0, 1, { id := 1, phase := .running, kind := .hub, core := some 0,
                 pkt := zeros 24 ++ leBytes 4 64 ++ leBytes 4 64 ++ zeros 32 },
    by decide, by decide⟩

theorem witness_StagingBringsTheInput : ∃ (s : State) (e : Fin 64) (n id : Nat) (c : Cmd), (eng s e).cmd = some id ∧
    cmdU s id = some c ∧ (eng s e).stall = none ∧ (eng s e).halted = false ∧ c.port ≠ 256 ∧ (eng s e).staged.length < n ∧
    n ≤ (eng s e).inLen ∧
    hostOk s c.port (pInA c.pkt + (eng s e).staged.length) (n - (eng s e).staged.length) = true :=
  ⟨setEng 0 { cmd := some 1, inLen := 64 } (wRunning [] .hub), 0, 64, 1, { id := 1, phase := .running, kind := .hub }, by decide⟩

theorem witness_OutputDrain : ∃ (s : State) (e : Fin 64) (n id : Nat) (c : Cmd), (eng s e).cmd = some id ∧
    cmdU s id = some c ∧ (eng s e).stall = none ∧ (eng s e).ended = none ∧ svcCore s e = none ∧
    c.port ≠ 256 ∧ (instU s c.port).logging = false ∧ 0 < n ∧ (eng s e).fifo ≠ [] ∧
    hostOk s c.port (pOutA c.pkt + (min (eng s e).outCount (eng s e).maxOut - (eng s e).fifo.length))
      ((eng s e).fifo.take n).length = true :=
  ⟨setEng 0 { cmd := some 1, fifo := [1, 2, 3], outCount := 5, maxOut := 64 } (wRunning [] .hub), 0, 2, 1,
    { id := 1, phase := .running, kind := .hub }, by decide⟩

theorem witness_RoutineEvents : ∃ (s : State) (e : Fin 64) (k : Fin 128) (cond : Fin 64), kernRuns (eng s e) = true ∧
    mayExpire (eng s e) k cond = true ∧ (fltU s .hub e).armed = false ∧
    cond.val ≠ 9 ∧ (eng s e).uc.issue = false ∧ (eng s e).cmd.isSome = true ∧ s.pwr.mode ≠ .freewheel :=
  ⟨wKernel {}, 0, 3, 2, by decide⟩
theorem witness_FifthCeiling : ∃ (s : State) (e : Fin 64) (k : Fin 128) (cond : Fin 64), mayExpire (eng s e) k cond = true ∧
    (fltU s .hub e).armed = false ∧ cond.val ≠ 9 ∧ (eng s e).uc.issue = true ∧ (eng s e).uc.restarts = 4 :=
  ⟨wKernel { uc := { routine := 3, running := true, issue := true, restarts := 4 } }, 0, 3, 2, by decide⟩
theorem witness_EntropyCeiling : ∃ (s : State) (e : Fin 64) (k : Fin 128) (cond : Fin 64) (id : Nat) (c : Cmd),
    mayExpire (eng s e) k cond = true ∧ (fltU s .hub e).armed = false ∧ cond.val = 9 ∧ (eng s e).cmd = some id ∧
    cmdU s id = some c :=
  ⟨setEng 0 { cmd := some 1, order := 1, powered := true, busy := true } (wRunning [] .hub), 0, 3, 9, 1,
    { id := 1, phase := .running, kind := .hub }, by decide⟩
theorem witness_PastCommit : ∃ (s : State) (e : Fin 64), (eng s e).cmd.isSome = true ∧ (eng s e).mc.live = true ∧
    (eng s e).uc.committed = true ∧ s.pwr.mode ≠ .freewheel :=
  ⟨wKernel { mc := { live := true }, uc := { committed := true } }, 0, by decide⟩

/-- The device in SERVICE with its link trained, and queue pair 0 of the manager port as given. -/
def wPort (qp : Qp) : State :=
  setQp 0 0 qp { State.reset with pwr := { State.reset.pwr with mode := .service }, hif := { reach := true, counting := true } }

theorem witness_Doorbells : ∃ (s : State) (p : Fin 256) (q : Fin 64) (v : Word), portsAnswer s ∧ (qpU s p q).active = true ∧
    (qpU s p q).ringError = false ∧ fld v 0 12 < (qpU s p q).sqEntries ∧ fld v 0 12 ≠ (qpU s p q).sqHead := ⟨wPort { active := true }, 0, 0, 3, by decide⟩
theorem witness_CqDoorbell : ∃ (s : State) (p : Fin 256) (q : Fin 64) (v : Word), portsAnswer s ∧ (qpU s p q).active = true ∧
    (qpU s p q).ringError = false ∧ fld v 0 12 < (qpU s p q).cqEntries ∧
    (fld v 0 12 + (qpU s p q).cqEntries - (qpU s p q).cqHead) % (qpU s p q).cqEntries ≤
      ((qpU s p q).cqTail + (qpU s p q).cqEntries - (qpU s p q).cqHead) % (qpU s p q).cqEntries :=
  ⟨wPort { active := true, cqTail := 5 }, 0, 0, 5, by decide⟩
theorem witness_DoorbellPastTheRing : ∃ (s : State) (p : Fin 256) (q : Fin 64) (v : Word), portsAnswer s ∧
    (qpU s p q).active = true ∧ (qpU s p q).ringError = false ∧ (qpU s p q).sqEntries ≤ fld v 0 12 ∧ (qpU s p q).cqEntries ≤ fld v 0 12 :=
  ⟨wPort { active := true }, 0, 0, 16, by decide⟩
theorem witness_CqDoorbellPastTheTail : ∃ (s : State) (p : Fin 256) (q : Fin 64) (v : Word), portsAnswer s ∧
    (qpU s p q).active = true ∧ (qpU s p q).ringError = false ∧ fld v 0 12 < (qpU s p q).cqEntries ∧
    ((qpU s p q).cqTail + (qpU s p q).cqEntries - (qpU s p q).cqHead) % (qpU s p q).cqEntries <
      (fld v 0 12 + (qpU s p q).cqEntries - (qpU s p q).cqHead) % (qpU s p q).cqEntries :=
  ⟨wPort { active := true, cqTail := 2 }, 0, 0, 5, by decide⟩
theorem witness_DoorbellKept : ∃ (s : State) (p : Fin 256) (q : Fin 64), portsAnswer s ∧ (qpU s p q).ringError = true :=
  ⟨wPort { active := true, ringError := true }, 0, 0, by decide⟩

theorem witness_EnableAccepts : ∃ (s : State) (p : Fin 256) (q : Fin 64), portsAnswer s ∧ (qpU s p q).enable = false ∧
    (qpU s p q).active = false ∧ enableFails s p q = none ∧ (qpU s p q).reqMajor = 3 :=
  ⟨wPort { sqBase := 0x1000, cqBase := 0x2000 }, 0, 0, by decide⟩
theorem witness_EnableAcceptsTwo : ∃ (s : State) (p : Fin 256) (q : Fin 64), portsAnswer s ∧ (qpU s p q).enable = false ∧
    (qpU s p q).active = false ∧ enableFails s p q = none ∧ (qpU s p q).reqMajor = 2 :=
  ⟨wPort { sqBase := 0x1000, cqBase := 0x2000, reqMajor := 2 }, 0, 0, by decide⟩

theorem witness_EnableKept : ∃ (s : State) (p : Fin 256) (q : Fin 64), portsAnswer s ∧ (qpU s p q).enable = false ∧
    (qpU s p q).active = true := ⟨wPort { active := true, retiring := true }, 0, 0, by decide⟩
theorem witness_EnableFails : ∃ (s : State) (p : Fin 256) (q : Fin 64) (k : Nat), portsAnswer s ∧
    (qpU s p q).enable = false ∧ (qpU s p q).active = false ∧ enableFails s p q = some k := ⟨wPort {}, 1, 0, 1, by decide⟩
theorem witness_Disable : ∃ (s : State) (p : Fin 256) (q : Fin 64), portsAnswer s ∧ (qpU s p q).enable = true ∧
    (qpU s p q).active = true := ⟨wPort { enable := true, active := true }, 0, 0, by decide⟩

theorem witness_VectorUnmask : ∃ (s : State) (p : Fin 256) (v : Fin 128), portsAnswer s ∧ v.val < vectors p ∧
    (msixU s p v).pend = true ∧ (portU s p).msixEnable = true ∧ (portU s p).fnMask = false ∧ s.hif.reach = true :=
  ⟨setPort 0 { msixEnable := true } (setMsix 0 5 { pend := true } (wPort {})), 0, 5, by decide⟩
theorem witness_CoalTime : ∃ (s : State) (p : Fin 256) (q : Fin 64), (qpU s p q).irqOn = true ∧ (qpU s p q).unsig ≠ 0 :=
  ⟨wPort { irqOn := true, unsig := 2 }, 0, 0, by decide⟩

theorem witness_Fetch : ∃ (s : State) (p : Fin 256) (q : Fin 64), canFetch s p q = true ∧ (fltU s .hif 0).armed = false ∧
    (∀ c ∈ s.hif.cmds, c.id < s.hif.nextId) ∧ hostOk s p (packetAt s p q) 64 = true :=
  ⟨wPort { sqBase := 0x1000, cqBase := 0x2000, enable := true, active := true, sqTail := 1 }, 0, 0, by decide⟩
theorem witness_FetchError : ∃ (s : State) (p : Fin 256) (q : Fin 64), canFetch s p q = true ∧
    (fltU s .hif 0).armed = false ∧ (∀ c ∈ s.hif.cmds, c.id < s.hif.nextId) ∧ hostOk s p (packetAt s p q) 64 = false :=
  ⟨{ wPort { sqBase := 0x1000, cqBase := 0x2000, enable := true, active := true, sqTail := 1 } with
      host := { noMaster := [0] } }, 0, 0, by decide⟩

/-- A SHA3_256 of no bytes that waits, fetched from queue pair 0. -/
def wWaiting : State :=
  let s := wPort { enable := true, active := true, accMajor := 3, accMinor := 2 }
  { s with
    hif := { s.hif with
      inst := [(0, { st := .active, dgeSlots := 16, cvuSlots := 8 })]
      cmds := [{ id := 0, pkt := leBytes 2 0x0304 ++ zeros 26 ++ leBytes 4 32 ++ zeros 32 }], nextId := 1 } }

theorem witness_Dispatch : ∃ (s : State) (k : UnitKind) (u : Nat) (c : Cmd), u < 64 ∧ pick (freeOld s) k u = some c ∧
    (fltU s .tmp 0).armed = false ∧ extGone (freeOld s) c = false ∧ dispatchCheck (freeOld s) c = .pass none none ∧ slotsHeld (freeOld s) k c = false ∧
    quotaCheck (freeOld s) (cmdInst c) (cmdOp c) c.pkt none = none ∧ isGang (freeOld s) c = false ∧
    cmdOp c ≠ .sfs 0x0811 :=
  ⟨wWaiting, .dge, 0, { id := 0, pkt := leBytes 2 0x0304 ++ zeros 26 ++ leBytes 4 32 ++ zeros 32 }, by decide +kernel⟩

theorem witness_DispatchNothing : ∃ (s : State) (k : UnitKind) (u : Nat), u < 64 ∧ pick (freeOld s) k u = none :=
  ⟨State.reset, .dge, 0, by decide⟩

theorem witness_Epochs : ∃ s : State, epochsRun s = true := ⟨wPort {}, by decide⟩

theorem witness_CommandBoundary : ∃ (s : State) (id : Nat) (c : Cmd), cmdU s id = some c ∧ c.id = id ∧
    c.phase = .finished ∧ c.port < 256 ∧ s.tlk.bcasts = [] ∧ s.lcs.lcCmd = none ∧ (∀ i, (instU s i).pauseCmd = none) ∧
    (instU s c.port).logging = false ∧
    hostOk s c.port ((qpU s c.port c.q).cqBase.toNat + 32 * (qpU s c.port c.q).cqTail) 32 = true ∧
    (cmdOp c ≠ .adm 0x0F02 ∨ c.res.status ≠ stsOk) :=
  ⟨{ wPort { cqBase := 0x2000 } with hif := { (wPort { cqBase := 0x2000 }).hif with
      cmds := [{ id := 1, phase := .finished, kind := .parser }] } }, 1, { id := 1, phase := .finished, kind := .parser },
    by decide, by decide, by decide, by decide, by decide, by decide, fun i => rfl, by decide, by decide, by decide⟩

theorem witness_Resetting : ∃ (s : State) (i : Fin 256), (instU s i).st = .resetting ∧ (∀ c ∈ s.hif.cmds, c.port ≠ i.val) :=
  ⟨setInst 3 { st := .resetting } (wPort {}), 3, by decide⟩
theorem witness_Pausing : ∃ (s : State) (i : Fin 256) (id : Nat) (c : Cmd), (instU s i).st = .pausing ∧
    runningOf s i = 0 ∧ (instU s i).pauseCmd = some id ∧ cmdU s id = some c :=
  ⟨setInst 3 { st := .pausing, pauseCmd := some 1 } (wRunning [] .parser), 3, 1,
    { id := 1, phase := .running, kind := .parser }, by decide⟩
theorem witness_FunctionReset : ∃ (s : State) (fn : Fin 256), s.hif.reach = true ∧ fn.val ≠ 0 ∧ (instU s fn).st = .active :=
  ⟨setInst 3 { st := .active } (wPort {}), 3, by decide⟩

/-- A running command 1 with this packet on unit 0. -/
def wCmd (pkt : Bytes) (kind : UnitKind) : Cmd := { id := 1, pkt := pkt, phase := .running, kind := kind }
/-- A packet: opcode, input address and length, maximum and address of the output, then bytes 40 on. -/
def wPkt (op inL outMax : Nat) (tail : Bytes) : Bytes :=
  leBytes 2 op ++ zeros 14 ++ leBytes 8 0x1000 ++ leBytes 4 inL ++ leBytes 4 outMax ++ leBytes 8 0x2000 ++ tail

theorem witness_DigestOutput : ∃ (s : State) (id : Nat) (c : Cmd) (r : DataRow), rowsData2 id r ∧ cmdReady s id c ∧
    cmdOp c = r.op ∧ (byteAt c.pkt 40).testBit 0 = false ∧ (fltU s .dge c.unit).armed = false ∧
    canAccess s c (pInA c.pkt) (pInL c.pkt) ∧
    ∃ b, r.out c (inputOf s c) = some b ∧ b.length ≤ pMax c.pkt ∧ canAccess s c (pOutA c.pkt) b.length := by
  refine ⟨wRunning (wPkt 0x0630 0 32 []) .hub, 1, wCmd (wPkt 0x0630 0 32 []) .hub,
    symOut (.aesCtr 1) 0x0630 (fun k c m => ctrMode k (symIv c) (if byteAt c.pkt 56 = 0 then 128 else byteAt c.pkt 56) m),
    .inr (.inr (by simp)), by decide, by decide, by decide, by decide, by decide, _, rfl, by decide, by decide⟩
/-- An HMAC_SHA_256 command on unit 0 in this state of it, with core 2 and engine 5. -/
def wMac (d : Dge) : State :=
  let s := setEng 5 { cmd := some 1, key := some {} } (setCore 2 { cmd := some 1, hub := some 5 } (wRunning (wPkt 0x0310 0 32 []) .dge))
  { s with hif := { s.hif with cmds := [{ wCmd (wPkt 0x0310 0 32 []) .dge with core := some 2 }] }, dge := [(0, d)] }
/-- That command. -/
def wMacCmd : Cmd := { wCmd (wPkt 0x0310 0 32 []) .dge with core := some 2 }
theorem witness_MacStart : ∃ (s : State) (id : Nat) (c : Cmd) (k n : Nat) (kr : KeyReg), cmdHeld s id c ∧ cmdOp c = .keyed 1 ∧
    (byteAt c.pkt 40).testBit 0 = false ∧ (fltU s .dge c.unit).armed = false ∧ longMessage s c = true ∧
    inputRead s c = [] ∧ canAccess s c (pInA c.pkt) (pInL c.pkt) ∧ msgStarted s c.unit = false ∧
    (dgeU s c.unit).key = none ∧ c.core = some k ∧ (coreU s k).hub = some n ∧ (eng s n).key = some kr :=
  ⟨wMac {}, 1, wMacCmd, 2, 5, {}, by decide, by decide, by decide, by decide, by decide, by decide, by decide, by decide,
    by decide, by decide, by decide, rfl⟩
theorem witness_MacWaits : ∃ (s : State) (id : Nat) (c : Cmd), cmdHeld s id c ∧ cmdOp c = .keyed 1 ∧ longMessage s c = true ∧
    msgStarted s c.unit = true ∧ (dgeU s c.unit).done < (dgeU s c.unit).total ∧ (dgeU s c.unit).key.isSome = true :=
  ⟨wMac { key := some [], offloaded := true, st := .absorbing, total := 4 }, 1, wMacCmd, by decide⟩
theorem witness_MacDone : ∃ (s : State) (id : Nat) (c : Cmd), cmdHeld s id c ∧ cmdOp c = .keyed 1 ∧ longMessage s c = true ∧
    msgDone s c.unit ∧ (dgeU s c.unit).key = some (keyOf c).secret :=
  ⟨wMac { key := some [], offloaded := true, st := .absorbing, total := 4, done := 4 }, 1, wMacCmd, by decide⟩
theorem witness_VerifyFails : ∃ (s : State) (id : Nat) (c : Cmd) (r : DataRow), rowsData2 id r ∧ cmdReady s id c ∧
    cmdOp c = r.op ∧ r.plain = false ∧ (fltU s .dge c.unit).armed = false ∧ canAccess s c (pInA c.pkt) (pInL c.pkt) ∧
    r.out c (inputOf s c) = none := by
  refine ⟨wRunning (wPkt 0x0671 0 32 []) .hub, 1, wCmd (wPkt 0x0671 0 32 []) .hub, ⟨.keyUnwrap 1, .sym 0x0671, false, fun c m =>
      if (kwUnwrap (keyOf c).secret m).1 = kwIv then some (kwUnwrap (keyOf c).secret m).2 else none⟩,
    .inr (.inr (by simp)), by decide, by decide, by decide, by decide, by decide, by decide⟩
theorem witness_InputUnreachable : ∃ (s : State) (id : Nat) (c : Cmd), cmdReady s id c ∧ cmdOp c = .dig 1 ∧ c.port ≠ 256 ∧
    (byteAt c.pkt 40).testBit 0 = false ∧ hostOk s c.port (pInA c.pkt) (pInL c.pkt) = false :=
  ⟨{ wRunning (wPkt 0x0301 16 32 []) .dge with host := { noMaster := [0] } }, 1, wCmd (wPkt 0x0301 16 32 []) .dge, by decide⟩

/-- Where nothing bars an access, it answers. -/
theorem hostOk_free (s : State) (fn a n : Nat) (h : s.host.noMaster = []) (hb : s.host.bad = []) (hn : a + n ≤ 2 ^ 64) :
    hostOk s fn a n = true := by
  rw [hostOk, h, hb, decide_eq_true hn]
  simp

theorem witness_Compare : ∃ (s : State) (id : Nat) (c : Cmd) (r : Instr × Op × Nat × (Cmd → Bytes → Bytes)) (v : Bytes),
    cmdReady s id c ∧ (fltU s .dge c.unit).armed = false ∧ canAccess s c (pInA c.pkt) (pInL c.pkt) ∧ rowsCompare id r ∧
    c.port ≠ 256 ∧ cmdOp c = r.2.1 ∧ r.2.1 = .sym 0x0661 ∧ v = r.2.2.2 c (inputOf s c) ∧
    hostOk s c.port (pOutA c.pkt) v.length = true :=
  ⟨wRunning (wPkt 0x0661 0 32 []) .hub, 1, wCmd (wPkt 0x0661 0 32 []) .hub,
    (.aesCmacVerify 1, .sym 0x0661, stsVerifyFail, fun c m => (cmac (keyOf c).secret m).take (tag16 (byteAt c.pkt 40))), _,
    by decide, by decide, by decide, .inr (.inr rfl), by decide, by decide, rfl, rfl,
    hostOk_free _ _ _ _ rfl rfl (Nat.le_trans (Nat.add_le_add_left (List.length_take_le _ _) _) (by decide))⟩
theorem witness_DigestCompare : ∃ (s : State) (id : Nat) (c : Cmd), cmdReady s id c ∧ (fltU s .dge c.unit).armed = false ∧
    canAccess s c (pInA c.pkt) (pInL c.pkt) ∧ c.port ≠ 256 ∧ cmdOp c = .dig 7 ∧ (byteAt c.pkt 40).testBit 0 = true :=
  ⟨wRunning (wPkt 0x0307 0 0 [1]) .dge, 1, wCmd (wPkt 0x0307 0 0 [1]) .dge, by decide⟩
theorem witness_SigVerify : ∃ (s : State) (id : Nat) (c : Cmd), cmdReady s id c ∧ (fltU s .dge c.unit).armed = false ∧
    canAccess s c (pInA c.pkt) (pInL c.pkt) ∧ cmdOp c = .sig 1 0 :=
  ⟨wRunning (wPkt 0x0210 0 0 []) .hub, 1, wCmd (wPkt 0x0210 0 0 []) .hub, by decide⟩
theorem witness_SigVerifyHeld : ∃ (s : State) (id : Nat) (c : Cmd), cmdReady s id c ∧ (fltU s .dge c.unit).armed = false ∧
    canAccess s c (pInA c.pkt) (pInL c.pkt) ∧ cmdOp c = .sig 1 1 :=
  ⟨wRunning (wPkt 0x0211 0 0 []) .hub, 1, wCmd (wPkt 0x0211 0 0 []) .hub, by decide⟩

/-- The same with DRBG 0 able to generate. -/
def wDraw (pkt : Bytes) : State :=
  { wRunning pkt .hub with
    ent := { drbg := [(0, { inst := true })] }, pwr := { State.reset.pwr with mode := .service, aoRc := false } }
theorem witness_EncapsulateBadKey : ∃ (s : State) (id : Nat) (c : Cmd) (set : Nat), cmdReady s id c ∧
    (fltU s .hub c.unit).armed = false ∧ cmdOp c = .kem set 0 ∧ canAccess s c (pInA c.pkt) (pInL c.pkt) ∧
    ekOk set (inputOf s c) = false :=
  ⟨{ wRunning (wPkt 0x0110 3 0 []) .hub with host := { mem := [(0x1000, 255), (0x1001, 255), (0x1002, 255)] } }, 1,
    wCmd (wPkt 0x0110 3 0 []) .hub, 1, by decide⟩
theorem witness_Encapsulate : ∃ (s : State) (id : Nat) (c : Cmd) (set : Nat), cmdReady s id c ∧
    (fltU s .hub c.unit).armed = false ∧ cmdOp c = .kem set 0 ∧ canAccess s c (pInA c.pkt) (pInL c.pkt) ∧
    ekOk set (inputOf s c) = true ∧ drawUnit s ≠ none ∧ canAccess s c (pOutA c.pkt) 800 :=
  ⟨wDraw (wPkt 0x0110 0 0 []), 1, wCmd (wPkt 0x0110 0 0 []) .hub, 1, by decide⟩
theorem witness_EncapsulateHeld : ∃ (s : State) (id : Nat) (c : Cmd) (set : Nat), cmdReady s id c ∧
    (fltU s .hub c.unit).armed = false ∧ cmdOp c = .kem set 1 ∧ drawUnit s ≠ none ∧ canAccess s c (pOutA c.pkt) 800 :=
  ⟨wDraw (wPkt 0x0111 0 0 []), 1, wCmd (wPkt 0x0111 0 0 []) .hub, 1, by decide⟩
theorem witness_Decapsulate : ∃ (s : State) (id : Nat) (c : Cmd) (set : Nat) (body : Bytes), cmdReady s id c ∧
    (fltU s .hub c.unit).armed = false ∧ cmdOp c = .kem set 2 ∧ canAccess s c (pInA c.pkt) (pInL c.pkt) ∧
    bodyOf c = some body ∧ isAgree set = false ∧ canAccess s c (pOutA c.pkt) 32 :=
  ⟨wRunning (wPkt 0x0112 0 0 []) .hub, 1, wCmd (wPkt 0x0112 0 0 []) .hub, 1, [], by decide⟩

theorem witness_Sign : ∃ (s : State) (id : Nat) (c : Cmd) (set : Nat) (body : Bytes), cmdReady s id c ∧ cmdOp c = .sig set 2 ∧
    canAccess s c (pInA c.pkt) (pInL c.pkt) ∧ bodyOf c = some body ∧ (fltU s .hub c.unit).armed = false ∧
    signDraw set c.pkt = 32 ∧ drawUnit s ≠ none ∧ canAccess s c (pOutA c.pkt) 2420 :=
  ⟨wDraw (wPkt 0x0212 0 0 []), 1, wCmd (wPkt 0x0212 0 0 []) .hub, 1, [], by decide⟩
theorem witness_RandomFillQueue : ∃ (s : State) (id : Nat) (c : Cmd), cmdReady s id c ∧ cmdOp c = .rnd ∧
    canAccess s c (pOutA c.pkt) (pMax c.pkt) ∧ pMax c.pkt ≤ s.ent.queue.length :=
  ⟨{ wRunning (wPkt 0x0401 0 2 []) .hub with ent := { queue := [1, 2, 3] } }, 1, wCmd (wPkt 0x0401 0 2 []) .hub, by decide⟩
theorem witness_RandomFillDrbg : ∃ (s : State) (id : Nat) (c : Cmd), cmdReady s id c ∧ cmdOp c = .rnd ∧
    canAccess s c (pOutA c.pkt) (pMax c.pkt) ∧ s.ent.queue.length < pMax c.pkt ∧ drawUnit s ≠ none :=
  ⟨wDraw (wPkt 0x0401 0 16 []), 1, wCmd (wPkt 0x0401 0 16 []) .hub, by decide⟩
theorem witness_RandomFillPr : ∃ (s : State) (id : Nat) (c : Cmd), cmdReady s id c ∧ cmdOp c = .rndPr ∧ id ∈ s.ent.prDone ∧
    drawUnit s ≠ none ∧ canAccess s c (pOutA c.pkt) (pMax c.pkt) :=
  ⟨{ wDraw (wPkt 0x0402 0 16 []) with ent := { drbg := [(0, { inst := true })], prDone := [1] } }, 1,
    wCmd (wPkt 0x0402 0 16 []) .hub, by decide⟩
theorem witness_RandomFillPrAsks : ∃ (s : State) (id : Nat) (c : Cmd), cmdReady s id c ∧ cmdOp c = .rndPr ∧
    id ∉ s.ent.prDone ∧ id ∉ s.ent.prQ := ⟨wDraw (wPkt 0x0402 0 16 []), 1, wCmd (wPkt 0x0402 0 16 []) .hub, by decide⟩
theorem witness_GcmEncrypt : ∃ (s : State) (id : Nat) (c : Cmd), cmdReady s id c ∧ cmdOp c = .sym 0x0640 ∧
    canAccess s c (pInA c.pkt) (pInL c.pkt) ∧ byteAt c.pkt 57 ≠ 1 ∧ canAccess s c (pOutA c.pkt) 16 :=
  ⟨wRunning (wPkt 0x0640 0 16 []) .aes, 1, wCmd (wPkt 0x0640 0 16 []) .aes, by decide⟩
theorem witness_GcmEncryptGenIv : ∃ (s : State) (id : Nat) (c : Cmd), cmdReady s id c ∧ cmdOp c = .sym 0x0640 ∧
    canAccess s c (pInA c.pkt) (pInL c.pkt) ∧ byteAt c.pkt 57 = 1 ∧ drawUnit s ≠ none :=
  ⟨wDraw (wPkt 0x0640 0 28 (zeros 17 ++ [1])), 1, wCmd (wPkt 0x0640 0 28 (zeros 17 ++ [1])) .hub, by decide⟩

theorem witness_Install : ∃ (s s1 : State) (c : Cmd) (slot : Nat) (k : KeyObj) (blob : Bytes), cmdReady s c.id c ∧
    (fltU s .hub c.unit).armed = false ∧ (fltU s .kvt 0).armed = false ∧
    keyTest k (if k.ext then (unsealBody k.secret k.body).getD [] else []) = true ∧ takeSlot s = some slot ∧
    pendingCount s < 256 ∧ quotaFits s (hInst k.handle) k = true ∧ blobOf k s = some (blob, s1) :=
  let s : State := { wRunning (wPkt 0x0501 0 4096 []) .hub with kvt := { root := some (zeros 32) } }
  have ⟨x, h⟩ := Option.isSome_iff_exists.mp
    (show (blobOf { cls := 0x0610, secret := zeros 32 } s).isSome = true by decide +kernel)
  ⟨s, x.2, wCmd (wPkt 0x0501 0 4096 []) .hub, 0, { cls := 0x0610, secret := zeros 32 }, x.1, by decide, by decide, by decide,
    by decide, by decide +kernel, by decide +kernel, by decide +kernel, h⟩
theorem witness_Import : ∃ (s : State) (id : Nat) (c : Cmd) (b : Bytes) (s1 : State), (cmdReady s id c ∧ (fltU s .kvt 0).armed = false) ∧
    cmdOp c = .key 0x0502 ∧ readIn c s = some (b, s1) ∧ installRoom s1 = true :=
  ⟨wDraw (wPkt 0x0502 0 4096 []), 1, wCmd (wPkt 0x0502 0 4096 []) .hub, _, _, by decide, by decide, rfl, by decide +kernel⟩
theorem witness_ReplaceImport : ∃ (s : State) (id : Nat) (c : Cmd) (b : Bytes) (s1 : State), (cmdReady s id c ∧ (fltU s .kvt 0).armed = false) ∧
    cmdOp c = .key 0x0503 ∧ ((resU s (keyOf c).handle).bind (·.pend)).isSome = false ∧ installRoom s = true ∧
    byteAt c.pkt 43 ≠ 0 ∧ readIn c s = some (b, s1) :=
  ⟨wDraw (wPkt 0x0503 0 4096 [0, 0, 0, 1]), 1, wCmd (wPkt 0x0503 0 4096 [0, 0, 0, 1]) .hub, _, _, by decide, by decide,
    by decide, by decide +kernel, by decide, rfl⟩
theorem witness_AgreeStore : ∃ (s : State) (id : Nat) (c : Cmd) (b : Bytes) (s1 : State) (body : Bytes), (cmdReady s id c ∧ (fltU s .kvt 0).armed = false) ∧
    cmdOp c = .key 0x0510 ∧ bodyOf c = some body ∧ (fltU s .hub c.unit).armed = false ∧ isSlh (leAt c.pkt 40 2) = false ∧
    readIn c s = some (b, s1) ∧ installRoom s1 = true :=
  ⟨wDraw (wPkt 0x0510 0 4096 []), 1, wCmd (wPkt 0x0510 0 4096 []) .hub, _, _, _, by decide, by decide, rfl, by decide, by decide,
    rfl, by decide +kernel⟩
/-- A KEY_GENERATE of a 32-byte AES key, or of a class key, under the domain key. -/
def wGenerate (cls : Nat) : State :=
  let s := wDraw (wPkt 0x0501 0 4096 (leBytes 2 cls))
  { s with kvt := { root := some (zeros 32) } }
theorem witness_GenerateClass : ∃ (s : State) (id : Nat) (c : Cmd) (k : KeyObj) (n : Nat) (r : Bytes) (s1 : State),
    (cmdReady s id c ∧ (fltU s .kvt 0).armed = false) ∧ cmdOp c = .key 0x0501 ∧ installRoom s = true ∧ leAt c.pkt 40 2 = 0x2000 ∧
    newClass (keyOf c) s = some (k, n) ∧ draw id 32 s = some (r, s1) :=
  have ⟨x, h⟩ := Option.isSome_iff_exists.mp
    (show (newClass (keyOf (wCmd (wPkt 0x0501 0 4096 (leBytes 2 0x2000)) .hub)) (wGenerate 0x2000)).isSome = true by decide +kernel)
  have ⟨z, hz⟩ := Option.isSome_iff_exists.mp (show (draw 1 32 (wGenerate 0x2000)).isSome = true by decide +kernel)
  ⟨wGenerate 0x2000, 1, wCmd (wPkt 0x0501 0 4096 (leBytes 2 0x2000)) .hub, x.1, x.2, z.1, z.2, by decide, by decide,
    by decide +kernel, by decide, h, hz⟩
theorem witness_GenerateLeaf : ∃ (s : State) (id : Nat) (c : Cmd) (k : KeyObj) (t : State) (r : Bytes) (s1 : State),
    (cmdReady s id c ∧ (fltU s .kvt 0).armed = false) ∧ cmdOp c = .key 0x0501 ∧ installRoom s = true ∧ leAt c.pkt 40 2 ≠ 0x2000 ∧
    newLeaf (keyOf c) s = some (k, t) ∧ draw id 32 t = some (r, s1) :=
  have ⟨x, h⟩ := Option.isSome_iff_exists.mp
    (show (newLeaf (keyOf (wCmd (wPkt 0x0501 0 4096 (leBytes 2 0x0620)) .hub)) (wGenerate 0x0620)).isSome = true by decide +kernel)
  have hd : ∀ y, newLeaf (keyOf (wCmd (wPkt 0x0501 0 4096 (leBytes 2 0x0620)) .hub)) (wGenerate 0x0620) = some y →
      (draw 1 32 y.2).isSome = true := by
    intro y hy
    have : ((newLeaf (keyOf (wCmd (wPkt 0x0501 0 4096 (leBytes 2 0x0620)) .hub)) (wGenerate 0x0620)).bind
      (fun y => draw 1 32 y.2)).isSome = true := by decide +kernel
    rw [hy] at this
    exact this
  have ⟨z, hz⟩ := Option.isSome_iff_exists.mp (hd x h)
  ⟨wGenerate 0x0620, 1, wCmd (wPkt 0x0501 0 4096 (leBytes 2 0x0620)) .hub, x.1, x.2, z.1, z.2, by decide, by decide,
    by decide +kernel, by decide, h, hz⟩
theorem witness_Replace : ∃ (s : State) (id : Nat) (c : Cmd) (r : Bytes) (s1 : State), (cmdReady s id c ∧ (fltU s .kvt 0).armed = false) ∧
    cmdOp c = .key 0x0503 ∧ ((resU s (keyOf c).handle).bind (·.pend)).isSome = false ∧ installRoom s = true ∧
    byteAt c.pkt 43 = 0 ∧ draw id (genDraw (keyOf c).cls (keyOf c).secret.length) s = some (r, s1) :=
  ⟨wDraw (wPkt 0x0503 0 4096 []), 1, wCmd (wPkt 0x0503 0 4096 []) .hub, _, _, by decide, by decide, by decide,
    by decide +kernel, by decide, rfl⟩
theorem witness_SfsKeygen : ∃ (s : State) (id : Nat) (c : Cmd) (d : SfsPar) (k : KeyObj) (t : State) (r : Bytes) (s1 : State),
    (cmdReady s id c ∧ (fltU s .kvt 0).armed = false) ∧ cmdOp c = .sfs 0x0810 ∧ sfsParams (sfsPar c.pkt) = some d ∧ installRoom s = true ∧
    newLeaf (keyOf c) s = some (k, t) ∧ draw id (sfsDraw (sfsPar c.pkt) d.n) t = some (r, s1) :=
  have ⟨d, hd⟩ := Option.isSome_iff_exists.mp
    (show (sfsParams (sfsPar (wPkt 0x0810 0 4096 [2, 0, 0, 0, 1, 0, 0, 0]))).isSome = true by decide)
  have ⟨x, h⟩ := Option.isSome_iff_exists.mp
    (show (newLeaf (keyOf (wCmd (wPkt 0x0810 0 4096 [2, 0, 0, 0, 1, 0, 0, 0]) .hub))
      (wDraw (wPkt 0x0810 0 4096 [2, 0, 0, 0, 1, 0, 0, 0]))).isSome = true by decide +kernel)
  have hw : ∀ n y, newLeaf (keyOf (wCmd (wPkt 0x0810 0 4096 [2, 0, 0, 0, 1, 0, 0, 0]) .hub))
      (wDraw (wPkt 0x0810 0 4096 [2, 0, 0, 0, 1, 0, 0, 0])) = some y → (draw 1 n y.2).isSome = true := by
    intro n y hy
    have : ((newLeaf (keyOf (wCmd (wPkt 0x0810 0 4096 [2, 0, 0, 0, 1, 0, 0, 0]) .hub))
      (wDraw (wPkt 0x0810 0 4096 [2, 0, 0, 0, 1, 0, 0, 0]))).bind (fun y => drawUnit y.2)).isSome = true := by decide +kernel
    rw [hy] at this
    simp only [draw]
    change (drawUnit y.2).isSome = true at this
    split
    · rename_i e; rw [e] at this; exact this
    · rfl
  have ⟨z, hz⟩ := Option.isSome_iff_exists.mp (hw (sfsDraw (sfsPar (wPkt 0x0810 0 4096 [2, 0, 0, 0, 1, 0, 0, 0])) d.n) x h)
  ⟨wDraw (wPkt 0x0810 0 4096 [2, 0, 0, 0, 1, 0, 0, 0]), 1, wCmd (wPkt 0x0810 0 4096 [2, 0, 0, 0, 1, 0, 0, 0]) .hub, d, x.1, x.2,
    z.1, z.2, by decide, by decide, hd, by decide +kernel, h, hz⟩

/-- Command 1 with this packet and key runs, and handle 0 has this resident record. -/
def wKeyed (op : Nat) (tail : Bytes) (r : Resident) (k : KeyObj) : State :=
  let s := wDraw (wPkt op 0 4096 tail)
  { s with
    hif := { s.hif with cmds := [{ wCmd (wPkt op 0 4096 tail) .hub with key := some k, key2 := some { cls := 0x3620 } }] }
    kvt := { root := some (zeros 32), res := [(0, some r)] } }
/-- The command of that state. -/
def wKeyCmd (op : Nat) (tail : Bytes) (k : KeyObj) : Cmd :=
  { wCmd (wPkt op 0 4096 tail) .hub with key := some k, key2 := some { cls := 0x3620 } }
theorem witness_Commit : ∃ (s : State) (id : Nat) (c : Cmd) (r : Resident) (k : KeyObj), cmdReady s id c ∧
    (fltU s .kvt 0).armed = false ∧ cmdOp c = .key 0x0504 ∧ resU s (pKey c.pkt) = some r ∧ r.pend = some k ∧
    parentFault s k = false ∧ parentHolds s k = true ∧ r.install ≠ 3 :=
  ⟨wKeyed 0x0504 [] { pend := some { level := 2 } } {}, 1, wKeyCmd 0x0504 [] {}, { pend := some { level := 2 } },
    { level := 2 }, by decide⟩
theorem witness_Abandon : ∃ (s : State) (id : Nat) (c : Cmd) (r : Resident) (k : KeyObj), cmdReady s id c ∧
    (fltU s .kvt 0).armed = false ∧ cmdOp c = .key 0x0505 ∧ resU s (pKey c.pkt) = some r ∧ r.pend = some k :=
  ⟨wKeyed 0x0505 [] { pend := some {} } {}, 1, wKeyCmd 0x0505 [] {}, { pend := some {} }, {}, by decide⟩
theorem witness_CommitNothing : ∃ (s : State) (id : Nat) (c : Cmd), cmdReady s id c ∧ (fltU s .kvt 0).armed = false ∧
    cmdOp c = .key 0x0504 ∧ (resU s (pKey c.pkt)).bind (·.pend) = none :=
  ⟨wKeyed 0x0504 [] {} {}, 1, wKeyCmd 0x0504 [] {}, by decide⟩
theorem witness_AbandonNothing : ∃ (s : State) (id : Nat) (c : Cmd), cmdReady s id c ∧ (fltU s .kvt 0).armed = false ∧
    cmdOp c = .key 0x0505 ∧ (resU s (pKey c.pkt)).bind (·.pend) = none :=
  ⟨wKeyed 0x0505 [] {} {}, 1, wKeyCmd 0x0505 [] {}, by decide⟩
theorem witness_LoadRefused : ∃ (s : State) (id : Nat) (c : Cmd) (b : Bytes) (s1 : State) (st : Nat), cmdReady s id c ∧
    (fltU s .kvt 0).armed = false ∧ cmdOp c = .key 0x0506 ∧ readIn c (loadNote (cmdInst c) false s) = some (b, s1) ∧
    blobRefused s1 (cmdInst c) b = some st :=
  ⟨wKeyed 0x0506 [] {} {}, 1, wKeyCmd 0x0506 [] {}, [], _, stsKeyUnknown, by decide, by decide, by decide, rfl, by decide⟩
/-- The key of the witness blob: the header of an AES key of instance 0 with no bytes behind it. -/
def wBlobKey : KeyObj := { handle := mkHandle 0 0 3 5 0, cls := 0x0620, tag := mkTag 0 0 0 0 0 }
/-- The domain key of instance 0 under a root of zeros. -/
def wDomSecret : Bytes := domainKey (zeros 32) 0 (zeros 8) 0
/-- The wrapping key under the domain key of a root of zeros. -/
def wWrap : Bytes := wrapKey wDomSecret 0
/-- Its header. -/
def wHead : Bytes := blobHead wBlobKey (zeros 12)
/-- Its header tag. -/
def wHTag : Bytes := headTag (headerKey (zeros 32) 0) wHead
/-- Its GCM tag. -/
def wGTag : Bytes := gcmTag wWrap (zeros 12) (wHead ++ wHTag) []
/-- The blob. -/
def wBlob : Bytes := wHead ++ (wHTag ++ wGTag)
theorem wHead_len : wHead.length = 64 := by decide +kernel
theorem wHTag_len : wHTag.length = 16 := by decide +kernel
theorem wGTag_len : wGTag.length = 16 := by decide +kernel
theorem fit_self (b : Bytes) (n : Nat) (h : b.length = n) : fit n b = b := by
  subst h; simp [fit, zeros]
theorem slice_mid (x y z : Bytes) (a n : Nat) (hx : x.length = a) (hy : y.length = n) : slice (x ++ (y ++ z)) a n = y := by
  subst hx hy
  simp [slice, fit, zeros]
theorem slice_front (x z : Bytes) (a n : Nat) (h : a + n ≤ x.length) : slice (x ++ z) a n = slice x a n := by
  unfold slice fit
  rw [List.drop_append_of_le_length (by omega), List.append_assoc, List.take_append_of_le_length (by simp; omega), List.take_append_of_le_length (by simp; omega)]
theorem wBlob_front (a n : Nat) (h : a + n ≤ 64) : slice wBlob a n = slice wHead a n :=
  slice_front _ _ _ _ (by rw [wHead_len]; exact h)
theorem wBlob_le (a n : Nat) (h : a + n ≤ 64) : leAt wBlob a n = leAt wHead a n := by
  unfold leAt; rw [wBlob_front a n h]
theorem wBlob_key : blobKey wBlob = wBlobKey := by
  unfold blobKey byteAt
  rw [wBlob_le, wBlob_le, wBlob_le, wBlob_le, wBlob_le, wBlob_le, wBlob_le, wBlob_le] <;> decide +kernel
theorem wBlob_len : wBlob.length = 96 := by
  simp [wBlob, wHead_len, wHTag_len, wGTag_len]
theorem wBlob_take (n : Nat) (h : n ≤ 64) : wBlob.take n = wHead.take n :=
  List.take_append_of_le_length (by rw [wHead_len]; exact h)
/-- The blob in host memory, with a KEY_LOAD of it. -/
def wLoad : State :=
  hostPut 0x1000 wBlob { wRunning (wPkt 0x0506 96 8 []) .hub with kvt := { root := some (zeros 32) } }
/-- That command. -/
def wLoadCmd : Cmd := wCmd (wPkt 0x0506 96 8 []) .hub
/-- What reading the blob leaves as it was. -/
structure Same (s t : State) : Prop where
  kvt : t.kvt = s.kvt
  bbram : t.bbram = s.bbram
  mem : t.mem = s.mem
  instU (i : Nat) : instU t i = instU s i
theorem wLoad_read : ∃ s1, readIn wLoadCmd wLoad = some (wBlob, s1) ∧ Same wLoad s1 := by
  obtain ⟨t, h, k⟩ := dmaRead_ok 0 0x1000 96 wLoad (by decide)
  refine ⟨keepInput wLoadCmd wBlob t, ?_, ⟨k.kvt, k.bbram, k.mem, k.instU⟩⟩
  have e : hostBytes wLoad 0x1000 96 = wBlob := by
    rw [← wBlob_len]; exact hostBytes_hostPut _ _ _
  rw [e] at h
  have h' : readAt wLoadCmd 0x1000 96 wLoad = some (wBlob, t) := h
  have z : inputRead wLoad wLoadCmd = [] := by decide
  unfold readIn
  rw [z]
  simp only [List.take_nil, List.length_nil, Nat.add_zero, Nat.sub_zero, List.nil_append]
  rw [show pInA wLoadCmd.pkt = 0x1000 by decide, show pInL wLoadCmd.pkt = 96 by decide, h']
theorem headerOk_wBlob : headerOk (headerKey (zeros 32) 0) wBlob = true := by
  have h4 : slice wBlob 64 16 = wHTag := slice_mid _ _ _ _ _ wHead_len wHTag_len
  have h5 : wBlob.take 64 = wHead := by rw [wBlob_take 64 (by decide)]; exact List.take_of_length_le (by rw [wHead_len])
  unfold headerOk blobLenOk byteAt
  rw [h4, h5, wBlob_len, wBlob_take 4 (by decide), wBlob_le _ _ (by decide), wBlob_le _ _ (by decide),
    wBlob_le _ _ (by decide), wBlob_le _ _ (by decide), wBlob_le _ _ (by decide), decide_eq_true (show wHTag = headTag (headerKey (zeros 32) 0) wHead from rfl)]
  decide +kernel
theorem openBlob_wBlob : openBlob wWrap wBlob = some wBlobKey := by
  have h8 : wBlob.take 80 = wHead ++ wHTag := by
    have : wBlob = (wHead ++ wHTag) ++ wGTag := by simp [wBlob]
    rw [this]; exact List.take_left' (by simp [wHead_len, wHTag_len])
  have hg : slice wBlob 80 16 = wGTag := by
    have : wBlob = (wHead ++ wHTag) ++ (wGTag ++ []) := by simp [wBlob]
    rw [this]; exact slice_mid _ _ _ _ _ (by simp [wHead_len, wHTag_len]) wGTag_len
  have hz : ∀ a, slice wBlob a 0 = [] := fun a => by simp [slice, fit]
  unfold openBlob
  rw [wBlob_le 36 4 (by decide), wBlob_le 40 4 (by decide), wBlob_le 44 4 (by decide), wBlob_front 48 12 (by decide),
    show leAt wHead 36 4 = 0 by decide +kernel, show leAt wHead 40 4 = 0 by decide +kernel, show leAt wHead 44 4 = 0 by decide +kernel,
    show slice wHead 48 12 = zeros 12 by decide +kernel]
  simp only [Nat.add_zero, hz, h8, hg, List.append_nil, wBlob_key, gcmDec]
  have ht : List.take wGTag.length (gcmTag wWrap (zeros 12) (wHead ++ wHTag) []) = wGTag :=
    List.take_of_length_le (Nat.le_refl _)
  rw [if_pos ht]
  rfl
theorem blobRefused_wBlob (t : State) (h : Same wLoad t) : blobRefused t 0 wBlob = none := by
  have hk : headerSecret t 0 = some (headerKey (zeros 32) 0) := by
    unfold headerSecret adoptedOf
    rw [h.kvt, h.instU]
    rfl
  unfold blobRefused byteAt
  rw [hk, wBlob_len, wBlob_take 4 (by decide), wBlob_le _ _ (by decide), wBlob_le _ _ (by decide), wBlob_le _ _ (by decide),
    wBlob_le _ _ (by decide)]
  simp only [headerOk_wBlob]
  decide +kernel
/-- Its parent, the domain key. -/
def wDomain : KeyObj :=
  { handle := mkHandle 0 0 1 0 0, level := 1, cls := 0x2001, tag := mkTag 0 0 0 0 0, secret := wDomSecret }
theorem loadBlob_of (b : Bytes) (s : State) (k p k' : KeyObj) (h1 : blobKey b = k) (hn : k.stateful = false)
    (hg : genCheck s k = none) (hj : journalRefuses s k.handle k.version = none) (hp : parentKey s k = some p)
    (ho : openBlob (wrapKey p.secret (childGen s p)) b = some k') (hs : k'.stateful = false) : loadBlob b s = .inr k' := by
  simp [loadBlob, h1, hn, hg, hj, hp, ho, hs]
theorem loadBlob_wBlob (t : State) (h : Same wLoad t) : loadBlob wBlob t = .inr wBlobKey := by
  have hi : ∀ i, instU t i = instU wLoad i := fun i => h.instU i
  have hp : parentKey t wBlobKey = some wDomain := by
    simp only [parentKey, domainSecret, adoptedOf, genE, h.kvt, h.bbram, hi, wDomain, wDomSecret]
    rfl
  have hg : genCheck t wBlobKey = none := by
    simp only [genCheck, entryOf, adoptedOf, genE, h.bbram, hi]
    decide +kernel
  have hj : journalRefuses t wBlobKey.handle wBlobKey.version = none := by
    simp only [journalRefuses, slotU, h.bbram]
    decide +kernel
  have hc : childGen t wDomain = 0 := by
    simp only [childGen, genE, h.bbram]
    rw [if_pos (by decide)]
    decide +kernel
  have hn : wBlobKey.stateful = false := rfl
  have ho : openBlob (wrapKey wDomain.secret (childGen t wDomain)) wBlob = some wBlobKey := by
    rw [hc, show wrapKey wDomain.secret 0 = wWrap by unfold wWrap wDomain; dsimp only]
    exact openBlob_wBlob
  exact loadBlob_of _ _ _ _ _ wBlob_key hn hg hj hp ho hn
theorem witness_Load : ∃ (s : State) (id : Nat) (c : Cmd) (b : Bytes) (s1 : State) (k : KeyObj), cmdReady s id c ∧
    (fltU s .kvt 0).armed = false ∧ cmdOp c = .key 0x0506 ∧ readIn c (loadNote (cmdInst c) false s) = some (b, s1) ∧
    blobRefused s1 (cmdInst c) b = none ∧ (fltU s .tmp 0).armed = false ∧ loadBlob b s1 = .inr k ∧ (resU s1 k.handle).bind (·.cur) = none ∧
    quotaFits s1 (cmdInst c) k = true ∧ canAccess s c (pOutA c.pkt) 8 := by
  obtain ⟨t, h, k⟩ := wLoad_read
  refine ⟨wLoad, 1, wLoadCmd, wBlob, t, _, by decide, by decide, by decide, h, blobRefused_wBlob t k, by decide, loadBlob_wBlob t k, ?_, ?_,
    by decide⟩
  · unfold resU; rw [k.kvt]; decide
  · simp only [quotaFits, usedBytes, quotaBytes, k.kvt, k.mem, k.instU]; decide +kernel
theorem witness_Evict : ∃ (s : State) (id : Nat) (c : Cmd) (r : Resident), cmdReady s id c ∧ (fltU s .kvt 0).armed = false ∧
    cmdOp c = .key 0x0507 ∧ resU s (pKey c.pkt) = some r :=
  ⟨wKeyed 0x0507 [] { cur := some {} } {}, 1, wKeyCmd 0x0507 [] {}, { cur := some {} }, by decide⟩
theorem witness_Invalidate : ∃ (s : State) (id : Nat) (c : Cmd) (n : Nat), cmdReady s id c ∧ (fltU s .kvt 0).armed = false ∧
    cmdOp c = .key 0x0508 ∧ n = (if hLevel (pKey c.pkt) = 1 then hInst (pKey c.pkt)
      else entryOf s (hInst (pKey c.pkt)) (hIndex (pKey c.pkt))) ∧ (genE s n).unreadable = false ∧ (genE s n).gen ≠ 0xFFFF ∧
    canAccess s c (pOutA c.pkt) 2 := ⟨wKeyed 0x0508 [] {} {}, 1, wKeyCmd 0x0508 [] {}, 0, by decide⟩
theorem witness_InvalidateLast : ∃ (s : State) (id : Nat) (c : Cmd) (n : Nat), cmdReady s id c ∧
    (fltU s .kvt 0).armed = false ∧ cmdOp c = .key 0x0508 ∧ n = (if hLevel (pKey c.pkt) = 1 then hInst (pKey c.pkt)
      else entryOf s (hInst (pKey c.pkt)) (hIndex (pKey c.pkt))) ∧ (genE s n).unreadable = false ∧ (genE s n).gen = 0xFFFF :=
  ⟨{ wKeyed 0x0508 [] {} {} with bbram := { gens := [(0, { gen := 0xFFFF })] } }, 1, wKeyCmd 0x0508 [] {}, 0, by decide⟩
theorem witness_ExportWrap : ∃ (s : State) (id : Nat) (c : Cmd) (body b : Bytes), cmdReady s id c ∧
    (fltU s .kvt 0).armed = false ∧ cmdOp c = .key 0x0509 ∧ bodyOf c = some body ∧ (c.key2.getD {}).cls = 0x3620 ∧
    b = kwpWrap (c.key2.getD {}).secret (exportRec (keyOf c).cls (exportMaterial (keyOf c) body)) :=
  ⟨wKeyed 0x0509 [] {} {}, 1, wKeyCmd 0x0509 [] {}, [], _, by decide, by decide, by decide, by decide, by decide, rfl⟩
theorem witness_ExportKem : ∃ (s : State) (id : Nat) (c : Cmd) (body : Bytes), cmdReady s id c ∧
    (fltU s .kvt 0).armed = false ∧ cmdOp c = .key 0x0509 ∧ bodyOf c = some body ∧ (c.key2.getD {}).cls ≠ 0x3620 ∧
    drawUnit s ≠ none := ⟨wDraw (wPkt 0x0509 0 4096 []), 1, wCmd (wPkt 0x0509 0 4096 []) .hub, [], by decide⟩
theorem witness_Public : ∃ (s : State) (id : Nat) (c : Cmd), cmdReady s id c ∧ (fltU s .kvt 0).armed = false ∧
    cmdOp c = .key 0x050A ∧ canAccess s c (pOutA c.pkt) (keyOf c).pub.length :=
  ⟨wKeyed 0x050A [] {} { pub := [1, 2] }, 1, wKeyCmd 0x050A [] { pub := [1, 2] }, by decide⟩
theorem witness_Info : ∃ (s : State) (id : Nat) (c : Cmd), cmdReady s id c ∧ (fltU s .kvt 0).armed = false ∧
    cmdOp c = .key 0x050B ∧ (keyOf c).stateful = false ∧ canAccess s c (pOutA c.pkt) 32 :=
  ⟨wKeyed 0x050B [] {} {}, 1, wKeyCmd 0x050B [] {}, by decide⟩
theorem witness_Share : ∃ (s : State) (id : Nat) (c : Cmd), cmdReady s id c ∧ (fltU s .kvt 0).armed = false ∧
    cmdOp c = .key 0x050C := ⟨wKeyed 0x050C [] {} {}, 1, wKeyCmd 0x050C [] {}, by decide⟩

theorem witness_SfsVerify : ∃ (s : State) (id : Nat) (c : Cmd), cmdReady s id c ∧ cmdOp c = .sfs 0x0801 ∧
    canAccess s c (pInA c.pkt) (pInL c.pkt) ∧ sfsParams (sfsPar c.pkt) = none :=
  ⟨wDraw (wPkt 0x0801 0 0 []), 1, wCmd (wPkt 0x0801 0 0 []) .hub, by decide⟩
theorem witness_SfsVerifyXmss : ∃ (s : State) (id : Nat) (c : Cmd) (d : SfsPar), cmdReady s id c ∧ cmdOp c = .sfs 0x0802 ∧
    canAccess s c (pInA c.pkt) (pInL c.pkt) ∧ sfsParams (sfsPar c.pkt) = some d :=
  ⟨wDraw (wPkt 0x0802 0 0 [2, 0, 0, 0, 1, 0, 0, 0]), 1, wCmd (wPkt 0x0802 0 0 [2, 0, 0, 0, 1, 0, 0, 0]) .hub, _,
    by decide, by decide, by decide, rfl⟩
theorem witness_SfsSign : ∃ (s : State) (id : Nat) (c : Cmd) (d : SfsPar), cmdReady s id c ∧ cmdOp c = .sfs 0x0811 ∧
    canAccess s c (pInA c.pkt) (pInL c.pkt) ∧ (fltU s .hub c.unit).armed = false ∧ sfsParams (keyOf c).par = some d :=
  ⟨wKeyed 0x0811 [] {} { par := [2, 0, 0, 0, 1, 0, 0, 0] }, 1, wKeyCmd 0x0811 [] { par := [2, 0, 0, 0, 1, 0, 0, 0] }, _,
    by decide, by decide, by decide, by decide, rfl⟩
/-- Record 0 is live for state identifier 5. -/
def wRecord (s : State) : State :=
  { s with bbram := { recs := [(0, { a := sealCopy { stateId := 5, seq := 1, live := true } })] } }
theorem witness_SfsStatus : ∃ (s : State) (id : Nat) (c : Cmd) (n : Nat) (r : RecCopy), cmdReady s id c ∧
    cmdOp c = .sfs 0x0812 ∧ recLive s (keyOf c).stateId = some (n, r) ∧ canAccess s c (pOutA c.pkt) 24 ∧ c.served = none :=
  ⟨wRecord (wKeyed 0x0812 [] {} { stateId := 5 }), 1, wKeyCmd 0x0812 [] { stateId := 5 }, 0,
    sealCopy { stateId := 5, seq := 1, live := true }, by decide, by decide, by decide +kernel, by decide, rfl⟩
theorem witness_SfsStatusLost : ∃ (s : State) (id : Nat) (c : Cmd), cmdReady s id c ∧ cmdOp c = .sfs 0x0812 ∧
    recFind s (keyOf c).stateId = none :=
  ⟨wKeyed 0x0812 [] {} { stateId := 5 }, 1, wKeyCmd 0x0812 [] { stateId := 5 }, by decide, by decide,
    List.find?_eq_none.2 fun n _ => by rw [show recU _ n = {} from rfl]; decide +kernel⟩
theorem witness_SfsRetire : ∃ (s : State) (id : Nat) (c : Cmd) (k : KeyObj) (n : Nat), cmdReady s id c ∧
    cmdOp c = .sfs 0x0813 ∧ c.served = none ∧ c.key = some k ∧ pInL c.pkt = 0 ∧ (fltU s .kvt 0).armed = false ∧
    n ∉ s.bbram.badRecs ∧ recFind s k.stateId = some n :=
  ⟨wRecord (wKeyed 0x0813 [] {} { stateId := 5 }), 1, wKeyCmd 0x0813 [] { stateId := 5 }, { stateId := 5 }, 0, by decide,
    by decide, rfl, by decide, by decide, by decide, by decide, by decide +kernel⟩
theorem witness_SfsStatusServed : ∃ (s : State) (id : Nat) (c : Cmd) (v : Nat × Nat), cmdReady s id c ∧
    cmdOp c = .sfs 0x0812 ∧ c.served = some v ∧ canAccess s c (pOutA c.pkt) 24 :=
  let c : Cmd := { wCmd (wPkt 0x0812 0 24 []) .hub with served := some (3, 256) }
  let s := wDraw (wPkt 0x0812 0 24 [])
  ⟨{ s with hif := { s.hif with cmds := [c] } }, 1, c, (3, 256), by decide⟩
theorem witness_SfsRetireOther : ∃ (s : State) (id : Nat) (c : Cmd), cmdReady s id c ∧ cmdOp c = .sfs 0x0813 ∧
    c.served = none ∧ 0 < pInL c.pkt ∧ canAccess s c (pInA c.pkt) (pInL c.pkt) ∧ leAt (inputOf s c) 8 8 ≠ pKey c.pkt :=
  ⟨{ wRunning (wPkt 0x0813 16 0 []) .hub with host := { mem := [(0x1008, 1)] } }, 1, wCmd (wPkt 0x0813 16 0 []) .hub, by decide⟩
theorem witness_PendingRewrite : ∃ (s : State) (slot : Fin 256), jPending (slotU s slot) = true :=
  ⟨{ State.reset with bbram := { journal := [(3, { pend := { kind := 1, valid := true } })] } }, 3, by decide⟩
theorem witness_PannierSweep : ∃ (s : State) (i : Fin 256), i.val ∈ s.kvt.sweep :=
  ⟨{ State.reset with kvt := { sweep := [4] } }, 4, by decide⟩

/-- Command 1 with this packet runs for the manager; instance 3 stands in this state. -/
def wAdm (op outMax : Nat) (tail : Bytes) (x : Inst) : State := setInst 3 x (wDraw (wPkt op 0 outMax tail))
/-- That command. -/
def wAdmCmd (op outMax : Nat) (tail : Bytes) : Cmd := wCmd (wPkt op 0 outMax tail) .hub
theorem witness_DevIdentity : ∃ (s : State) (id : Nat) (c : Cmd), cmdReady s id c ∧ (fltU s .kvt 0).armed = false ∧
    cmdOp c = .adm 0x0F01 ∧ canAccess s c (pOutA c.pkt) 64 := ⟨wAdm 0x0F01 64 [] {}, 1, wAdmCmd 0x0F01 64 [], by decide⟩
theorem witness_DevStatus : ∃ (s : State) (id : Nat) (c : Cmd), cmdReady s id c ∧ (fltU s .kvt 0).armed = false ∧
    cmdOp c = .adm 0x0F02 ∧ canAccess s c (pOutA c.pkt) 32 := ⟨wAdm 0x0F02 32 [] {}, 1, wAdmCmd 0x0F02 32 [], by decide⟩
theorem witness_PatchInfo : ∃ (s : State) (id : Nat) (c : Cmd), cmdReady s id c ∧ (fltU s .kvt 0).armed = false ∧
    cmdOp c = .adm 0x0F31 ∧ canAccess s c (pOutA c.pkt) 64 := ⟨wAdm 0x0F31 64 [] {}, 1, wAdmCmd 0x0F31 64 [], by decide⟩
theorem witness_InstCreate : ∃ (s : State) (id i : Nat) (c : Cmd), cmdReady s id c ∧ i = pTarget c.pkt ∧
    (fltU s .kvt 0).armed = false ∧ cmdOp c = .adm 0x0F10 ∧ i ≠ 0 ∧ (instU s i).st = .absent ∧
    poolsFit s (newInst (c.pkt.drop 41)) = true ∧ canAccess s c (pOutA c.pkt) 8 :=
  ⟨wAdm 0x0F10 8 [3, 1, 1] {}, 1, 3, wAdmCmd 0x0F10 8 [3, 1, 1], by decide⟩
theorem witness_InstCreateExists : ∃ (s : State) (id i : Nat) (c : Cmd), cmdReady s id c ∧ i = pTarget c.pkt ∧
    (fltU s .kvt 0).armed = false ∧ cmdOp c = .adm 0x0F10 ∧ (instU s i).st ≠ .absent :=
  ⟨wAdm 0x0F10 8 [3, 1, 1] { st := .active }, 1, 3, wAdmCmd 0x0F10 8 [3, 1, 1], by decide⟩
theorem witness_InstCreateShort : ∃ (s : State) (id i : Nat) (c : Cmd), cmdReady s id c ∧ i = pTarget c.pkt ∧
    (fltU s .kvt 0).armed = false ∧ cmdOp c = .adm 0x0F10 ∧ (instU s i).st = .absent ∧
    poolsFit s (newInst (c.pkt.drop 41)) = false :=
  ⟨wAdm 0x0F10 8 [3, 1, 1, 0, 0, 0, 0, 0, 255, 255, 255] {}, 1, 3, wAdmCmd 0x0F10 8 [3, 1, 1, 0, 0, 0, 0, 0, 255, 255, 255], by decide⟩
theorem witness_InstDestroy : ∃ (s : State) (id i : Nat) (c : Cmd), cmdReady s id c ∧ i = pTarget c.pkt ∧
    (fltU s .kvt 0).armed = false ∧ cmdOp c = .adm 0x0F11 ∧ i ≠ 0 ∧ (instU s i).st ≠ .absent :=
  ⟨wAdm 0x0F11 8 [3] { st := .active }, 1, 3, wAdmCmd 0x0F11 8 [3], by decide⟩
theorem witness_InstSetShare : ∃ (s : State) (id i : Nat) (c : Cmd) (n : Nat), cmdReady s id c ∧ i = pTarget c.pkt ∧
    (fltU s .kvt 0).armed = false ∧ cmdOp c = .adm 0x0F12 ∧ n = byteAt c.pkt 41 ∧ instOpen s i = true ∧
    (instU s i).qps ≤ n ∧ poolUsed s (·.qps) - (instU s i).qps + n ≤ 4096 :=
  ⟨wAdm 0x0F12 8 [3, 4] { st := .active, qps := 2 }, 1, 3, wAdmCmd 0x0F12 8 [3, 4], 4, by decide⟩
theorem witness_InstSetShield : ∃ (s : State) (id i : Nat) (c : Cmd), cmdReady s id c ∧ i = pTarget c.pkt ∧
    (fltU s .kvt 0).armed = false ∧ cmdOp c = .adm 0x0F16 ∧ instOpen s i = true ∧ (instU s i).st ≠ .paused :=
  ⟨wAdm 0x0F16 8 [3] { st := .active }, 1, 3, wAdmCmd 0x0F16 8 [3], by decide⟩
theorem witness_InstSetShieldPaused : ∃ (s : State) (id i : Nat) (c : Cmd), cmdReady s id c ∧ i = pTarget c.pkt ∧
    (fltU s .kvt 0).armed = false ∧ cmdOp c = .adm 0x0F16 ∧ instOpen s i = true ∧ (instU s i).st = .paused :=
  ⟨wAdm 0x0F16 8 [3] { st := .paused }, 1, 3, wAdmCmd 0x0F16 8 [3], by decide⟩
theorem witness_InstPause : ∃ (s : State) (id i : Nat) (c : Cmd), cmdReady s id c ∧ i = pTarget c.pkt ∧
    (fltU s .kvt 0).armed = false ∧ cmdOp c = .adm 0x0F13 ∧ (instU s i).st = .active :=
  ⟨wAdm 0x0F13 8 [3] { st := .active }, 1, 3, wAdmCmd 0x0F13 8 [3], by decide⟩
theorem witness_InstPaused : ∃ (s : State) (id i : Nat) (c : Cmd), cmdReady s id c ∧ i = pTarget c.pkt ∧
    (fltU s .kvt 0).armed = false ∧ cmdOp c = .adm 0x0F13 ∧ (instU s i).st = .paused :=
  ⟨wAdm 0x0F13 8 [3] { st := .paused }, 1, 3, wAdmCmd 0x0F13 8 [3], by decide⟩
theorem witness_InstResume : ∃ (s : State) (id i : Nat) (c : Cmd), cmdReady s id c ∧ i = pTarget c.pkt ∧
    (fltU s .kvt 0).armed = false ∧ cmdOp c = .adm 0x0F14 ∧ (instU s i).st = .paused :=
  ⟨wAdm 0x0F14 8 [3] { st := .paused }, 1, 3, wAdmCmd 0x0F14 8 [3], by decide⟩
theorem witness_InstReset : ∃ (s : State) (id i : Nat) (c : Cmd), cmdReady s id c ∧ i = pTarget c.pkt ∧
    (fltU s .kvt 0).armed = false ∧ cmdOp c = .adm 0x0F15 ∧ instOpen s i = true :=
  ⟨wAdm 0x0F15 8 [3] { st := .active }, 1, 3, wAdmCmd 0x0F15 8 [3], by decide⟩
theorem witness_InstMigrateLog : ∃ (s : State) (id i : Nat) (c : Cmd), cmdReady s id c ∧ i = pTarget c.pkt ∧
    (fltU s .kvt 0).armed = false ∧ cmdOp c = .adm 0x0F17 ∧ instOpen s i = true ∧ byteAt c.pkt 41 = 1 :=
  ⟨wAdm 0x0F17 8 [3, 1] { st := .active }, 1, 3, wAdmCmd 0x0F17 8 [3, 1], by decide⟩
theorem witness_ImportPrepare : ∃ (s : State) (id i : Nat) (c : Cmd) (n : Nat), cmdReady s id c ∧ i = pTarget c.pkt ∧
    (fltU s .kvt 0).armed = false ∧ cmdOp c = .adm 0x0F18 ∧ byteAt c.pkt 41 ≠ 1 ∧ prepTake s = some n ∧ drawUnit s ≠ none :=
  ⟨wAdm 0x0F18 4096 [] {}, 1, 0, wAdmCmd 0x0F18 4096 [], 0, by decide⟩
theorem witness_ImportPrepareFree : ∃ (s : State) (id i : Nat) (c : Cmd) (n : Nat), cmdReady s id c ∧ i = pTarget c.pkt ∧
    (fltU s .kvt 0).armed = false ∧ cmdOp c = .adm 0x0F18 ∧ byteAt c.pkt 41 = 1 ∧ n = byteAt c.pkt 42 ∧
    (Tbl.get {} s.bbram.prep n).used = true ∧ (Tbl.get {} s.bbram.prep n).finished = false ∧
    (Tbl.get {} s.bbram.prep n).stDigest = [] :=
  ⟨{ wAdm 0x0F18 8 [0, 1, 2] {} with bbram := { prep := [(2, { used := true })] } }, 1, 0, wAdmCmd 0x0F18 8 [0, 1, 2], 2, by decide⟩
theorem witness_InstExport : ∃ (s : State) (id i : Nat) (c : Cmd) (b : Bytes) (s1 : State), cmdReady s id c ∧
    i = pTarget c.pkt ∧ (fltU s .kvt 0).armed = false ∧ cmdOp c = .adm 0x0F19 ∧ (fltU s .mem 0).armed = false ∧ s.mem.poison = [] ∧ readIn c s = some (b, s1) ∧
    (instU s i).st = .paused ∧ drawUnit s ≠ none :=
  ⟨wAdm 0x0F19 8 [3] { st := .paused }, 1, 3, wAdmCmd 0x0F19 8 [3], _, _, by decide, by decide, by decide, by decide, by decide, by decide, rfl,
    by decide, by decide⟩
theorem witness_InstExportActive : ∃ (s : State) (id i : Nat) (c : Cmd) (b : Bytes) (s1 : State), cmdReady s id c ∧
    i = pTarget c.pkt ∧ (fltU s .kvt 0).armed = false ∧ cmdOp c = .adm 0x0F19 ∧ (fltU s .mem 0).armed = false ∧ s.mem.poison = [] ∧ readIn c s = some (b, s1) ∧
    (instU s i).st ≠ .paused :=
  ⟨wAdm 0x0F19 8 [3] { st := .active }, 1, 3, wAdmCmd 0x0F19 8 [3], _, _, by decide, by decide, by decide, by decide, by decide, by decide, rfl,
    by decide⟩
theorem witness_InstExportPaused : ∃ (s : State) (id i : Nat) (c : Cmd) (b : Bytes) (s1 : State), cmdReady s id c ∧
    i = pTarget c.pkt ∧ (fltU s .kvt 0).armed = false ∧ cmdOp c = .adm 0x0F19 ∧ (fltU s .mem 0).armed = false ∧ s.mem.poison = [] ∧ readIn c s = some (b, s1) ∧
    (instU s i).st = .paused ∧ s.bbram.badRecs = [] ∧ detachedOf s i = 0 ∧ pendingIn s i = false ∧ drawUnit s ≠ none :=
  ⟨wAdm 0x0F19 8 [3] { st := .paused }, 1, 3, wAdmCmd 0x0F19 8 [3], _, _, by decide, by decide, by decide, by decide, by decide, by decide, rfl,
    by decide⟩
theorem witness_InstImport : ∃ (s : State) (id i : Nat) (c : Cmd) (b : Bytes) (s1 : State), cmdReady s id c ∧
    i = pTarget c.pkt ∧ (fltU s .kvt 0).armed = false ∧ cmdOp c = .adm 0x0F1A ∧ (fltU s .mem 0).armed = false ∧ s.mem.poison = [] ∧ readIn c s = some (b, s1) :=
  ⟨wAdm 0x0F1A 8 [3] {}, 1, 3, wAdmCmd 0x0F1A 8 [3], _, _, by decide, by decide, by decide, by decide, by decide, by decide, rfl⟩

theorem witness_LcBusy : ∃ (s : State) (id : Nat) (c : Cmd), cmdReady s id c ∧ (∀ n, n < 64 → (fltU s .hub n).armed = false) ∧
    cmdOp c = .adm 0x0F20 ∧ lcBusy s = true :=
  ⟨{ wAdm 0x0F20 0 [4] {} with lcs := { burning := some (1, 0) } }, 1, wAdmCmd 0x0F20 0 [4], by decide⟩
theorem witness_LcWrongTarget : ∃ (s : State) (id : Nat) (c : Cmd), cmdReady s id c ∧
    (∀ n, n < 64 → (fltU s .hub n).armed = false) ∧ lcBusy s = false ∧ cmdOp c = .adm 0x0F20 ∧
    lcInput s.lcs.st (byteAt c.pkt 40) s.bbram.ownDigest.isSome = none :=
  ⟨wAdm 0x0F20 0 [4] {}, 1, wAdmCmd 0x0F20 0 [4], by decide⟩
theorem witness_LcAdvance : ∃ (s : State) (id : Nat) (c : Cmd) (b : Bytes) (s1 : State), cmdReady s id c ∧
    (∀ n, n < 64 → (fltU s .hub n).armed = false) ∧ lcBusy s = false ∧ cmdOp c = .adm 0x0F20 ∧
    lcInput s.lcs.st (byteAt c.pkt 40) s.bbram.ownDigest.isSome ≠ none ∧ readIn c s = some (b, s1) ∧ byteAt c.pkt 40 ≠ 3 :=
  ⟨wAdm 0x0F20 0 [1] {}, 1, wAdmCmd 0x0F20 0 [1], _, _, by decide, by decide, by decide, by decide, by decide, rfl, by decide⟩
theorem witness_Unlock : ∃ (s : State) (id : Nat) (c : Cmd) (b : Bytes) (s1 : State), cmdReady s id c ∧
    (∀ n, n < 64 → (fltU s .hub n).armed = false) ∧ lcBusy s = false ∧ cmdOp c = .adm 0x0F21 ∧ s.bbram.lockFlag = true ∧
    readIn c s = some (b, s1) :=
  ⟨{ wAdm 0x0F21 0 [] {} with bbram := { lockFlag := true } }, 1, wAdmCmd 0x0F21 0 [], _, _, by decide, by decide, by decide,
    by decide, by decide, rfl⟩
theorem witness_UnlockUnlocked : ∃ (s : State) (id : Nat) (c : Cmd), cmdReady s id c ∧
    (∀ n, n < 64 → (fltU s .hub n).armed = false) ∧ lcBusy s = false ∧ cmdOp c = .adm 0x0F21 ∧ s.bbram.lockFlag = false :=
  ⟨wAdm 0x0F21 0 [] {}, 1, wAdmCmd 0x0F21 0 [], by decide⟩
theorem witness_Zeroize : ∃ (s : State) (id : Nat) (c : Cmd), cmdReady s id c ∧
    (∀ n, n < 64 → (fltU s .hub n).armed = false) ∧ lcBusy s = false ∧ cmdOp c = .adm 0x0F22 ∧ mayLock s.pwr.mode = true :=
  ⟨wAdm 0x0F22 0 [] {}, 1, wAdmCmd 0x0F22 0 [], by decide⟩
theorem witness_Reprovision : ∃ (s : State) (id : Nat) (c : Cmd) (b : Bytes) (s1 : State), cmdReady s id c ∧
    (∀ n, n < 64 → (fltU s .hub n).armed = false) ∧ lcBusy s = false ∧ cmdOp c = .adm 0x0F23 ∧ readIn c s = some (b, s1) :=
  ⟨wAdm 0x0F23 0 [] {}, 1, wAdmCmd 0x0F23 0 [], _, _, by decide, by decide, by decide, by decide, rfl⟩
theorem witness_BundleStage : ∃ (s : State) (id : Nat) (c : Cmd) (b : Bytes) (s1 : State), cmdReady s id c ∧
    (∀ n, n < 64 → (fltU s .hub n).armed = false) ∧ cmdOp c = .adm 0x0F30 ∧ readIn c s = some (b, s1) :=
  ⟨wAdm 0x0F30 16 [] {}, 1, wAdmCmd 0x0F30 16 [], _, _, by decide, by decide, by decide, rfl⟩
theorem witness_ExtLoad : ∃ (s : State) (id : Nat) (c : Cmd) (b : Bytes) (s1 : State), cmdReady s id c ∧
    (∀ n, n < 64 → (fltU s .hub n).armed = false) ∧ cmdOp c = .adm 0x0F40 ∧ readIn c s = some (b, s1) :=
  ⟨wAdm 0x0F40 0 [] {}, 1, wAdmCmd 0x0F40 0 [], _, _, by decide, by decide, by decide, rfl⟩
theorem witness_ExtUnload : ∃ (s : State) (id : Nat) (c : Cmd), cmdReady s id c ∧
    (∀ n, n < 64 → (fltU s .hub n).armed = false) ∧ cmdOp c = .adm 0x0F41 :=
  ⟨wAdm 0x0F41 0 [] {}, 1, wAdmCmd 0x0F41 0 [], by decide⟩
theorem witness_ExtensionCommand : ∃ (s : State) (id : Nat) (c : Cmd) (o n : Nat) (d : ExtDecl), cmdReady s id c ∧
    (∀ n, n < 64 → (fltU s .hub n).armed = false) ∧ n < 16 ∧ cmdOp c = .ext o ∧ c.core = some n ∧
    extRunning s (pOp c.pkt) (cmdInst c) = some d ∧ (coreU s n).st = .vendor :=
  ⟨{ wAdm 0x8000 0 [] {} with
      hif := { cmds := [{ wAdmCmd 0x8000 0 [] with core := some 2 }] }
      seq := { exts := [{ insts := [0] }], core := [(2, { st := .vendor })] } }, 1, { wAdmCmd 0x8000 0 [] with core := some 2 },
    0x8000, 2, { insts := [0] }, by decide⟩

/-- A state in mode SERVICE with digest engine 0 and check-value unit 0 as given. -/
def wUnits (d : Dge) (c : Cvu) : State :=
  { State.reset with
    pwr := { State.reset.pwr with mode := .service }
    dge := [(0, d)], cvu := [(0, c)], hif := { inst := [(0, { dgeSlots := 16, cvuSlots := 8 })], reach := true } }
theorem witness_DgeRegisters : ∃ (s : State) (src : Src) (u : Fin 16), regsAnswer s src ∧ (dgeU s u).owner = srcOwner src ∧
    (dgeU s u).st = .owned ∧ (dgeU s u).source = false :=
  ⟨wUnits { owner := .manager, st := .owned } {}, .host 0, 0, by decide⟩
theorem witness_DgeClaim : ∃ (s : State) (src : Src) (u : Fin 16), regsAnswer s src ∧ srcOwner src = .manager ∧
    dgeFree s u = true ∧ dgeHeld s 0 < (instU s 0).dgeSlots := ⟨wUnits {} {}, .host 0, 0, by decide⟩
theorem witness_DgeForeign : ∃ (s : State) (src : Src) (u : Fin 16), regsAnswer s src ∧ (dgeU s u).owner ≠ srcOwner src :=
  ⟨wUnits { owner := .core 2, st := .owned } {}, .host 0, 0, by decide⟩
theorem witness_DgeMessage : ∃ (s : State) (src : Src) (u : Fin 16), regsAnswer s src ∧ (dgeU s u).owner = srcOwner src ∧
    srcOwner src = .manager ∧ (dgeU s u).st = .absorbing ∧ (dgeU s u).source = false ∧
    (dgeU s u).count + 7 = (dgeU s u).len := ⟨wUnits { owner := .manager, st := .absorbing, len := 7 } {}, .host 0, 0, by decide⟩
theorem witness_DgeKeyfeed : ∃ (s : State) (u k : Fin 16) (v : Word) (kr : KeyReg) (id : Nat), regsAnswer s (.core k) ∧
    (dgeU s u).owner = .core k ∧ (dgeU s u).keyed = true ∧ flag v 6 = true ∧ (dgeU s u).st ≠ .absorbing ∧
    (dgeU s u).st ≠ .finishing ∧ (fltU s .dge u).armed = false ∧ (eng s (fld v 0 6)).key = some kr ∧
    (eng s (fld v 0 6)).cmd = some id ∧ (coreU s k).cmd = some id :=
  ⟨setEng 5 { cmd := some 1, key := some {} } (setCore 2 { cmd := some 1 } (wUnits { owner := .core 2, st := .owned, keyed := true } {})),
    0, 2, 0x45, {}, 1, by decide, by decide, by decide, by decide, by decide, by decide, by decide, rfl, by decide, by decide⟩
theorem witness_DgeTimeout : ∃ (s : State) (u : Fin 16), (dgeU s u).st = .absorbing ∧ (dgeU s u).source = false ∧
    (dgeU s u).owner = .manager := ⟨wUnits { owner := .manager, st := .absorbing } {}, 0, by decide⟩
theorem witness_DgeFinish : ∃ (s : State) (u : Fin 16), (dgeU s u).st = .finishing ∧ (dgeU s u).compare = false ∧
    (dgeU s u).source = false ∧ ((dgeU s u).offloaded = true → (dgeU s u).total ≤ (dgeU s u).done) :=
  ⟨wUnits { st := .finishing } {}, 0, by decide⟩
theorem witness_DgeFinishWaits : ∃ (s : State) (u : Fin 16), (dgeU s u).st = .finishing ∧ (dgeU s u).offloaded = true ∧
    (dgeU s u).done < (dgeU s u).total := ⟨wUnits { st := .finishing, offloaded := true, total := 65 } {}, 0, by decide⟩
theorem witness_DgeCompare : ∃ (s : State) (u : Fin 16), (dgeU s u).st = .finishing ∧ (dgeU s u).compare = true :=
  ⟨wUnits { st := .finishing, compare := true } {}, 0, by decide⟩
theorem witness_DgeDma : ∃ (s : State) (u : Fin 16), (dgeU s u).st = .finishing ∧ (dgeU s u).compare = false ∧
    (dgeU s u).source = true ∧ (instU s (dgeU s u).inst).logging = false ∧
    hostOk s (dgeU s u).inst (dgeU s u).dmaOut.toNat (dgeValue (dgeU s u)).length = true :=
  have h : ∀ d : Dge, d.keyed = true → d.key = some [] → d.alg = 1 → d.outlen = 16 → (dgeValue d).length ≤ 16 := by
    intro d h1 h2 h3 h4
    simp [dgeValue, h1, h2, h3, keyedDigest, dgeOutLen, h4]
  ⟨wUnits { st := .finishing, source := true, keyed := true, alg := 1, key := some [], outlen := 16 } {}, 0, by decide, by decide,
    by decide, by decide, hostOk_free _ _ _ _ rfl rfl (Nat.le_trans (Nat.add_le_add_left (h _ rfl rfl rfl rfl) _) (by decide))⟩

theorem witness_CvuRegisters : ∃ (s : State) (src : Src) (u : Fin 8), regsAnswer s src ∧ (cvuU s u).owner = srcOwner src ∧
    (cvuU s u).st = .owned ∧ cvuCfgOk (cvuU s u) = true :=
  ⟨wUnits {} { owner := .manager, st := .owned, len := 9 }, .host 0, 0, by decide⟩
theorem witness_CvuClaim : ∃ (s : State) (src : Src) (u : Fin 8), regsAnswer s src ∧ srcOwner src = .manager ∧
    cvuFree s u = true ∧ cvuHeld s 0 < (instU s 0).cvuSlots ∧ (cvuU s u).owner ≠ srcOwner src :=
  ⟨wUnits {} {}, .host 0, 0, by decide⟩
theorem witness_CvuRunning : ∃ (s : State) (src : Src) (u : Fin 8) (done : Nat), regsAnswer s src ∧
    (cvuU s u).owner = srcOwner src ∧ (cvuU s u).st = .running ∧ (cvuU s u).source = 0 ∧ (cvuU s u).stopReq = true ∧
    done % 64 = 0 ∧ (cvuU s u).bytes ≤ done ∧ done < (cvuU s u).len ∧
    hostOk s (cvuU s u).inst ((cvuU s u).addr.toNat + (cvuU s u).bytes) (done - (cvuU s u).bytes) = true ∧
    hostOk s (cvuU s u).inst ((cvuU s u).addr.toNat + (cvuU s u).bytes) ((cvuU s u).len - (cvuU s u).bytes) = true :=
  ⟨wUnits {} { owner := .manager, st := .running, len := 65, stopReq := true }, .host 0, 0, 64, by decide⟩
theorem witness_CvuDmaError : ∃ (s : State) (u : Fin 8), (cvuU s u).st = .running ∧ (cvuU s u).source = 0 ∧
    hostOk s (cvuU s u).inst ((cvuU s u).addr.toNat + (cvuU s u).bytes) ((cvuU s u).len - (cvuU s u).bytes) = false ∧
    (cvuU s u).owner = .manager ∧ (cvuU s u).cmd = none :=
  ⟨{ wUnits {} { owner := .manager, st := .running, len := 9 } with host := { noMaster := [0] } }, 0, by decide⟩
theorem witness_CvuPannier : ∃ (s : State) (u : Fin 8), (cvuU s u).st = .running ∧ (cvuU s u).source = 1 ∧ regionReady s 0 = true ∧
    (fltU s .mem 0).armed = false ∧ s.mem.poison = [] ∧
    (cvuU s u).addr.toNat + (cvuU s u).len ≤ (pagesOfInst s (cvuU s u).inst).length * 0x100000 ∧
    (cvuU s u).bytes ≤ (cvuU s u).len :=
  ⟨{ wUnits {} { owner := .manager, st := .running, source := 1, len := 9 } with mem := { initDone := 0x7F, pannierPages := [(3, 1)] } }, 0, by decide⟩
theorem witness_CvScan : ∃ (s : State) (id : Nat) (c : Cmd), cmdReady s id c ∧ cmdOp c = .cv ∧
    (byteAt c.pkt 41).testBit 0 = false ∧ hostOk s (cvuU s c.unit).inst (pInA c.pkt) (pInL c.pkt) = true ∧
    canAccess s c (pOutA c.pkt) 16 ∧ (byteAt c.pkt 41).testBit 1 = false :=
  ⟨wRunning (wPkt 0x0701 9 16 []) .cvu, 1, wCmd (wPkt 0x0701 9 16 []) .cvu, by decide⟩
theorem witness_CvCompare : ∃ (s : State) (id : Nat) (c : Cmd), cmdReady s id c ∧ cmdOp c = .cv ∧
    (byteAt c.pkt 41).testBit 0 = false ∧ hostOk s (cvuU s c.unit).inst (pInA c.pkt) (pInL c.pkt) = true ∧ c.port ≠ 256 ∧
    hostOk s c.port (pOutA c.pkt) 8 = true ∧ (byteAt c.pkt 41).testBit 1 = true :=
  ⟨wRunning (wPkt 0x0701 9 0 [0, 2]) .cvu, 1, wCmd (wPkt 0x0701 9 0 [0, 2]) .cvu, by decide⟩
theorem witness_CvDmaError : ∃ (s : State) (id : Nat) (c : Cmd), cmdReady s id c ∧ cmdOp c = .cv ∧
    (byteAt c.pkt 41).testBit 0 = false ∧ hostOk s (cvuU s c.unit).inst (pInA c.pkt) (pInL c.pkt) = false :=
  ⟨{ wRunning (wPkt 0x0701 9 0 []) .cvu with host := { noMaster := [0] } }, 1, wCmd (wPkt 0x0701 9 0 []) .cvu, by decide⟩

theorem witness_OfflineReq : ∃ s : State, fltOpen s.pwr.mode = true ∧ s.pwr.mode ≠ .boot := ⟨wUnits {} {}, by decide⟩
theorem witness_GroupGate : ∃ (s : State) (g : Fin 16), s.pwr.mode = .service ∧ allFailed s = false ∧ s.drl.idleGate ≠ 0 ∧ g.val ∈ s.pwr.groups ∧
    ∀ i, i < 4 → engIdle (eng s (4 * g.val + i)) = true :=
  ⟨{ State.reset with pwr := { mode := .service, groups := [3] }, drl := { idleGate := 5 } }, 3, by decide⟩
theorem witness_GroupWake : ∃ (s : State) (g : Fin 16), s.pwr.mode = .service ∧ groupDemand s = true ∧ g.val ∉ s.pwr.groups ∧
    canSeed s = true ∧ pRes s + 50 ≤ capNow s ∧ (fltU s .mem 0).armed = false ∧ ∀ i, i < 4 → (fltU s .hub (4 * g.val + i)).armed = false :=
  ⟨{ wWaiting with
      hif := { wWaiting.hif with cmds := [{ id := 0, pkt := leBytes 2 0x0120 ++ zeros 26 ++ leBytes 4 32 ++ zeros 32 }] } }, 0,
    by decide +kernel⟩
theorem witness_BlockResetEnd : ∃ (s : State) (e : Fin 64) (n : Nat), (eng s e).inReset = true ∧
    (coreU s n).st = .blockReset ∧ (dgeU s n).inReset = true ∧ (cvuU s n).inReset = true :=
  ⟨setEng 9 { inReset := true } (setCore 2 { st := .blockReset } (setDge 2 { inReset := true } (setCvu 2 { inReset := true } {}))),
    9, 2, by decide⟩
theorem witness_MgReseed : ∃ (s : State) (e : Fin 64), (eng s e).powered = true ∧ (eng s e).mg.seeded = true ∧
    (eng s e).mg.reseedReq = false := ⟨setEng 9 { powered := true, mg := { seeded := true } } {}, 9, by decide⟩
theorem witness_MgHalt : ∃ (s : State) (e : Fin 64), (eng s e).powered = true ∧ (eng s e).mg.reseedReq = true ∧
    (eng s e).mg.halted = false ∧ (eng s e).lend = false ∧ (eng s e).reservedBy = none ∧ (eng s e).cmd = none :=
  ⟨setEng 9 { powered := true, mg := { reseedReq := true } } {}, 9, by decide⟩
theorem witness_MgHaltCmd : ∃ (s : State) (e : Fin 64) (id : Nat) (c : Cmd), (eng s e).powered = true ∧
    (eng s e).mg.reseedReq = true ∧ (eng s e).mg.halted = false ∧ (eng s e).lend = false ∧ (eng s e).reservedBy = none ∧
    (eng s e).cmd = some id ∧ cmdU s id = some c ∧ 0 < c.order :=
  ⟨setEng 9 { powered := true, cmd := some 1, mg := { reseedReq := true } } { hif := { cmds := [{ id := 1, order := 1 }] } }, 9, 1,
    { id := 1, order := 1 }, by decide⟩
theorem witness_OfflineReserved : ∃ (s : State) (e : Fin 64), fltOpen s.pwr.mode = true ∧ s.pwr.mode ≠ .boot ∧
    (eng s e).reservedBy ≠ none ∧ (eng s e).busy = false := ⟨setEng 9 { reservedBy := some 1 } (wUnits {} {}), 9, by decide⟩
theorem witness_MgSeedArrival : ∃ (s : State) (e : Fin 64), e.val ∈ s.ent.seedFly := ⟨{ ent := { seedFly := [9] } }, 9, by decide⟩
theorem witness_HashJob : ∃ (s : State) (g : Fin 16) (core : Fin 32) (j : HashJob), Tbl.get none (hsaU s g).run core = some j ∧ j.who < 4 :=
  ⟨{ hsa := [(1, { run := [(5, some { who := 0, ctx := 0 })] })] }, 1, 5, { who := 0, ctx := 0 }, by decide⟩
theorem witness_HashJobStalls : ∃ (s : State) (g : Fin 16) (core : Fin 32) (j : HashJob),
    Tbl.get none (hsaU s g).run core = some j ∧ jobStalls s g j = true :=
  ⟨setEng 4 { mg := { halted := true } } { hsa := [(1, { run := [(5, some { who := 0, ctx := 0, order := 1 })] })] }, 1, 5,
    { who := 0, ctx := 0, order := 1 }, by decide⟩

/-- A state in mode SERVICE with a memory as given. -/
def wMem (m : Mem) : State := { wUnits {} {} with mem := m }
theorem witness_Scrub : ∃ (s : State) (line : Nat), line = s.mem.scrubPos ∧ line < 2 ^ 31 ∧ s.mem.scrubEn = true ∧
    s.mem.keys = true ∧ s.pwr.mode = .service ∧ regionReady s (regionOf (line * 64)) = true ∧ (fltU s .mem 0).armed = false ∧
    line ∉ s.mem.poison ∧ regionClass (regionOf (line * 64)) = 1 ∧ s.mem.poison.length < 4096 :=
  ⟨wMem { keys := true, scrubEn := true, initDone := 127 }, 0, by decide⟩
/-- The scrub stands at the first line of engine 0's WORK window, which has been written. -/
def wLine : State :=
  { setEng 0 { lines := [(0, true)] } (wMem { keys := true, keyVal := zeros 96, scrubEn := true, initDone := 127, scrubPos := 0x7C000000 }) with free := 0 }
theorem witness_ScrubClean : ∃ (s : State) (line : Nat), line = s.mem.scrubPos ∧ lineSeen s line [] = .clean :=
  ⟨wLine, 0x7C000000, by decide, lineOutcome_clean _ _ _ (by decide +kernel) (by decide +kernel)⟩
theorem witness_ScrubCorrected : ∃ (s : State) (line : Nat) (errs : List CellErr), line = s.mem.scrubPos ∧
    lineSeen s line errs = .corrected :=
  ⟨wLine, 0x7C000000, [⟨1, 35, 0x80⟩], by decide,
    lineOutcome_one _ _ _ 35 0x80 (by decide +kernel) (by decide +kernel) (by decide) (by decide +kernel)⟩
theorem witness_ScrubBad : ∃ (s : State) (line : Nat) (errs : List CellErr), line = s.mem.scrubPos ∧
    lineSeen s line errs = .badEcc :=
  ⟨wLine, 0x7C000000, [⟨0, 3, 1⟩, ⟨0, 38, 0xFF⟩], by decide,
    lineOutcome_two _ _ _ 3 38 1 0xFF (by decide +kernel) (by decide +kernel) (by decide) (by decide +kernel)⟩
theorem witness_ScrubOff : ∃ s : State, s.mem.scrubEn = false ∧ s.mem.copying = none :=
  ⟨wMem { scrubEn := false }, by decide⟩
theorem witness_Sparing : ∃ (s : State) (c : Sparing), s.mem.copying = some c := ⟨wMem { copying := some ⟨3, 0⟩ }, ⟨3, 0⟩, rfl⟩
theorem witness_MemKeys : ∃ s : State, s.pwr.mode = .boot ∧ s.mem.keys = false ∧ s.glb.memDrawn = false ∧
    s.pwr.dramRails = true ∧ s.pwr.fabLock = true ∧ entReady s = true ∧ 96 ≤ s.ent.fifo.length :=
  ⟨{ State.reset with
      pwr := { mode := .boot, dramRails := true, fabLock := true }
      ent := { drbg := [(0, { inst := true })], fifo := List.replicate 96 5 } }, by decide +kernel⟩
theorem witness_StoreNotReady : ∃ (s : State) (id : Nat) (c : Cmd), cmdU s id = some c ∧ storeReady s c = false :=
  ⟨{ wRunning (wPkt 0x0501 0 0 []) .hub with mem := {} }, 1, wCmd (wPkt 0x0501 0 0 []) .hub, by decide⟩
theorem witness_CounterWrap : ∃ (s : State) (b : Bank) (unit k : Nat), (cntU s b unit k).val = 2 ^ 48 - 1 ∧
    (cntU s b unit k).en = true ∧ cntLive s b unit k = true ∧ (cntU s b unit k).ovfInt = false ∧ k < bankSize b ∧
    (cntU s b unit k).chain = true ∧ mayChain b k = true ∧ (cntU s b unit (k + 1)).en = true ∧
    cntLive s b unit (k + 1) = true ∧ (cntU s b unit (k + 1)).val < 2 ^ 48 - 1 ∧ unit < 256 ∧ k < 15 :=
  ⟨setCnt .seq 2 0 { val := 2 ^ 48 - 1, en := true, chain := true } (setCnt .seq 2 1 { en := true } {}), .seq, 2, 0, by decide +kernel⟩
theorem witness_CounterAlone : ∃ (s : State) (b : Bank) (unit k : Nat), (cntU s b unit k).val = 2 ^ 48 - 1 ∧
    (cntU s b unit k).en = true ∧ cntLive s b unit k = true ∧ (cntU s b unit k).ovfInt = false ∧ k < bankSize b ∧
    (cntU s b unit k).chain = false :=
  ⟨setCnt .seq 2 7 { val := 2 ^ 48 - 1, en := true } {}, .seq, 2, 7, by decide +kernel⟩
theorem witness_RegisterWrite : ∃ (s : State) (src : Src), regsAnswer s src ∧ ∀ fn : Fin 256, fn ≠ 0 → src ≠ .host fn :=
  ⟨wUnits {} {}, .core 3, by decide, fun _ _ h => nomatch h⟩
theorem witness_VirtualFunctionWrite : ∃ (s : State) (fn : Fin 256), s.pwr.mode ≠ .freewheel ∧ fn ≠ 0 := ⟨wUnits {} {}, 1, by decide⟩

/-- A state in mode SERVICE with the entropy source as given. -/
def wEnt (e : Ent) : State := { wUnits {} {} with ent := e }
theorem witness_HealthTestFail : ∃ (s : State) (x : Fin 8) (n : Nat) (l : List Nat), s.ent.running = true ∧
    (srcU s x).st = .active ∧ mayFail s x true = true ∧ (srcsIn s .active).length ≤ 2 ∧ srcsIn s .spare = n :: l :=
  ⟨wEnt { running := true, src := [(0, { st := .active }), (1, { st := .active }), (2, { st := .spare })] }, 0, 2, [], by decide⟩
theorem witness_NoSpare : ∃ (s : State) (x : Fin 8), s.ent.running = true ∧ (srcU s x).st = .active ∧
    mayFail s x false = true ∧ srcsIn s .spare = [] :=
  ⟨wEnt { running := true, src := [(0, { st := .active }), (1, { st := .active })] }, 0, by decide⟩
/-- Eight sources in one state. -/
def wSources (x : SrcState) : Tbl Source := (List.range 8).map (fun n => (n, { st := x, retest := true }))
theorem witness_Startup : ∃ s : State, s.ent.running = true ∧ s.ent.startupDone = false ∧ s.ent.testActive = false ∧
    ∀ n, n < 8 → (srcU s n).st = .testing := ⟨wEnt { running := true, src := wSources .testing }, by decide⟩
theorem witness_FirstBlocks : ∃ s t : State, s.ent.startupDone = true ∧ allFailed s = false ∧ s.ent.testActive = false ∧
    (∀ n, n < 64 → drbgWants s n = true) ∧ (drbgU s 0).inst = false ∧ s.ent.firstPart = 0 ∧ allFailed t = false ∧ t.ent.firstPart ≠ 0 :=
  ⟨wEnt { startupDone := true, src := wSources .active }, wEnt { startupDone := true, src := wSources .active, firstPart := 1 },
    by decide +kernel⟩
theorem witness_BlockOrder : ∃ (s t u : State) (k : Nat), s.ent.startupDone = true ∧ allFailed s = false ∧
    s.ent.testActive = false ∧ k < 64 ∧ drbgWants s k = false ∧ s.ent.seedQ = [3] ∧ t.ent.seedQ = [] ∧ t.ent.reserve < 64 ∧
    u.ent.seedQ = [] ∧ 64 ≤ u.ent.reserve ∧ u.ent.prQ = [7] ∧ drbgWants u k = false :=
  ⟨wEnt { startupDone := true, src := wSources .active, drbg := [(0, { inst := true })], seedQ := [3] },
    wEnt { startupDone := true, src := wSources .active, drbg := [(0, { inst := true })] },
    wEnt { startupDone := true, src := wSources .active, drbg := [(0, { inst := true })], reserve := 64, prQ := [7] }, 0, by decide⟩
theorem witness_ReseedBlock : ∃ (s : State) (n : Nat), s.ent.startupDone = true ∧ allFailed s = false ∧ s.ent.testActive = false ∧
    s.ent.seedQ = [] ∧ 64 ≤ s.ent.reserve ∧ s.ent.prQ = [] ∧ (∀ m, m < 64 → drbgWants s m = false) ∧ n < 64 ∧
    (drbgU s n).reseedDue = true ∧ ∀ m, m < n → (drbgU s m).reseedDue = false :=
  ⟨wEnt { startupDone := true, src := wSources .active, reserve := 64, drbg :=
    (List.range 64).map (fun n => (n, { inst := true, reseedDue := decide (n = 2) })) }, 2, by decide +kernel⟩
theorem witness_NoBlock : ∃ s : State, s.ent.startupDone = true ∧ allFailed s = true :=
  ⟨wEnt { startupDone := true, src := wSources .failed }, by decide⟩
theorem witness_QueueFill : ∃ (s : State) (n : Fin 64), s.ent.queueOn = true ∧ drawUnit s = some n.val ∧ s.ent.fifo.length < 256 ∧
    s.ent.queue.length < 65536 ∧ (drbgU s n).inst = true := ⟨wEnt { queueOn := true, drbg := [(0, { inst := true })] }, 0, by decide +kernel⟩
theorem witness_Retest : ∃ (s : State) (src : Src), regsAnswer s src ∧ s.ent.testActive = false ∧ s.ent.running = true ∧
    s.ent.retesting = false ∧ srcsIn s .failed ≠ [] := ⟨wEnt { running := true, src := wSources .failed }, .debug, by decide⟩
theorem witness_RetestEnd : ∃ (s : State) (n : Nat), s.ent.retesting = true ∧ n < 8 ∧ (srcU s n).st = .testing ∧
    (srcU s n).retest = true ∧ mayFail s n true = true := ⟨wEnt { retesting := true, src := wSources .testing }, 0, by decide⟩
theorem witness_EntTest : ∃ (s : State) (src : Src), regsAnswer s src ∧ s.pwr.mode = .test :=
  ⟨{ wEnt {} with pwr := { mode := .test } }, .debug, by decide⟩
theorem witness_EntTestDenied : ∃ (s : State) (src : Src), regsAnswer s src ∧ s.pwr.mode ≠ .test ∧ (s.ent.retesting = true ∨
    srcsIn s .failed = []) := ⟨wEnt {}, .debug, by decide⟩
theorem witness_EntWait : ∃ (s : State) (id : Nat) (c : Cmd), cmdU s id = some c ∧ c.phase = .running ∧ drawUnit s = none :=
  ⟨wRunning [] .hub, 1, wCmd [] .hub, by decide +kernel⟩

/-- A state in mode SERVICE with a fault-register set of engine 9 as given. -/
def wFlt (f : FltSet) : State := setFlt .hub 9 f (wUnits {} {})
theorem witness_InjectArm : ∃ (s : State) (src : Src) (b : Blk) (unit : Nat) (v : Word), s.pwr.mode ≠ .freewheel ∧
    fltHere s src b unit = true ∧ (fltU s b unit).pending = false ∧ flag v 17 = true ∧ flag v 19 = false ∧
    (fltU s b unit).armed = false ∧ fld v 8 8 ≠ 0 ∧ armMode s.pwr.mode (injectable b (fld v 0 8)) = true :=
  ⟨wFlt {}, .host 0, .hub, 9, 0x20100, by decide⟩
theorem witness_InjectDisarm : ∃ (s : State) (src : Src) (b : Blk) (unit : Nat) (v : Word), s.pwr.mode ≠ .freewheel ∧
    fltHere s src b unit = true ∧ (fltU s b unit).pending = false ∧ flag v 19 = true ∧ flag v 17 = false :=
  ⟨wFlt { armed := true }, .host 0, .hub, 9, 0x80000, by decide⟩
theorem witness_AckOtherSeq : ∃ (s : State) (src : Src) (b : Blk) (unit : Nat) (v : Word), s.pwr.mode ≠ .freewheel ∧
    fltHere s src b unit = true ∧ fld v 8 8 ≠ (fltU s b unit).seq := ⟨wFlt { seq := 1 }, .host 0, .hub, 9, 1, by decide⟩
theorem witness_AckHandled : ∃ (s : State) (src : Src) (b : Blk) (unit : Nat) (v : Word), s.pwr.mode ≠ .freewheel ∧
    fltHere s src b unit = true ∧ fld v 8 8 = (fltU s b unit).seq ∧ fld v 0 2 = 1 ∧ b = .hub ∧ 0 ∈ (fltU s b unit).held :=
  ⟨wFlt { seq := 1, held := [0] }, .host 0, .hub, 9, 0x101, by decide⟩
theorem witness_AckKeep : ∃ (s : State) (src : Src) (b : Blk) (unit : Nat) (v : Word), s.pwr.mode ≠ .freewheel ∧
    fltHere s src b unit = true ∧ fld v 8 8 = (fltU s b unit).seq ∧ fld v 0 2 = 2 ∧ b = .hub ∧
    ∃ x ∈ (fltU s b unit).pend, x.2.1 = 0 := ⟨wFlt { seq := 1, pend := [(1, 0, true)] }, .host 0, .hub, 9, 0x102, by decide⟩
theorem witness_AckEscalate : ∃ (s : State) (src : Src) (b : Blk) (unit : Nat) (v : Word), s.pwr.mode ≠ .freewheel ∧
    fltHere s src b unit = true ∧ fld v 8 8 = (fltU s b unit).seq ∧ fld v 0 2 = 3 ∧ (fltU s b unit).pending = true :=
  ⟨wFlt { seq := 1, pending := true }, .host 0, .hub, 9, 0x103, by decide⟩
theorem witness_NoAction : ∃ (s : State) (b : Blk) (unit : Nat), (fltU s b unit).pending = true ∧
    ∀ x ∈ (fltU s b unit).pend, x.2.2 = true → classAction (fltU s b unit) x.1 = 0 :=
  ⟨wFlt { pending := true, pend := [(1, 0, true)] }, .hub, 9, by decide⟩
theorem witness_HoldAction : ∃ (s : State) (b : Blk) (unit : Nat), (fltU s b unit).pending = true ∧ b = .hub ∧
    (∀ x ∈ (fltU s b unit).pend, x.2.2 = true → classAction (fltU s b unit) x.1 ≤ 1) ∧
    ∃ x ∈ (fltU s b unit).pend, x.2.2 = true ∧ classAction (fltU s b unit) x.1 = 1 ∧ x.2.1 = 0 :=
  ⟨wFlt { pending := true, pend := [(2, 0, true)] }, .hub, 9, by decide⟩
theorem witness_LockAction : ∃ (s : State) (b : Blk) (unit : Nat), (fltU s b unit).pending = true ∧ mayLock s.pwr.mode = true ∧
    (∀ x ∈ (fltU s b unit).pend, x.2.2 = true → classAction (fltU s b unit) x.1 ≤ 2) ∧
    ∃ x ∈ (fltU s b unit).pend, x.2.2 = true ∧ classAction (fltU s b unit) x.1 = 2 :=
  ⟨wFlt { pending := true, pend := [(1, 0, true)], actContained := 2 }, .hub, 9, by decide⟩
theorem witness_GlbChecker : ∃ s : State, fltOpen s.pwr.mode = true ∧ (fltU s .glb 0).armed = false ∧ mayLock s.pwr.mode = true :=
  ⟨wUnits {} {}, by decide⟩
theorem witness_CvuChecker : ∃ (s : State) (unit : Nat), unit < 8 ∧ fltOpen s.pwr.mode = true ∧ (fltU s .cvu unit).armed = false ∧
    (cvuU s unit).owner ≠ .none ∧ (cvuU s unit).cmd = none := ⟨wUnits {} { owner := .manager }, 0, by decide⟩
theorem witness_NoContinuousChecker : ∃ (b : Blk) (checker sub : Nat), contChecker b checker sub = none := ⟨.kvt, 0, 0, rfl⟩
/-- A state in mode SERVICE with tamper classes as given. -/
def wTmp (v : Word) : State := { wUnits {} {} with tmp := { classes := v } }
theorem witness_TamperLog : ∃ (s : State) (n : Fin 13), tamperArmed s n = true ∧ n ≠ 2 ∧ n ≠ 3 ∧ tamperClass s n = 0 :=
  ⟨wTmp 0, 4, by decide⟩
theorem witness_TamperErase : ∃ (s : State) (n : Fin 13), tamperArmed s n = true ∧ n ≠ 2 ∧ n ≠ 3 ∧ tamperClass s n = 1 ∧
    mayLock s.pwr.mode = true ∧ s.pwr.mode ≠ .watch := ⟨wTmp 0x100, 4, by decide⟩
theorem witness_TamperLock : ∃ (s : State) (n : Fin 13), tamperArmed s n = true ∧ n ≠ 2 ∧ n ≠ 3 ∧ 2 ≤ tamperClass s n ∧
    mayLock s.pwr.mode = true := ⟨wTmp 0x200, 4, by decide⟩
theorem witness_TamperSlow : ∃ (s : State) (n : Fin 13), tamperArmed s n = true ∧ n = 2 ∧ mayDrain s.pwr.mode = true ∧
    tamperClass s n = 0 := ⟨wTmp 0, 2, by decide⟩
theorem witness_TamperFused : ∃ (s : State) (n : Fin 13), tamperArmed s n = false :=
  ⟨{ wTmp 0 with lcs := { otp := [(20, 16)] } }, 4, by decide⟩
theorem witness_Seal : ∃ (s : State) (src : Src), regsAnswer s src ∧ s.tmp.sealed = false ∧ s.lcs.burning = none ∧
    (s.lcs.st = .maker ∨ s.lcs.st = .integrator) ∧ holdupOk s = true :=
  ⟨{ wTmp 0 with pwr := { mode := .service, holdThr := 0 } }, .host 0, by decide⟩
theorem witness_Sealed : ∃ (s : State) (src : Src), regsAnswer s src ∧ s.tmp.sealed = true :=
  ⟨{ wTmp 0 with tmp := { sealed := true } }, .host 0, by decide⟩
theorem witness_Burn : ∃ (s : State) (n : Nat) (v : Word64), s.lcs.burning = some (n, v) ∧ 4 < n ∧ n ≠ 20 ∧ s.lcs.oblit = false ∧
    s.lcs.burnQ = [] := ⟨{ lcs := { burning := some (19, 1) } }, 19, 1, by decide⟩
theorem witness_BurnFuse : ∃ (s : State) (n : Nat) (v : Word64), s.lcs.burning = some (n, v) ∧ n = 20 ∧ s.lcs.oblit = false :=
  ⟨{ lcs := { burning := some (20, 1) } }, 20, 1, by decide⟩
theorem witness_BbramLoss : ∃ s : State, s.pwr.mode = .watch := ⟨{ pwr := { mode := .watch } }, rfl⟩

theorem witness_Off : ∃ s : State, s.pwr.mode = .off := ⟨{ pwr := { mode := .off } }, rfl⟩
theorem witness_VolatileLoss : ∃ (s : State) (src : Src), s.lcs.burning = none ∧ mayTrim s = false ∧ s.kvt.cuts = [] ∧ s.glb.staging = none ∧ s.pwr.mode ≠ .off ∧ s.pwr.mode ≠ .watch ∧
    fltOpen s.pwr.mode = true ∧ glbOpen src s = true ∧ s.pwr.mode ≠ .freewheel ∧ s.hif.inst ≠ [] := ⟨wUnits {} {}, .host 0, by decide⟩
theorem witness_Watch : ∃ s : State, s.lcs.burning = none ∧ mayTrim s = false ∧ s.kvt.cuts = [] ∧ s.glb.staging = none ∧ s.pwr.mode = .watch := ⟨{ pwr := { mode := .watch } }, by decide⟩
theorem witness_ResetRelease : ∃ s : State, s.pwr.mode = .reset := ⟨State.reset, rfl⟩
theorem witness_PllLock : ∃ s : State, s.pwr.mode = .boot ∧ s.pwr.fabLock = false := ⟨{ pwr := { mode := .boot, fabLock := false } }, by decide⟩
theorem witness_FreewheelEntry : ∃ s : State, s.pwr.mode = .service ∧ s.pwr.fwEn = true ∧ allIdle s = true :=
  ⟨wMem { initDone := 127 }, by decide⟩
theorem witness_Freewheel : ∃ s : State, s.pwr.mode = .freewheel := ⟨{ pwr := { mode := .freewheel } }, rfl⟩
theorem witness_SurgeEnd : ∃ s : State, s.pwr.mode = .surge ∧ s.pwr.windDown = true ∧ pRes s ≤ 100 * s.pwr.capW :=
  ⟨{ pwr := { mode := .surge, windDown := true } }, by decide⟩
theorem witness_TestReq : ∃ (s : State) (src : Src) (v : Word), regsAnswer s src ∧ flag v 1 = true ∧ testOk s = true :=
  ⟨{ wUnits {} {} with lcs := { st := .returned } }, .debug, 2, by decide⟩
theorem witness_TestReqRefused : ∃ (s : State) (src : Src) (v : Word), regsAnswer s src ∧ flag v 1 = true ∧ testOk s = false :=
  ⟨{ wUnits {} {} with lcs := { st := .fielded } }, .debug, 2, by decide⟩
theorem witness_Drain : ∃ s : State, mayDrain s.pwr.mode = true ∧ ∃ c ∈ s.hif.cmds, c.phase = .waiting :=
  ⟨wWaiting, by decide, ⟨_, List.mem_singleton.mpr rfl, rfl⟩⟩
theorem witness_InDrain : ∃ s : State, s.pwr.mode = .drain ∧ s.pwr.drainQuiesced = false ∧ s.pwr.drainRunEnded = false ∧
    leafHeld s = false ∧ s.lcs.burning = none ∧ s.bbram.badRecs = [] ∧ (fltU s .kvt 0).armed = false := ⟨{ pwr := { mode := .drain } }, by decide⟩
theorem witness_DrainTrimmed : ∃ s : State, s.pwr.mode = .drain ∧ s.pwr.drainQuiesced = false ∧ mayTrim s = true ∧
    s.pwr.trimmed = true := ⟨{ pwr := { mode := .drain, trimmed := true } }, by decide⟩

/-- A state in BOOT with GLB as given. -/
def wBoot (g : Glb) : State := { State.reset with pwr := { mode := .boot }, glb := g }
theorem witness_NotInBoot : ∃ s : State, s.pwr.mode ≠ .boot := ⟨State.reset, by decide⟩
theorem witness_Sense : ∃ s : State, s.pwr.mode = .boot ∧ s.lcs.sensed = false ∧ s.bbram.trans.valid = false := ⟨wBoot {}, by decide⟩
theorem witness_Sensed : ∃ s : State, s.pwr.mode = .boot ∧ s.lcs.sensed = true ∧ s.kvt.recovered = false ∧ s.lcs.st ≠ .scrapped ∧
    s.glb.verifierDone = false ∧ s.glb.katFatal = false := ⟨{ wBoot {} with lcs := { sensed := true } }, by decide⟩
theorem witness_ImageSelect : ∃ s : State, s.pwr.mode = .boot ∧ s.glb.verifierDone = true ∧ s.glb.phase = 2 ∧ s.glb.cand = [] ∧
    s.glb.bundle = [] := ⟨wBoot { verifierDone := true, phase := 2 }, by decide⟩
theorem witness_BundleVerify : ∃ s : State, s.pwr.mode = .boot ∧ s.glb.phase = 2 ∧ s.glb.cand ≠ [] :=
  ⟨wBoot { phase := 2, cand := [0, 1] }, by decide⟩
theorem witness_BundleLoad : ∃ s : State, s.pwr.mode = .boot ∧ s.glb.phase = 4 := ⟨wBoot { phase := 4 }, by decide⟩
theorem witness_UnitTests : ∃ s : State, s.pwr.mode = .boot ∧ s.glb.katRunning = true ∧ s.glb.katBits = 0 :=
  ⟨wBoot { katRunning := true }, by decide⟩
theorem witness_EngineTests : ∃ (s : State) (pass : BitVec 64), s.pwr.mode = .boot ∧ s.glb.katRunning = true ∧ s.glb.katBits = 0xC00 ∧
    s.glb.fullSet = none ∧ pass ≠ 0 := ⟨wBoot { katRunning := true, katBits := 0xC00 }, 1, by decide⟩
theorem witness_FullSet : ∃ (s : State) (es : List Nat), s.pwr.mode = .boot ∧ s.glb.katRunning = true ∧ s.glb.katBits = 0xC00 ∧
    s.glb.fullSet = some es := ⟨wBoot { katRunning := true, katBits := 0xC00, fullSet := some [0, 1] }, [0, 1], by decide⟩
theorem witness_RollbackBurn : ∃ s : State, s.pwr.mode = .boot ∧ s.glb.katDone = true ∧ s.glb.phase = 5 ∧
    (bFlags s.glb.header).testBit 1 = true ∧ svnMin s < s.glb.svn ∧ s.lcs.burning = none :=
  ⟨wBoot { katDone := true, phase := 5, header := zeros 17 ++ [2], svn := 3 }, by decide⟩
theorem witness_NoRollback : ∃ s : State, s.pwr.mode = .boot ∧ s.glb.svn ≤ svnMin s := ⟨wBoot {}, by decide⟩
theorem witness_BootEnd : ∃ s : State, s.pwr.mode = .boot ∧ s.glb.katDone = true ∧ s.glb.phase = 5 ∧ s.kvt.recovered = true ∧
    s.lcs.burning = none ∧ s.lcs.st ≠ .scrapped ∧ s.bbram.lockFlag = false ∧ s.kvt.root ≠ none ∧ s.pins.cascRole = 0 :=
  ⟨{ wBoot { katDone := true, phase := 5 } with kvt := { recovered := true, root := some [] } }, by decide⟩
theorem witness_BootEndLocked : ∃ s : State, s.pwr.mode = .boot ∧ s.glb.katDone = true ∧ s.glb.phase = 5 ∧ s.kvt.recovered = true ∧
    s.lcs.burning = none ∧ s.lcs.st ≠ .scrapped ∧ s.bbram.lockFlag = true :=
  ⟨{ wBoot { katDone := true, phase := 5 } with kvt := { recovered := true }, bbram := { lockFlag := true } }, by decide⟩
theorem witness_BootEndZeroized : ∃ s : State, s.pwr.mode = .boot ∧ s.glb.katDone = true ∧ s.glb.phase = 5 ∧
    s.kvt.recovered = true ∧ s.lcs.burning = none ∧ s.lcs.st ≠ .scrapped ∧ s.bbram.lockFlag = false ∧ s.kvt.root = none :=
  ⟨{ wBoot { katDone := true, phase := 5 } with kvt := { recovered := true } }, by decide⟩
theorem witness_BootEndCascade : ∃ s : State, s.pwr.mode = .boot ∧ s.glb.katDone = true ∧ s.glb.phase = 5 ∧
    s.kvt.recovered = true ∧ s.lcs.burning = none ∧ s.lcs.st ≠ .scrapped ∧ s.bbram.lockFlag = false ∧ s.kvt.root ≠ none ∧
    s.pins.cascRole = 1 :=
  ⟨{ wBoot { katDone := true, phase := 5 } with kvt := { recovered := true, root := some [] }, pins := { cascRole := 1 } }, by decide⟩
theorem witness_HostBootGo : ∃ (s : State) (src : Src), glbOpen src s = true ∧ s.glb.katFatal = false ∧ s.pwr.mode = .boot ∧ s.glb.phase = 7 ∧
    0 ∉ s.host.noMaster ∧ hostOk s 0 s.glb.bootAddr.toNat s.glb.bootLen = true := ⟨wBoot { phase := 7 }, .debug, by decide⟩
theorem witness_HostBootNoMaster : ∃ (s : State) (src : Src), glbOpen src s = true ∧ s.glb.katFatal = false ∧ s.pwr.mode = .boot ∧ s.glb.phase = 7 ∧
    0 ∈ s.host.noMaster := ⟨{ wBoot { phase := 7 } with host := { noMaster := [0] } }, .debug, by decide⟩
theorem witness_HostBootIgnored : ∃ (s : State) (src : Src), glbOpen src s = true ∧ s.pwr.mode ≠ .freewheel ∧ s.glb.katFatal = false ∧ s.pwr.mode ≠ .boot :=
  ⟨wUnits {} {}, .debug, by decide⟩
theorem witness_Scrap : ∃ s : State, s.lcs.st = .scrapped ∧ s.lcs.sensed = true ∧ s.lcs.burning = none ∧ scrapWords s ≠ [] :=
  ⟨{ lcs := { st := .scrapped, sensed := true } }, by decide⟩

/-- A state in mode `m` with link 2 and the rest of TLK as given. -/
def wTlk (m : Mode) (l : Link) (t : Tlk) : State :=
  { State.reset with pwr := { mode := m }, tlk := { t with link := [(2, l)] } }
/-- The bytes 0–251 of a frame of a type with no payload and number 0. -/
def wBody (ty : Byte) : Bytes := ty :: zeros 251
/-- The frame for link 2 with check value `x`. -/
def wFrame (ty : Byte) (x : Nat) : Bytes := wBody ty ++ leBytes 4 x

theorem leBytes_ofLe (x : Nat) (h : x < 2 ^ 32) : ofLe (leBytes 4 x) = x := by
  simp only [leBytes, ofLe, BitVec.toNat_ofNat]
  omega

theorem slice_left (b t : Bytes) (o n : Nat) (h : o + n ≤ b.length) : slice (b ++ t) o n = slice b o n := by
  unfold slice fit
  rw [List.drop_append_of_le_length (by omega), List.append_assoc, List.take_append_of_le_length (by simp; omega),
    List.take_append_of_le_length (by simp; omega)]

theorem slice_right (b t : Bytes) : slice (b ++ t) b.length t.length = t := by
  simp [slice, fit]

theorem wBody_length (ty : Byte) : (wBody ty).length = 252 := by
  rw [wBody, List.length_cons, zeros, List.length_replicate]

theorem wFrame_length (ty : Byte) (x : Nat) : (wFrame ty x).length = 256 := by
  rw [wFrame, List.length_append, wBody_length]; rfl

theorem wFrame_low (ty : Byte) (x o n : Nat) (h : o + n ≤ 252) : leAt (wFrame ty x) o n = leAt (wBody ty) o n := by
  rw [leAt, leAt, wFrame, slice_left _ _ _ _ (by rw [wBody_length]; exact h)]

theorem wFrame_len (ty : Byte) (x : Nat) : byteAt (wFrame ty x) 2 ≤ 220 := by
  rw [show byteAt (wFrame ty x) 2 = 0 from (wFrame_low ty x 2 1 (by omega)).trans rfl]; decide

theorem wFrame_check (s : State) (ty : Byte) (x g : Nat) (hs : s.tlk.guard = false) (hx : x < 2 ^ 32)
    (hg : g = frameCheck (wBody ty) [0xA0]) : checkOk s 2 (wFrame ty x) = (x == g) := by
  have h1 : leAt (wFrame ty x) 252 4 = x := by
    have := slice_right (wBody ty) (leBytes 4 x)
    rw [wBody_length] at this
    rw [leAt, wFrame, show slice _ 252 4 = leBytes 4 x from this, leBytes_ofLe x hx]
  have h2 : (wFrame ty x).take 252 = wBody ty := List.take_left' (wBody_length ty)
  have h3 : byteAt (wFrame ty x) 1 = 0 := (wFrame_low ty x 1 1 (by omega)).trans rfl
  have h5 : byteAt (wFrame ty x) 3 = 0 := (wFrame_low ty x 3 1 (by omega)).trans rfl
  have h6 : leAt (wFrame ty x) 4 8 = 0 := (wFrame_low ty x 4 8 (by omega)).trans rfl
  have h7 : linkGuard false (peerLink 2) (0 % 8) (0 / 8 % 8) (0 % 16) 0 = [0xA0] := rfl
  unfold checkOk fSrc fDst fSeq
  rw [h1, h2, h3, h5, h6, hs, h7, hg]

theorem frameCheck_lt (b g : Bytes) : frameCheck b g < 2 ^ 32 :=
  Nat.xor_lt_two_pow (BitVec.isLt (List.foldl _ _ g)) (by decide)

/-- The frame with its right check value, which nothing has to compute here. -/
theorem wFrame_sound (ty : Byte) : ∃ x, ∀ s : State, s.tlk.guard = false → checkOk s 2 (wFrame ty x) = true :=
  ⟨frameCheck (wBody ty) [0xA0], fun s hs => by
    rw [wFrame_check s ty _ _ hs (frameCheck_lt _ _) rfl, beq_self_eq_true]⟩

theorem wFrame_wrong (ty : Byte) : ∃ x, ∀ s : State, s.tlk.guard = false → checkOk s 2 (wFrame ty x) = false := by
  have key : ∀ g : Nat, ∃ x, x < 2 ^ 32 ∧ (x == g) = false := fun g =>
    if h : g = 0 then ⟨1, by decide, by subst h; rfl⟩ else ⟨0, by decide, beq_eq_false_iff_ne.mpr (Ne.symm h)⟩
  obtain ⟨x, hx, hne⟩ := key (frameCheck (wBody ty) [0xA0])
  exact ⟨x, fun s hs => (wFrame_check s ty x _ hs hx rfl).trans hne⟩

theorem witness_ClearFrame : ∃ (s : State) (k : Fin 8) (f : Bytes) (r : Instr × Nat × (Nat → Bytes → State → State)),
    rowsFrame k f r ∧ frameSound s k r.2.1 f ∧ (openFrame s k f).isSome = true ∧ fSeq f = (linkU s k).rxSeq :=
  have ⟨x, h⟩ := wFrame_sound 3
  ⟨wTlk .service { st := .trained } {}, 2, wFrame 3 x, (.frameHeartbeat 2 (wFrame 3 x), 0x03, fun _ => onBeat 2),
    by simp [rowsFrame], ⟨by decide, wFrame_length _ _, (wFrame_low 3 x 0 1 (by omega)).trans rfl,
      wFrame_len 3 x, fun h => absurd h (by show ¬ 20 ≤ 3; decide), by decide, h _ rfl⟩, rfl,
    (wFrame_low 3 x 4 8 (by omega)).trans rfl⟩
theorem witness_KeyedFrame : ∃ (s : State) (k : Fin 8) (f : Bytes) (r : Instr × Nat × (Nat → Bytes → State → State)),
    rowsFrame k f r ∧ frameSound s k r.2.1 f ∧ r.2.1 = 0x14 :=
  have ⟨x, h⟩ := wFrame_sound 0x14
  ⟨wTlk .service { st := .keyed, key := some [] } {}, 2, wFrame 0x14 x, (.frameGo 2 (wFrame 0x14 x), 0x14, fun _ => onGo 2),
    by simp [rowsFrame], ⟨by decide, wFrame_length _ _, (wFrame_low 0x14 x 0 1 (by omega)).trans rfl,
      wFrame_len 0x14 x, fun _ => by show (some [] : Option Bytes) ≠ none; decide, by decide, h _ rfl⟩, rfl⟩
theorem witness_BadFrame : ∃ (s : State) (k : Fin 8) (f : Bytes), carries s k = true ∧ f.length = 256 ∧ byteAt f 0 = 3 ∧
    byteAt f 2 ≤ 220 ∧ (fltU s .tlk 0).armed = false ∧ checkOk s k f = false ∧ (linkU s k).fails < 8 :=
  have ⟨x, h⟩ := wFrame_wrong 3
  ⟨wTlk .service { st := .trained } {}, 2, wFrame 3 x, by decide, wFrame_length _ _, (wFrame_low 3 x 0 1 (by omega)).trans rfl,
    wFrame_len 3 x, by decide, h _ rfl, by decide⟩
theorem witness_NinthFailure : ∃ (s : State) (k : Fin 8), carries s k = true ∧ (linkU s k).fails = 8 :=
  ⟨wTlk .service { st := .trained, fails := 8 } {}, 2, by decide⟩
theorem witness_LinkDead : ∃ (s : State) (k : Fin 8), carries s k = false ∧ (linkU s k).authFail = true ∧ forming s = false ∧
    s.tlk.startAt = none := ⟨wTlk .service { authFail := true } {}, 2, by decide⟩
theorem witness_LinkTrains : ∃ (s : State) (k : Fin 8), linksAct s.pwr.mode = true ∧ (linkU s k).st = .training ∧
    (linkU s k).authFail = false ∧ linkHeld s k = false := ⟨wTlk .discover { st := .training } {}, 2, by decide⟩
theorem witness_DiscWait : ∃ s : State, forming s = true ∧ s.pins.cascRole = 2 ∧ s.tlk.tokenIn = none ∧ s.tlk.tokenSent = false ∧
    s.tlk.excluded = false := ⟨{ wTlk .discover {} {} with pins := { cascRole := 2 } }, by decide⟩
theorem witness_CascadeStart : ∃ s : State, s.pwr.mode = .discover ∧ s.tlk.startAt ≠ none :=
  ⟨wTlk .discover {} { startAt := some 0 }, by decide⟩
theorem witness_MemberTimeout : ∃ (s : State) (p : Fin 8), s.tlk.formed = true ∧ s.tlk.present.testBit p = true ∧
    s.tlk.lost.testBit p = false ∧ p.val ≠ s.tlk.position ∧ hasRoute s p = false ∧ s.tlk.position = 0 :=
  ⟨wTlk .service {} { formed := true, present := 3 }, 1, by decide⟩
theorem witness_MemberCutOff : ∃ (s : State) (p : Fin 8), s.tlk.formed = true ∧ s.tlk.present.testBit p = true ∧
    s.tlk.lost.testBit p = false ∧ p.val ≠ s.tlk.position ∧ hasRoute s p = false ∧ s.tlk.position ≠ 0 ∧ hasRoute s 0 = false :=
  ⟨wTlk .service {} { formed := true, present := 7, position := 2 }, 1, by decide⟩
theorem witness_MemberReroutes : ∃ (s : State) (p q : Fin 8), s.tlk.formed = true ∧ s.tlk.present.testBit p = true ∧
    s.tlk.lost.testBit p = false ∧ p.val ≠ s.tlk.position ∧ hasRoute s p = false ∧ s.tlk.position ≠ 0 ∧ hasRoute s 0 = true ∧
    hasRoute s q = true :=
  ⟨wTlk .service { st := .keyed } { formed := true, present := 7, position := 2, verMinor := 1 }, 1, 0, by decide⟩
theorem witness_Go : ∃ (s : State) (p : Bytes), forming s = true ∧ s.pins.cascRole = 2 ∧ assigned s ≠ 0 ∧
    (byteAt p 0).testBit s.tlk.position = true :=
  ⟨{ wTlk .discover {} { assign := [2], position := 1 } with pins := { cascRole := 2 } }, [3], by decide⟩
theorem witness_Loss : ∃ (s : State) (h : Nat), s.tlk.formed = true ∧ h < 8 ∧ s.tlk.lost.testBit h = false ∧
    s.tlk.present.testBit h = true ∧ h ≠ s.tlk.position ∧ h ≠ 0 := ⟨wTlk .service {} { formed := true, present := 3 }, 1, by decide⟩
theorem witness_Origin : ∃ (s : State) (src txn : Nat) (t : Txn) (c : Cmd), originOf s src txn = some t ∧
    cmdU s t.cmd = some c ∧ c.id = t.cmd :=
  ⟨{ wTlk .service {} { origins := [{ id := 5, cmd := 1, peer := 1 }] } with hif := { cmds := [{ id := 1 }] } }, 1, 5,
    { id := 5, cmd := 1, peer := 1 }, { id := 1 }, by decide⟩
theorem witness_Cast : ∃ (s : State) (m : Bytes) (n : Nat) (kr : KeyReg), n < 64 ∧ (eng s n).key = some kr ∧
    castHit ⟨leAt m 0 8, leAt m 8 8⟩ kr.tag.toNat = true :=
  ⟨setEng 0 { key := some {} } {}, [], 0, {}, by decide, rfl, by decide⟩
theorem witness_Assign : ∃ (s : State) (a : Bytes) (p : Nat), forming s = true ∧ s.pins.cascRole = 2 ∧ s.tlk.tokenSent = true ∧
    assigned s = 0 ∧ (List.range (byteAt a 0)).find? (fun p => slice a (5 + 16 * p) 16 == fit 16 (identity s)) = some p :=
  ⟨{ wTlk .discover {} { tokenSent := true } with pins := { cascRole := 2 } }, [1] ++ zeros 20, 0, by decide⟩
theorem witness_ForeignToken : ∃ (s : State) (k : Fin 8) (m : Bytes), forming s = true ∧ s.pins.cascRole = 1 ∧ k.val < 2 ∧
    (m.drop 2).take 16 ≠ fit 16 (identity s) := ⟨{ wTlk .discover {} {} with pins := { cascRole := 1 } }, 0, [0, 0, 1], by decide⟩
theorem witness_Attest : ∃ (s : State) (m : Bytes), byteAt m 0 = 0 ∧ byteAt m 3 ≠ 1 ∧ assigned s = 0 := ⟨State.reset, [], by decide⟩

/-- A device in mode `m` with debug unit `d`. -/
def wDbg (m : Mode) (d : Dbg) : State := { State.reset with pwr := { mode := m }, dbg := d, hif := { State.reset.hif with reach := true } }
theorem witness_TapPowered : ∃ s : State, s.pwr.mode ≠ .off := ⟨wDbg .watch {}, by decide⟩
theorem witness_TapUnpowered : ∃ s : State, s.pwr.mode = .off := ⟨wDbg .off {}, by decide⟩
theorem witness_TapDebug : ∃ s : State, tapDebug s = true ∧ mayChallenge s = false ∧ s.dbg.verifying = false :=
  ⟨wDbg .boot {}, by decide⟩
theorem witness_TapNoDebug : ∃ s : State, tapDebug s = false := ⟨wDbg .reset {}, by decide⟩
theorem witness_Challenge : ∃ s : State, tapDebug s = true ∧ mayChallenge s = true :=
  ⟨{ wDbg .service {} with ent := { State.reset.ent with
      fifo := zeros 32, startupDone := true, src := [(0, { st := .active })], drbg := [(0, { inst := true })] } }, by decide⟩
theorem witness_TokenEnd : ∃ (s : State) (m : Bytes) (b : Byte), s.dbg.token = m ++ [0xA5, 0x5A] ∧ b = 0xA5 ∧ s.dbg.verifying = false :=
  ⟨wDbg .service { token := [1, 0xA5, 0x5A] }, [1], 0xA5, by decide⟩
theorem witness_Granted : ∃ s : State, tapDebug s = true ∧ granted s 0 = true ∧ granted s 1 = true ∧ granted s 4 = true ∧
    s.mem.keys = false := ⟨wDbg .service { session := true, perm := 63 }, by decide⟩
theorem witness_NotGranted : ∃ (s : State) (space : BitVec 8) (addr : BitVec 64), tapDebug s = true ∧ s.dbg.session = false ∧
    memReadable s space.toNat addr.toNat = false := ⟨wDbg .service {}, 6, 0, by decide⟩
theorem witness_TokenRefused : ∃ s : State, s.dbg.verifying = true ∧ s.dbg.chal = none ∧ sessionMode s.pwr.mode = true :=
  ⟨wDbg .service { verifying := true }, by decide⟩
theorem witness_SessionExpiry : ∃ s : State, s.dbg.session = true := ⟨wDbg .service { session := true }, by decide⟩
theorem witness_BistStart : ∃ (s : State) (src : Src), regOpen src (touch src s) = true ∧ s.pwr.mode = .test ∧ s.dbg.session = true ∧
    s.dbg.perm.testBit 5 = true ∧ s.dbg.bistRun = false ∧ s.dbg.erased = false ∧ scanOk s = true :=
  ⟨wDbg .test { session := true, perm := 32 }, .host 0, by decide⟩
theorem witness_BistDone : ∃ s : State, s.dbg.bistRun = true := ⟨wDbg .test { bistRun := true }, by decide⟩
theorem witness_SmbUp : ∃ s : State, smbUp s = true ∧ s.pins.smbAlert = true :=
  ⟨{ wDbg .service {} with lcs := { State.reset.lcs with sensed := true }, pins := { State.reset.pins with smbAlert := true } }, by decide⟩
theorem witness_SmbDown : ∃ s : State, smbUp s = false ∧ s.pins.smbAlert = false := ⟨State.reset, by decide⟩

end Sys2Proof.Tests
end

section
/-! The rows of chapter 02 that the host and the clock cause: an idle tick, doorbells, QP_ENABLE, PACKET_FETCH and
OUTPUT_FIFO_DRAIN. -/
namespace Sys2Proof.Machine
open Sys2Proof

/-! ### Views: a function of the state that an operation does not change -/

/-- A fold whose steps keep a view keeps it. -/
theorem foldl_keeps {α β : Type} (view : State → α) (g : State → β → State) (h : ∀ s x, view (g s x) = view s)
    (l : List β) (s : State) : view (l.foldl g s) = view s := by
  induction l generalizing s with
  | nil => rfl
  | cons x l ih => exact (ih _).trans (h s x)

theorem ite_keeps {α : Type} (view : State → α) {p : Prop} [Decidable p] {t u : State} {a : α} (ht : view t = a)
    (hu : view u = a) : view (if p then t else u) = a := by
  split
  · exact ht
  · exact hu

/-! ### Counting of every bank -/

/-- The state without what counting an event of any bank can change: the counters, the open values used, the messages
sent, the MSI-X entries, and a core's pending interrupt. -/
def countView (s : State) : State :=
  { s with cad := {}, free := 0, seq := {}, host := { s.host with msgs := [] }, hif := { s.hif with msix := [] } }

theorem Counted.countView {s t : State} (h : Counted s t) : countView t = countView s := by
  have e := congrArg Machine.countView (show _ = s from h)
  exact e

theorem countView_now {s t : State} (h : countView t = countView s) : t.now = s.now := by
  have e := congrArg State.now h
  exact e

theorem countView_sampleAt (b : Bank) (u k : Nat) (s : State) : countView (sampleAt b u k s) = countView s := by
  cases b with
  | seq =>
    unfold sampleAt
    refine ite_keeps countView (ite_keeps countView ?_ ?_) rfl
    all_goals cases hp : (bufU s u).precise <;> rfl
  | hub | block | inst => exact (sampleAt_counted _ u k s (by decide)).countView

/-- A wrap carries into the next counter; no bank's carry leaves the view. -/
theorem countView_cntAdd (b : Bank) (u n k amt : Nat) (s : State) : countView (cntAdd b u n k amt s) = countView s := by
  induction n generalizing k amt s with
  | zero => rfl
  | succ n ih =>
    have hwrap : ∀ (c : Bool) x, countView (if c then signal 0 114 (sampleAt b u k x) else x) = countView x := fun c x =>
      ite_keeps countView ((signal_counted 0 114 _).countView.trans (countView_sampleAt b u k x)) rfl
    unfold cntAdd
    exact ite_keeps countView rfl (ite_keeps countView rfl
      (ite_keeps countView ((ih _ _ _).trans (hwrap _ _)) (hwrap _ _)))

theorem countView_cadEvent (b : Bank) (u code amt : Nat) (v : Bool) (i : Nat) (s : State) :
    countView (cadEvent b u code amt v i s) = countView s :=
  foldl_keeps countView _ (fun s k => ite_keeps countView (countView_cntAdd b u _ k amt s) rfl) _ s

/-! ### The idle tick (R56) -/

theorem countView_countUnit (b : Bank) (u code : Nat) (s : State) : countView (countUnit b u code s) = countView s := by
  have hfree : ∀ x : Nat × State, countView x.2 = countView s →
      countView (if x.1 = 0 then x.2 else cadEvent b u code x.1 (inVendor s b u) (unitInst s b u) x.2) = countView s :=
    fun x hx => ite_keeps countView hx ((countView_cadEvent ..).trans hx)
  refine hfree _ ?_
  split <;> rfl

theorem countView_tickCycles (s : State) : countView (tickCycles s) = countView s :=
  foldl_keeps countView (fun s (x : Bank × Nat × Nat) => countUnit x.1 x.2.1 x.2.2 s)
    (fun s x => countView_countUnit x.1 x.2.1 x.2.2 s) _ s

/-- The state without what the clock, the session's countdown and the hold-up sample of a tick change, and without what
counting changes. -/
def tickView (s : State) : State := { countView s with now := 0, dbg := {}, tmp := {}, pwr := {} }

theorem tickView_tickRtc (s : State) : tickView (tickRtc s) = tickView s :=
  ite_keeps tickView rfl (ite_keeps tickView rfl rfl)

theorem tickView_tickSession (s : State) : tickView (tickSession s) = tickView s := ite_keeps tickView rfl rfl

theorem tickView_tickHoldup (s : State) : tickView (tickHoldup s) = tickView s := ite_keeps tickView rfl rfl

theorem tickView_tick (s : State) : tickView (tick s) = tickView (tickStamp { s with now := s.now + 1 }) := by
  have hcycles : ∀ x, tickView (tickCycles x) = tickView x := fun x =>
    congrArg (fun y : State => { y with now := 0, dbg := {}, tmp := {}, pwr := {} }) (countView_tickCycles x)
  exact (hcycles _).trans ((tickView_tickHoldup _).trans ((tickView_tickSession _).trans (tickView_tickRtc _)))

/-- What a state and one of the same `tickView` share. -/
theorem tickView_fields {s t : State} (h : tickView t = tickView s) : t.hif.ts = s.hif.ts ∧ t.hif.cmds = s.hif.cmds ∧
    t.host.mem = s.host.mem ∧ t.lcs = s.lcs ∧ t.kvt = s.kvt := by
  have e := congrArg (fun x : State => (x.hif.ts, x.hif.cmds, x.host.mem, x.lcs, x.kvt)) h
  simp only [Prod.mk.injEq] at e
  exact e

theorem tick_now (s : State) : (tick s).now = s.now + 1 := by
  have hnow : ∀ x, (tickCycles x).now = x.now := fun x => countView_now (countView_tickCycles x)
  have hhold : ∀ x, (tickHoldup x).now = x.now := fun x => ite_keeps State.now rfl rfl
  have hsess : ∀ x, (tickSession x).now = x.now := fun x => ite_keeps State.now rfl rfl
  have hrtc : ∀ x, (tickRtc x).now = x.now := fun x => ite_keeps State.now rfl (ite_keeps State.now rfl rfl)
  have hstamp : ∀ x, (tickStamp x).now = x.now := fun x => ite_keeps State.now rfl (ite_keeps State.now rfl rfl)
  unfold tick
  rw [hnow, hhold, hsess, hrtc, hstamp]

/-- Settles O2: the clock's part of a tick is read off `tickStamp`, all that follows it keeps `tickView`. -/
theorem idleStepIsOneTick : Obligations.IdleStepIsOneTick := by
  unfold Obligations.IdleStepIsOneTick
  intro s hidle
  have hstep : step s = .next (tick s) := by
    unfold step
    rw [hidle]
  have hstamp : ∀ x : State, (tickStamp x).hif.cmds = x.hif.cmds ∧ (tickStamp x).host.mem = x.host.mem ∧
      (tickStamp x).lcs = x.lcs ∧ (tickStamp x).kvt = x.kvt := by
    intro x
    unfold tickStamp
    split
    · exact ⟨rfl, rfl, rfl, rfl⟩
    · split <;> exact ⟨rfl, rfl, rfl, rfl⟩
  obtain ⟨hcmds, hmem, hlcs, hkvt⟩ := hstamp { s with now := s.now + 1 }
  obtain ⟨kts, kcmds, kmem, klcs, kkvt⟩ := tickView_fields (tickView_tick s)
  refine ⟨hstep, tick_now s, fun hcount hmode => ?_, kcmds.trans hcmds, kmem.trans hmem, klcs.trans hlcs,
    kkvt.trans hkvt⟩
  rw [kts, tickStamp, if_neg (not_not.mpr hcount), if_neg hmode]

/-! ### Doorbells and QP_ENABLE (R31, R32, R35, R37) -/

@[simp] theorem qpU_setQp_same (p q : Nat) (v : Qp) (s : State) : qpU (setQp p q v s) p q = v := Tbl.get_set_same _ _ _ _

theorem qpU_setQp_other {p q p' q' : Nat} (v : Qp) (s : State) (h : p' * 64 + q' ≠ p * 64 + q) :
    qpU (setQp p q v s) p' q' = qpU s p' q' := Tbl.get_set_other _ _ _ h

@[simp] theorem qpU_stamp (p q n : Nat) (s : State) :
    qpU { s with hif := { s.hif with stamp := n } } p q = qpU s p q := rfl

theorem wake_awake {s : State} (h : s.pwr.mode ≠ .freewheel) : wake s = s := if_neg h

theorem exec_sqDoorbell {s : State} (p : Fin 256) (q : Fin 64) (v : Word) (h : portsAnswer s) :
    exec (.sqDoorbell p q v) s = .next (sqDoorbell p q v s) := by
  have e : exec (.sqDoorbell p q v) s =
      .next (if portsOpen (wake s) then sqDoorbell p q v (wake s) else wake s) := rfl
  rw [e, wake_awake h.2, if_pos h.1]

theorem exec_cqDoorbell {s : State} (p : Fin 256) (q : Fin 64) (v : Word) (h : portsAnswer s) :
    exec (.cqDoorbell p q v) s = .next (cqDoorbell p q v s) := by
  have e : exec (.cqDoorbell p q v) s =
      .next (if portsOpen (wake s) then cqDoorbell p q v (wake s) else wake s) := rfl
  rw [e, wake_awake h.2, if_pos h.1]

theorem exec_qpEnable {s : State} (p : Fin 256) (q : Fin 64) (h : portsAnswer s) :
    exec (.qpEnable p q) s = .next (qpEnable p q s) := by
  have e : exec (.qpEnable p q) s = .next (if portsOpen (wake s) then qpEnable p q (wake s) else wake s) := rfl
  rw [e, wake_awake h.2, if_pos h.1]

/-- A doorbell on a queue pair that runs is looked at. -/
theorem not_stopped {qp : Qp} (ha : qp.active = true) (he : qp.ringError = false) :
    ¬ (¬ qp.active = true ∨ qp.ringError = true) := by simp [ha, he]

theorem stopped_of {qp : Qp} (h : qp.active = false ∨ qp.ringError = true) : ¬ qp.active = true ∨ qp.ringError = true := by
  simpa using h

/-- Settles O33, one branch of a doorbell after the other. -/
theorem doorbellsMoveTheirPointer : Obligations.DoorbellsMoveTheirPointer := by
  unfold Obligations.DoorbellsMoveTheirPointer
  intro s p q v hports
  rw [exec_sqDoorbell p q v hports, exec_cqDoorbell p q v hports]
  unfold sqDoorbell cqDoorbell
  dsimp only
  refine ⟨fun ha he hlt => ?_, fun ha he hle => ?_, fun ha he hlt hfill => ?_, fun ha he hbad => ?_, fun h => ?_⟩
  · rw [if_neg (not_stopped ha he), if_neg (Nat.not_le.mpr hlt)]
    refine ⟨_, rfl, ?_, ?_, fun hne => ?_, fun p' q' hother => ?_, rfl, rfl⟩
    · rw [qpU_stamp, qpU_setQp_same]
    · rw [qpU_stamp, qpU_setQp_same]
    · rw [qpU_stamp, qpU_setQp_same]
      simp [hne]
    · rw [qpU_stamp, qpU_setQp_other _ s hother]
  · rw [if_neg (not_stopped ha he), if_pos hle]
  · rw [if_neg (not_stopped ha he), if_neg (Nat.not_le.mpr hlt), if_neg (Nat.not_lt.mpr hfill)]
  · rw [if_neg (not_stopped ha he)]
    by_cases hle : (qpU s p q).cqEntries ≤ fld v 0 12
    · rw [if_pos hle]
    · rw [if_neg hle, if_pos (hbad.resolve_left hle)]
  · rw [if_pos (stopped_of h), if_pos (stopped_of h)]
    exact ⟨rfl, rfl⟩

/-- Settles O34: an enable that passes the checks of R35 writes the queue pair `enabled`. -/
theorem enableAcceptsTheVersion : Obligations.EnableAcceptsTheVersion := by
  unfold Obligations.EnableAcceptsTheVersion
  intro s p q hports hen hact hpass
  have heq : qpEnable p q s = setQp p q (enabled (qpU s p q)) s := by
    simp only [qpEnable, hen, hact, Bool.false_eq_true, if_false, qpCheck, hpass]
  refine ⟨_, exec_qpEnable p q hports, ?_⟩
  rw [heq, qpU_setQp_same]
  refine ⟨rfl, rfl, rfl, fun h3 => ?_, fun h2 => ?_, rfl, rfl, rfl, rfl, rfl,
    fun p' q' hother => qpU_setQp_other _ s hother, rfl, rfl⟩
  · simp [enabled, h3]
  · simp [enabled, h2]

/-! ### PACKET_FETCH (R28, R43) -/

/-- The queue pair after the packet at sq_head has been read. -/
def qpAfterFetch (qp : Qp) : Qp :=
  { qp with
    sqHead := (qp.sqHead + 1) % qp.sqEntries
    subm := if (qp.sqHead + 1) % qp.sqEntries = qp.sqTail then [] else qp.subm.drop 1 }

/-- The packet at sq_head is read and counted. -/
def fetchRead (p q : Nat) (s : State) : State :=
  instEvent p 1 1 (blkEvent .hif 0x10 1 (bytesEvent .hif 0x12 64 (setQp p q (qpAfterFetch (qpU s p q)) s)))

theorem fetchRead_counted (p q : Nat) (s : State) : Counted (setQp p q (qpAfterFetch (qpU s p q)) s) (fetchRead p q s) :=
  (bytesEvent_counted _ _ _ _).trans ((blkEvent_counted _ _ _ _).trans (instEvent_counted _ _ _ _))

theorem fetched_eq (p q : Nat) (s : State) : fetched p q s = { fetchRead p q s with hif := { (fetchRead p q s).hif with
    nextId := (fetchRead p q s).hif.nextId + 1
    cmds := (fetchRead p q s).hif.cmds ++ [mkCmd s p q (hostBytes s (packetAt s p q) 64)] } } := by
  unfold fetched fetchRead qpAfterFetch
  with_reducible rfl

theorem fetched_cmds (p q : Nat) (s : State) :
    (fetched p q s).hif.cmds = s.hif.cmds ++ [mkCmd s p q (hostBytes s (packetAt s p q) 64)] := by
  rw [fetched_eq]
  dsimp only
  rw [(fetchRead_counted p q s).cmds, setQp_hif_cmds]

theorem fetched_flt (p q : Nat) (s : State) : (fetched p q s).flt = s.flt := by
  rw [fetched_eq]
  dsimp only
  rw [(fetchRead_counted p q s).flt, setQp_flt]

theorem fetched_hostMem (p q : Nat) (s : State) : (fetched p q s).host.mem = s.host.mem := by
  rw [fetched_eq]
  dsimp only
  rw [(fetchRead_counted p q s).hostMem, setQp_host]

theorem fetched_qpU (p q : Nat) (s : State) : qpU (fetched p q s) p q = qpAfterFetch (qpU s p q) := by
  have hqps : (fetched p q s).hif.qps = (setQp p q (qpAfterFetch (qpU s p q)) s).hif.qps := by
    rw [fetched_eq]
    dsimp only
    rw [(fetchRead_counted p q s).qps]
  unfold qpU
  rw [hqps]
  exact qpU_setQp_same ..

/-- Where no number is at or past `n`, the command numbered `n` that is put last is the one found. -/
theorem find_last_id {l : List Cmd} {n : Nat} {c : Cmd} (h : ∀ x ∈ l, x.id < n) (hc : c.id = n) :
    (l ++ [c]).find? (fun x => x.id == n) = some c := by
  have hnone : l.find? (fun x => x.id == n) = none :=
    List.find?_eq_none.mpr fun x hx => by simp [Nat.ne_of_lt (h x hx)]
  rw [List.find?_append, hnone]
  simp [hc]

/-- Settles O37: `fetched` puts the command last under a new number, and on an unarmed interface the parser's checks are all
that follows. -/
theorem fetchTakesOnePacket : Obligations.FetchTakesOnePacket := by
  unfold Obligations.FetchTakesOnePacket
  intro s p q hcan harm hids
  have hcmd : cmdU (fetched p q s) s.hif.nextId = some (mkCmd s p q (hostBytes s (packetAt s p q) 64)) := by
    unfold cmdU
    rw [fetched_cmds]
    exact find_last_id hids rfl
  have harm' : (fltU (fetched p q s) .hif 0).armed = false := by
    unfold fltU
    rw [fetched_flt]
    exact harm
  have hexec : exec (.packetFetch p q) s = execPacketFetch p q s := rfl
  rw [hexec]
  unfold execPacketFetch
  rw [if_pos hcan]
  dsimp only
  refine ⟨fun hok => ?_, fun hbad => ?_⟩
  · rw [if_pos hok, access_unarmed _ _ _ _ _ _ _ _ _ harm', hcmd, fetched_qpU]
    refine ⟨rfl, rfl, fetched_hostMem p q s, fun hpass => ?_, fun r hfail => ?_⟩
    · simp only [hpass]
    · simp only [hfail]
  · rw [if_neg (by simp [hbad])]

/-! ### OUTPUT_FIFO_DRAIN (R30, R59, R166) -/

theorem endKernel_running (n : Nat) (s : State) (h : (eng s n).ended = none) : endKernel n s = s := by
  unfold endKernel
  simp only [h]

/-- A store leaves every byte outside its range. -/
theorem hostPut_get_outside (a : Nat) (b : Bytes) (s : State) (x : Nat) (h : x < a ∨ a + b.length ≤ x) :
    Tbl.get 0 (hostPut a b s).host.mem x = Tbl.get 0 s.host.mem x := by
  refine (Tbl.get_setList _ _ _ _ _).trans (if_neg ?_)
  omega

/-- Settles O31: the store is one DMA write that is not logged; with no stall and no end of the kernel only the FIFO's front
goes. -/
theorem outputDrainWritesInOrder : Obligations.OutputDrainWritesInOrder := by
  unfold Obligations.OutputDrainWritesInOrder
  intro s e n id c hrun hcmd hstall hended hsvc hport hlog hn hfifo hok
  obtain ⟨t, hwrite, hcount⟩ := dmaWrite_ok _ _ _ s hok hlog
  have htake : (eng s e).fifo.take n ≠ [] := by simp [hfifo, Nat.ne_of_gt hn]
  have heng : eng t e = eng s e := hcount.eng e
  have hdrop : (eng s e).fifo.drop ((eng s e).fifo.take n).length = (eng s e).fifo.drop n := by
    rw [List.length_take]
    rcases Nat.le_total n (eng s e).fifo.length with h | h
    · rw [Nat.min_eq_left h]
    · rw [Nat.min_eq_right h, List.drop_length, List.drop_of_length_le h]
  have hexec : exec (.outputFifoDrain e n) s =
      .next (updEng e (fun y => { y with fifo := y.fifo.drop ((eng s e).fifo.take n).length }) t) := by
    have hunf : exec (.outputFifoDrain e n) s = execOutputFifoDrain e n s := rfl
    rw [hunf, execOutputFifoDrain]
    simp only [hrun, Option.bind_some, hcmd, htake, hsvc, hport, if_false, Nat.add_zero, hwrite, hstall]
    rw [endKernel_running]
    simp [updEng, heng, hended]
  refine ⟨_, hexec, ?_, ?_, fun a ha => ?_, fun m hm => ?_, hcount.cmds⟩
  · rw [updEng, eng_setEng_same, heng, hdrop]
  · refine (congrArg (fun m => Tbl.getList 0 m _ _) hcount.hostMem).trans ?_
    exact hostBytes_hostPut _ _ s
  · refine (congrArg (fun m => Tbl.get 0 m a) hcount.hostMem).trans ?_
    exact hostPut_get_outside _ _ s a ha
  · rw [updEng, eng_setEng, if_neg hm]
    exact hcount.eng m

end Sys2Proof.Machine
end

section
/-! What ends a command: the release of its units, its reply, and what follows the reply (R29, R30, R52, R132). -/
namespace Sys2Proof.Machine
open Sys2Proof

/-! ### Units released -/

/-- The state without what the release of a unit can change: the units, their ledgers and fault sets, the staging pages, and
what counting changes. -/
def unitView (s : State) : State :=
  { countView s with
    hub := {}, hsa := [], dge := [], cvu := [], drl := {}, flt := [], mem := { s.mem with stagePages := [] } }

theorem countView.unitView {s t : State} (h : countView t = countView s) : unitView t = unitView s := by
  have e := congrArg (fun x : State => { x with
    hub := {}, hsa := [], dge := [], cvu := [], drl := {}, flt := [], mem := { x.mem with stagePages := [] } }) h
  exact e

/-- What a state and one of the same `unitView` share. -/
theorem unitView_fields {s t : State} (h : unitView t = unitView s) : t.hif.cmds = s.hif.cmds ∧ t.pwr = s.pwr := by
  have e := congrArg (fun x : State => (x.hif.cmds, x.pwr)) h
  simp only [Prod.mk.injEq] at e
  exact e

theorem unitView_charge (aes : Bool) (i start : Nat) (s : State) : unitView (charge aes i start s) = unitView s := by
  have h : ∀ t, countView t = countView s → ∀ d, unitView { t with drl := d } = unitView s := fun t ht _ =>
    (rfl : _ = unitView t).trans (countView.unitView ht)
  cases aes <;> exact h _ (instEvent_counted ..).countView _

theorem unitView_dropJobs (n : Nat) (s : State) : unitView (dropJobs n s) = unitView s := ite_keeps unitView rfl rfl

theorem unitView_releaseEngine (i start n : Nat) (s : State) : unitView (releaseEngine i start n s) = unitView s := by
  have h : ∀ k t, unitView (settleFlt .hub n (updEng n (engBoundary k) t)) = unitView t := fun _ _ => rfl
  unfold releaseEngine
  rw [h, countView.unitView (countView_cadEvent ..), unitView_charge, unitView_dropJobs]

theorem unitView_releaseAes (i start n : Nat) (s : State) : unitView (releaseAes i start n s) = unitView s := by
  have h : ∀ t m c f, unitView (updEng m f (setAes n c t)) = unitView t := fun _ _ _ _ => rfl
  unfold releaseAes
  dsimp only
  rw [h, unitView_charge]

theorem unitView_releaseCvu (n : Nat) (s : State) : unitView (releaseCvu n s) = unitView s := rfl

theorem unitView_releaseCore (n : Nat) (s : State) : unitView (releaseCore n s) = unitView s := rfl

theorem unitView_freeReserved (n : Nat) (s : State) : unitView (freeReserved n s) = unitView s := by
  unfold freeReserved
  dsimp only
  split
  · rfl
  · refine ite_keeps unitView rfl ?_
    have h : ∀ t f, unitView (updEng n f t) = unitView t := fun _ _ => rfl
    rw [h]
    split
    · exact unitView_charge ..
    · rfl

theorem unitView_unreserve (id : Nat) (s : State) : unitView (unreserve id s) = unitView s :=
  foldl_keeps unitView _ (fun s n => ite_keeps unitView (unitView_freeReserved n s) rfl) _ s

/-! ### The commands while units are released: a digest engine's command remembers a truncation (R245) -/

/-- The commands as the release of units leaves them: the same numbers in the same order, each found as it was but for
`trunc`, which is not cleared. -/
def TruncNoted (l m : List Cmd) : Prop :=
  m.map Cmd.id = l.map Cmd.id ∧ ∀ id c, l.find? (fun x => x.id == id) = some c →
    ∃ b, m.find? (fun x => x.id == id) = some { c with trunc := b } ∧ (c.trunc = true → b = true)

theorem TruncNoted.refl (l : List Cmd) : TruncNoted l l := ⟨rfl, fun _ c h => ⟨c.trunc, h, id⟩⟩

theorem TruncNoted.trans {l m n : List Cmd} (h : TruncNoted l m) (k : TruncNoted m n) : TruncNoted l n := by
  refine ⟨k.1.trans h.1, fun id c hc => ?_⟩
  obtain ⟨b, hb, hbt⟩ := h.2 id c hc
  obtain ⟨d, hd, hdt⟩ := k.2 id _ hb
  exact ⟨d, hd, fun ht => hdt (hbt ht)⟩

/-- A find by number after one command has been replaced under its number. -/
theorem find_replaced (l : List Cmd) (d : Cmd) (id : Nat) :
    (l.map (fun x => if x.id = d.id then d else x)).find? (fun x => x.id == id) =
      (l.find? (fun x => x.id == id)).map (fun x => if x.id = d.id then d else x) := by
  rw [List.find?_map]
  congr 2
  funext x
  by_cases h : x.id = d.id <;> simp [h]

theorem truncNoted_setCmd {s : State} {i : Nat} {c : Cmd} (h : cmdU s i = some c) :
    TruncNoted s.hif.cmds (setCmd { c with trunc := true } s).hif.cmds := by
  change s.hif.cmds.find? _ = _ at h
  change TruncNoted s.hif.cmds (s.hif.cmds.map (fun x => if x.id = c.id then { c with trunc := true } else x))
  have hi : c.id = i := by simpa using List.find?_some h
  refine ⟨?_, fun id d hd => ?_⟩
  · rw [List.map_map]
    refine List.map_congr_left fun x _ => ?_
    by_cases hx : x.id = c.id <;> simp [hx]
  · have hid : d.id = id := by simpa using List.find?_some hd
    have hfind := find_replaced s.hif.cmds { c with trunc := true } id
    rw [hd] at hfind
    by_cases heq : d.id = c.id
    · have hcd : c = d := by
        rw [← hid, heq, hi, h] at hd
        exact Option.some.inj hd
      subst hcd
      exact ⟨true, by simpa using hfind, fun _ => rfl⟩
    · exact ⟨d.trunc, by simpa [heq] using hfind, fun ht => ht⟩

/-- The state after units have been released. -/
def Released (s t : State) : Prop :=
  unitView { t with hif := { t.hif with cmds := [] } } = unitView { s with hif := { s.hif with cmds := [] } } ∧
    TruncNoted s.hif.cmds t.hif.cmds

theorem Released.refl (s : State) : Released s s := ⟨rfl, .refl _⟩

theorem Released.trans {s t u : State} (h : Released s t) (k : Released t u) : Released s u :=
  ⟨k.1.trans h.1, h.2.trans k.2⟩

theorem released_of_view {s t : State} (h : unitView t = unitView s) : Released s t := by
  have e := congrArg (fun x : State => { x with hif := { x.hif with cmds := [] } }) h
  refine ⟨e, ?_⟩
  rw [(unitView_fields h).1]
  exact .refl _

theorem released_releaseDge (n : Nat) (s : State) : Released s (releaseDge n s) := by
  have h : ∀ t d a, unitView (settleFlt .dge n (setDge n d (setHsa n a t))) = unitView t := fun _ _ _ => rfl
  unfold releaseDge
  dsimp only
  split
  · next c hc =>
    obtain ⟨i, -, hi⟩ := Option.bind_eq_some_iff.mp hc
    refine Released.trans ?_ (released_of_view (h _ _ _))
    split
    · exact ⟨rfl, truncNoted_setCmd hi⟩
    · exact .refl s
  · exact released_of_view (h _ _ _)

/-! ### Everything a command holds -/

/-- `releaseUnits` on the command's own unit. -/
def releaseOwn (c : Cmd) (s : State) : State :=
  match c.phase with
  | .waiting => s
  | _ => match c.kind with
    | .hub => match c.remote with
      | some _ => charge false (cmdInst c) c.start s
      | none => (c.unit :: c.gang).foldl (fun s n =>
          releaseEngine (cmdInst c) (if c.gang.isEmpty then c.start else (eng s n).reservedAt) n s) s
    | .aes => releaseAes (cmdInst c) c.start c.unit s
    | .dge => releaseDge c.unit s
    | .cvu => releaseCvu c.unit s
    | _ => s

/-- `releaseUnits` on the command's core and the units that the core has claimed. -/
def releaseClaimed (c : Cmd) (s : State) : State :=
  match c.core with
  | none => s
  | some n =>
    let k := coreU s n
    let s := match k.hub with
      | none => s
      | some e => if c.kind == UnitKind.hub && e == c.unit then s else releaseEngine (cmdInst c) c.start e s
    let s := match k.dge with
      | none => s
      | some d => if c.kind == UnitKind.dge && d == c.unit then s else releaseDge d s
    let s := match k.cvu with
      | none => s
      | some v => if c.kind == UnitKind.cvu && v == c.unit then s else releaseCvu v s
    releaseCore n s

theorem releaseUnits_eq (c : Cmd) (s : State) : releaseUnits c s = { releaseClaimed c (releaseOwn c s) with
    mem := { (releaseClaimed c (releaseOwn c s)).mem with
      stagePages := (releaseClaimed c (releaseOwn c s)).mem.stagePages.filter (fun p => p.2 != c.id + 1) } } := rfl

theorem unitView_releaseOwn (c : Cmd) (s : State) (hk : c.kind ≠ .dge) : unitView (releaseOwn c s) = unitView s := by
  unfold releaseOwn
  split
  · rfl
  · split
    · split
      · exact unitView_charge ..
      · exact foldl_keeps unitView _ (fun _ _ => unitView_releaseEngine ..) _ _
    · exact unitView_releaseAes ..
    · next h => exact absurd h hk
    · exact unitView_releaseCvu ..
    · rfl

theorem released_releaseOwn (c : Cmd) (s : State) : Released s (releaseOwn c s) := by
  by_cases hk : c.kind = .dge
  · unfold releaseOwn
    split
    · exact .refl s
    · simp only [hk]
      exact released_releaseDge c.unit s
  · exact released_of_view (unitView_releaseOwn c s hk)

theorem ite_released {s t u : State} {p : Prop} [Decidable p] (ht : Released s t) (hu : Released s u) :
    Released s (if p then t else u) := by
  split
  · exact ht
  · exact hu

theorem released_releaseClaimed (c : Cmd) (s : State) : Released s (releaseClaimed c s) := by
  unfold releaseClaimed
  split
  · exact .refl s
  · next n _ =>
    refine Released.trans ?_ (released_of_view (unitView_releaseCore n _))
    have hhub : ∀ (o : Option Nat) t, Released t (match o with
        | none => t
        | some e => if c.kind == UnitKind.hub && e == c.unit then t else releaseEngine (cmdInst c) c.start e t) := fun o t => by
      cases o with
      | none => exact .refl t
      | some e => exact ite_released (.refl t) (released_of_view (unitView_releaseEngine ..))
    have hdge : ∀ (o : Option Nat) t, Released t (match o with
        | none => t
        | some d => if c.kind == UnitKind.dge && d == c.unit then t else releaseDge d t) := fun o t => by
      cases o with
      | none => exact .refl t
      | some d => exact ite_released (.refl t) (released_releaseDge d t)
    have hcvu : ∀ (o : Option Nat) t, Released t (match o with
        | none => t
        | some v => if c.kind == UnitKind.cvu && v == c.unit then t else releaseCvu v t) := fun o t => by
      cases o with
      | none => exact .refl t
      | some v => exact ite_released (.refl t) (released_of_view (unitView_releaseCvu v t))
    exact (hhub _ _).trans ((hdge _ _).trans (hcvu _ _))

theorem released_releaseUnits (c : Cmd) (s : State) : Released s (releaseUnits c s) := by
  rw [releaseUnits_eq]
  refine ((released_releaseOwn c s).trans (released_releaseClaimed c _)).trans (released_of_view ?_)
  rfl

theorem unitView_releaseUnits (c : Cmd) (s : State) (hk : c.kind ≠ .dge) (hcore : c.core = none) :
    unitView (releaseUnits c s) = unitView s := by
  have h : releaseClaimed c (releaseOwn c s) = releaseOwn c s := by
    unfold releaseClaimed
    simp only [hcore]
  rw [releaseUnits_eq, h]
  exact unitView_releaseOwn c s hk

/-! ### The reply (R28-R30) -/

/-- The state without what a reply changes beside the list of commands: completion ring, host memory and instances (a
logged page), the vault's stamps, the links (a guest's RSP), and what counting changes. -/
def replyView (s : State) : State :=
  { countView s with
    seq := s.seq, kvt := { s.kvt with res := [] }, tlk := {}, host := { s.host with mem := [], msgs := [] }
    hif := { s.hif with msix := [], stamp := 0, qps := [], inst := [] } }

theorem Counted.replyView {s t : State} (h : Counted s t) : replyView t = replyView s := by
  have e := congrArg Machine.replyView (show _ = s from h)
  exact e

theorem replyView_passFrame (k ty src dst : Nat) (p : Bytes) (s : State) :
    replyView (passFrame k ty src dst p s) = replyView s :=
  ite_keeps replyView (blkEvent_counted ..).replyView rfl

theorem replyView_sendTo (p ty txn : Nat) (m : Bytes) (s : State) : replyView (sendTo p ty txn m s) = replyView s := by
  unfold sendTo
  split
  · exact foldl_keeps replyView _ (fun _ _ => replyView_passFrame ..) _ _
  · rfl

theorem replyView_answerGuest (c : Cmd) (r : Result) (s : State) :
    replyView (answerGuest c r s) = replyView (delCmd c.id s) := by
  unfold answerGuest
  dsimp only
  split
  · rfl
  · exact ite_keeps replyView rfl (replyView_sendTo ..)

theorem replyView_logPage (i p : Nat) (s : State) : replyView (logPage i p s) = replyView s := ite_keeps replyView rfl rfl

theorem replyView_logWrite (i a n : Nat) (s : State) : replyView (logWrite i a n s) = replyView s :=
  ite_keeps replyView (foldl_keeps replyView _ (fun s p => replyView_logPage i p s) _ s) rfl

theorem replyView_coalesce (p q : Nat) (s : State) : replyView (coalesce p q s) = replyView s :=
  ite_keeps replyView rfl (ite_keeps replyView (signal_counted ..).replyView rfl)

theorem replyView_qpCheck (p q : Nat) (s : State) : replyView (qpCheck p q s) = replyView s := by
  unfold qpCheck
  dsimp only
  split
  · rfl
  · exact (signal_counted ..).replyView

theorem replyView_settleQp (p q : Nat) (s : State) : replyView (settleQp p q s) = replyView s :=
  ite_keeps replyView (ite_keeps replyView (replyView_qpCheck ..) rfl) rfl

/-- The events that a reply counts. -/
def replyEvents (c : Cmd) (r : Result) (s : State) : State :=
  let s := bytesEvent .hif 0x13 32 (blkEvent .hif 0x11 1 s)
  let s := instEvent (cmdInst c) (if r.status = 0 then 2 else 3) 1 s
  if r.status = stsRetry then instEvent (cmdInst c) 8 1 s else s

theorem replyEvents_counted (c : Cmd) (r : Result) (s : State) : Counted s (replyEvents c r s) :=
  ((blkEvent_counted .hif 0x11 1 s).trans (bytesEvent_counted ..)).trans
    ((instEvent_counted ..).trans (ite_counted (instEvent_counted ..)))

/-- The queue pair after its next reply: the slot at cq_tail is taken, PHASE turns where the ring wraps. -/
def qpReplied (qp : Qp) : Qp :=
  { qp with
    cqTail := if qp.cqTail + 1 ≥ qp.cqEntries then 0 else qp.cqTail + 1
    phase := if qp.cqTail + 1 ≥ qp.cqEntries then !qp.phase else qp.phase }

/-- The address of the completion slot at cq_tail. -/
def replySlot (qp : Qp) : Nat := qp.cqBase.toNat + 32 * qp.cqTail

/-- Where a reply is ordered after all before it (R48, R96). -/
def replyStamped (c : Cmd) (s : State) : State :=
  stampCommits c.id { s with hif := { s.hif with stamp := s.hif.stamp + 1 } }

/-- The bytes of a reply go into its slot, where host memory answers. -/
def replyStore (c : Cmd) (qp : Qp) (b : Bytes) (s : State) : State :=
  if hostOk s c.port (replySlot qp) 32 then hostPut (replySlot qp) b s else s

/-- The interrupt of a reply (R26, R41). -/
def replySignal (c : Cmd) (s : State) : State := if pNoIrq c.pkt then s else coalesce c.port c.q s

/-- The reply of a command of this device's ports, in the order of its parts: stamp, logged page, slot, cq_tail, counts,
interrupt, the command's end, the queue pair's boundary. -/
theorem reply_eq (c : Cmd) (r : Result) (s : State) (h : c.port ≠ 256) : reply c r s =
    settleQp c.port c.q (delCmd c.id (replySignal c (replyEvents c r (setQp c.port c.q (qpReplied (qpU s c.port c.q))
      (replyStore c (qpU s c.port c.q) (replyBytes (replyStamped c s) c r (qpU s c.port c.q))
        (logWrite (cmdInst c) (replySlot (qpU s c.port c.q)) 32 (replyStamped c s))))))) := by
  unfold reply
  dsimp only
  rw [if_neg h]
  rfl

theorem replyView_delCmd {s t : State} (id : Nat) (h : replyView t = replyView s) :
    replyView (delCmd id t) = replyView (delCmd id s) := by
  have e := congrArg (delCmd id) h
  exact e

theorem replyView_replyStore (c : Cmd) (qp : Qp) (b : Bytes) (s : State) : replyView (replyStore c qp b s) = replyView s :=
  ite_keeps replyView rfl rfl

theorem replyView_replySignal (c : Cmd) (s : State) : replyView (replySignal c s) = replyView s :=
  ite_keeps replyView rfl (replyView_coalesce ..)

theorem replyView_reply (c : Cmd) (r : Result) (s : State) : replyView (reply c r s) = replyView (delCmd c.id s) := by
  by_cases h : c.port = 256
  · have e : reply c r s = answerGuest c r (replyStamped c s) := by
      unfold reply
      dsimp only
      rw [if_pos h]
      rfl
    rw [e, replyView_answerGuest]
    rfl
  · have hqp : ∀ p q v t, replyView (setQp p q v t) = replyView t := fun _ _ _ _ => rfl
    rw [reply_eq c r s h, replyView_settleQp]
    refine replyView_delCmd _ ?_
    rw [replyView_replySignal, (replyEvents_counted ..).replyView, hqp, replyView_replyStore, replyView_logWrite]
    rfl

/-! ### What a reply that can be written leaves -/

/-- Two queue pairs but for what an interrupt and a command boundary write into them. -/
def sameRing (x y : Qp) : Prop := x.cqTail = y.cqTail ∧ x.retiring = y.retiring

theorem qpU_coalesce (p q : Nat) (s : State) : sameRing (qpU (coalesce p q s) p q) (qpU s p q) := by
  have hsig : ∀ v t, qpU (signal p v t) p q = qpU t p q := fun v t => by
    unfold qpU
    rw [(signal_counted p v t).qps]
  unfold coalesce
  dsimp only
  split
  · exact ⟨rfl, rfl⟩
  · split
    · rw [hsig, qpU_setQp_same]
      exact ⟨rfl, rfl⟩
    · rw [qpU_setQp_same]
      exact ⟨rfl, rfl⟩

/-- The boundary of a queue pair that does not retire leaves its ring. -/
theorem qpU_settleQp (p q : Nat) (s : State) (h : (qpU s p q).retiring = false) :
    sameRing (qpU (settleQp p q s) p q) (qpU s p q) := by
  unfold settleQp
  dsimp only
  rw [qpU_setQp_same]
  have hr : (qpLive (qpU s p q)).retiring = false := h
  simp only [hr, Bool.false_eq_true, false_and, and_false, if_false, qpU_setQp_same]
  exact ⟨rfl, rfl⟩

/-- Host memory and the instances, which only a reply's slot and a logged page change. -/
def storeView (s : State) : Tbl Byte × Tbl Inst := (s.host.mem, s.hif.inst)

theorem Counted.storeView {s t : State} (h : Counted s t) : storeView t = storeView s := by
  have e := congrArg Machine.storeView (show _ = s from h)
  exact e

theorem storeView_replySignal (c : Cmd) (s : State) : storeView (replySignal c s) = storeView s :=
  ite_keeps storeView rfl (ite_keeps storeView rfl (ite_keeps storeView (signal_counted ..).storeView rfl))

theorem storeView_qpCheck (p q : Nat) (s : State) : storeView (qpCheck p q s) = storeView s := by
  unfold qpCheck
  dsimp only
  split
  · rfl
  · exact (signal_counted ..).storeView

theorem storeView_settleQp (p q : Nat) (s : State) : storeView (settleQp p q s) = storeView s :=
  ite_keeps storeView (ite_keeps storeView (storeView_qpCheck ..) rfl) rfl

/-- A reply whose slot answers and whose function does not log writes its 32 bytes and nothing else (R30). -/
theorem storeView_reply (c : Cmd) (r : Result) (s : State) (hport : c.port ≠ 256)
    (hlog : (instU s c.port).logging = false) (hok : hostOk s c.port (replySlot (qpU s c.port c.q)) 32 = true) :
    storeView (reply c r s) =
      storeView (hostPut (replySlot (qpU s c.port c.q)) (replyBytes s c r (qpU s c.port c.q)) s) := by
  have hdel : ∀ id t, storeView (delCmd id t) = storeView t := fun _ _ => rfl
  have hqp : ∀ p q v t, storeView (setQp p q v t) = storeView t := fun _ _ _ _ => rfl
  have hnolog : logWrite (cmdInst c) (replySlot (qpU s c.port c.q)) 32 (replyStamped c s) = replyStamped c s :=
    if_neg (show ¬ (instU s c.port).logging = true by simp [hlog])
  have hstore : ∀ b, replyStore c (qpU s c.port c.q) b (replyStamped c s) =
      hostPut (replySlot (qpU s c.port c.q)) b (replyStamped c s) := fun b => if_pos hok
  rw [reply_eq c r s hport, storeView_settleQp, hdel, storeView_replySignal, (replyEvents_counted ..).storeView, hqp, hnolog,
    hstore]
  rfl

theorem sameRing.trans {x y z : Qp} (h : sameRing x y) (k : sameRing y z) : sameRing x z := ⟨h.1.trans k.1, h.2.trans k.2⟩

/-- The reply takes the slot at cq_tail (R28). -/
theorem sameRing_reply (c : Cmd) (r : Result) (s : State) (hport : c.port ≠ 256)
    (hret : (qpU s c.port c.q).retiring = false) :
    sameRing (qpU (reply c r s) c.port c.q) (qpReplied (qpU s c.port c.q)) := by
  rw [reply_eq c r s hport]
  generalize replyStore c _ _ _ = u
  have hev : qpU (replyEvents c r (setQp c.port c.q (qpReplied (qpU s c.port c.q)) u)) c.port c.q =
      qpReplied (qpU s c.port c.q) := by
    rw [qpU, (replyEvents_counted ..).qps]
    exact qpU_setQp_same ..
  have hsig : sameRing (qpU (replySignal c (replyEvents c r (setQp c.port c.q (qpReplied (qpU s c.port c.q)) u))) c.port c.q)
      (qpReplied (qpU s c.port c.q)) := by
    unfold replySignal
    split
    · rw [hev]
      exact ⟨rfl, rfl⟩
    · have h := qpU_coalesce c.port c.q (replyEvents c r (setQp c.port c.q (qpReplied (qpU s c.port c.q)) u))
      rw [hev] at h
      exact h
  exact (qpU_settleQp c.port c.q (delCmd c.id _) (hsig.2.trans hret)).trans hsig

/-- Nothing is found under the number of a command that was taken away. -/
theorem find_filtered_id (l : List Cmd) (id : Nat) : (l.filter (fun x => x.id != id)).find? (fun x => x.id == id) = none := by
  rw [List.find?_eq_none]
  intro x hx
  simpa using (List.mem_filter.mp hx).2

theorem reply_cmds (c : Cmd) (r : Result) (s : State) :
    (reply c r s).hif.cmds = s.hif.cmds.filter (fun x => x.id != c.id) := by
  have e := congrArg (fun x : State => x.hif.cmds) (replyView_reply c r s)
  exact e

theorem reply_pwr (c : Cmd) (r : Result) (s : State) : (reply c r s).pwr = s.pwr := by
  have e := congrArg State.pwr (replyView_reply c r s)
  exact e

end Sys2Proof.Machine
end

section
/-! Entry into RESET, WATCH and OFF: what goes out before it, what an outage leaves of a write, and what is lost (R384). -/
namespace Sys2Proof.Machine
open Sys2Proof

/-- The state without the links and what counting changes. -/
def linkView (s : State) : State := { countView s with seq := s.seq, tlk := {} }

theorem Counted.linkView {s t : State} (h : Counted s t) : linkView t = linkView s := by
  have e := congrArg Machine.linkView (show _ = s from h)
  exact e

theorem linkView_passFrame (k ty src dst : Nat) (p : Bytes) (s : State) :
    linkView (passFrame k ty src dst p s) = linkView s :=
  ite_keeps linkView (blkEvent_counted ..).linkView rfl

theorem linkView_sendLeave (s : State) : linkView (sendLeave s) = linkView s :=
  foldl_keeps linkView _ (fun _ _ => linkView_passFrame ..) _ s

/-- The state without what an outage may leave of writes to BBRAM and the boot flash. -/
def cutView (s : State) : State := { s with free := 0, bbram := {}, glb := {}, kvt := { s.kvt with cuts := [] } }

theorem cutView_cutTrims (s : State) : cutView (cutTrims s) = cutView s := by
  refine ite_keeps cutView ((foldl_keeps cutView _ (fun s n => ?_) _ _).trans rfl) rfl
  split <;> rfl

theorem cutView_cutWrites (s : State) : cutView (cutWrites s) = cutView s := by
  have h : ∀ t, cutView { t with kvt := { t.kvt with cuts := [] } } = cutView t := fun _ => rfl
  unfold cutWrites
  rw [h]
  refine foldl_keeps cutView _ (fun s c => ?_) _ s
  dsimp only
  split <;> rfl

theorem cutView_cutFlash (s : State) : cutView (cutFlash s) = cutView s := by
  unfold cutFlash
  split
  · exact ite_keeps cutView rfl (ite_keeps cutView rfl rfl)
  · rfl

theorem cutView_cutShort (s : State) : cutView (cutShort s) = cutView s :=
  (cutView_cutFlash _).trans (cutView_cutWrites s)

theorem wipe_hostMem (m : Mode) (cause : Nat) (s : State) : (wipe m cause s).host = s.host := by
  have e := congrArg State.host ((cutView_cutShort _).trans (cutView_cutTrims s))
  exact e

/-- The burn in progress when RESET is entered is completed (R411). -/
def burnEnds (s : State) : State :=
  match s.lcs.burning with
  | some (n, v) => burnWord n v.toNat s
  | none => s

theorem enterReset_eq (cause : Nat) (s : State) : enterReset cause s =
    wipe .reset cause (burnEnds (if mayLock s.pwr.mode ∧ cause ≠ 2 then sendLeave s else s)) := rfl

theorem enterReset_hif (cause : Nat) (s : State) : (enterReset cause s).hif = {} := rfl

theorem enterReset_hostMem (cause : Nat) (s : State) : (enterReset cause s).host.mem = s.host.mem := by
  have hburn : ∀ t, (burnEnds t).host = t.host := fun t => by
    unfold burnEnds
    split <;> rfl
  have hsend : (sendLeave s).host.mem = s.host.mem := by
    have e := congrArg (fun x : State => x.host.mem) (linkView_sendLeave s)
    dsimp only [linkView, countView] at e
    exact e
  rw [enterReset_eq, wipe_hostMem, hburn]
  split
  · exact hsend
  · rfl

end Sys2Proof.Machine
end

section
/-! ENGINE_COMMAND_BOUNDARY (R29, R30, R52, R53, R132). -/
namespace Sys2Proof.Machine
open Sys2Proof

/-! ### The end of a command that is answered -/

/-- The state in which a command's reply is written: its units and its gang's reservations are free. -/
def freed (c : Cmd) (s : State) : State := unreserve c.id (releaseUnits c s)

theorem released_freed (c : Cmd) (s : State) : Released s (freed c s) :=
  (released_releaseUnits c s).trans (released_of_view (unitView_unreserve ..))

/-- What a released state shares with the state before. -/
theorem Released.fields {s t : State} (h : Released s t) : t.host.mem = s.host.mem ∧ t.host.bad = s.host.bad ∧
    t.host.noMaster = s.host.noMaster ∧ t.hif.qps = s.hif.qps ∧ t.hif.inst = s.hif.inst ∧ t.hif.ts = s.hif.ts ∧
    t.tlk = s.tlk ∧ t.pwr = s.pwr := by
  have e := congrArg (fun x : State => (x.host.mem, x.host.bad, x.host.noMaster, x.hif.qps, x.hif.inst, x.hif.ts, x.tlk,
    x.pwr)) h.1
  simp only [Prod.mk.injEq] at e
  exact e

/-- Did a digest engine of the command truncate (R245)? -/
def truncFound (c : Cmd) (s : State) : Bool := (cmdU s c.id).any Cmd.trunc

theorem conclude_some (r : Result) (c : Cmd) (s : State) :
    conclude (some r) c s = reply c { r with truncated := r.truncated || truncFound c (freed c s) } (freed c s) := by
  unfold conclude truncFound freed
  dsimp only
  cases cmdU (unreserve c.id (releaseUnits c s)) c.id <;> rfl

theorem truncFound_freed {c : Cmd} {s : State} (h : cmdU s c.id = some c) :
    (c.trunc = true → truncFound c (freed c s) = true) ∧
      (c.kind ≠ .dge → c.core = none → truncFound c (freed c s) = c.trunc) := by
  refine ⟨fun ht => ?_, fun hk hcore => ?_⟩
  · obtain ⟨b, hb, hbt⟩ := (released_freed c s).2.2 c.id c h
    unfold truncFound cmdU
    rw [hb]
    exact hbt ht
  · have hv : unitView (freed c s) = unitView s := (unitView_unreserve ..).trans (unitView_releaseUnits c s hk hcore)
    have hc : cmdU (freed c s) c.id = some c := by
      unfold cmdU
      rw [(unitView_fields hv).1]
      exact h
    exact congrArg (Option.any Cmd.trunc) hc

/-- A reply's bytes depend on the instance's log, the position and the timestamp alone. -/
theorem replyBytes_congr {s t : State} (c : Cmd) (r : Result) (qp : Qp) (hinst : t.hif.inst = s.hif.inst)
    (htlk : t.tlk = s.tlk) (hts : t.hif.ts = s.hif.ts) : replyBytes t c r qp = replyBytes s c r qp := by
  unfold replyBytes replyFlags engineId instU
  rw [hinst, htlk, hts]

/-- A command of this device that ends with a result writes its reply into the slot at cq_tail and nothing else. -/
theorem storeView_conclude {c : Cmd} {s : State} (r : Result) (hport : c.port ≠ 256)
    (hlog : (instU s c.port).logging = false) (hok : hostOk s c.port (replySlot (qpU s c.port c.q)) 32 = true) :
    storeView (conclude (some r) c s) = storeView (hostPut (replySlot (qpU s c.port c.q))
      (replyBytes s c { r with truncated := r.truncated || truncFound c (freed c s) } (qpU s c.port c.q)) s) := by
  obtain ⟨hmem, hbad, hmaster, hqps, hinst, hts, htlk, -⟩ := (released_freed c s).fields
  have hqp : qpU (freed c s) c.port c.q = qpU s c.port c.q := by unfold qpU; rw [hqps]
  have hlog' : (instU (freed c s) c.port).logging = false := by unfold instU; rw [hinst]; exact hlog
  have hok' : hostOk (freed c s) c.port (replySlot (qpU (freed c s) c.port c.q)) 32 = true := by
    rw [hqp]
    unfold hostOk
    rw [hbad, hmaster]
    exact hok
  rw [conclude_some, storeView_reply _ _ _ hport hlog' hok', hqp, replyBytes_congr _ _ _ hinst htlk hts]
  unfold storeView hostPut
  dsimp only
  rw [hmem, hinst]

theorem cqTail_conclude {c : Cmd} {s : State} (r : Result) (hport : c.port ≠ 256)
    (hret : (qpU s c.port c.q).retiring = false) :
    (qpU (conclude (some r) c s) c.port c.q).cqTail = (qpReplied (qpU s c.port c.q)).cqTail := by
  obtain ⟨-, -, -, hqps, -⟩ := (released_freed c s).fields
  have hqp : qpU (freed c s) c.port c.q = qpU s c.port c.q := by unfold qpU; rw [hqps]
  have h := sameRing_reply c { r with truncated := r.truncated || truncFound c (freed c s) } (freed c s) hport
    (by rw [hqp]; exact hret)
  rw [hqp] at h
  rw [conclude_some]
  exact h.1

theorem cmdU_conclude (r : Result) (c : Cmd) (s : State) : cmdU (conclude (some r) c s) c.id = none := by
  unfold cmdU
  rw [conclude_some, reply_cmds]
  exact find_filtered_id _ _

/-! ### What follows the reply -/

/-- The host side of the state: host memory and messages, queue pairs, commands, instances. -/
def hostView (s : State) : HostMem × Hif := (s.host, s.hif)

theorem hostView_fields {s t : State} (h : hostView t = hostView s) : t.host = s.host ∧ t.hif = s.hif := by
  unfold hostView at h
  simp only [Prod.mk.injEq] at h
  exact h

theorem hostView_gateGroup (g : Nat) (s : State) : hostView (gateGroup g s) = hostView s := by
  have h : ∀ (t : State) p e, hostView { t with pwr := p, ent := e } = hostView t := fun _ _ _ => rfl
  unfold gateGroup
  dsimp only
  rw [h]
  refine foldl_keeps hostView _ (fun _ _ => ?_) _ s
  rfl

theorem hostView_markEngines (k : Cast) (s : State) : hostView (markEngines k s) = hostView s := by
  refine foldl_keeps hostView _ (fun s n => ?_) _ s
  split
  · exact ite_keeps hostView (ite_keeps hostView rfl rfl) rfl
  · rfl

/-- The group of a command that ran in the recovery buffer is gated again (R111). -/
def recoveryEnds (c : Cmd) (s : State) : State :=
  if recoveryMode s ∧ c.kind = .hub then gateGroup (c.unit / 4) { s with hub := { s.hub with recovery := [] } } else s

/-- `afterReply` up to what depends on the opcode: programs unloaded, superseded keys freed, the recovery engine gated, a
stop lifted. -/
def afterReplyBase (c : Cmd) (s : State) : State :=
  let s := recoveryEnds c (dropExts (freeOld s))
  if s.kvt.stops.contains c.id then
    { s with kvt := { s.kvt with
        stops := s.kvt.stops.filter (· != c.id), invalidations := min 0xFFFF (s.kvt.invalidations + 1) } }
  else s

theorem hostView_recoveryEnds (c : Cmd) (s : State) : hostView (recoveryEnds c s) = hostView s :=
  ite_keeps hostView (hostView_gateGroup ..) rfl

theorem hostView_afterReplyBase (c : Cmd) (s : State) : hostView (afterReplyBase c s) = hostView s := by
  have h : ∀ t, hostView (recoveryEnds c (dropExts (freeOld t))) = hostView t := fun t => hostView_recoveryEnds ..
  unfold afterReplyBase
  dsimp only
  split
  · exact h s
  · exact h s

/-- What follows a reply by its opcode: one case each for INST_SET_SHIELD, INST_MIGRATE_LOG, LC_ADVANCE and UNLOCK that
completed, and any other command. -/
theorem afterReply_cases (c : Cmd) (s : State) :
    (cmdOp c = .adm 0x0F16 ∧ c.res.status = 0 ∧ afterReply c s = setShield c (afterReplyBase c s)) ∨
    (cmdOp c = .adm 0x0F17 ∧ c.res.status = 0 ∧ afterReply c s = setLog c (afterReplyBase c s)) ∨
    (cmdOp c = .adm 0x0F20 ∧ c.res.status = 0 ∧ afterReply c s = enterReset 5 (afterReplyBase c s)) ∨
    (cmdOp c = .adm 0x0F21 ∧ c.res.status = 0 ∧ afterReply c s = enterReset 6 (afterReplyBase c s)) ∨
    (¬ (cmdOp c = .adm 0x0F16 ∧ c.res.status = 0) ∧ afterReply c s = afterReplyBase c s) := by
  have e : afterReply c s = (match cmdOp c, c.res.status with
    | .adm 0x0F16, 0 => setShield c (afterReplyBase c s)
    | .adm 0x0F17, 0 => setLog c (afterReplyBase c s)
    | .adm 0x0F20, 0 => enterReset 5 (afterReplyBase c s)
    | .adm 0x0F21, 0 => enterReset 6 (afterReplyBase c s)
    | _, _ => afterReplyBase c s) := rfl
  rw [e]
  generalize cmdOp c = op
  generalize c.res.status = st
  split
  · simp
  · simp
  · simp
  · simp
  · next h1 _ _ _ => exact .inr (.inr (.inr (.inr ⟨fun h => h1 h.1 h.2, rfl⟩)))

/-- Memory, rings and commands: what setting an instance's order or log leaves. -/
def answerView (s : State) : Tbl Byte × Tbl Qp × List Cmd := (s.host.mem, s.hif.qps, s.hif.cmds)

theorem Counted.answerView {s t : State} (h : Counted s t) : answerView t = answerView s := by
  have e := congrArg Machine.answerView (show _ = s from h)
  exact e

theorem answerView_afterReplyBase (c : Cmd) (s : State) : answerView (afterReplyBase c s) = answerView s := by
  obtain ⟨h, k⟩ := hostView_fields (hostView_afterReplyBase c s)
  unfold answerView
  rw [h, k]

theorem answerView_setShield (c : Cmd) (s : State) : answerView (setShield c s) = answerView s := by
  unfold setShield
  dsimp only
  split <;> rfl

theorem answerView_setLog (c : Cmd) (s : State) : answerView (setLog c s) = answerView s :=
  ite_keeps answerView rfl (ite_keeps answerView rfl (signal_counted ..).answerView)

theorem instU_setShield (c : Cmd) (s : State) (hst : (instU (setShield c s) (byteAt c.pkt 40)).st ≠ .absent)
    (hst' : (instU (setShield c s) (byteAt c.pkt 40)).st ≠ .exported) :
    (instU (setShield c s) (byteAt c.pkt 40)).order = byteAt c.pkt 45 := by
  unfold setShield at *
  dsimp only at *
  split at hst
  · next h => exact absurd h hst
  · next h =>
    simp only [h] at hst'
    exact absurd rfl hst'
  · rw [instU_setInst_same]

/-- What a command's own reply has set stays: host memory, and nothing under the command's number; the ring, but for
LC_ADVANCE and UNLOCK, which enter RESET. -/
theorem afterReply_keeps (c : Cmd) (s : State) : (afterReply c s).host.mem = s.host.mem ∧
    (cmdU s c.id = none → cmdU (afterReply c s) c.id = none) ∧
    (cmdOp c ≠ .adm 0x0F20 → cmdOp c ≠ .adm 0x0F21 → (afterReply c s).hif.qps = s.hif.qps) := by
  have hkept : ∀ t, answerView t = answerView s → t.host.mem = s.host.mem ∧ (cmdU s c.id = none → cmdU t c.id = none) ∧
      (cmdOp c ≠ .adm 0x0F20 → cmdOp c ≠ .adm 0x0F21 → t.hif.qps = s.hif.qps) := fun t h => by
    unfold answerView at h
    simp only [Prod.mk.injEq] at h
    obtain ⟨hmem, hqps, hcmds⟩ := h
    exact ⟨hmem, fun hn => by unfold cmdU; rw [hcmds]; exact hn, fun _ _ => hqps⟩
  have hreset : ∀ k, (enterReset k (afterReplyBase c s)).host.mem = s.host.mem := fun k => by
    rw [enterReset_hostMem, (hostView_fields (hostView_afterReplyBase c s)).1]
  have hnone : ∀ k, cmdU (enterReset k (afterReplyBase c s)) c.id = none := fun k => by
    unfold cmdU
    rw [enterReset_hif]
    rfl
  have hbase := answerView_afterReplyBase c s
  rcases afterReply_cases c s with ⟨-, -, e⟩ | ⟨-, -, e⟩ | ⟨hop, -, e⟩ | ⟨hop, -, e⟩ | ⟨-, e⟩ <;> rw [e]
  · exact hkept _ ((answerView_setShield ..).trans hbase)
  · exact hkept _ ((answerView_setLog ..).trans hbase)
  · exact ⟨hreset 5, fun _ => hnone 5, fun h _ => absurd hop h⟩
  · exact ⟨hreset 6, fun _ => hnone 6, fun _ h => absurd hop h⟩
  · exact hkept _ hbase

theorem afterReply_shield (c : Cmd) (s : State) (hop : cmdOp c = .adm 0x0F16) (hst : c.res.status = 0) :
    afterReply c s = setShield c (afterReplyBase c s) := by
  rcases afterReply_cases c s with ⟨-, -, e⟩ | ⟨h, -⟩ | ⟨h, -⟩ | ⟨h, -⟩ | ⟨h, -⟩
  · exact e
  · simp [hop] at h
  · simp [hop] at h
  · simp [hop] at h
  · exact absurd ⟨hop, hst⟩ h

/-- A finished command of this device that waits for nothing more ends: its reply, then what follows it. -/
theorem exec_engineCommandBoundary {s : State} {c : Cmd} (hcmd : cmdU s c.id = some c) (hfin : c.phase = .finished)
    (hcast : s.tlk.bcasts = []) (hlc : s.lcs.lcCmd = none) (hpause : ∀ i, (instU s i).pauseCmd = none)
    (hstamp : cmdOp c ≠ .adm 0x0F02 ∨ c.res.status ≠ stsOk) : exec (.engineCommandBoundary c.id) s =
      .next (afterReply c ((supersededBy s c.id).foldl (fun s k => markEngines (castKey k.tag) s)
        (conclude (some c.res) c s))) := by
  have hexec : exec (.engineCommandBoundary c.id) s = execEngineCommandBoundary c.id s := rfl
  have hnostamp : stampStatus c s = s := if_neg fun h => hstamp.elim (fun k => k h.1) (fun k => k h.2)
  rw [hexec, execEngineCommandBoundary, hcmd]
  dsimp only
  rw [if_pos (by simp [hfin, hcast, hlc, hpause]), hnostamp]

/-- Settles O40: the reply is the one store, `afterReply` keeps what it set, and the truncation is the result's or the one a
digest engine noted when it was released. -/
theorem commandBoundaryWritesTheReply : Obligations.CommandBoundaryWritesTheReply := by
  unfold Obligations.CommandBoundaryWritesTheReply
  intro s id c hcmd hid hfin hport hcast hlc hpause hlog hok hstamp
  subst hid
  have hport' : c.port ≠ 256 := Nat.ne_of_lt hport
  obtain ⟨htrunc, hplain⟩ := truncFound_freed hcmd
  set u := (supersededBy s c.id).foldl (fun s k => markEngines (castKey k.tag) s) (conclude (some c.res) c s) with hu
  obtain ⟨hhost, hhif⟩ := hostView_fields (foldl_keeps hostView (fun s (k : KeyObj) => markEngines (castKey k.tag) s)
    (fun s k => hostView_markEngines _ s) (supersededBy s c.id) (conclude (some c.res) c s))
  rw [← hu] at hhost hhif
  obtain ⟨hmem, hnone, hqps⟩ := afterReply_keeps c u
  refine ⟨afterReply c u, c.res.truncated || truncFound c (freed c s),
    exec_engineCommandBoundary hcmd hfin hcast hlc hpause hstamp, hnone ?_, ?_, fun h => ?_, fun hk hcore hno => ?_,
    fun hop hst hab hex => ?_, fun h20 h21 hret => ?_⟩
  · unfold cmdU
    rw [hhif]
    exact cmdU_conclude c.res c s
  · rw [hmem, hhost]
    exact congrArg Prod.fst (storeView_conclude c.res hport' hlog hok)
  · rcases h with h | h
    · simp [h]
    · simp [htrunc h]
  · rw [hplain hk hcore, hno, Bool.or_false]
  · rw [afterReply_shield c u hop hst] at *
    exact instU_setShield _ _ hab hex
  · unfold qpU
    rw [hqps h20 h21, hhif]
    exact cqTail_conclude c.res hport' hret

end Sys2Proof.Machine
end

section
/-! A change of the mode, and the rows of the supplies, RESET, FREEWHEEL, SURGE and TEST (chapters 18 and 19). -/
namespace Sys2Proof.Machine
open Sys2Proof

/-! ### A change of the mode (R25, R130, R381) -/

/-- The state without what a mode change does beside the mode: retained keys dropped, vector 0 signalled. -/
def keyView (s : State) : State :=
  { s with hub := {}, host := { s.host with msgs := [] }, hif := { s.hif with msix := [] } }

theorem keyView_dropIdleKeys (s : State) : keyView (dropIdleKeys s) = keyView s := by
  refine foldl_keeps keyView _ (fun s n => ?_) _ s
  exact ite_keeps keyView rfl rfl

theorem keyView_signal (fn v : Nat) (s : State) : keyView (signal fn v s) = keyView s :=
  ite_keeps keyView rfl (ite_keeps keyView rfl rfl)

theorem keyView_signalPorts (s : State) : keyView (signalPorts s) = keyView s :=
  foldl_keeps keyView _ (fun s f => keyView_signal f 0 s) _ s

/-- The registers of a change into mode `m`. -/
def modeSet (m : Mode) (s : State) : State :=
  { s with pwr := { s.pwr with mode := m, prev := s.pwr.mode }, pins := { s.pins with smbAlert := true } }

/-- The state a mode change starts from: on leaving FREEWHEEL the timestamp has advanced (R56). -/
def modeLeft (s : State) : State := if s.pwr.mode = .freewheel then stampWake s else s

theorem modeLeft_awake {s : State} (h : s.pwr.mode ≠ .freewheel) : modeLeft s = s := if_neg h

theorem keyView_setMode {m : Mode} {s : State} (h : s.pwr.mode ≠ m) :
    keyView (setMode m s) = keyView (modeSet m (modeLeft s)) := by
  have hpwr : (modeLeft s).pwr = s.pwr := by
    unfold modeLeft
    split <;> rfl
  have hset : keyView (dropIdleKeys { modeLeft s with
      pwr := { (modeLeft s).pwr with mode := m, prev := s.pwr.mode }
      pins := { (modeLeft s).pins with smbAlert := true } }) = keyView (modeSet m (modeLeft s)) := by
    rw [keyView_dropIdleKeys, modeSet, hpwr]
  unfold setMode
  dsimp only
  rw [if_neg h]
  exact ite_keeps keyView ((keyView_signalPorts _).trans hset) hset

/-- What a state and one of the same `keyView` share. -/
theorem keyView_fields {s t : State} (h : keyView t = keyView s) : t.pwr = s.pwr ∧ t.pins = s.pins ∧
    t.hif.cmds = s.hif.cmds ∧ t.hif.inst = s.hif.inst ∧ t.hif.ts = s.hif.ts ∧ t.hif.asleep = s.hif.asleep ∧ t.drl = s.drl ∧
    t.kvt = s.kvt ∧ t.bbram = s.bbram ∧ t.ent = s.ent ∧ t.mem = s.mem ∧ t.lcs = s.lcs ∧ t.tmp = s.tmp := by
  have e := congrArg (fun x : State => (x.pwr, x.pins, x.hif.cmds, x.hif.inst, x.hif.ts, x.hif.asleep, x.drl, x.kvt, x.bbram,
    x.ent, x.mem, x.lcs, x.tmp)) h
  simp only [Prod.mk.injEq] at e
  exact e

/-! ### The always-on clock and its supply (R379, R380, R431, R495) -/

theorem crystal_rows {s : State} (h : s.pwr.mode ≠ .off) :
    exec .aoCrystalStart s = .next { s with
      tmp := { s.tmp with crystal := true, armed7 := true }, pwr := { s.pwr with aoRc := false } } ∧
    exec .aoCrystalStop s = .next { s with tmp := { s.tmp with crystal := false }, pwr := { s.pwr with aoRc := true } } :=
  ⟨congrArg Host.Outcome.next (if_pos h), congrArg Host.Outcome.next (if_pos h)⟩

theorem logTamper_source (source cls flags detail : Nat) (s : State) :
    (Tbl.get {} (logTamper source cls flags detail s).bbram.log s.bbram.logSlot).source = source := by
  unfold logTamper
  dsimp only
  rw [Tbl.get_set_same]

theorem aoPowerUp_from_off {s : State} (h : s.pwr.mode = .off) (vbat vddIo : Bool) (hv : vbat = true ∨ vddIo = true) :
    ∃ t, exec (.aoPowerUp vbat vddIo) s = .next t ∧
      t.pwr.mode = .watch ∧ t.pwr.aoRc = true ∧ t.tmp.bbramLost = true ∧ t.tmp.sealed = false ∧ t.bbram.lockFlag = false ∧
      t.bbram.intSeed = none ∧ t.bbram.retRoot = none ∧ (Tbl.get {} t.bbram.log 0).source = 13 ∧ t.lcs.otp = s.lcs.otp := by
  refine ⟨_, congrArg Host.Outcome.next (if_pos ⟨h, hv⟩), rfl, rfl, rfl, rfl, rfl, rfl, rfl, ?_, rfl⟩
  exact logTamper_source ..

theorem aoPowerUp_elsewhere {s : State} (h : s.pwr.mode ≠ .off) (vbat vddIo : Bool) :
    exec (.aoPowerUp vbat vddIo) s = .next s :=
  congrArg Host.Outcome.next (if_neg fun k => h k.1)

/-! ### Loss of the main state (R383, R384, R399) -/

/-- No write to BBRAM, boot flash or OTP is under way that an outage could cut short. -/
def writesDone (s : State) : Prop :=
  s.lcs.burning = none ∧ (mayTrim s = false ∨ s.pwr.trimmed = true) ∧ (∀ p ∈ s.kvt.cuts, cmdU s p.1 = none) ∧
    (∀ p ∈ s.glb.staging, cmdU s p.1 = none)

theorem cutTrims_done {s : State} (h : mayTrim s = false ∨ s.pwr.trimmed = true) : cutTrims s = s := by
  refine if_neg fun k => ?_
  rcases h with h | h
  · simp [h] at k
  · exact k.2 h

theorem cutWrites_done {s : State} (h : ∀ p ∈ s.kvt.cuts, cmdU s p.1 = none) :
    cutWrites s = { s with kvt := { s.kvt with cuts := [] } } := by
  have hnone : s.kvt.cuts.filter (fun c => (cmdU s c.1).isSome) = [] :=
    List.filter_eq_nil_iff.mpr fun p hp => by simp [h p hp]
  unfold cutWrites
  rw [hnone]
  rfl

theorem cutFlash_done {s : State} (h : ∀ p ∈ s.glb.staging, cmdU s p.1 = none) :
    (cutFlash s).bbram = s.bbram ∧ (cutFlash s).glb.flashA = s.glb.flashA ∧ (cutFlash s).glb.flashB = s.glb.flashB := by
  unfold cutFlash
  split
  · next id k hs =>
    have hn : cmdU s id = none := h (id, k) hs
    have hn' : (cmdU { s with glb := { s.glb with staging := none } } id).isNone = true := by
      have e : cmdU { s with glb := { s.glb with staging := none } } id = cmdU s id := rfl
      rw [e, hn]
      rfl
    dsimp only
    rw [if_pos hn']
    exact ⟨rfl, rfl, rfl⟩
  · exact ⟨rfl, rfl, rfl⟩

theorem cuts_done {s : State} (h : writesDone s) : (cutShort (cutTrims s)).bbram = s.bbram ∧
    (cutShort (cutTrims s)).glb.flashA = s.glb.flashA ∧ (cutShort (cutTrims s)).glb.flashB = s.glb.flashB := by
  obtain ⟨-, htrim, hcuts, hstage⟩ := h
  rw [cutTrims_done htrim, cutShort, cutWrites_done hcuts]
  exact cutFlash_done (s := { s with kvt := { s.kvt with cuts := [] } }) hstage

/-- What the main state's loss keeps beside BBRAM and the flash, and the power registers it leaves. -/
theorem cuts_keep (s : State) : (cutShort (cutTrims s)).pwr = s.pwr ∧ (cutShort (cutTrims s)).lcs = s.lcs ∧
    (cutShort (cutTrims s)).host = s.host ∧ (cutShort (cutTrims s)).pending = s.pending := by
  have e := congrArg (fun x : State => (x.pwr, x.lcs, x.host, x.pending)) ((cutView_cutShort _).trans (cutView_cutTrims s))
  simp only [Prod.mk.injEq] at e
  exact e

theorem volatileLost_wipe {s : State} (h : writesDone s) (m : Mode) (cause : Nat) : volatileLost s (wipe m cause s) := by
  obtain ⟨hbb, hA, hB⟩ := cuts_done h
  obtain ⟨-, hlcs, hhost, hpend⟩ := cuts_keep s
  have hotp : (cutShort (cutTrims s)).lcs.otp = s.lcs.otp := by rw [hlcs]
  have hmem : (cutShort (cutTrims s)).host.mem = s.host.mem := by rw [hhost]
  exact ⟨hbb, hotp, hA, hB, hmem, rfl, rfl, rfl, rfl, rfl, rfl, rfl, rfl, rfl, rfl, rfl,
    rfl, hpend⟩

/-- The power registers once the main state is lost: of those before, the supplies' and DRAIN's record stay. -/
def pwrAfterLoss (m : Mode) (cause : Nat) (p : Pwr) : Pwr := { State.reset.pwr with
  mode := m, prev := p.mode, cause := cause, aoRc := p.aoRc
  drainAbandoned := p.drainAbandoned, drainCut := p.drainCut, drainSource := p.drainSource
  drainDur := p.drainDur, dramRails := p.dramRails, warnPin := p.warnPin }

theorem wipe_pwr (m : Mode) (cause : Nat) (s : State) : (wipe m cause s).pwr = pwrAfterLoss m cause s.pwr := by
  unfold wipe pwrAfterLoss
  dsimp only
  rw [(cuts_keep s).1]

theorem cutBurn_done {s : State} (h : writesDone s) : cutBurn s = s := by
  unfold cutBurn
  rw [h.1]

theorem burnEnds_done {s : State} (h : writesDone s) : burnEnds s = s := by
  unfold burnEnds
  rw [h.1]

theorem linkView_writesDone {s t : State} (h : linkView t = linkView s) (hs : writesDone s) : writesDone t := by
  have e : writesDone (linkView t) = writesDone (linkView s) := congrArg writesDone h
  exact e.mpr hs

theorem linkView_volatileLost {s t u : State} (h : linkView t = linkView s) (ht : volatileLost t u) : volatileLost s u := by
  have e : volatileLost (linkView t) u = volatileLost (linkView s) u := congrArg (volatileLost · u) h
  exact e.mp ht

/-- RESET is entered with the main state lost and its cause set; a LEAVE that goes out before changes the links alone. -/
theorem enterReset_done {s : State} (h : writesDone s) (cause : Nat) :
    volatileLost s (enterReset cause s) ∧ (enterReset cause s).pwr = pwrAfterLoss .reset cause s.pwr := by
  have key : ∀ t, linkView t = linkView s → volatileLost s (wipe .reset cause (burnEnds t)) ∧
      (wipe .reset cause (burnEnds t)).pwr = pwrAfterLoss .reset cause s.pwr := by
    intro t ht
    have hpwr : t.pwr = s.pwr := by
      have e := congrArg State.pwr ht
      exact e
    rw [burnEnds_done (linkView_writesDone ht h), wipe_pwr, hpwr]
    exact ⟨linkView_volatileLost ht (volatileLost_wipe (linkView_writesDone ht h) _ _), rfl⟩
  rw [enterReset_eq]
  split
  · exact key _ (linkView_sendLeave s)
  · exact key _ rfl

theorem supplyLoss_done {s : State} (h : writesDone s) (hm : s.pwr.mode ≠ .off) :
    ∃ t, exec .supplyLoss s = .next t ∧ t.pwr.mode = .off ∧ volatileLost s t := by
  have e : exec .supplyLoss s = .next (wipe .off s.pwr.cause (cutBurn s)) := congrArg Host.Outcome.next (if_neg hm)
  rw [e, cutBurn_done h]
  exact ⟨_, rfl, rfl, volatileLost_wipe h _ _⟩

theorem mainRailLoss_done {s : State} (h : writesDone s) (hm : s.pwr.mode ≠ .off) (hw : s.pwr.mode ≠ .watch) :
    ∃ t, exec .mainRailLoss s = .next t ∧ t.pwr.mode = .watch ∧ t.pwr.dramRails = false ∧ t.pwr.warnPin = false ∧
      volatileLost s t := by
  have e : exec .mainRailLoss s = .next { wipe .watch s.pwr.cause (cutBurn s) with
      pwr := { (wipe .watch s.pwr.cause (cutBurn s)).pwr with dramRails := false, warnPin := false } } :=
    congrArg Host.Outcome.next (if_neg (not_or.mpr ⟨hm, hw⟩))
  rw [e, cutBurn_done h]
  exact ⟨_, rfl, rfl, rfl, rfl, volatileLost_wipe h .watch s.pwr.cause⟩

/-- The mode and cause that entry into RESET leaves. -/
theorem enterReset_mode {s t : State} (h : writesDone s) (cause : Nat) (ht : t = enterReset cause s) :
    t.pwr.mode = .reset ∧ t.pwr.cause = cause ∧ volatileLost s t := by
  obtain ⟨hv, hp⟩ := enterReset_done h cause
  rw [ht, hp]
  exact ⟨rfl, rfl, hv⟩

theorem mainRailsValid_done {s : State} (h : writesDone s) (hm : s.pwr.mode = .watch) :
    ∃ t, exec .mainRailsValid s = .next t ∧ t.pwr.mode = .reset ∧ t.pwr.cause = 0 ∧ volatileLost s t :=
  ⟨_, congrArg Host.Outcome.next (if_pos hm), enterReset_mode h 0 rfl⟩

theorem perstNAssert_done {s : State} (h : writesDone s) (hm : fltOpen s.pwr.mode = true) :
    ∃ t, exec .perstNAssert s = .next t ∧ t.pwr.mode = .reset ∧ t.pwr.cause = 1 ∧ volatileLost s t :=
  ⟨_, congrArg Host.Outcome.next (if_pos hm), enterReset_mode h 1 rfl⟩

theorem touch_awake {s : State} (src : Src) (h : s.pwr.mode ≠ .freewheel) : touch src s = s := by
  cases src with
  | host fn => exact wake_awake h
  | core | debug => rfl

theorem exec_glbSoftReset {s : State} (src : Src) (v : Word) (h : s.pwr.mode ≠ .freewheel) :
    exec (.glbSoftReset src v) s = .next (if glbOpen src s = true ∧ v = 0xB007 then enterReset 3 s else s) := by
  have e : exec (.glbSoftReset src v) s = .next (if glbOpen src (touch src s) = true ∧ v = 0xB007 then
    enterReset 3 (touch src s) else touch src s) := rfl
  rw [e, touch_awake src h]

theorem glbSoftReset_done {s : State} (h : writesDone s) (src : Src) (ho : glbOpen src s = true)
    (hm : s.pwr.mode ≠ .freewheel) : ∃ t, exec (.glbSoftReset src 0x0000B007) s = .next t ∧
      t.pwr.mode = .reset ∧ t.pwr.cause = 3 ∧ volatileLost s t := by
  rw [exec_glbSoftReset src _ hm, if_pos ⟨ho, rfl⟩]
  exact ⟨_, rfl, enterReset_mode h 3 rfl⟩

theorem drainResetEntry_done {s : State} (h : writesDone s) (hm : s.pwr.mode = .drain) (us : Nat) (hus : us < 0x10000) :
    ∃ t, exec (.drainResetEntry us) s = .next t ∧ t.pwr.mode = .reset ∧
        t.pwr.cause = 2 ∧ t.pwr.drainDur = us ∧ t.pwr.drainAbandoned = s.pwr.drainAbandoned ∧
        t.pwr.drainCut = s.pwr.drainCut ∧ volatileLost s t := by
  have e : exec (.drainResetEntry us) s =
      .next (enterReset 2 { s with pwr := { s.pwr with drainDur := us % 0x10000 } }) := congrArg Host.Outcome.next (if_pos hm)
  obtain ⟨hv, hp⟩ := enterReset_done (s := { s with pwr := { s.pwr with drainDur := us % 0x10000 } }) h 2
  rw [e]
  refine ⟨_, rfl, ?_⟩
  rw [hp]
  exact ⟨rfl, rfl, Nat.mod_eq_of_lt hus, rfl, rfl, hv⟩

theorem glbSoftReset_otherWord {s : State} (src : Src) (v : Word) (hm : s.pwr.mode ≠ .freewheel) (hv : v ≠ 0x0000B007) :
    exec (.glbSoftReset src v) s = .next s := by
  rw [exec_glbSoftReset src v hm, if_neg fun h => hv h.2]

theorem glbSoftReset_otherFunction {s : State} (fn : Fin 256) (v : Word) (hf : fn ≠ 0) (hm : s.pwr.mode ≠ .freewheel) :
    exec (.glbSoftReset (.host fn) v) s = .next s := by
  rw [exec_glbSoftReset _ v hm, if_neg fun h => ?_]
  simp [glbOpen, reaches, srcOk, hf] at h

/-! ### RESET ends, and the first steps of BOOT (R385, R400, R480) -/

theorem resetRelease_leaves {s : State} (role : Fin 4) (cascId : Fin 8) (bootSrc : Fin 4) (h : s.pwr.mode = .reset) :
    ∃ t, exec (.resetRelease role cascId bootSrc) s = .next t ∧ t.pwr.mode = .boot ∧
        t.pwr.prev = .reset ∧ t.pins.cascRole = role ∧ t.pins.cascId = cascId ∧ t.pins.bootSrc = bootSrc ∧ instU t 0 = instZero ∧
        t.tmp.hostifStopped = false ∧ t.pwr.warnPin = false ∧ t.hif.cmds = s.hif.cmds ∧ t.bbram = s.bbram ∧ t.lcs = s.lcs := by
  set u : State := setInst 0 instZero { s with
      pins := { s.pins with cascRole := role, cascId := cascId, bootSrc := bootSrc }
      tmp := { s.tmp with hostifStopped := false }
      pwr := { s.pwr with warnPin := false } } with hu
  have hmode : u.pwr.mode = .reset := h
  have e : exec (.resetRelease role cascId bootSrc) s = .next (setMode .boot u) := congrArg Host.Outcome.next (if_pos h)
  have hk := keyView_setMode (m := .boot) (s := u) (by rw [hmode]; decide)
  rw [modeLeft_awake (by rw [hmode]; decide)] at hk
  obtain ⟨hpwr, hpins, hcmds, hinst, -, -, -, -, hbb, -, -, hlcs, htmp⟩ := keyView_fields hk
  refine ⟨_, e, ?_⟩
  unfold instU
  rw [hpwr, hpins, hcmds, hinst, hbb, hlcs, htmp]
  exact ⟨rfl, hmode, rfl, rfl, rfl, instU_setInst_same .., rfl, rfl, rfl, rfl, rfl⟩

/-! ### FREEWHEEL (R56, R386, R387) -/

/-- The state without what gating an engine group changes. -/
def gateView (s : State) : State :=
  { s with hub := {}, pwr := { s.pwr with groups := [] }, ent := { s.ent with seedQ := [], seedFly := [] } }

theorem gateGroup_eq (g : Nat) (s : State) : ∃ h, gateGroup g s = { s with
    hub := h, pwr := { s.pwr with groups := s.pwr.groups.filter (· != g) }
    ent := { s.ent with seedQ := s.ent.seedQ.filter (fun n => n / 4 != g), seedFly := s.ent.seedFly.filter (fun n => n / 4 != g) } } := by
  have hfold : ∀ (f : Engine → Engine) (l : List Nat) (t : State),
      ∃ h, l.foldl (fun s i => updEng (4 * g + i) f s) t = { t with hub := h } := by
    intro f l
    induction l with
    | nil => exact fun t => ⟨t.hub, rfl⟩
    | cons i l ih =>
      intro t
      obtain ⟨h, e⟩ := ih (updEng (4 * g + i) f t)
      exact ⟨h, e⟩
  unfold gateGroup
  dsimp only
  obtain ⟨h, e⟩ := hfold _ (List.range 4) s
  rw [e]
  exact ⟨h, rfl⟩

theorem gateGroup_pwr (g : Nat) (s : State) :
    (gateGroup g s).pwr = { s.pwr with groups := s.pwr.groups.filter (· != g) } := by
  obtain ⟨h, e⟩ := gateGroup_eq g s
  rw [e]

theorem gateView_gateGroup (g : Nat) (s : State) : gateView (gateGroup g s) = gateView s := by
  obtain ⟨h, e⟩ := gateGroup_eq g s
  rw [e]
  rfl

theorem gateGroups_groups (l : List Nat) (s : State) : (l.foldl (fun s g => gateGroup g s) s).pwr.groups =
    s.pwr.groups.filter (fun x => decide (x ∉ l)) := by
  induction l generalizing s with
  | nil => simp
  | cons g l ih =>
    rw [List.foldl_cons, ih, gateGroup_pwr, List.filter_filter]
    refine List.filter_congr fun x _ => ?_
    by_cases h : x = g <;> simp [h]

/-- Every powered group is gated, and counted. -/
def groupsShut (s : State) : State := s.pwr.groups.foldl (fun s g => gateGroup g s) (blkEvent .pwr 0x10 1 s)

theorem groupsShut_groups (s : State) : (groupsShut s).pwr.groups = [] := by
  unfold groupsShut
  rw [gateGroups_groups, (blkEvent_counted ..).pwr]
  exact List.filter_eq_nil_iff.mpr fun x hx => by simp [hx]

/-- What a state and one of the same `gateView` share. -/
theorem gateView_fields {s t : State} (h : gateView t = gateView s) : t.pwr.mode = s.pwr.mode ∧ t.hif.ts = s.hif.ts ∧
    t.hif.inst = s.hif.inst ∧ t.kvt = s.kvt := by
  have e := congrArg (fun x : State => (x.pwr.mode, x.hif.ts, x.hif.inst, x.kvt)) h
  simp only [Prod.mk.injEq] at e
  exact e

theorem groupsShut_keeps (s : State) : (groupsShut s).pwr.mode = s.pwr.mode ∧ (groupsShut s).hif.ts = s.hif.ts ∧
    (groupsShut s).hif.inst = s.hif.inst ∧ (groupsShut s).kvt = s.kvt := by
  have hc := blkEvent_counted .pwr 0x10 1 s
  have hfold : gateView (groupsShut s) = gateView (blkEvent .pwr 0x10 1 s) :=
    foldl_keeps gateView (fun s g => gateGroup g s) (fun s g => gateView_gateGroup g s) _ _
  obtain ⟨hmode, hts, hinst, hkvt⟩ := gateView_fields hfold
  exact ⟨hmode.trans (congrArg Pwr.mode hc.pwr), hts.trans hc.ts, hinst.trans hc.inst, hkvt.trans hc.kvt⟩

theorem freewheelEntry_leaves {s : State} (hm : s.pwr.mode = .service) (hen : s.pwr.fwEn = true) (hidle : allIdle s = true) :
    ∃ t, exec .freewheelEntry s = .next t ∧
      t.pwr.mode = .freewheel ∧ t.pwr.groups = [] ∧ t.pwr.fabLock = false ∧ t.pwr.seqLock = false ∧ t.pwr.dramLock = false ∧
      t.mem.selfRefresh = true ∧ t.hif.asleep = 0 ∧ t.hif.ts = s.hif.ts ∧ t.kvt = s.kvt ∧ t.hif.inst = s.hif.inst := by
  obtain ⟨hmode, hts, hinst, hkvt⟩ := groupsShut_keeps s
  have hgroups := groupsShut_groups s
  set g := groupsShut s with hg
  set u : State := { g with
      mem := { g.mem with selfRefresh := true }, hif := { g.hif with asleep := 0 }
      pwr := { g.pwr with fabLock := false, seqLock := false, dramLock := false } } with hu
  have e : exec .freewheelEntry s = .next (setMode .freewheel u) := congrArg Host.Outcome.next (if_pos ⟨hm, hen, hidle⟩)
  have humode : u.pwr.mode = .service := hmode.trans hm
  have hk := keyView_setMode (m := .freewheel) (s := u) (by rw [humode]; decide)
  rw [modeLeft_awake (by rw [humode]; decide)] at hk
  obtain ⟨kpwr, -, -, kinst, kts, kasleep, -, kkvt, -, -, kmem, -⟩ := keyView_fields hk
  refine ⟨_, e, ?_⟩
  rw [kpwr, kinst, kts, kasleep, kkvt, kmem]
  exact ⟨rfl, hgroups, rfl, rfl, rfl, rfl, rfl, hts, hkvt, hinst⟩

theorem freewheelEntry_elsewhere {s : State} (h : s.pwr.mode ≠ .service ∨ s.pwr.fwEn = false ∨ allIdle s = false) :
    exec .freewheelEntry s = .next s := by
  refine congrArg Host.Outcome.next (if_neg ?_)
  rintro ⟨hm, hen, hidle⟩
  rcases h with h | h | h
  · exact h hm
  · simp [h] at hen
  · simp [h] at hidle

/-- The timestamp after FREEWHEEL has advanced by the time asleep, within the error of R56, and not gone back. -/
theorem stampWake_ts (s : State) : s.hif.ts ≤ (stampWake s).hif.ts ∧
    s.hif.ts + s.hif.asleep ≤ (stampWake s).hif.ts + wakeError s ∧
    (stampWake s).hif.ts ≤ s.hif.ts + s.hif.asleep + wakeError s := by
  have hts : (stampWake s).hif.ts = max s.hif.ts
      (s.hif.ts + s.hif.asleep + Config.freeNat s.free % (2 * wakeError s + 1) - wakeError s) := rfl
  have hr : Config.freeNat s.free % (2 * wakeError s + 1) < 2 * wakeError s + 1 := Nat.mod_lt _ (Nat.succ_pos _)
  omega

theorem freewheelWake_leaves {s : State} (h : s.pwr.mode = .freewheel) : ∃ t, exec .freewheelWake s = .next t ∧
      t.pwr.mode = .service ∧ t.mem.selfRefresh = false ∧
      t.pwr.fabLock = true ∧ t.pwr.seqLock = true ∧ t.pwr.dramLock = true ∧ s.hif.ts ≤ t.hif.ts ∧
      s.hif.ts + s.hif.asleep ≤ t.hif.ts + wakeError s ∧ t.hif.ts ≤ s.hif.ts + s.hif.asleep + wakeError s ∧
      t.drl.hub = {} ∧ t.drl.aes = {} ∧ t.kvt = s.kvt := by
  set u : State := { s with
      mem := { s.mem with selfRefresh := false }
      drl := { s.drl with hub := {}, aes := {} }
      pwr := { s.pwr with fabLock := true, seqLock := true, dramLock := true } } with hu
  have e : exec .freewheelWake s = .next (setMode .service u) := congrArg Host.Outcome.next (if_pos h)
  have humode : u.pwr.mode = .freewheel := h
  have hleft : modeLeft u = stampWake u := if_pos humode
  have hk := keyView_setMode (m := .service) (s := u) (by rw [humode]; decide)
  rw [hleft] at hk
  obtain ⟨kpwr, -, -, -, kts, -, kdrl, kkvt, -, -, kmem, -⟩ := keyView_fields hk
  obtain ⟨hmono, hlow, hhigh⟩ := stampWake_ts u
  refine ⟨_, e, ?_⟩
  rw [kpwr, kts, kdrl, kkvt, kmem]
  exact ⟨rfl, rfl, rfl, rfl, rfl, hmono, hlow, hhigh, rfl, rfl, rfl⟩

/-! ### SURGE and TEST (R392, R396) -/

theorem surgeEnd_leaves {s : State} (hm : s.pwr.mode = .surge) (hw : s.pwr.windDown = true) (hp : pRes s ≤ 100 * s.pwr.capW) :
    ∃ t, exec .surgeEnd s = .next t ∧
      t.pwr.mode = .service ∧ t.pwr.windDown = false ∧ t.pwr.lastSurgeEnd = some s.now ∧ t.hif.cmds = s.hif.cmds := by
  set u : State := { s with pwr := { s.pwr with windDown := false, lastSurgeEnd := some s.now, fullEpochs := 0 } } with hu
  have e : exec .surgeEnd s = .next (setMode .service u) := congrArg Host.Outcome.next (if_pos ⟨hm, hw, hp⟩)
  have humode : u.pwr.mode = .surge := hm
  have hk := keyView_setMode (m := .service) (s := u) (by rw [humode]; decide)
  rw [modeLeft_awake (by rw [humode]; decide)] at hk
  obtain ⟨kpwr, -, kcmds, -⟩ := keyView_fields hk
  refine ⟨_, e, ?_⟩
  rw [kpwr, kcmds]
  exact ⟨rfl, rfl, rfl, rfl⟩

theorem exec_testReq {s : State} {src : Src} {v : Word} (h : regsAnswer s src) (hv : flag v 1 = true) :
    exec (.testReq src v) s = .next (testWrite (pwrCtrlWrite v s)) := by
  have e : exec (.testReq src v) s = .next (if regOpen src (touch src s) = true ∧ flag v 1 = true then
    testWrite (pwrCtrlWrite v (touch src s)) else touch src s) := rfl
  rw [e, touch_awake src h.2, if_pos ⟨h.1, hv⟩]

theorem testOk_pwrCtrlWrite (v : Word) (s : State) : testOk (pwrCtrlWrite v s) = testOk s := rfl

/-- No DRBG is instantiated once a test has started. -/
theorem drbgU_entTestStart (n : Nat) (s : State) : (drbgU (entTestStart s) n).inst = false := by
  have key : ∀ l : Tbl Drbg, (Tbl.get {} (l.map (fun (p : Nat × Drbg) => (p.1,
      ({ p.2 with key := [], v := [], inst := false, mustReseed := false } : Drbg)))) n).inst = false := by
    intro l
    induction l with
    | nil => rfl
    | cons p l ih =>
      simp only [List.map_cons, Tbl.get]
      split
      · rfl
      · exact ih
  exact key s.ent.drbg

theorem testReq_granted {s : State} {src : Src} {v : Word} (h : regsAnswer s src) (hv : flag v 1 = true)
    (hok : testOk s = true) : ∃ t, exec (.testReq src v) s = .next t ∧
      t.pwr.mode = .test ∧ t.ent.queue = [] ∧ t.ent.fifo = [] ∧ (∀ n, (drbgU t n).inst = false) ∧ t.pwr.fwEn = flag v 0 := by
  have hm : s.pwr.mode = .service := by
    simp only [testOk, Bool.and_eq_true, beq_iff_eq] at hok
    exact hok.1.1.1
  set u : State := entTestStart (pwrCtrlWrite v s) with hu
  have e : testWrite (pwrCtrlWrite v s) = setMode .test u := if_pos hok
  have humode : u.pwr.mode = .service := hm
  have hk := keyView_setMode (m := .test) (s := u) (by rw [humode]; decide)
  rw [modeLeft_awake (by rw [humode]; decide)] at hk
  obtain ⟨kpwr, -, -, -, -, -, -, -, -, kent, -⟩ := keyView_fields hk
  refine ⟨_, (exec_testReq h hv).trans (congrArg Host.Outcome.next e), ?_⟩
  unfold drbgU
  rw [kpwr, kent]
  exact ⟨rfl, rfl, rfl, fun n => drbgU_entTestStart n _, rfl⟩

theorem testReq_refused {s : State} {src : Src} {v : Word} (h : regsAnswer s src) (hv : flag v 1 = true)
    (hno : testOk s = false) : ∃ t, exec (.testReq src v) s = .next t ∧ t.pwr.mode = s.pwr.mode ∧
      t.pwr.cfgIgnored = true ∧ t.ent = s.ent := by
  have e : testWrite (pwrCtrlWrite v s) = { pwrCtrlWrite v s with
      pwr := { (pwrCtrlWrite v s).pwr with cfgIgnored := true } } := if_neg (by rw [testOk_pwrCtrlWrite, hno]; decide)
  exact ⟨_, (exec_testReq h hv).trans (congrArg Host.Outcome.next e), rfl, rfl, rfl⟩

end Sys2Proof.Machine
end

section
/-! The rows of DRAIN (chapter 18, R394), and the rows of the modes together. -/
namespace Sys2Proof.Machine
open Sys2Proof

/-! ### Entry: the waiting commands end (R394) -/

/-- Refusing commands one after the other takes those numbers from the list and leaves the power registers. -/
theorem refuseAll_leaves (r : Result) (l : List Cmd) (s : State) :
    (l.foldl (fun s c => refuse c r (unreserve c.id s)) s).pwr = s.pwr ∧
      (l.foldl (fun s c => refuse c r (unreserve c.id s)) s).hif.cmds =
        s.hif.cmds.filter (fun x => l.all (fun c => x.id != c.id)) := by
  induction l generalizing s with
  | nil => exact ⟨rfl, (List.filter_true _).symm⟩
  | cons c l ih =>
    obtain ⟨hpwr, hcmds⟩ := ih (refuse c r (unreserve c.id s))
    obtain ⟨ucmds, upwr⟩ := unitView_fields (unitView_unreserve c.id s)
    refine ⟨hpwr.trans ((reply_pwr ..).trans upwr), hcmds.trans ?_⟩
    have hrefuse : (refuse c r (unreserve c.id s)).hif.cmds = s.hif.cmds.filter (fun x => x.id != c.id) := by
      rw [refuse, reply_cmds, ucmds]
    rw [hrefuse, List.filter_filter]
    exact List.filter_congr fun x _ => by rw [List.all_cons, Bool.and_comm]

/-- The registers of an entry into DRAIN. -/
def drainArmed (slow : Bool) (s : State) : State :=
  let woken := s.pwr.mode == .freewheel
  { s with
    mem := { s.mem with selfRefresh := s.mem.selfRefresh && !woken }
    pwr := { s.pwr with
      drainCap := capNow s / 100, drainAbandoned := 0, drainCut := 0, drainSource := b2n slow, drainDur := 0
      drainRunEnded := false, drainQuiesced := false, trimmed := false, windDown := false
      warnPin := s.pwr.warnPin || !slow
      fabLock := s.pwr.fabLock || woken, seqLock := s.pwr.seqLock || woken, dramLock := s.pwr.dramLock || woken } }

/-- Every command that waits is refused. -/
def waitingEnded (s : State) : State :=
  (s.hif.cmds.filter (fun c => c.phase == .waiting)).foldl (fun s c =>
    refuse c (justStatus stsDraining) (unreserve c.id s)) s

/-- The peers are told, the debug session is closed, injections are cancelled. -/
def quieted (s : State) : State := cancelInjections (closeSession (sendLeave s))

theorem drainEntry_eq {s : State} (slow : Bool) (h : mayDrain s.pwr.mode = true) :
    drainEntry slow s = setMode .drain (quieted (waitingEnded (drainArmed slow s))) := if_pos h

theorem mem_waitingEnded {s : State} {c : Cmd} : c ∈ (waitingEnded s).hif.cmds ↔
    c ∈ s.hif.cmds ∧ ∀ d ∈ s.hif.cmds, d.phase = .waiting → d.id ≠ c.id := by
  unfold waitingEnded
  rw [(refuseAll_leaves ..).2, List.mem_filter]
  refine and_congr_right fun _ => ?_
  simp only [List.all_eq_true, List.mem_filter, bne_iff_ne, beq_iff_eq, and_imp]
  exact forall_congr' fun d => imp_congr_right fun _ => imp_congr_right fun _ => ne_comm

/-- The state without the units, the session, the fault sets, the links and what counting changes. -/
def quietView (s : State) : State := { linkView s with hub := {}, seq := {}, dbg := {}, flt := [] }

/-- What a state and one of the same `quietView` share. -/
theorem quietView_fields {s t : State} (h : quietView t = quietView s) : t.pwr = s.pwr ∧ t.hif.cmds = s.hif.cmds := by
  have e := congrArg (fun x : State => (x.pwr, x.hif.cmds)) h
  simp only [Prod.mk.injEq] at e
  exact e

theorem quietView_of_linkView {s t : State} (h : linkView t = linkView s) : quietView t = quietView s :=
  congrArg (fun x : State => { x with hub := {}, seq := {}, dbg := {}, flt := [] }) h

theorem quietView_closeSession (s : State) : quietView (closeSession s) = quietView s := by
  have hclosed : ∀ t d, quietView { t with dbg := d } = quietView t := fun _ _ => rfl
  unfold closeSession
  dsimp only
  rw [hclosed]
  refine (foldl_keeps quietView _ (fun s n => ?_) _ _).trans (foldl_keeps quietView _ (fun s n => ?_) _ s)
  · exact ite_keeps quietView rfl rfl
  · exact ite_keeps quietView rfl rfl

theorem quietView_quieted (s : State) : quietView (quieted s) = quietView s := by
  have hcancel : ∀ t, quietView (cancelInjections t) = quietView t := fun _ => rfl
  exact (hcancel _).trans ((quietView_closeSession _).trans (quietView_of_linkView (linkView_sendLeave s)))

/-- A change into DRAIN sets the mode and leaves the commands. -/
theorem setMode_drain_leaves {s : State} (h : s.pwr.mode ≠ .drain) :
    (setMode .drain s).pwr = { s.pwr with mode := .drain, prev := s.pwr.mode } ∧
      (setMode .drain s).hif.cmds = s.hif.cmds := by
  obtain ⟨hpwr, -, hcmds, -⟩ := keyView_fields (keyView_setMode h)
  have hleft : (modeLeft s).pwr = s.pwr ∧ (modeLeft s).hif.cmds = s.hif.cmds := by
    unfold modeLeft
    split <;> exact ⟨rfl, rfl⟩
  refine ⟨hpwr.trans ?_, hcmds.trans hleft.2⟩
  unfold modeSet
  rw [hleft.1]

theorem drainEntry_leaves {s : State} (slow : Bool) (h : mayDrain s.pwr.mode = true) :
    ∃ t, exec (.drainEntry slow) s = .next t ∧ t.pwr.mode = .drain ∧
      t.pwr.drainSource = b2n slow ∧ t.pwr.drainCap = capNow s / 100 ∧ (slow = false → t.pwr.warnPin = true) ∧
      (∀ c ∈ t.hif.cmds, c ∈ s.hif.cmds ∧ c.phase ≠ .waiting) ∧
      ∀ c ∈ s.hif.cmds, c.phase ≠ .waiting → (∀ d ∈ s.hif.cmds, d.phase = .waiting → d.id ≠ c.id) → c ∈ t.hif.cmds := by
  obtain ⟨qpwr, qcmds⟩ := quietView_fields (quietView_quieted (waitingEnded (drainArmed slow s)))
  have hpwr : (quieted (waitingEnded (drainArmed slow s))).pwr = (drainArmed slow s).pwr :=
    qpwr.trans (refuseAll_leaves ..).1
  have hne : (quieted (waitingEnded (drainArmed slow s))).pwr.mode ≠ .drain := by
    rw [hpwr]
    intro k
    have hs : s.pwr.mode = .drain := k
    simp [mayDrain, hs] at h
  obtain ⟨mpwr, mcmds⟩ := setMode_drain_leaves hne
  have hmem : ∀ c, c ∈ (setMode .drain (quieted (waitingEnded (drainArmed slow s)))).hif.cmds ↔
      c ∈ s.hif.cmds ∧ ∀ d ∈ s.hif.cmds, d.phase = .waiting → d.id ≠ c.id := fun c => by
    rw [mcmds, qcmds, mem_waitingEnded]
    rfl
  refine ⟨_, congrArg Host.Outcome.next (drainEntry_eq slow h), ?_⟩
  simp only [hmem]
  rw [mpwr, hpwr]
  refine ⟨rfl, rfl, rfl, fun hs => ?_, fun c hc => ⟨hc.1, fun hw => hc.2 c hc.1 hw rfl⟩, fun c hc _ hno => ⟨hc, hno⟩⟩
  simp [drainArmed, hs]

theorem drainEntry_elsewhere {s : State} (slow : Bool) (h : mayDrain s.pwr.mode = false) :
    exec (.drainEntry slow) s = .next s :=
  congrArg Host.Outcome.next (if_neg (by simp [h]))

/-! ### The trims of the counter records (R220, R394) -/

/-- Record `n` once a trim that is due has been written. -/
def trimmedRec (s : State) (n : Nat) : RecPair :=
  match trimCopy s n with
  | some c => writeCopy (recU s n) c
  | none => recU s n

theorem trimmedRec_some {s : State} {n : Nat} {c : RecCopy} (h : trimCopy s n = some c) :
    trimmedRec s n = writeCopy (recU s n) c := by simp [trimmedRec, h]

theorem trimmedRec_none {s : State} {n : Nat} (h : trimCopy s n = none) : trimmedRec s n = recU s n := by
  simp [trimmedRec, h]

theorem trimmedRec_cases (s : State) (n : Nat) :
    trimmedRec s n = recU s n ∨ ∃ c, trimCopy s n = some c ∧ trimmedRec s n = writeCopy (recU s n) c := by
  cases h : trimCopy s n with
  | none => exact .inl (trimmedRec_none h)
  | some c => exact .inr ⟨c, rfl, trimmedRec_some h⟩

/-- A trim depends on the record and its cursor alone. -/
theorem trimmedRec_congr {s t : State} {n : Nat} (hrec : recU t n = recU s n) (hcur : t.kvt.sfsCursor = s.kvt.sfsCursor) :
    trimmedRec t n = trimmedRec s n := by
  unfold trimmedRec trimCopy
  rw [hrec, hcur]

/-- `t` is `s` with the trim of record `n` written. -/
def TrimsOne (s t : State) (n : Nat) : Prop :=
  (∀ m, recU t m = if m = n then trimmedRec s n else recU s m) ∧ t.kvt.sfsCursor = s.kvt.sfsCursor

theorem recU_setRec (n : Nat) (p : RecPair) (s : State) (m : Nat) :
    recU (setRec n p s) m = if m = n then p else recU s m := Tbl.get_set ..

theorem trimsOne_setRec (n : Nat) (s : State) : TrimsOne s (setRec n (trimmedRec s n) s) n :=
  ⟨recU_setRec n _ s, rfl⟩

theorem trimsOne_refl {s : State} {n : Nat} (h : trimCopy s n = none) : TrimsOne s s n := by
  refine ⟨fun m => ?_, rfl⟩
  split
  · next hm => rw [hm, trimmedRec_none h]
  · rfl

/-- Trims of different records do not meet: each is the trim that was due before the first. -/
theorem recU_foldl_trims {g : State → Nat → State} {P : State → Prop} (hP : ∀ s n, P s → P (g s n))
    (hg : ∀ s n, P s → TrimsOne s (g s n) n) {l : List Nat} (hl : l.Nodup) {s : State} (hs : P s) (m : Nat) :
    recU (l.foldl g s) m = if m ∈ l then trimmedRec s m else recU s m := by
  induction l generalizing s with
  | nil => rfl
  | cons n l ih =>
    obtain ⟨hn, hl⟩ := List.nodup_cons.mp hl
    obtain ⟨hrec, hcur⟩ := hg s n hs
    rw [List.foldl_cons, ih hl (hP s n hs), hrec]
    by_cases hm : m = n
    · rw [if_neg (hm ▸ hn), if_pos hm, if_pos (hm ▸ List.mem_cons_self), hm]
    · have hsame : trimmedRec (g s n) m = trimmedRec s m := trimmedRec_congr ((hrec m).trans (if_neg hm)) hcur
      rw [if_neg hm, hsame]
      simp [hm]

/-- The state without the counter records, the stages of writes, and what counting changes. -/
def trimView (s : State) : State :=
  { countView s with seq := s.seq, bbram := { s.bbram with recs := [] }, kvt := { s.kvt with cuts := [] } }

theorem Counted.trimView {s t : State} (h : Counted s t) : trimView t = trimView s := by
  have e := congrArg Machine.trimView (show _ = s from h)
  exact e

/-- What a state and one of the same `trimView` share. -/
theorem trimView_fields {s t : State} (h : trimView t = trimView s) : t.pwr = s.pwr ∧ t.hif.cmds = s.hif.cmds ∧
    t.host.mem = s.host.mem ∧ t.flt = s.flt ∧ t.bbram.badRecs = s.bbram.badRecs := by
  have e := congrArg (fun x : State => (x.pwr, x.hif.cmds, x.host.mem, x.flt, x.bbram.badRecs)) h
  simp only [Prod.mk.injEq] at e
  exact e

/-- No record's word is bad and no injection is armed on the vault. -/
def recsSound (s : State) : Prop := s.bbram.badRecs = [] ∧ (fltU s .kvt 0).armed = false

theorem recsSound_of_view {s t : State} (h : trimView t = trimView s) (hs : recsSound s) : recsSound t := by
  obtain ⟨-, -, -, hflt, hbad⟩ := trimView_fields h
  unfold recsSound fltU
  rw [hflt, hbad]
  exact hs

/-- A sound record's words are written and counted. -/
theorem counted_putRec {s : State} (h : recsSound s) (n : Nat) (c : RecCopy) :
    Counted (setRec n (writeCopy (recU s n) c) s) (putRec n c s) := by
  have hbad : s.bbram.badRecs.contains n = false := by rw [h.1]; rfl
  have hcount := blkEvent_counted .kvt 0x13 2 (setRec n (writeCopy (recU s n) c) s)
  have harm : (fltU (blkEvent .kvt 0x13 2 (setRec n (writeCopy (recU s n) c) s)) .kvt 0).armed = false := by
    rw [hcount.fltU]
    exact h.2
  have e : putRec n c s = wordsOut 2 (setRec n (writeCopy (recU s n) c) s) := if_neg (by rw [hbad]; decide)
  rw [e, wordsOut, access_unarmed _ _ _ _ _ _ _ _ _ harm]
  exact hcount

theorem trimRec_some {s : State} {n : Nat} {c : RecCopy} (h : trimCopy s n = some c) : trimRec s n = putRec n c s := by
  simp [trimRec, h]

theorem trimRec_none {s : State} {n : Nat} (h : trimCopy s n = none) : trimRec s n = s := by simp [trimRec, h]

theorem trimView_trimRec {s : State} (h : recsSound s) (n : Nat) : trimView (trimRec s n) = trimView s := by
  cases ht : trimCopy s n with
  | none => rw [trimRec_none ht]
  | some c =>
    rw [trimRec_some ht, (counted_putRec h n c).trimView]
    rfl

theorem trimsOne_trimRec {s : State} (h : recsSound s) (n : Nat) : TrimsOne s (trimRec s n) n := by
  cases ht : trimCopy s n with
  | none =>
    rw [trimRec_none ht]
    exact trimsOne_refl ht
  | some c =>
    have hone := trimsOne_setRec n s
    have hcount := counted_putRec h n c
    rw [← trimmedRec_some ht] at hcount
    unfold TrimsOne recU at *
    rw [trimRec_some ht, hcount.bbram, hcount.kvt]
    exact hone

theorem trimView_trimAll {s : State} (h : recsSound s) (l : List Nat) : trimView (l.foldl trimRec s) = trimView s := by
  induction l generalizing s with
  | nil => rfl
  | cons n l ih =>
    have hn := trimView_trimRec h n
    exact (ih (recsSound_of_view hn h)).trans hn

/-- The registers of a device whose trims are all written. -/
def trimsNoted (s : State) : State := { s with pwr := { s.pwr with trimmed := true } }

theorem trimsNoted_leaves {s : State} (h : recsSound s) {l : List Nat} (hl : l.Nodup) :
    (∀ n ∈ l, ∀ c, trimCopy s n = some c → recU (trimsNoted (l.foldl trimRec s)) n = writeCopy (recU s n) c) ∧
      (trimsNoted (l.foldl trimRec s)).pwr = { s.pwr with trimmed := true } ∧
      (trimsNoted (l.foldl trimRec s)).hif.cmds = s.hif.cmds ∧
      (trimsNoted (l.foldl trimRec s)).host.mem = s.host.mem := by
  obtain ⟨hpwr, hcmds, hmem, -⟩ := trimView_fields (trimView_trimAll h l)
  have hrec := recU_foldl_trims (fun _ n hs => recsSound_of_view (trimView_trimRec hs n) hs)
    (fun _ n hs => trimsOne_trimRec hs n) hl h
  refine ⟨fun n hn c hc => ?_, ?_, hcmds, hmem⟩
  · exact (hrec n).trans ((if_pos hn).trans (trimmedRec_some hc))
  · rw [trimsNoted, hpwr]

theorem exec_drainTrim {s : State} (h : mayTrim s = true) :
    exec .drainTrim s = .next (trimsNoted ((List.range 1024).foldl trimRec s)) := by
  have e : exec .drainTrim s = execDrainTrim s := rfl
  rw [e, execDrainTrim, if_pos h]
  unfold trimsNoted
  rfl

theorem drainTrim_leaves {s : State} (hmay : mayTrim s = true) (h : recsSound s) : ∃ t, exec .drainTrim s = .next t ∧
    (∀ n, n < 1024 → ∀ c, trimCopy s n = some c → recU t n = writeCopy (recU s n) c) ∧
    t.pwr = { s.pwr with trimmed := true } ∧ t.hif.cmds = s.hif.cmds ∧ t.host.mem = s.host.mem := by
  obtain ⟨hrec, hkeep⟩ := trimsNoted_leaves h (List.nodup_range (n := 1024))
  exact ⟨_, exec_drainTrim hmay, fun n hn => hrec n (List.mem_range.mpr hn), hkeep⟩

/-- What an outage, or a DRAIN that quiesces too early, leaves of the trims: some of them (R394). -/
theorem recU_cutTrims (s : State) (m : Nat) : recU (cutTrims s) m = recU s m ∨ recU (cutTrims s) m = trimmedRec s m := by
  have hsome : ∀ g : State → Nat → State, (∀ t n, TrimsOne t (g t n) n) → ∀ l : List Nat, l.Nodup →
      ∀ t, recU (l.foldl g t) m = recU t m ∨ recU (l.foldl g t) m = trimmedRec t m := fun g hg l hl t => by
    rw [recU_foldl_trims (P := fun _ => True) (fun _ _ _ => trivial) (fun t n _ => hg t n) hl trivial m]
    exact (ite_eq_or_eq ..).symm
  unfold cutTrims
  split
  · refine hsome _ (fun t n => ?_) _ ((List.nodup_range.filter _).sublist (List.take_sublist ..)) (freeNumber _ s).2
    split
    · next c hc =>
      rw [← trimmedRec_some hc]
      exact trimsOne_setRec n t
    · next hn => exact trimsOne_refl hn
  · exact .inl rfl

/-- The registers of a device that has quiesced. -/
def quiesced (s : State) : State :=
  { s with pwr := { s.pwr with
      drainQuiesced := true, drainCut := b2n (!s.pwr.trimmed && (List.range 1024).any (fun n => (trimCopy s n).isSome)) } }

theorem exec_drainQuiesce {s : State} (hm : s.pwr.mode = .drain) (hq : s.pwr.drainQuiesced = false) :
    exec .drainQuiesce s = .next (quiesced (cutTrims s)) := by
  have e : exec .drainQuiesce s = execDrainQuiesce s := rfl
  rw [e, execDrainQuiesce, if_pos ⟨hm, by simp [hq]⟩]
  unfold quiesced
  rfl

theorem drainQuiesce_leaves {s : State} (hm : s.pwr.mode = .drain) (hq : s.pwr.drainQuiesced = false) :
    ∃ t, exec .drainQuiesce s = .next t ∧ t.pwr.drainQuiesced = true ∧ t.hif = s.hif ∧
      ∀ n, recU t n = recU s n ∨ ∃ c, trimCopy s n = some c ∧ recU t n = writeCopy (recU s n) c := by
  have hhif : (cutTrims s).hif = s.hif := by
    have e := congrArg State.hif (cutView_cutTrims s)
    exact e
  refine ⟨_, exec_drainQuiesce hm hq, rfl, hhif, fun n => ?_⟩
  have hrec : recU (quiesced (cutTrims s)) n = recU (cutTrims s) n := rfl
  rw [hrec]
  rcases recU_cutTrims s n with h | h
  · exact .inl h
  · rw [h]
    exact trimmedRec_cases s n

/-! ### The end of the run window: what still runs is abandoned (R394) -/

/-- The boundary of a queue pair leaves the commands, host memory and the power registers. -/
theorem settleQp_leaves (p q : Nat) (s : State) : (settleQp p q s).hif.cmds = s.hif.cmds ∧
    (settleQp p q s).host.mem = s.host.mem ∧ (settleQp p q s).pwr = s.pwr := by
  have e := congrArg (fun x : State => (x.hif.cmds, x.pwr)) (replyView_settleQp p q s)
  simp only [Prod.mk.injEq] at e
  exact ⟨e.1, congrArg Prod.fst (storeView_settleQp p q s), e.2⟩

/-- An abort that a core takes touches the core alone. -/
theorem abandon_concludes (c : Cmd) (s : State) : (abandon none c s).hif = (conclude none c s).hif ∧
    (abandon none c s).host = (conclude none c s).host ∧ (abandon none c s).pwr = (conclude none c s).pwr := by
  unfold abandon
  dsimp only
  generalize conclude none c s = t
  split <;> exact ⟨rfl, rfl, rfl⟩

/-- Abandoning a command without a reply takes its number from the list; host memory and the power registers stay. -/
theorem abandon_leaves (c : Cmd) (s : State) :
    (abandon none c s).hif.cmds.map Cmd.id = (s.hif.cmds.map Cmd.id).filter (fun i => i != c.id) ∧
      (abandon none c s).host.mem = s.host.mem ∧ (abandon none c s).pwr = s.pwr := by
  have hcon : conclude none c s = settleQp c.port c.q (delCmd c.id (freed c s)) := rfl
  obtain ⟨hhif, hhost, hpwr⟩ := abandon_concludes c s
  obtain ⟨kcmds, kmem, kpwr⟩ := settleQp_leaves c.port c.q (delCmd c.id (freed c s))
  obtain ⟨fmem, -, -, -, -, -, -, fpwr⟩ := (released_freed c s).fields
  have hids : (freed c s).hif.cmds.map Cmd.id = s.hif.cmds.map Cmd.id := (released_freed c s).2.1
  have hdel : ∀ t, (delCmd c.id t).hif.cmds = t.hif.cmds.filter (fun x => x.id != c.id) ∧ (delCmd c.id t).host = t.host ∧
      (delCmd c.id t).pwr = t.pwr := fun _ => ⟨rfl, rfl, rfl⟩
  obtain ⟨dcmds, dhost, dpwr⟩ := hdel (freed c s)
  rw [hhif, hhost, hpwr, hcon, kcmds, kmem, kpwr, dcmds, dhost, dpwr, ← hids, List.filter_map]
  exact ⟨rfl, fmem, fpwr⟩

theorem abandonList_leaves (l : List Cmd) (s : State) :
    (l.foldl (fun s c => abandon none c s) s).hif.cmds.map Cmd.id =
        (s.hif.cmds.map Cmd.id).filter (fun i => l.all (fun c => i != c.id)) ∧
      (l.foldl (fun s c => abandon none c s) s).host.mem = s.host.mem ∧
      (l.foldl (fun s c => abandon none c s) s).pwr = s.pwr := by
  induction l generalizing s with
  | nil => exact ⟨(List.filter_true _).symm, rfl, rfl⟩
  | cons c l ih =>
    obtain ⟨hids, hmem, hpwr⟩ := ih (abandon none c s)
    obtain ⟨cids, cmem, cpwr⟩ := abandon_leaves c s
    refine ⟨hids.trans ?_, hmem.trans cmem, hpwr.trans cpwr⟩
    rw [cids, List.filter_filter]
    exact List.filter_congr fun i _ => by rw [List.all_cons, Bool.and_comm]

/-- Where every command is abandoned, none is left. -/
theorem abandonEvery_leaves (s : State) : (abandonAll (fun _ => true) none s).hif.cmds = [] ∧
    (abandonAll (fun _ => true) none s).host.mem = s.host.mem ∧ (abandonAll (fun _ => true) none s).pwr = s.pwr := by
  obtain ⟨hids, hmem, hpwr⟩ := abandonList_leaves s.hif.cmds s
  have hall : abandonAll (fun _ => true) none s = s.hif.cmds.foldl (fun s c => abandon none c s) s := by
    unfold abandonAll
    rw [List.filter_true]
  have hnone : (s.hif.cmds.map Cmd.id).filter (fun i => s.hif.cmds.all (fun c => i != c.id)) = [] := by
    rw [List.filter_eq_nil_iff]
    intro i hi
    obtain ⟨c, hc, rfl⟩ := List.mem_map.mp hi
    simp only [List.all_eq_true, not_forall]
    exact ⟨c, hc, by simp⟩
  rw [hall]
  exact ⟨List.map_eq_nil_iff.mp (hids.trans hnone), hmem, hpwr⟩

theorem drainRunWindowEnd_leaves {s : State} (hm : s.pwr.mode = .drain) (hr : s.pwr.drainRunEnded = false) :
    ∃ t, exec .drainRunWindowEnd s = .next t ∧ t.hif.cmds = [] ∧
      t.pwr.drainAbandoned = min 0xFF s.hif.cmds.length ∧ t.pwr.drainRunEnded = true ∧ t.host.mem = s.host.mem ∧
      t.pwr.mode = .drain := by
  have ecut := congrArg (fun x : State => (x.host.mem, x.pwr)) (cutView_cutShort s)
  simp only [Prod.mk.injEq] at ecut
  obtain ⟨hcmds, hmem, hpwr⟩ := abandonEvery_leaves (cutShort s)
  have hmode : (abandonAll (fun _ => true) none (cutShort s)).pwr.mode = .drain := by
    rw [hpwr.trans ecut.2]
    exact hm
  exact ⟨_, congrArg Host.Outcome.next (if_pos ⟨hm, by simp [hr]⟩), hcmds, rfl, rfl, hmem.trans ecut.1, hmode⟩

/-! ### The rows together -/

theorem mayTrim_of_open {s : State} (hm : s.pwr.mode = .drain) (hq : s.pwr.drainQuiesced = false)
    (h : s.pwr.drainRunEnded = true ∨ leafHeld s = false) : mayTrim s = true := by
  rcases h with h | h <;> simp [mayTrim, hm, hq, h]

theorem drainQuiesce_trimmed {s : State} (hm : s.pwr.mode = .drain) (hq : s.pwr.drainQuiesced = false)
    (h : mayTrim s = false ∨ s.pwr.trimmed = true) : exec .drainQuiesce s = .next (quiesced s) := by
  rw [exec_drainQuiesce hm hq, cutTrims_done h]

/-- Settles O57: each row by its own lemma; a row outside its mode is the branch of its guard that leaves the state. -/
theorem powerAndModeRows : Obligations.PowerAndModeRows := by
  unfold Obligations.PowerAndModeRows
  intro s
  refine ⟨crystal_rows, fun h => aoPowerUp_from_off h, fun h => aoPowerUp_elsewhere h,
    fun hburn htrim hcuts hstage => ?_, glbSoftReset_otherWord, glbSoftReset_otherFunction,
    fun h => congrArg Host.Outcome.next (if_neg h), fun h us => congrArg Host.Outcome.next (if_neg h),
    fun hoff hwatch => congrArg Host.Outcome.next (if_neg ?_),
    fun role cascId bootSrc => ⟨fun h => congrArg Host.Outcome.next (if_neg h), resetRelease_leaves role cascId bootSrc⟩,
    fun hboot hlock => congrArg Host.Outcome.next (if_pos ⟨hboot, by simp [hlock]⟩), rfl, freewheelEntry_leaves,
    freewheelEntry_elsewhere, fun h => congrArg Host.Outcome.next (wake_awake h), freewheelWake_leaves, fun c => rfl,
    surgeEnd_leaves, fun h => congrArg Host.Outcome.next (if_neg ?_),
    fun src v hans hflag => ⟨testReq_granted hans hflag, testReq_refused hans hflag⟩,
    fun slow => ⟨drainEntry_elsewhere slow, drainEntry_leaves slow⟩, fun hm hq => ?_, drainRunWindowEnd_leaves⟩
  · have h : writesDone s := ⟨hburn, htrim, hcuts, hstage⟩
    exact ⟨supplyLoss_done h, mainRailLoss_done h, mainRailsValid_done h, perstNAssert_done h, glbSoftReset_done h,
      drainResetEntry_done h⟩
  · simp [hoff, hwatch]
  · simp [h]
  · exact ⟨fun h hbad harm => drainTrim_leaves (mayTrim_of_open hm hq h) ⟨hbad, harm⟩, drainQuiesce_trimmed hm hq,
      drainQuiesce_leaves hm hq⟩

end Sys2Proof.Machine
end

section
/-! STAGING_RESUME (R59, R163). -/
namespace Sys2Proof.Machine
open Sys2Proof

theorem kResume_running (n : Fin 64) (s : State) (h : (eng s n).stall = none) : kResume n s = s := by
  unfold kResume
  simp only [h]

/-- A change of one engine after counting stays in that engine. -/
theorem Counted.kernelFrame_updEng {s t : State} (h : Counted s t) (n : Nat) (f : Engine → Engine) :
    kernelFrame s (updEng n f t) n := by
  have hkmem := congrArg Hub.kmem h.hub
  have hpatch := congrArg Hub.patch h.hub
  have haes := congrArg Hub.aes h.hub
  refine ⟨⟨h.pending, h.now, h.hostMem, h.cmds, h.qps, h.inst, h.ts, h.drl, h.kvt, h.bbram, h.ent, h.mem, h.pwr, h.glb,
    h.lcs, h.dbg, h.tmp, h.flt, h.tlk, h.pins⟩, h.seq, h.dge, h.cvu, fun m hm => ?_, hkmem, hpatch, haes⟩
  rw [updEng, eng_setEng, if_neg hm]
  exact h.eng m

/-- STAGING_RESUME on the engine of a command that is not halted is one read of host memory. -/
theorem exec_stagingResume {s : State} {e : Fin 64} {n id : Nat} {c : Cmd} (hrun : (eng s e).cmd = some id)
    (hcmd : cmdU s id = some c) (hstall : (eng s e).stall = none) (hhalt : (eng s e).halted = false) (hport : c.port ≠ 256)
    (hlt : (eng s e).staged.length < n) (hle : n ≤ (eng s e).inLen) :
    exec (.stagingResume e n) s = .next ((dmaRead c.port (pInA c.pkt + (eng s e).staged.length)
        (n - (eng s e).staged.length) s).elim
      (abandon (some (justStatus stsDmaError)) c (aerReport c.port s))
      (fun r => kResume e (updEng e (fun y => { y with staged := y.staged ++ r.1 }) r.2))) := by
  have hunf : exec (.stagingResume e n) s = execStagingResume e n s := rfl
  rw [hunf, execStagingResume]
  simp only [hrun, Option.bind_some, hcmd, hlt, hle, hhalt, and_self, if_true, readAt, hport, if_false, hstall]
  cases dmaRead c.port (pInA c.pkt + (eng s e).staged.length) (n - (eng s e).staged.length) s <;> rfl

/-- Settles O30: the next bytes are one DMA read; with no instruction waiting nothing follows their arrival. -/
theorem stagingBringsTheInput : Obligations.StagingBringsTheInput := by
  unfold Obligations.StagingBringsTheInput
  intro s e n id c hrun hcmd hstall hhalt hport hlt hle
  rw [exec_stagingResume hrun hcmd hstall hhalt hport hlt hle]
  refine ⟨fun hok => ?_, fun hbad => ?_⟩
  · obtain ⟨t, hread, hcount⟩ := dmaRead_ok _ _ _ s hok
    have heng := hcount.eng e
    rw [hread]
    refine ⟨_, congrArg _ (kResume_running e _ ?_), hcount.kernelFrame_updEng _ _, ?_⟩
    · rw [updEng, eng_setEng_same, heng]
      exact hstall
    · rw [updEng, eng_setEng_same, heng]
  · simp only [dmaRead, hbad, Bool.false_eq_true, if_false, Option.elim_none]

end Sys2Proof.Machine
end

section
/-! A running data command: its input, its output and its end (R59-R61, R336). -/
namespace Sys2Proof.Machine
open Sys2Proof

/-! ### What a data row leaves -/

/-- The state without what a data row can change: host memory, AER, the commands, the Hub, and what counting changes. -/
def rowView (s : State) : State :=
  { s with
    cad := {}, free := 0, hub := {}, host := { s.host with mem := [], aer := [], msgs := [] }
    hif := { s.hif with msix := [], cmds := [] } }

theorem Counted.rowView {s t : State} (h : Counted s t) : rowView t = rowView s := by
  have e := congrArg Machine.rowView (show _ = s from h)
  exact e

theorem rowView_frame {s t : State} (h : rowView t = rowView s) : dataFrame s t := by
  have e := congrArg (fun x : State => (x.pending, x.now, x.hif.qps, x.hif.inst, x.hif.ts, x.drl, x.kvt, x.bbram, x.mem,
    x.pwr, x.glb, x.lcs, x.dbg, x.tmp, x.flt, x.tlk, x.seq, x.pins)) h
  simp only [Prod.mk.injEq] at e
  exact e

/-- What a state and one of the same `rowView` share beside `dataFrame`. -/
theorem rowView_units {s t : State} (h : rowView t = rowView s) : t.dge = s.dge ∧ t.hsa = s.hsa ∧ t.cvu = s.cvu ∧
    t.ent = s.ent ∧ t.host.noMaster = s.host.noMaster ∧ t.host.bad = s.host.bad := by
  have e := congrArg (fun x : State => (x.dge, x.hsa, x.cvu, x.ent, x.host.noMaster, x.host.bad)) h
  simp only [Prod.mk.injEq] at e
  exact e

theorem rowView_hostOk {s t : State} (h : rowView t = rowView s) (fn a n : Nat) : hostOk t fn a n = hostOk s fn a n := by
  obtain ⟨-, -, -, -, hmaster, hbad⟩ := rowView_units h
  unfold hostOk
  rw [hmaster, hbad]

theorem rowView_instU {s t : State} (h : rowView t = rowView s) (i : Nat) : instU t i = instU s i := by
  obtain ⟨-, -, -, hinst, -⟩ := rowView_frame h
  unfold instU
  rw [hinst]

theorem rowView_dgeU {s t : State} (h : rowView t = rowView s) (u : Nat) : dgeU t u = dgeU s u := by
  unfold dgeU
  rw [(rowView_units h).1]

/-! ### A command by its number -/

theorem cmdU_id {s : State} {i : Nat} {c : Cmd} (h : cmdU s i = some c) : c.id = i := by
  simpa using List.find?_some h

theorem cmdU_setCmd_same {s : State} {d c : Cmd} (h : cmdU s d.id = some c) : cmdU (setCmd d s) d.id = some d := by
  refine (find_replaced s.hif.cmds d d.id).trans ?_
  change cmdU s d.id = some c at h
  rw [← cmdU, h, Option.map_some, if_pos (cmdU_id h)]

theorem cmdU_setCmd_other {s : State} {d : Cmd} {j : Nat} (h : j ≠ d.id) : cmdU (setCmd d s) j = cmdU s j := by
  refine (find_replaced s.hif.cmds d j).trans ?_
  rw [← cmdU]
  cases hj : cmdU s j with
  | none => rfl
  | some c => rw [Option.map_some, if_neg (by rw [cmdU_id hj]; exact h)]

/-! ### The course of a row -/

/-- Command `c` still runs in `t`, with at most its input read since `s`. -/
structure Onward (s t : State) (c : Cmd) : Prop where
  view : rowView t = rowView s
  mem : t.host.mem = s.host.mem
  hub : sameHub s t c
  cmd : ∃ b, cmdU t c.id = some { c with input := b }
  others : ∀ j, j ≠ c.id → cmdU t j = cmdU s j

theorem Onward.refl {s : State} {c : Cmd} (h : cmdU s c.id = some c) : Onward s s c :=
  ⟨rfl, rfl, .inl rfl, ⟨c.input, h⟩, fun _ _ => rfl⟩

theorem Onward.counted {s t u : State} {c : Cmd} (h : Onward s t c) (k : Counted t u) : Onward s u c := by
  refine ⟨k.rowView.trans h.view, k.hostMem.trans h.mem, ?_, ?_, fun j hj => (k.cmdU j).trans (h.others j hj)⟩
  · unfold sameHub
    rw [k.hub]
    exact h.hub
  · obtain ⟨b, hb⟩ := h.cmd
    exact ⟨b, (k.cmdU c.id).trans hb⟩

/-- The result `r` of command `c` is known, and the row has changed at most host memory, the command and its engine. -/
structure RowEnd (s t : State) (c : Cmd) (r : Result) : Prop where
  view : rowView t = rowView s
  hub : sameHub s t c
  concluded : concluded s t c r

theorem finish_eq {s : State} {i : Nat} {d : Cmd} (h : cmdU s i = some d) (r : Result) :
    finish i r s = setCmd { d with phase := .finished, res := r } s := by
  simp only [finish, h]

/-- Finishing sets the command's phase and result and leaves all else. -/
theorem finish_rowEnd {s t : State} {c : Cmd} (hview : rowView t = rowView s) (hhub : sameHub s t c)
    (hcmd : ∃ b, cmdU t c.id = some { c with input := b }) (hothers : ∀ j, j ≠ c.id → cmdU t j = cmdU s j) (r : Result) :
    RowEnd s (finish c.id r t) c r := by
  obtain ⟨b, hb⟩ := hcmd
  rw [finish_eq hb]
  refine ⟨hview, hhub, ⟨b, ?_⟩, fun j hj => ?_⟩
  · exact cmdU_setCmd_same (d := { c with phase := .finished, res := r, input := b }) hb
  · exact (cmdU_setCmd_other (d := { c with phase := .finished, res := r, input := b }) hj).trans (hothers j hj)

theorem finish_host (i : Nat) (r : Result) (s : State) : (finish i r s).host = s.host := by
  unfold finish
  split <;> rfl

theorem finish_hub (i : Nat) (r : Result) (s : State) : (finish i r s).hub = s.hub := by
  unfold finish
  split <;> rfl

/-- A command that ends with a status alone leaves host memory. -/
theorem Onward.endWith {s t : State} {c : Cmd} (h : Onward s t c) (st : Nat) :
    RowEnd s (endWith c st t) c (justStatus st) ∧ (Machine.endWith c st t).host.mem = s.host.mem :=
  ⟨finish_rowEnd h.view h.hub h.cmd h.others _, (congrArg HostMem.mem (finish_host ..)).trans h.mem⟩

/-! ### The input (R59) -/

theorem length_fit (n : Nat) (b : Bytes) : (fit n b).length = n := by
  simp only [fit, zeros, List.length_take, List.length_append, List.length_replicate]
  omega

theorem length_slice (b : Bytes) (off n : Nat) : (slice b off n).length = n := length_fit n _

theorem length_inputOf (s : State) (c : Cmd) : (inputOf s c).length = pInL c.pkt := by
  unfold inputOf
  split
  · exact length_slice ..
  · exact Tbl.length_getList ..

/-- What a read of a command's memory gives: a guest's bytes are its REQ's. -/
def readBytes (s : State) (c : Cmd) (a n : Nat) : Bytes :=
  if c.port = 256 then slice (guestInput s c) (a - pInA c.pkt) n else hostBytes s a n

theorem length_readBytes (s : State) (c : Cmd) (a n : Nat) : (readBytes s c a n).length = n := by
  unfold readBytes
  split
  · exact length_slice ..
  · exact Tbl.length_getList ..

theorem readAt_ok {s : State} {c : Cmd} {a n : Nat} (h : canAccess s c a n) :
    ∃ t, readAt c a n s = some (readBytes s c a n, t) ∧ Counted s t := by
  unfold readAt readBytes
  by_cases hp : c.port = 256
  · rw [if_pos hp, if_pos hp]
    exact ⟨s, rfl, .refl s⟩
  · rw [if_neg hp, if_neg hp]
    exact dmaRead_ok _ _ _ s (h.resolve_left hp)

/-- Keeping what has been read changes the command's engine, or the input its unit holds. -/
theorem keepInput_onward {s t : State} {c : Cmd} (h : cmdU s c.id = some c) (k : Counted s t) (b : Bytes) :
    Onward s (keepInput c b t) c := by
  have hc : cmdU t c.id = some c := (k.cmdU c.id).trans h
  unfold keepInput
  split
  · refine ⟨k.rowView, k.hostMem, .inr ⟨b, (eng s c.unit).work, (eng s c.unit).workMasks, (eng s c.unit).lines,
      (eng s c.unit).mg, ?_⟩, ⟨c.input, hc⟩, fun j _ => k.cmdU j⟩
    unfold updEng setEng
    rw [k.hub, k.eng]
  · simp only [hc]
    refine ⟨k.rowView, k.hostMem, .inl k.hub, ⟨b, ?_⟩, fun j hj => ?_⟩
    · exact cmdU_setCmd_same (d := { c with input := b }) hc
    · exact (cmdU_setCmd_other (d := { c with input := b }) hj).trans (k.cmdU j)

/-- Each byte of the input is read once: what is there already is not read again (R59). -/
theorem readIn_held {s : State} {id : Nat} {c : Cmd} (h : cmdHeld s id c) (hin : canAccess s c (pInA c.pkt) (pInL c.pkt)) :
    ∃ t, readIn c s = some (inputOf s c, t) ∧ Onward s t c := by
  obtain ⟨hcmd, rfl, -, -, -, hread, -⟩ := h
  unfold readIn
  rcases hread with hnone | hall
  · obtain ⟨t, ht, k⟩ := readAt_ok hin
    have hbytes : readBytes s c (pInA c.pkt) (pInL c.pkt) = inputOf s c := by
      unfold readBytes inputOf
      rw [Nat.sub_self]
    refine ⟨_, ?_, keepInput_onward hcmd k (inputOf s c)⟩
    simp [hnone, ht, hbytes]
  · have hlen := length_inputOf s c
    have htake : (inputOf s c).take (pInL c.pkt) = inputOf s c := List.take_of_length_le (Nat.le_of_eq hlen)
    have hnothing : canAccess s c (pInA c.pkt + pInL c.pkt) 0 := .inr rfl
    obtain ⟨t, ht, k⟩ := readAt_ok hnothing
    have hbytes : readBytes s c (pInA c.pkt + pInL c.pkt) 0 = [] := List.eq_nil_of_length_eq_zero (length_readBytes ..)
    refine ⟨_, ?_, keepInput_onward hcmd k (inputOf s c)⟩
    simp [hall, htake, hlen, ht, hbytes]

theorem withIn_held {s : State} {id : Nat} {c : Cmd} (h : cmdHeld s id c) (hin : canAccess s c (pInA c.pkt) (pInL c.pkt)) :
    ∃ t, (∀ f, withIn c s f = f (inputOf s c) t) ∧ Onward s t c := by
  obtain ⟨t, ht, ho⟩ := readIn_held h hin
  exact ⟨t, fun f => by simp only [withIn, ht], ho⟩

theorem running_held {s : State} {id : Nat} {c : Cmd} (h : cmdHeld s id c) {ok : Op → Bool} (hok : ok (cmdOp c) = true) :
    running s id ok = some c := by
  obtain ⟨hcmd, -, hphase, hremote, hstore, -⟩ := h
  simp [running, hcmd, hphase, hremote, hstore, hok]

theorem held_unlogged {s : State} {id : Nat} {c : Cmd} (h : cmdHeld s id c) :
    c.port ≠ 256 → (instU s c.port).logging = false := by
  obtain ⟨-, -, -, -, -, -, hlog⟩ := h
  exact hlog

/-! ### The output (R60, R61) -/

/-- A row that writes its output where it can finishes with STS_OK, the bytes stand at the output address, and the Hub
stays. -/
theorem Onward.endOut {s t : State} {c : Cmd} (h : Onward s t c) {b : Bytes}
    (hlog : c.port ≠ 256 → (instU s c.port).logging = false) (hout : canAccess s c (pOutA c.pkt) b.length) :
    delivered s (Machine.endOut c b t) c b ∧ rowView (Machine.endOut c b t) = rowView s ∧
      (Machine.endOut c b t).hub = t.hub := by
  obtain ⟨i, hi⟩ := h.cmd
  unfold Machine.endOut writeOut
  by_cases hp : c.port = 256
  · have hset : cmdU (setCmd { c with input := i, out := b } t) c.id = some { c with input := i, out := b } :=
      cmdU_setCmd_same (d := { c with input := i, out := b }) hi
    have hend := finish_rowEnd (c := { c with out := b }) (t := setCmd { c with input := i, out := b } t)
      h.view h.hub ⟨i, hset⟩ (fun j hj => (cmdU_setCmd_other (d := { c with input := i, out := b }) hj).trans (h.others j hj))
      { status := stsOk, outLen := b.length }
    have hmem := (congrArg HostMem.mem (finish_host c.id { status := stsOk, outLen := b.length }
      (setCmd { c with input := i, out := b } t))).trans h.mem
    rw [if_pos hp, hi]
    refine ⟨⟨?_, fun _ => hmem, fun hn => absurd hp hn⟩, hend.view, finish_hub ..⟩
    rw [if_pos hp]
    exact hend.concluded
  · have hok : hostOk t c.port (pOutA c.pkt) b.length = true := by
      rw [rowView_hostOk h.view]
      exact hout.resolve_left hp
    obtain ⟨u, hu, k⟩ := dmaWrite_ok c.port (pOutA c.pkt) b t hok (by rw [rowView_instU h.view]; exact hlog hp)
    have hput : Counted (hostPut (pOutA c.pkt) b t) u := k
    have hend := finish_rowEnd (c := c) (t := u) (s := s) (hput.rowView.trans h.view) (by
        unfold sameHub
        rw [hput.hub]
        exact h.hub) ⟨i, (hput.cmdU c.id).trans hi⟩ (fun j hj => (hput.cmdU j).trans (h.others j hj))
      { status := stsOk, outLen := b.length }
    have hmem := (congrArg HostMem.mem (finish_host c.id { status := stsOk, outLen := b.length } u)).trans hput.hostMem
    rw [if_neg hp, hu]
    refine ⟨⟨?_, fun hn => absurd hn hp, fun _ => ⟨?_, fun a ha => ?_⟩⟩, hend.view, (finish_hub ..).trans hput.hub⟩
    · rw [if_neg hp]
      exact hend.concluded
    · exact (congrArg (fun m => Tbl.getList 0 m _ _) hmem).trans (hostBytes_hostPut _ _ t)
    · refine (congrArg (fun m => Tbl.get 0 m a) hmem).trans ((hostPut_get_outside _ _ t a ha).trans ?_)
      rw [h.mem]

/-- A comparison reads as many bytes at the output address and answers with a status (R61). -/
theorem Onward.endCompare {s t : State} {c : Cmd} (h : Onward s t c) {v : Bytes} (bad : Nat) (hport : c.port ≠ 256)
    (hout : hostOk s c.port (pOutA c.pkt) v.length = true) :
    RowEnd s (endCompare c v bad t) c (justStatus (if hostBytes s (pOutA c.pkt) v.length = v then stsOk else bad)) ∧
      (Machine.endCompare c v bad t).host.mem = s.host.mem := by
  have hok : hostOk t c.port (pOutA c.pkt) v.length = true := by
    rw [rowView_hostOk h.view]
    exact hout
  obtain ⟨u, hu, k⟩ := readAt_ok (s := t) (c := c) (.inr hok)
  have hbytes : readBytes t c (pOutA c.pkt) v.length = hostBytes s (pOutA c.pkt) v.length := by
    unfold readBytes hostBytes
    rw [if_neg hport, h.mem]
  rw [hbytes] at hu
  simp only [Machine.endCompare, hu]
  exact (h.counted k).endWith _

end Sys2Proof.Machine
end

section
/-! Host-memory errors of a data command (R60, R336), and its message on core 31 of a hash array (R232, R242). -/
namespace Sys2Proof.Machine
open Sys2Proof

/-! ### Host-memory errors -/

/-- Between `s` and `t` at most bytes of host memory inside `[a, a + n)` and open values have changed. -/
structure Spilled (a n : Nat) (s t : State) : Prop where
  view : rowView t = rowView s
  hub : t.hub = s.hub
  cmds : t.hif.cmds = s.hif.cmds
  outside : ∀ x, x < a ∨ a + n ≤ x → Tbl.get 0 t.host.mem x = Tbl.get 0 s.host.mem x

theorem Spilled.refl (a n : Nat) (s : State) : Spilled a n s s := ⟨rfl, rfl, rfl, fun _ _ => rfl⟩

theorem Spilled.trans {a n : Nat} {s t u : State} (h : Spilled a n s t) (k : Spilled a n t u) : Spilled a n s u :=
  ⟨k.view.trans h.view, k.hub.trans h.hub, k.cmds.trans h.cmds, fun x hx => (k.outside x hx).trans (h.outside x hx)⟩

/-- One byte of an output buffer after a failed access (`spill`). -/
def spillByte (fn a : Nat) (s : State) (i : Nat) : State :=
  let t : State := { s with free := s.free + 2 }
  if hostOk s fn (a + i) 1 ∧ (Config.freeByte s.free).getLsbD 0 = true then
    hostPut (a + i) [Config.freeByte (s.free + 1)] (logWrite fn (a + i) 1 t)
  else t

theorem spill_eq (fn a n : Nat) (s : State) : spill fn a n s = (List.range n).foldl (spillByte fn a) s := rfl

theorem spillByte_spilled {fn a n i : Nat} {s : State} (hi : i < n) (hlog : (instU s fn).logging = false) :
    Spilled a n s (spillByte fn a s i) := by
  have hoff : logWrite fn (a + i) 1 { s with free := s.free + 2 } = { s with free := s.free + 2 } :=
    if_neg (by rw [show instU { s with free := s.free + 2 } fn = instU s fn from rfl, hlog]; decide)
  unfold spillByte
  dsimp only
  split
  · rw [hoff]
    refine ⟨rfl, rfl, rfl, fun x hx => hostPut_get_outside (a + i) _ { s with free := s.free + 2 } x ?_⟩
    rw [List.length_singleton]
    omega
  · exact ⟨rfl, rfl, rfl, fun _ _ => rfl⟩

theorem spillBytes_spilled {fn a n : Nat} (l : List Nat) {s : State} (hl : ∀ i ∈ l, i < n)
    (hlog : (instU s fn).logging = false) : Spilled a n s (l.foldl (spillByte fn a) s) := by
  induction l generalizing s with
  | nil => exact .refl a n s
  | cons i l ih =>
    have hfirst : Spilled a n s (spillByte fn a s i) := spillByte_spilled (hl i (by simp)) hlog
    exact hfirst.trans (ih (fun j hj => hl j (by simp [hj])) (by rw [rowView_instU hfirst.view]; exact hlog))

/-- A failed access leaves all but the bytes of its output buffer, where DMA writes are not logged. -/
theorem spill_spilled (fn a n : Nat) (s : State) (hlog : (instU s fn).logging = false) : Spilled a n s (spill fn a n s) := by
  rw [spill_eq]
  exact spillBytes_spilled _ (fun i hi => List.mem_range.mp hi) hlog

theorem mem_aerReport (fn : Nat) (s : State) : fn ∈ (aerReport fn s).host.aer := by
  unfold aerReport
  split
  · next h => simpa using h
  · exact List.mem_cons_self

theorem aerReport_keeps (fn : Nat) (s : State) : rowView (aerReport fn s) = rowView s ∧
    (aerReport fn s).host.mem = s.host.mem ∧ (aerReport fn s).hub = s.hub ∧ (aerReport fn s).hif = s.hif := by
  unfold aerReport
  split <;> exact ⟨rfl, rfl, rfl, rfl⟩

/-- A DMA error ends the command, reported to its function (R336). -/
theorem dmaEnd_rowEnd {s t : State} {c : Cmd} {a n : Nat} (h : cmdU s c.id = some c) (k : Spilled a n s t) :
    RowEnd s (dmaEnd c t) c (justStatus stsDmaError) ∧ c.port ∈ (dmaEnd c t).host.aer ∧
      (dmaEnd c t).host.mem = t.host.mem := by
  obtain ⟨hview, hmem, hhub, hhif⟩ := aerReport_keeps c.port t
  have hcmds : ∀ j, cmdU (aerReport c.port t) j = cmdU s j := fun j => by
    unfold cmdU
    rw [hhif, k.cmds]
  have hhost := finish_host c.id (justStatus stsDmaError) (aerReport c.port t)
  refine ⟨?_, ?_, (congrArg HostMem.mem hhost).trans hmem⟩
  · exact finish_rowEnd (hview.trans k.view) (.inl (hhub.trans k.hub)) ⟨c.input, (hcmds c.id).trans h⟩ (fun j _ => hcmds j) _
  · exact (congrArg (c.port ∈ HostMem.aer ·) hhost).mpr (mem_aerReport _ _)

/-- Input that does not answer: STS_DMA_ERROR; only a row that writes output as it reads may have touched its output
buffer (R60, R336). -/
theorem withIn_dmaError {s : State} {id : Nat} {c : Cmd} (h : cmdHeld s id c) (hport : c.port ≠ 256) (hread : inputRead s c = [])
    (hbad : hostOk s c.port (pInA c.pkt) (pInL c.pkt) = false) (f : Bytes → State → State) :
    RowEnd s (withIn c s f) c (justStatus stsDmaError) ∧ c.port ∈ (withIn c s f).host.aer ∧
      (streams c = false → (withIn c s f).host.mem = s.host.mem) ∧
      ∀ a, a < pOutA c.pkt ∨ pOutA c.pkt + pMax c.pkt ≤ a →
        Tbl.get 0 (withIn c s f).host.mem a = Tbl.get 0 s.host.mem a := by
  obtain ⟨hcmd, rfl, -, -, -, -, hlog⟩ := h
  have hnone : readIn c s = none := by
    simp [readIn, hread, readAt, hport, dmaRead, hbad]
  simp only [withIn, hnone]
  by_cases hs : streams c = true
  · have hspill := spill_spilled c.port (pOutA c.pkt) (pMax c.pkt) s (hlog hport)
    obtain ⟨hend, haer, hmem⟩ := dmaEnd_rowEnd hcmd hspill
    rw [if_pos hs, dmaSpill, if_neg hport]
    refine ⟨hend, haer, fun hn => absurd hs (by simp [hn]), fun a ha => ?_⟩
    rw [hmem]
    exact hspill.outside a ha
  · obtain ⟨hend, haer, hmem⟩ := dmaEnd_rowEnd hcmd (Spilled.refl 0 0 s)
    rw [if_neg hs]
    exact ⟨hend, haer, fun _ => hmem, fun a _ => congrArg (fun m => Tbl.get 0 m a) hmem⟩

/-! ### A message on core 31 -/

/-- Unit `u` with a message taken to core 31. -/
def dgeOffloaded (keyed : Bool) (alg n len : Nat) (d : Dge) : Dge :=
  { d with
    alg := alg, keyed := keyed, source := true, st := .absorbing, offloaded := true, len := len, count := len, done := 0
    total := n }

/-- The message's first block goes to its hash array; nothing but the array and the unit changes. -/
theorem offloadStart_eq (u : Nat) (keyed : Bool) (alg n len : Nat) (s : State) : ∃ a,
    offloadStart u keyed alg n len s = { setDge u (dgeOffloaded keyed alg n len (dgeU s u)) s with hsa := a } := by
  have hpump : ∀ t, ∃ a, dgePump u t = { t with hsa := a } := fun t => by
    unfold dgePump
    split
    · exact ⟨_, rfl⟩
    · exact ⟨t.hsa, rfl⟩
  exact hpump _

theorem offloadRun_fresh {s : State} {u : Nat} (h : msgStarted s u = false) (keyed : Bool) (alg n len : Nat) (f : State → State) :
    offloadRun u keyed alg n len s f = offloadStart u keyed alg n len s := by
  unfold offloadRun
  refine if_pos fun hs => ?_
  simp [msgStarted, hs.1, hs.2] at h

theorem offloadRun_going {s : State} {u : Nat} (h : msgStarted s u = true) (keyed : Bool) (alg n len : Nat) (f : State → State) :
    offloadRun u keyed alg n len s f = if (dgeU s u).done < (dgeU s u).total then s else f s := by
  unfold offloadRun
  refine if_neg (not_not_intro ?_)
  simpa [msgStarted] using h

theorem digestEvents_counted (alg len : Nat) (s : State) : Counted s (digestEvents alg len s) :=
  (blkEvent_counted ..).trans (blkEvent_counted ..)

theorem rowView_msgStarted {s t : State} (h : rowView t = rowView s) (u : Nat) : msgStarted t u = msgStarted s u := by
  unfold msgStarted
  rw [rowView_dgeU h]

/-! ### The key-feed port (R242) -/

theorem charge_dge (aes : Bool) (i start : Nat) (s : State) : (charge aes i start s).dge = s.dge := by
  have hdrl : ∀ (t : State) d, ({ t with drl := d } : State).dge = t.dge := fun _ _ => rfl
  cases aes <;> exact (hdrl _ _).trans (instEvent_counted ..).dge

theorem releaseEngine_dge (i start n : Nat) (s : State) : (releaseEngine i start n s).dge = s.dge := by
  have hrel : ∀ k t, (settleFlt .hub n (updEng n (engBoundary k) t)).dge = t.dge := fun _ _ => rfl
  unfold releaseEngine
  rw [hrel, (cadEvent_counted .hub n 0x0C 1 true i _ (by decide)).dge, charge_dge]
  exact ite_keeps State.dge rfl rfl

/-- Unit `u` with a key register's material and shares. -/
def dgeKeyed (kr : KeyReg) (d : Dge) : Dge := { d with key := some kr.material, keyMasks := kr.masks, keyOrder := kr.order }

/-- The key of engine `n` goes into unit `u` with its shares and leaves the engine, whose part ends; the vault, BBRAM, host
memory and the commands are as before. -/
theorem keyFeed_leaves {s : State} {u : Nat} (harm : (fltU s .dge u).armed = false) (k n : Nat) (kr : KeyReg) :
    unitView (keyFeed k n u kr s) = unitView s ∧ dgeU (keyFeed k n u kr s) u = dgeKeyed kr (dgeU s u) ∧
      (eng (keyFeed k n u kr s) n).key = none := by
  have hview : ∀ t f, unitView (updEng n f t) = unitView t := fun _ _ => rfl
  have hdge : ∀ t f, dgeU (updEng n f t) u = dgeU t u := fun _ _ => rfl
  have hrel : ∀ i start t, dgeU (releaseEngine i start n t) u = dgeU t u := fun i start t => by
    unfold dgeU
    rw [releaseEngine_dge]
  unfold keyFeed
  dsimp only
  rw [access_unarmed _ _ _ _ _ _ _ _ _ harm]
  refine ⟨?_, ?_, ?_⟩
  · rw [hview, unitView_releaseEngine]
    rfl
  · rw [hdge, hrel]
    exact dgeU_setDge_same ..
  · rw [updEng, eng_setEng_same]

theorem feedKey_fed {s : State} {c : Cmd} (h : (dgeU s c.unit).key.isSome = true) : feedKey c s = s := by
  obtain ⟨key, hkey⟩ := Option.isSome_iff_exists.mp h
  simp [feedKey, hkey]

theorem feedKey_fresh {s : State} {c : Cmd} {k n : Nat} {kr : KeyReg} (hnone : (dgeU s c.unit).key = none)
    (hcore : c.core = some k) (hhub : (coreU s k).hub = some n) (hkey : (eng s n).key = some kr) :
    feedKey c s = keyFeed k n c.unit kr s := by
  simp [feedKey, hnone, hcore, hhub, hkey]

theorem sameHub.engKey {s t : State} {c : Cmd} (h : sameHub s t c) (n : Nat) : (eng t n).key = (eng s n).key := by
  rcases h with h | ⟨b, w, m, l, g, h⟩
  · unfold eng
    rw [h]
  · refine (congrArg (fun x : Hub => (Tbl.get {} x.eng n).key) h).trans ?_
    change (eng (updEng c.unit _ s) n).key = _
    rw [updEng, eng_setEng]
    split
    · next hn => rw [hn]
    · rfl

end Sys2Proof.Machine
end

section
/-! The digest, keyed digest and symmetric rows that write an output (R79, R82, R84-R86, Tables 3-6 to 3-8). -/
namespace Sys2Proof.Machine
open Sys2Proof

/-! ### The rows as digests, keyed digests and symmetric operations -/

/-- The value of a keyed digest row on its input (R82). -/
def keyedValue (alg : Nat) (c : Cmd) (key b : Bytes) : Bytes :=
  keyedDigest alg key (b.drop (byteAt c.pkt 41)) (b.take (byteAt c.pkt 41)) (tagLen alg (byteAt c.pkt 42))

/-- Row `r` is the digest of algorithm `alg`. -/
structure IsDigest (id alg : Nat) (r : DataRow) : Prop where
  op : r.op = .dig alg
  plain : r.plain = true
  exec : ∀ s, exec r.row s = .next (digestRow alg id s)
  out : ∀ c m, r.out c m = some (digest alg m (pMax c.pkt))

/-- Row `r` is the keyed digest of algorithm `alg`. -/
structure IsKeyed (id alg : Nat) (r : DataRow) : Prop where
  op : r.op = .keyed alg
  plain : r.plain = true
  exec : ∀ s, exec r.row s = .next (keyedRow alg id s)
  out : ∀ c b, r.out c b = some (keyedValue alg c (keyOf c).secret b)

/-- Row `r` is the symmetric operation `o`, which goes on with its input as `f` says. -/
structure IsSym (id o : Nat) (f : Cmd → Bytes → Bytes → State → State) (r : DataRow) : Prop where
  op : r.op = .sym o
  output : o ≠ 0x0661
  notPlain : r.plain = false
  exec : ∀ s, exec r.row s = .next (symRow o id s f)
  delivers : ∀ c m s p, r.out c m = some p → p.length ≤ pMax c.pkt → f c (keyOf c).secret m s = endOut c p s
  fails : ∀ c m s, r.out c m = none → m.length ≤ 65536 → f c (keyOf c).secret m s = endWith c stsVerifyFail s

/-- A symmetric row that always has an output. -/
theorem isSym_symOut {i : Instr} {id o : Nat} {g : Bytes → Cmd → Bytes → Bytes} (ho : o ≠ 0x0661)
    (h : ∀ s, exec i s = .next (symRow o id s (fun c k m s => endOut c (g k c m) s))) :
    IsSym id o (fun c k m s => endOut c (g k c m) s) (symOut i o g) := by
  refine ⟨rfl, ho, rfl, h, fun c m s p hp _ => ?_, fun c m s hn _ => nomatch hn⟩
  rw [← Option.some.inj hp]

theorem isSym_keyUnwrap (id : Nat) : ∃ f, IsSym id 0x0671 f ⟨.keyUnwrap id, .sym 0x0671, false, fun c m =>
    if (kwUnwrap (keyOf c).secret m).1 = kwIv then some (kwUnwrap (keyOf c).secret m).2 else none⟩ := by
  refine ⟨_, rfl, by decide, rfl, fun s => rfl, fun c m s p hp _ => ?_, fun c m s hn _ => ?_⟩
  · obtain ⟨hiv, he⟩ := Option.ite_none_right_eq_some.mp hp
    rw [← Option.some.inj he]
    exact if_pos hiv
  · refine if_neg fun hiv => ?_
    simp [hiv] at hn

theorem isSym_keyUnwrapPad (id : Nat) : ∃ f, IsSym id 0x0681 f
    ⟨.keyUnwrapPad id, .sym 0x0681, false, fun c m => kwpUnwrap (keyOf c).secret m⟩ := by
  refine ⟨_, rfl, by decide, rfl, fun s => rfl, fun c m s p hp hlen => ?_, fun c m s hn _ => ?_⟩
  · have hfits : ¬ pMax c.pkt < p.length := Nat.not_lt.mpr hlen
    simp only [show kwpUnwrap (keyOf c).secret m = some p from hp, List.take_of_length_le hlen, hfits, decide_false]
    rfl
  · simp only [show kwpUnwrap (keyOf c).secret m = none from hn]

theorem isSym_aesGcmDecrypt (id : Nat) : ∃ f, IsSym id 0x0641 f ⟨.aesGcmDecrypt id, .sym 0x0641, false, fun c m =>
    gcmDec (keyOf c).secret (slice c.pkt 40 12) (m.take (leAt c.pkt 52 4))
      (slice m (leAt c.pkt 52 4) (m.length - leAt c.pkt 52 4 - tag16 (byteAt c.pkt 56)))
      (m.drop (leAt c.pkt 52 4 + (m.length - leAt c.pkt 52 4 - tag16 (byteAt c.pkt 56))))⟩ := by
  refine ⟨_, rfl, by decide, rfl, fun s => rfl, fun c m s p hp _ => ?_, fun c m s hn hlen => ?_⟩
  · dsimp only at hp ⊢
    simp only [hp]
  · dsimp only at hn ⊢
    simp only [hn, hlen, if_true]

theorem rowsData2_cases {id : Nat} {r : DataRow} (h : rowsData2 id r) :
    (∃ alg, IsDigest id alg r) ∨ (∃ alg, IsKeyed id alg r) ∨ ∃ o f, IsSym id o f r := by
  unfold rowsData2 at h
  simp only [List.mem_cons, List.not_mem_nil, or_false] at h
  rcases h with h | h | h
  · left
    rcases h with rfl | rfl | rfl | rfl | rfl | rfl | rfl | rfl <;>
      exact ⟨_, rfl, rfl, fun _ => rfl, fun _ _ => rfl⟩
  · right; left
    rcases h with rfl | rfl | rfl | rfl | rfl <;> exact ⟨_, rfl, rfl, fun _ => rfl, fun _ _ => rfl⟩
  · right; right
    rcases h with rfl | rfl | rfl | rfl | rfl | rfl | rfl | rfl | rfl | rfl | rfl | rfl | rfl
    on_goal 13 => exact ⟨_, isSym_aesGcmDecrypt id⟩
    on_goal 12 => exact ⟨_, isSym_keyUnwrapPad id⟩
    on_goal 10 => exact ⟨_, isSym_keyUnwrap id⟩
    all_goals exact ⟨_, _, isSym_symOut (by decide) fun _ => rfl⟩

end Sys2Proof.Machine
end

section
/-! What the digest, keyed digest and symmetric rows do with a command that runs: the message goes to core 31, waits there,
and ends with an output, a comparison or a refusal (R61, R79-R86, R232, R242). -/
namespace Sys2Proof.Machine
open Sys2Proof

/-! ### The rows on a command that runs -/

/-- A digest row once its value is computed: the output, or the comparison. -/
def digestEnd (alg : Nat) (c : Cmd) (m : Bytes) (s : State) : State :=
  let s := digestEvents alg m.length s
  if (byteAt c.pkt 40).testBit 0 then endCompare c (digest alg m (pMax c.pkt)) stsNotEqual s
  else endOut c (digest alg m (pMax c.pkt)) s

/-- A keyed digest row once its value is computed with the key of its unit. -/
def keyedEnd (alg : Nat) (c : Cmd) (key b : Bytes) (s : State) : State :=
  let s := digestEvents alg b.length s
  if (byteAt c.pkt 40).testBit 0 then endCompare c (keyedValue alg c key b) stsVerifyFail s
  else endOut c (keyedValue alg c key b) s

theorem digestRow_eq {s : State} {id alg : Nat} {c : Cmd} (h : cmdHeld s id c) (hop : cmdOp c = .dig alg) :
    digestRow alg id s = withIn c s (fun m s => if m.length < 4096 then digestEnd alg c m s
      else offloadRun c.unit false alg (digestJobs alg m.length (pMax c.pkt)) m.length s (digestEnd alg c m)) := by
  have hrun : running s id (fun o => o == .dig alg) = some c := running_held h (by rw [hop]; exact beq_self_eq_true _)
  unfold digestRow
  rw [hrun]
  rfl

/-- The compressions of a keyed digest row with a key of `n` bytes (R242). -/
def keyedTotal (alg : Nat) (c : Cmd) (n : Nat) (b : Bytes) : Nat :=
  keyedJobs alg n (b.take (byteAt c.pkt 41)) (b.length - byteAt c.pkt 41) (tagLen alg (byteAt c.pkt 42))

theorem keyedRow_eq {s t : State} {id alg : Nat} {c : Cmd} {b key : Bytes} (h : cmdHeld s id c) (hop : cmdOp c = .keyed alg)
    (ht : ∀ f, withIn c s f = f b t) (hkey : (dgeU (feedKey c t) c.unit).key = some key) :
    keyedRow alg id s = offloadRun c.unit true alg (keyedTotal alg c key.length b) b.length (feedKey c t)
      (keyedEnd alg c key b) := by
  have hrun : running s id (fun o => o == .keyed alg) = some c := running_held h (by rw [hop]; exact beq_self_eq_true _)
  unfold keyedRow
  rw [hrun]
  refine (ht _).trans ?_
  simp only [hkey]
  rfl

/-- Whatever key its unit holds, a keyed row goes on with its input. -/
theorem keyedRow_withIn {s : State} {id alg : Nat} {c : Cmd} (h : cmdHeld s id c) (hop : cmdOp c = .keyed alg) :
    ∃ f, keyedRow alg id s = withIn c s f := by
  have hrun : running s id (fun o => o == .keyed alg) = some c := running_held h (by rw [hop]; exact beq_self_eq_true _)
  unfold keyedRow
  rw [hrun]
  exact ⟨_, rfl⟩

theorem symRow_eq {s : State} {id o : Nat} {c : Cmd} (h : cmdHeld s id c) (hop : cmdOp c = .sym o)
    (f : Cmd → Bytes → Bytes → State → State) :
    symRow o id s f = withIn c s (fun m s => f c (keyOf c).secret m s) := by
  have hrun : running s id (fun x => x == .sym o) = some c := running_held h (by rw [hop]; exact beq_self_eq_true _)
  unfold symRow
  rw [hrun]

theorem longMessage_dig {s : State} {c : Cmd} {alg : Nat} (h : cmdOp c = .dig alg) :
    longMessage s c = decide (4096 ≤ (inputOf s c).length) := by simp only [longMessage, h]

theorem longMessage_keyed {s : State} {c : Cmd} {alg : Nat} (h : cmdOp c = .keyed alg) : longMessage s c = true := by
  simp only [longMessage, h]

theorem longMessage_sym {s : State} {c : Cmd} {o : Nat} (h : cmdOp c = .sym o) : longMessage s c = false := by
  simp only [longMessage, h]

theorem streams_dig {c : Cmd} {alg : Nat} (h : cmdOp c = .dig alg) : streams c = false := by simp only [streams, h]

theorem streams_keyed {c : Cmd} {alg : Nat} (h : cmdOp c = .keyed alg) : streams c = false := by simp only [streams, h]

/-! ### The message goes to core 31 -/

/-- Host memory, the vault, BBRAM and the other commands are as before; command `c` has at most its input read. -/
structure Standing (s t : State) (c : Cmd) : Prop where
  mem : t.host.mem = s.host.mem
  kvt : t.kvt = s.kvt
  bbram : t.bbram = s.bbram
  others : ∀ j, j ≠ c.id → cmdU t j = cmdU s j
  cmd : ∃ b, cmdU t c.id = some { c with input := b }

theorem Onward.standing {s t : State} {c : Cmd} (h : Onward s t c) : Standing s t c := by
  obtain ⟨-, -, -, -, -, -, hkvt, hbbram, -⟩ := rowView_frame h.view
  exact ⟨h.mem, hkvt, hbbram, h.others, h.cmd⟩

theorem Standing.of_unitView {s t u : State} {c : Cmd} (h : Standing s t c) (k : unitView u = unitView t) :
    Standing s u c := by
  have e := congrArg (fun x : State => (x.host.mem, x.kvt, x.bbram)) k
  simp only [Prod.mk.injEq] at e
  obtain ⟨hmem, hkvt, hbbram⟩ := e
  have hcmd : ∀ j, cmdU u j = cmdU t j := fun j => by
    unfold cmdU
    rw [(unitView_fields k).1]
  refine ⟨hmem.trans h.mem, hkvt.trans h.kvt, hbbram.trans h.bbram, fun j hj => (hcmd j).trans (h.others j hj), ?_⟩
  rw [hcmd]
  exact h.cmd

/-- The start of a message on core 31 changes its unit, which holds the length and the compressions to come, and its hash
array. -/
theorem offloadStart_leaves (u : Nat) (keyed : Bool) (alg n len : Nat) (s : State) :
    unitView (offloadStart u keyed alg n len s) = unitView s ∧ (∀ m, eng (offloadStart u keyed alg n len s) m = eng s m) ∧
      dgeU (offloadStart u keyed alg n len s) u = dgeOffloaded keyed alg n len (dgeU s u) := by
  obtain ⟨a, ha⟩ := offloadStart_eq u keyed alg n len s
  rw [ha]
  exact ⟨rfl, fun _ => rfl, dgeU_setDge_same ..⟩

theorem msgStarted_offloaded {s : State} {u : Nat} {keyed : Bool} {alg n len : Nat} {d : Dge}
    (h : dgeU s u = dgeOffloaded keyed alg n len d) : msgStarted s u = true := by
  simp [msgStarted, h, dgeOffloaded]

theorem digestRow_starts {s : State} {id alg : Nat} {c : Cmd} (h : cmdHeld s id c) (hop : cmdOp c = .dig alg)
    (hin : canAccess s c (pInA c.pkt) (pInL c.pkt)) (hlong : longMessage s c = true) (hfresh : msgStarted s c.unit = false) :
    Standing s (digestRow alg id s) c ∧ dgeU (digestRow alg id s) c.unit =
      dgeOffloaded false alg (digestJobs alg (inputOf s c).length (pMax c.pkt)) (inputOf s c).length (dgeU s c.unit) := by
  obtain ⟨t, ht, ho⟩ := withIn_held h hin
  rw [longMessage_dig hop, decide_eq_true_iff] at hlong
  rw [digestRow_eq h hop, ht, if_neg (Nat.not_lt.mpr hlong), offloadRun_fresh (by rw [rowView_msgStarted ho.view]; exact hfresh)]
  obtain ⟨hview, -, hdge⟩ := offloadStart_leaves c.unit false alg (digestJobs alg (inputOf s c).length (pMax c.pkt))
    (inputOf s c).length t
  rw [rowView_dgeU ho.view] at hdge
  exact ⟨ho.standing.of_unitView hview, hdge⟩

/-- A keyed message takes its key with it: the unit holds material, shares and order, the engine holds no key (R242). -/
theorem keyedRow_starts {s : State} {id alg k n : Nat} {c : Cmd} {kr : KeyReg} (h : cmdHeld s id c)
    (hop : cmdOp c = .keyed alg) (hin : canAccess s c (pInA c.pkt) (pInL c.pkt)) (hfresh : msgStarted s c.unit = false)
    (harm : (fltU s .dge c.unit).armed = false) (hnone : (dgeU s c.unit).key = none) (hcore : c.core = some k)
    (hhub : (coreU s k).hub = some n) (hkey : (eng s n).key = some kr) :
    Standing s (keyedRow alg id s) c ∧ (eng (keyedRow alg id s) n).key = none ∧ dgeU (keyedRow alg id s) c.unit =
      dgeOffloaded true alg (keyedTotal alg c kr.material.length (inputOf s c)) (inputOf s c).length
        (dgeKeyed kr (dgeU s c.unit)) := by
  obtain ⟨t, ht, ho⟩ := withIn_held h hin
  have hunit : dgeU t c.unit = dgeU s c.unit := rowView_dgeU ho.view _
  obtain ⟨-, -, -, -, -, -, -, -, -, -, -, -, -, -, hflt, -, hseq, -⟩ := rowView_frame ho.view
  have hcoreU : coreU t k = coreU s k := by unfold coreU; rw [hseq]
  have hfltU : fltU t .dge c.unit = fltU s .dge c.unit := by unfold fltU; rw [hflt]
  have hfeed : feedKey c t = keyFeed k n c.unit kr t :=
    feedKey_fresh (by rw [hunit]; exact hnone) hcore (by rw [hcoreU]; exact hhub) (by rw [ho.hub.engKey]; exact hkey)
  obtain ⟨hview, hdge, heng⟩ := keyFeed_leaves (s := t) (u := c.unit) (by rw [hfltU]; exact harm) k n kr
  rw [← hfeed] at hview hdge heng
  rw [hunit] at hdge
  have hunstarted : msgStarted (feedKey c t) c.unit = false := by
    unfold msgStarted
    rw [hdge]
    exact hfresh
  rw [keyedRow_eq h hop ht (key := kr.material) (by rw [hdge]; rfl), offloadRun_fresh hunstarted]
  obtain ⟨hview', heng', hdge'⟩ := offloadStart_leaves c.unit true alg (keyedTotal alg c kr.material.length (inputOf s c))
    (inputOf s c).length (feedKey c t)
  rw [hdge] at hdge'
  exact ⟨ho.standing.of_unitView (hview'.trans hview), by rw [heng', heng], hdge'⟩

/-! ### It waits there, and ends -/

/-- While compressions are left the row has read its input and waits. -/
theorem digestRow_waits {s : State} {id alg : Nat} {c : Cmd} (h : cmdHeld s id c) (hop : cmdOp c = .dig alg)
    (hin : canAccess s c (pInA c.pkt) (pInL c.pkt)) (hlong : longMessage s c = true) (hgoing : msgStarted s c.unit = true)
    (hleft : (dgeU s c.unit).done < (dgeU s c.unit).total) : Onward s (digestRow alg id s) c := by
  obtain ⟨t, ht, ho⟩ := withIn_held h hin
  rw [longMessage_dig hop, decide_eq_true_iff] at hlong
  rw [digestRow_eq h hop, ht, if_neg (Nat.not_lt.mpr hlong), offloadRun_going (by rw [rowView_msgStarted ho.view]; exact hgoing),
    rowView_dgeU ho.view, if_pos hleft]
  exact ho

theorem keyedRow_waits {s : State} {id alg : Nat} {c : Cmd} (h : cmdHeld s id c) (hop : cmdOp c = .keyed alg)
    (hin : canAccess s c (pInA c.pkt) (pInL c.pkt)) (hkey : (dgeU s c.unit).key.isSome = true)
    (hgoing : msgStarted s c.unit = true) (hleft : (dgeU s c.unit).done < (dgeU s c.unit).total) :
    Onward s (keyedRow alg id s) c := by
  obtain ⟨t, ht, ho⟩ := withIn_held h hin
  obtain ⟨key, hsome⟩ := Option.isSome_iff_exists.mp hkey
  have hunit : dgeU t c.unit = dgeU s c.unit := rowView_dgeU ho.view _
  have hfeed : feedKey c t = t := feedKey_fed (by rw [hunit]; exact hkey)
  rw [keyedRow_eq h hop ht (key := key) (by rw [hfeed, hunit]; exact hsome), hfeed,
    offloadRun_going (by rw [rowView_msgStarted ho.view]; exact hgoing), hunit, if_pos hleft]
  exact ho

/-- A digest row ends on a state that has only read its input, once core 31 has done a message that goes there. -/
theorem digestRow_ends {s : State} {id alg : Nat} {c : Cmd} (h : cmdHeld s id c) (hop : cmdOp c = .dig alg)
    (hin : canAccess s c (pInA c.pkt) (pInL c.pkt)) (hdone : messageDone s c) :
    ∃ t, Onward s t c ∧ digestRow alg id s = digestEnd alg c (inputOf s c) t := by
  obtain ⟨t, ht, ho⟩ := withIn_held h hin
  refine ⟨t, ho, ?_⟩
  rw [digestRow_eq h hop, ht]
  by_cases hshort : (inputOf s c).length < 4096
  · rw [if_pos hshort]
  · have hlong : longMessage s c = true := by
      rw [longMessage_dig hop, decide_eq_true_iff]
      exact Nat.not_lt.mp hshort
    obtain ⟨⟨hgoing, hall⟩, -⟩ := hdone hlong
    rw [if_neg hshort, offloadRun_going (by rw [rowView_msgStarted ho.view]; exact hgoing), rowView_dgeU ho.view,
      if_neg (Nat.not_lt.mpr hall)]

theorem keyedRow_ends {s : State} {id alg : Nat} {c : Cmd} (h : cmdHeld s id c) (hop : cmdOp c = .keyed alg)
    (hin : canAccess s c (pInA c.pkt) (pInL c.pkt)) (hdone : messageDone s c) :
    ∃ t, Onward s t c ∧ keyedRow alg id s = keyedEnd alg c (keyOf c).secret (inputOf s c) t := by
  obtain ⟨t, ht, ho⟩ := withIn_held h hin
  obtain ⟨⟨hgoing, hall⟩, hkeyed⟩ := hdone (longMessage_keyed hop)
  have hunit : dgeU t c.unit = dgeU s c.unit := rowView_dgeU ho.view _
  have hkey : (dgeU t c.unit).key = some (keyOf c).secret := by
    rw [hunit]
    exact hkeyed alg hop
  have hfeed : feedKey c t = t := feedKey_fed (by rw [hkey]; rfl)
  refine ⟨t, ho, ?_⟩
  rw [keyedRow_eq h hop ht (by rw [hfeed]; exact hkey), hfeed, offloadRun_going (by rw [rowView_msgStarted ho.view]; exact hgoing),
    hunit, if_neg (Nat.not_lt.mpr hall)]

theorem symRow_ends {s : State} {id o : Nat} {c : Cmd} (h : cmdHeld s id c) (hop : cmdOp c = .sym o)
    (hin : canAccess s c (pInA c.pkt) (pInL c.pkt)) (f : Cmd → Bytes → Bytes → State → State) :
    ∃ t, Onward s t c ∧ symRow o id s f = f c (keyOf c).secret (inputOf s c) t := by
  obtain ⟨t, ht, ho⟩ := withIn_held h hin
  exact ⟨t, ho, by rw [symRow_eq h hop, ht]⟩

end Sys2Proof.Machine
end

section
/-! The obligations about the rows that write an output, and about those that compare and verify. -/
namespace Sys2Proof.Machine
open Sys2Proof

/-! ### An output (R60) -/

/-- A row's output on a state that has only read its input: it is delivered, and of the block nothing else changes. -/
theorem Onward.delivers {s t : State} {c : Cmd} (h : Onward s t c) {b : Bytes}
    (hlog : c.port ≠ 256 → (instU s c.port).logging = false) (hout : canAccess s c (pOutA c.pkt) b.length) :
    delivered s (Machine.endOut c b t) c b ∧ dataFrame s (Machine.endOut c b t) ∧ sameHub s (Machine.endOut c b t) c ∧
      (Machine.endOut c b t).ent = s.ent := by
  obtain ⟨hdel, hview, hhub⟩ := h.endOut hlog hout
  obtain ⟨-, -, -, hent, -⟩ := rowView_units hview
  refine ⟨hdel, rowView_frame hview, ?_, hent⟩
  unfold sameHub
  rw [hhub]
  exact h.hub

theorem digestEnd_plain {alg : Nat} {c : Cmd} (h : (byteAt c.pkt 40).testBit 0 = false) (m : Bytes) (s : State) :
    digestEnd alg c m s = endOut c (digest alg m (pMax c.pkt)) (digestEvents alg m.length s) :=
  if_neg (by rw [h]; decide)

theorem keyedEnd_plain {alg : Nat} {c : Cmd} (h : (byteAt c.pkt 40).testBit 0 = false) (key b : Bytes) (s : State) :
    keyedEnd alg c key b s = endOut c (keyedValue alg c key b) (digestEvents alg b.length s) :=
  if_neg (by rw [h]; decide)

/-- A data row whose output is known ends with it. -/
theorem dataRow_ends {s : State} {id : Nat} {c : Cmd} {r : DataRow} {b : Bytes} (hr : rowsData2 id r) (h : cmdHeld s id c)
    (hop : cmdOp c = r.op) (hplain : r.plain = true → (byteAt c.pkt 40).testBit 0 = false)
    (hin : canAccess s c (pInA c.pkt) (pInL c.pkt)) (hdone : messageDone s c) (hb : r.out c (inputOf s c) = some b)
    (hlen : b.length ≤ pMax c.pkt) : ∃ t, Onward s t c ∧ exec r.row s = .next (endOut c b t) := by
  rcases rowsData2_cases hr with ⟨alg, hd⟩ | ⟨alg, hk⟩ | ⟨o, f, hs⟩
  · obtain ⟨t, ho, ht⟩ := digestRow_ends h (hop.trans hd.op) hin hdone
    rw [hd.out] at hb
    rw [hd.exec, ht, digestEnd_plain (hplain hd.plain), Option.some.inj hb]
    exact ⟨_, ho.counted (digestEvents_counted ..), rfl⟩
  · obtain ⟨t, ho, ht⟩ := keyedRow_ends h (hop.trans hk.op) hin hdone
    rw [hk.out] at hb
    rw [hk.exec, ht, keyedEnd_plain (hplain hk.plain), Option.some.inj hb]
    exact ⟨_, ho.counted (digestEvents_counted ..), rfl⟩
  · obtain ⟨t, ho, ht⟩ := symRow_ends h (hop.trans hs.op) hin f
    rw [hs.exec, ht, hs.delivers c _ t b hb hlen]
    exact ⟨t, ho, rfl⟩

/-- Only an unwrap or a tag can fail; the row then ends with STS_VERIFY_FAIL. -/
theorem dataRow_fails {s : State} {id : Nat} {c : Cmd} {r : DataRow} (hr : rowsData2 id r) (h : cmdHeld s id c)
    (hop : cmdOp c = r.op) (hin : canAccess s c (pInA c.pkt) (pInL c.pkt)) (hn : r.out c (inputOf s c) = none)
    (hlen : (inputOf s c).length ≤ 65536) : ∃ t, Onward s t c ∧ exec r.row s = .next (endWith c stsVerifyFail t) := by
  rcases rowsData2_cases hr with ⟨alg, hd⟩ | ⟨alg, hk⟩ | ⟨o, f, hs⟩
  · rw [hd.out] at hn
    exact nomatch hn
  · rw [hk.out] at hn
    exact nomatch hn
  · obtain ⟨t, ho, ht⟩ := symRow_ends h (hop.trans hs.op) hin f
    rw [hs.exec, ht, hs.fails c _ t hn hlen]
    exact ⟨t, ho, rfl⟩

/-- Every data row goes on with its input; a plain one writes nothing before it has all of it. -/
theorem dataRow_withIn {s : State} {id : Nat} {c : Cmd} {r : DataRow} (hr : rowsData2 id r) (h : cmdHeld s id c)
    (hop : cmdOp c = r.op) : (∃ f, exec r.row s = .next (withIn c s f)) ∧ (r.plain = true → streams c = false) := by
  rcases rowsData2_cases hr with ⟨alg, hd⟩ | ⟨alg, hk⟩ | ⟨o, f, hs⟩
  · exact ⟨⟨_, by rw [hd.exec, digestRow_eq h (hop.trans hd.op)]⟩, fun _ => streams_dig (hop.trans hd.op)⟩
  · obtain ⟨f, hf⟩ := keyedRow_withIn h (hop.trans hk.op)
    exact ⟨⟨f, by rw [hk.exec, hf]⟩, fun _ => streams_keyed (hop.trans hk.op)⟩
  · exact ⟨⟨_, by rw [hs.exec, symRow_eq h (hop.trans hs.op)]⟩, fun hp => absurd hp (by rw [hs.notPlain]; decide)⟩

/-- Settles O42: a row that is no digest sends no message to core 31; the message's way there, its wait and its end are
`digestRow_starts`, `keyedRow_starts`, `messageRow_waits` and `dataRow_ends`. -/
theorem digestAndCipherRowsWriteTheirOutput : Obligations.DigestAndCipherRowsWriteTheirOutput := by
  unfold Obligations.DigestAndCipherRowsWriteTheirOutput
  intro s id c r hr h hop hplain harm
  refine ⟨fun hlong hnone hin hfresh hkeyed => ?_, fun hlong hgoing hleft hin hkeyed => ?_,
    fun hdone hin => ⟨fun b hb hlen hout => ?_, fun hn hlen => ?_⟩, fun hport hread hbad => ?_⟩
  · rcases rowsData2_cases hr with ⟨alg, hd⟩ | ⟨alg, hk⟩ | ⟨o, f, hs⟩
    · obtain ⟨hst, hdge⟩ := digestRow_starts h (hop.trans hd.op) hin hlong hfresh
      refine ⟨_, hd.exec s, hst.mem, hst.kvt, hst.bbram, hst.others, hst.cmd, msgStarted_offloaded hdge, by rw [hdge]; rfl,
        fun alg' halg => ?_, fun alg' _ _ _ halg => ?_⟩
      · obtain rfl : alg = alg' := by simpa [hd.op] using halg
        rw [hdge]
        rfl
      · simp [hd.op] at halg
    · obtain ⟨hkey, k, n, kr, hcore, hhub, heng⟩ := hkeyed ⟨alg, hk.op⟩
      obtain ⟨hst, hfed, hdge⟩ := keyedRow_starts h (hop.trans hk.op) hin hfresh harm hkey hcore hhub heng
      refine ⟨_, hk.exec s, hst.mem, hst.kvt, hst.bbram, hst.others, hst.cmd, msgStarted_offloaded hdge, by rw [hdge]; rfl,
        fun alg' halg => ?_, fun alg' k' n' kr' halg hcore' hhub' heng' => ?_⟩
      · simp [hk.op] at halg
      · obtain rfl : alg = alg' := by simpa [hk.op] using halg
        obtain rfl : k = k' := Option.some.inj (hcore.symm.trans hcore')
        obtain rfl : n = n' := Option.some.inj (hhub.symm.trans hhub')
        obtain rfl : kr = kr' := Option.some.inj (heng.symm.trans heng')
        rw [hdge]
        exact ⟨hfed, rfl, rfl, rfl, rfl, rfl⟩
    · rw [longMessage_sym (hop.trans hs.op)] at hlong
      exact nomatch hlong
  · obtain ⟨t, ht, ho⟩ : ∃ t, exec r.row s = .next t ∧ Onward s t c := by
      rcases rowsData2_cases hr with ⟨alg, hd⟩ | ⟨alg, hk⟩ | ⟨o, f, hs⟩
      · exact ⟨_, hd.exec s, digestRow_waits h (hop.trans hd.op) hin hlong hgoing hleft⟩
      · exact ⟨_, hk.exec s, keyedRow_waits h (hop.trans hk.op) hin (hkeyed ⟨alg, hk.op⟩) hgoing hleft⟩
      · rw [longMessage_sym (hop.trans hs.op)] at hlong
        exact nomatch hlong
    obtain ⟨hdge, hhsa, -⟩ := rowView_units ho.view
    exact ⟨t, ht, ho.mem, rowView_frame ho.view, hdge, hhsa, ho.cmd⟩
  · obtain ⟨t, ho, ht⟩ := dataRow_ends hr h hop hplain hin hdone hb hlen
    exact ⟨_, ht, ho.delivers (held_unlogged h) hout⟩
  · obtain ⟨t, ho, ht⟩ := dataRow_fails hr h hop hin hn hlen
    obtain ⟨hend, hmem⟩ := ho.endWith stsVerifyFail
    exact ⟨_, ht, hend.concluded, hmem, rowView_frame hend.view, hend.hub⟩
  · obtain ⟨⟨f, hf⟩, hstreams⟩ := dataRow_withIn hr h hop
    obtain ⟨hend, haer, hmem, houtside⟩ := withIn_dmaError h hport hread hbad f
    exact ⟨_, hf, hend.concluded, haer, rowView_frame hend.view, fun hp => hmem (hstreams hp), houtside⟩

end Sys2Proof.Machine
end

section
/-! The rows that compare a value with the expected one, and the signature verifications (R61, R73, R78, R79, R82, R86). -/
namespace Sys2Proof.Machine
open Sys2Proof

theorem rowsCompare_cases {id : Nat} {r : Instr × Op × Nat × (Cmd → Bytes → Bytes)} (h : rowsCompare id r) :
    (∃ alg, r.2.1 = .dig alg ∧ r.2.2.1 = stsNotEqual ∧ (∀ s, exec r.1 s = .next (digestRow alg id s)) ∧
      ∀ c m, r.2.2.2 c m = digest alg m (pMax c.pkt)) ∨
    (∃ alg, r.2.1 = .keyed alg ∧ r.2.2.1 = stsVerifyFail ∧ (∀ s, exec r.1 s = .next (keyedRow alg id s)) ∧
      ∀ c b, r.2.2.2 c b = keyedValue alg c (keyOf c).secret b) ∨
    (r.2.1 = .sym 0x0661 ∧ ∃ f, (∀ s, exec r.1 s = .next (symRow 0x0661 id s f)) ∧
      ∀ c m s, f c (keyOf c).secret m s = endCompare c (r.2.2.2 c m) r.2.2.1 s) := by
  unfold rowsCompare at h
  simp only [List.mem_cons, List.not_mem_nil, or_false] at h
  rcases h with h | h | rfl
  · left
    rcases h with rfl | rfl | rfl | rfl | rfl | rfl | rfl | rfl <;> exact ⟨_, rfl, rfl, fun _ => rfl, fun _ _ => rfl⟩
  · right; left
    rcases h with rfl | rfl | rfl | rfl | rfl <;> exact ⟨_, rfl, rfl, fun _ => rfl, fun _ _ => rfl⟩
  · right; right
    exact ⟨rfl, _, fun _ => rfl, fun _ _ _ => rfl⟩

/-- A row that compares ends, once its value is known, with the comparison. -/
theorem compareRow_ends {s : State} {id : Nat} {c : Cmd} {r : Instr × Op × Nat × (Cmd → Bytes → Bytes)}
    (hr : rowsCompare id r) (h : cmdHeld s id c) (hop : cmdOp c = r.2.1)
    (hbit : (byteAt c.pkt 40).testBit 0 = true ∨ r.2.1 = .sym 0x0661) (hin : canAccess s c (pInA c.pkt) (pInL c.pkt))
    (hdone : messageDone s c) :
    ∃ t, Onward s t c ∧ exec r.1 s = .next (endCompare c (r.2.2.2 c (inputOf s c)) r.2.2.1 t) := by
  rcases rowsCompare_cases hr with ⟨alg, hro, hbad, hexec, hout⟩ | ⟨alg, hro, hbad, hexec, hout⟩ | ⟨hro, f, hexec, hf⟩
  · obtain ⟨t, ho, ht⟩ := digestRow_ends h (hop.trans hro) hin hdone
    refine ⟨_, ho.counted (digestEvents_counted alg (inputOf s c).length t), ?_⟩
    rw [hexec, ht, hbad, hout, digestEnd, if_pos (hbit.resolve_right (by simp [hro]))]
  · obtain ⟨t, ho, ht⟩ := keyedRow_ends h (hop.trans hro) hin hdone
    refine ⟨_, ho.counted (digestEvents_counted alg (inputOf s c).length t), ?_⟩
    rw [hexec, ht, hbad, hout, keyedEnd, if_pos (hbit.resolve_right (by simp [hro]))]
  · obtain ⟨t, ho, ht⟩ := symRow_ends h (hop.trans hro) hin f
    exact ⟨t, ho, by rw [hexec, ht, hf]⟩

theorem exec_sigVerifyInputKey {s : State} {id set : Nat} {c : Cmd} (h : cmdHeld s id c) (hop : cmdOp c = .sig set 0) :
    exec (.sigVerifyInputKey id) s = .next (withIn c s (fun b t =>
      verifyRow c set ((sigSet set (bitsOf (byteAt c.pkt 43) 1 2)).getD (0, 0)).2
        (b.take ((sigSet set (bitsOf (byteAt c.pkt 43) 1 2)).getD (0, 0)).1)
        (b.drop ((sigSet set (bitsOf (byteAt c.pkt 43) 1 2)).getD (0, 0)).1) t)) := by
  have hexec : exec (.sigVerifyInputKey id) s = execSigVerifyInputKey id s := rfl
  rw [hexec, execSigVerifyInputKey, running_held h]
  · simp only [hop]
  · simp only [hop]

theorem exec_sigVerifyHeldKey {s : State} {id set : Nat} {c : Cmd} (h : cmdHeld s id c) (hop : cmdOp c = .sig set 1) :
    exec (.sigVerifyHeldKey id) s = .next (withIn c s (fun b t =>
      verifyRow c set ((sigSet set (rsaSize (keyOf c).cls)).getD (0, 0)).2 (keyOf c).pub b t)) := by
  have hexec : exec (.sigVerifyHeldKey id) s = execSigVerifyHeldKey id s := rfl
  rw [hexec, execSigVerifyHeldKey, running_held h]
  · simp only [hop]
  · simp only [hop]

/-- A verification answers on a state that has only read its input. -/
theorem Onward.verifyRow {s t : State} {c : Cmd} (h : Onward s t c) (set sig : Nat) (pk b : Bytes) :
    RowEnd s (verifyRow c set sig pk b t) c (justStatus (if verify set pk (sigPar c.pkt) (slice b sig (byteAt c.pkt 42))
      (b.drop (sig + byteAt c.pkt 42)) (b.take sig) then stsOk else stsVerifyFail)) ∧
      (Machine.verifyRow c set sig pk b t).host.mem = s.host.mem := h.endWith _

/-- Settles O43: each row ends with one comparison or one verification, on a state that has only read its input. -/
theorem comparisonsAndVerificationsAnswerAStatus : Obligations.ComparisonsAndVerificationsAnswerAStatus := by
  unfold Obligations.ComparisonsAndVerificationsAnswerAStatus
  intro s id c h _ hin hdone
  refine ⟨fun r v hr hport hop hbit hv hout => ?_, fun set d hop hd => ?_, fun set n hop hn => ?_⟩
  · obtain ⟨t, ho, ht⟩ := compareRow_ends hr h hop hbit hin hdone
    rw [← hv] at ht
    obtain ⟨hend, hmem⟩ := ho.endCompare r.2.2.1 hport hout
    exact ⟨_, ht, hmem, rowView_frame hend.view, hend.hub, hend.concluded⟩
  · obtain ⟨t, ht, ho⟩ := withIn_held h hin
    rw [exec_sigVerifyInputKey h hop, ht, ← hd]
    obtain ⟨hend, hmem⟩ := ho.verifyRow set d.2 ((inputOf s c).take d.1) ((inputOf s c).drop d.1)
    exact ⟨_, rfl, hmem, rowView_frame hend.view, hend.hub, hend.concluded⟩
  · obtain ⟨t, ht, ho⟩ := withIn_held h hin
    rw [exec_sigVerifyHeldKey h hop, ht, ← hn]
    obtain ⟨hend, hmem⟩ := ho.verifyRow set n (keyOf c).pub (inputOf s c)
    exact ⟨_, rfl, hmem, rowView_frame hend.view, hend.hub, hend.concluded⟩

end Sys2Proof.Machine
end

section
/-! The check-value units: their registers, their scans, and CV_SCAN (R87, R371-R377). -/
namespace Sys2Proof.Machine
open Sys2Proof

/-! ### Registers (R374-R377) -/

theorem cvuOwned_foreign {s : State} {src : Src} {u : Nat} (h : regsAnswer s src) (ho : (cvuU s u).owner ≠ srcOwner src)
    (f : State → State) : cvuOwned src u f s = setCvu u { cvuU s u with foreign := true } s := by
  unfold cvuOwned
  rw [if_neg (not_not_intro h.1), if_neg ho]

theorem cvuOwned_owner {s : State} {src : Src} {u : Nat} (h : regsAnswer s src) (ho : (cvuU s u).owner = srcOwner src)
    (f : State → State) : cvuOwned src u f s = f s := by
  unfold cvuOwned
  rw [if_neg (not_not_intro h.1), if_pos ho]

/-- CVU_START on a unit that does not scan (R374). -/
def cvuStarted (c : Cvu) : Cvu :=
  let t := { c with bytes := 0, dmaError := false, memError := false, result := 0, stopReq := false }
  if cvuCfgOk c then { t with st := .running, run := if c.cont then c.run else BitVec.ofNat 64 (cvInit c.alg) }
  else { t with st := .aborted }

theorem cvInit_lt (alg : Nat) : cvInit alg < 2 ^ 64 := by
  unfold cvInit
  split <;> decide

theorem cvuStarted_leaves (c : Cvu) : (cvuStarted c).bytes = 0 ∧ (cvuStarted c).result = 0 ∧
    (cvuStarted c).dmaError = false ∧ (cvuStarted c).memError = false ∧ (cvuStarted c).owner = c.owner ∧
    if cvuCfgOk c = true then (cvuStarted c).st = .running ∧
      (cvuStarted c).run.toNat = (if c.cont then c.run.toNat else cvInit c.alg)
    else (cvuStarted c).st = .aborted ∧ (cvuStarted c).run = c.run := by
  unfold cvuStarted
  by_cases hok : cvuCfgOk c = true
  · simp only [hok, if_true, true_and]
    cases c.cont with
    | true => rfl
    | false => exact (BitVec.toNat_ofNat _ _).trans (Nat.mod_eq_of_lt (cvInit_lt _))
  · simp only [Bool.not_eq_true] at hok
    simp only [hok, Bool.false_eq_true, if_false, and_self]

/-- The four register commands, where the registers answer. -/
theorem exec_cvuRegisters {s : State} {src : Src} (u : Fin 8) (h : regsAnswer s src) :
    exec (.cvuClaim src u) s = .next (if srcOwner src = .manager ∧ cvuFree s u = true ∧ cvuHeld s 0 < (instU s 0).cvuSlots then
      setCvu u { cvuU s u with owner := .manager, inst := 0, st := .owned } s else s) ∧
    exec (.cvuRelease src u) s = .next (cvuOwned src u (releaseCvu u) s) ∧
    exec (.cvuStart src u) s = .next (cvuOwned src u (fun s =>
      if (cvuU s u).st = .running then s else setCvu u (cvuStarted (cvuU s u)) s) s) ∧
    exec (.cvuStop src u) s = .next (cvuOwned src u (fun s =>
      if (cvuU s u).st = .running then setCvu u { cvuU s u with stopReq := true } s else s) s) := by
  have hclaim : exec (.cvuClaim src u) s = execCvuClaim src u s := rfl
  have hrelease : exec (.cvuRelease src u) s = execCvuRelease src u s := rfl
  have hstart : exec (.cvuStart src u) s = execCvuStart src u s := rfl
  have hstop : exec (.cvuStop src u) s = execCvuStop src u s := rfl
  rw [hclaim, hrelease, hstart, hstop, execCvuClaim, execCvuRelease, execCvuStart, execCvuStop, touch_awake src h.2]
  refine ⟨?_, rfl, rfl, rfl⟩
  simp only [h.1, true_and]

/-! ### The end of a scan (R372, R374, R377) -/

theorem scanned_cvuEnd (b : Bytes) (c : Cvu) : scanned b c (cvuEnd b c) :=
  ⟨rfl, rfl, rfl, BitVec.toNat_ofNat _ _, BitVec.toNat_ofNat _ _, rfl, rfl, rfl, rfl, rfl, rfl⟩

theorem Counted.outsideKept {s t : State} (h : Counted s t) : outsideKept s t :=
  ⟨h.pending, h.now, h.hostMem, h.cmds, h.qps, h.inst, h.ts, h.drl, h.kvt, h.bbram, h.ent, h.mem, h.pwr, h.glb, h.lcs,
    h.dbg, h.tmp, h.flt, h.tlk, h.pins⟩

theorem cvuU_congr {s t : State} (h : t.cvu = s.cvu) (m : Nat) : cvuU t m = cvuU s m := by
  unfold cvuU
  rw [h]

/-- A write of a unit goes along with counting. -/
theorem Counted.setCvu {s t : State} (h : Counted s t) (u : Nat) (d : Cvu) : Counted (setCvu u d s) (setCvu u d t) := by
  have e := congrArg (Machine.setCvu u d) (show _ = s from h)
  exact e

/-- A unit written between two events that only count: the other units and all outside stay. -/
theorem counted_setCvu {s t v : State} {u : Nat} {d : Cvu} (h : Counted s t) (k : Counted (setCvu u d t) v) :
    outsideKept s v ∧ v.seq = s.seq ∧ (∀ m, m ≠ u → cvuU v m = cvuU s m) ∧ cvuU v u = d := by
  have hset := (h.setCvu u d).trans k
  refine ⟨hset.outsideKept, hset.seq, fun m hm => ?_, ?_⟩
  · rw [cvuU_congr hset.cvu, cvuU_setCvu, if_neg hm]
  · rw [cvuU_congr hset.cvu, cvuU_setCvu_same]

theorem scanRead_host {s : State} {u : Nat} (h : (cvuU s u).source = 0) (off n : Nat) : scanRead u off n s =
    (dmaRead (cvuU s u).inst ((cvuU s u).addr.toNat + off) n s).elim (.dmaErr (aerReport (cvuU s u).inst s))
      (fun r => .ok r.1 r.2) := by
  unfold scanRead
  simp only [h]
  cases dmaRead (cvuU s u).inst ((cvuU s u).addr.toNat + off) n s <;> rfl

/-- A scan of host memory that answers reads its bytes and counts. -/
theorem scanRead_ok {s : State} {u off n : Nat} (h : (cvuU s u).source = 0)
    (hok : hostOk s (cvuU s u).inst ((cvuU s u).addr.toNat + off) n = true) :
    ∃ t, scanRead u off n s = .ok (hostBytes s ((cvuU s u).addr.toNat + off) n) t ∧ Counted s t := by
  obtain ⟨t, ht, k⟩ := dmaRead_ok _ _ _ s hok
  exact ⟨t, by rw [scanRead_host h, ht]; rfl, k⟩

theorem scanRead_dmaErr {s : State} {u off n : Nat} (h : (cvuU s u).source = 0)
    (hbad : hostOk s (cvuU s u).inst ((cvuU s u).addr.toNat + off) n = false) :
    scanRead u off n s = .dmaErr (aerReport (cvuU s u).inst s) := by
  rw [scanRead_host h, dmaRead, hbad]
  rfl

/-- A scan of the Pannier store inside the pages of its share, with nothing armed or poisoned there, reads it and counts. -/
theorem scanRead_pannier {s : State} {u off n : Nat} (h : (cvuU s u).source = 1) (harm : (fltU s .mem 0).armed = false)
    (hpoison : s.mem.poison = []) (hfit : (cvuU s u).addr.toNat + off + n ≤
      (pagesOfInst s (cvuU s u).inst).length * 0x100000) :
    ∃ t, scanRead u off n s = .ok (pannierBytes s (cvuU s u).inst ((cvuU s u).addr.toNat + off) n) t ∧ Counted s t := by
  have hquiet : ∀ k, injArmed s .mem 0 k = false := fun k => by
    simp only [injArmed, harm, Bool.false_and]
  have hmem : ∀ code a i r id, memAccess code a i r id s = s := fun code a i r id => by
    unfold memAccess
    simp only [hquiet, Bool.false_eq_true, if_false]
  unfold scanRead
  simp only [h, hmem, hquiet, Nat.not_lt.mpr hfit, pannierPoison, hpoison, List.find?_nil, Bool.false_eq_true, false_and,
    or_self, if_false]
  exact ⟨_, rfl, blkEvent_counted ..⟩

theorem scanReady_host {s : State} {u : Nat} (h : (cvuU s u).source = 0) : scanReady s u = true := by
  unfold scanReady
  rw [h]
  rfl

end Sys2Proof.Machine
end

section
/-! CV_SCAN (R87), and the commands of the check-value units together. -/
namespace Sys2Proof.Machine
open Sys2Proof

/-! ### Little-endian numbers -/

theorem ofLe_lt (b : Bytes) : ofLe b < 256 ^ b.length := by
  induction b with
  | nil => exact Nat.one_pos
  | cons x b ih =>
    have hx := x.isLt
    rw [ofLe, List.length_cons, Nat.pow_succ]
    omega

theorem leAt_lt (b : Bytes) (off n : Nat) : leAt b off n < 256 ^ n := by
  have h := ofLe_lt (slice b off n)
  rwa [length_slice] at h

theorem leBytes_mod (n v : Nat) : leBytes n (v % 256 ^ n) = leBytes n v := by
  induction n generalizing v with
  | zero => rfl
  | succ n ih =>
    have hlow : BitVec.ofNat 8 (v % (256 * 256 ^ n)) = BitVec.ofNat 8 v :=
      BitVec.eq_of_toNat_eq (by simp)
    rw [Nat.pow_succ', leBytes, leBytes, hlow, Nat.mod_mul_right_div_self, ih]

theorem length_leBytes (n v : Nat) : (leBytes n v).length = n := by
  induction n generalizing v with
  | zero => rfl
  | succ n ih => rw [leBytes, List.length_cons, ih]

/-- A 64-bit register gives the eight bytes of the number written to it. -/
theorem leBytes_ofNat64 (v : Nat) : leBytes 8 (BitVec.ofNat 64 v).toNat = leBytes 8 v := by
  rw [BitVec.toNat_ofNat]
  exact leBytes_mod 8 v

/-! ### CV_SCAN (R87) -/

theorem held_of_ready {s : State} {id : Nat} {c : Cmd} (h : cmdReady s id c) : cmdHeld s id c := by
  obtain ⟨hcmd, hid, hphase, hremote, hstore, hread, hlog⟩ := h
  exact ⟨hcmd, hid, hphase, hremote, hstore, .inl hread, hlog⟩

/-- CV_SCAN gives its unit the packet's configuration and reads the whole data. -/
theorem exec_cvScan {s : State} {id : Nat} {c : Cmd} (h : cmdHeld s id c) (hop : cmdOp c = .cv) :
    (∀ t b, scanRead c.unit 0 (pInL c.pkt) (setCvu c.unit (cvConfig c.pkt (cvuU s c.unit)) s) = .ok b t →
      exec (.cvScan id) s = .next (
        let d := cvuEnd b (cvuU t c.unit)
        let t := bytesEvent .cvu 0x10 b.length (setCvu c.unit d t)
        if (byteAt c.pkt 41).testBit 1 then endCompare c (leBytes 8 d.result.toNat) stsNotEqual t
        else endOut c (leBytes 8 d.result.toNat ++ leBytes 8 d.run.toNat) t)) ∧
    (∀ t, scanRead c.unit 0 (pInL c.pkt) (setCvu c.unit (cvConfig c.pkt (cvuU s c.unit)) s) = .dmaErr t →
      exec (.cvScan id) s = .next (endWith c stsDmaError
        (setCvu c.unit { cvuU t c.unit with st := .aborted, dmaError := true } t))) := by
  have hexec : exec (.cvScan id) s = execCvScan id s := rfl
  have hrun : running s id (fun o => o == .cv) = some c := running_held h (by rw [hop]; rfl)
  rw [hexec, execCvScan, hrun]
  exact ⟨fun t b ht => by simp only [ht], fun t ht => by simp only [ht]⟩

/-- The running value that a packet's configuration starts from. -/
def cvStart (p : Bytes) : Nat := if (byteAt p 41).testBit 4 then leAt p 48 8 else cvInit (byteAt p 40)

/-- The guard bytes that a packet asks for. -/
def cvGuard (p : Bytes) : Bytes :=
  guardBytes (bitsOf (byteAt p 41) 2 2) (bitsOf (byteAt p 42) 0 4) (leAt p 56 8) (leAt p 44 4)

theorem cvConfig_addr (p : Bytes) (u : Cvu) : (cvConfig p u).addr.toNat = pInA p :=
  (BitVec.toNat_ofNat _ _).trans (Nat.mod_eq_of_lt (leAt_lt p 16 8))

theorem cvConfig_run (p : Bytes) (u : Cvu) : (cvConfig p u).run.toNat = cvStart p := by
  refine (BitVec.toNat_ofNat _ _).trans (Nat.mod_eq_of_lt ?_)
  split
  · exact leAt_lt p 48 8
  · exact cvInit_lt _

theorem cvConfig_source {p : Bytes} (h : (byteAt p 41).testBit 0 = false) (u : Cvu) : (cvConfig p u).source = 0 := by
  change (byteAt p 41 >>> 0) % 2 ^ 1 = 0
  rw [Nat.testBit_zero, decide_eq_false_iff_not] at h
  rw [Nat.shiftRight_zero]
  omega

/-- The two values of a scan as the bytes of its output. -/
theorem cvuEnd_config (p m : Bytes) (u : Cvu) :
    leBytes 8 (cvuEnd m (cvConfig p u)).result.toNat =
      leBytes 8 (cvFinal (byteAt p 40) (cvRun (byteAt p 40) (cvStart p) m) (cvGuard p)) ∧
    leBytes 8 (cvuEnd m (cvConfig p u)).run.toNat = leBytes 8 (cvRun (byteAt p 40) (cvStart p) m) := by
  have hfold : (cvConfig p u).fold.toNat = leAt p 56 8 := (BitVec.toNat_ofNat _ _).trans (Nat.mod_eq_of_lt (leAt_lt p 56 8))
  have hseq : (cvConfig p u).seq.toNat = leAt p 44 4 := (BitVec.toNat_ofNat _ _).trans (Nat.mod_eq_of_lt (leAt_lt p 44 4))
  simp only [cvuEnd, leBytes_ofNat64, cvConfig_run, hfold, hseq]
  exact ⟨rfl, rfl⟩

/-- CV_SCAN whose host memory answers ends, with the values of the bytes read, on a state that has counted and written its
unit. -/
theorem cvScan_ends {s : State} {id : Nat} {c : Cmd} (h : cmdHeld s id c) (hop : cmdOp c = .cv)
    (hsrc : (byteAt c.pkt 41).testBit 0 = false)
    (hok : hostOk s (cvuU s c.unit).inst (pInA c.pkt) (pInL c.pkt) = true) {v r : Bytes}
    (hv : v = leBytes 8 (cvFinal (byteAt c.pkt 40) (cvRun (byteAt c.pkt 40) (cvStart c.pkt)
      (hostBytes s (pInA c.pkt) (pInL c.pkt))) (cvGuard c.pkt)))
    (hr : r = leBytes 8 (cvRun (byteAt c.pkt 40) (cvStart c.pkt) (hostBytes s (pInA c.pkt) (pInL c.pkt)))) :
    ∃ x t, Onward { s with cvu := x } t c ∧ t.hub = s.hub ∧ exec (.cvScan id) s = .next
      (if (byteAt c.pkt 41).testBit 1 then endCompare c v stsNotEqual t else endOut c (v ++ r) t) := by
  have hunit := cvuU_setCvu_same c.unit (cvConfig c.pkt (cvuU s c.unit)) s
  obtain ⟨t, ht, k⟩ := scanRead_ok (s := setCvu c.unit (cvConfig c.pkt (cvuU s c.unit)) s) (u := c.unit) (off := 0)
    (n := pInL c.pkt) (by rw [hunit]; exact cvConfig_source hsrc _) (by rw [hunit, cvConfig_addr]; exact hok)
  rw [hunit, cvConfig_addr, Nat.add_zero] at ht
  have hexec := (exec_cvScan h hop).1 t _ ht
  have hd : cvuU t c.unit = cvConfig c.pkt (cvuU s c.unit) := (cvuU_congr k.cvu _).trans hunit
  obtain ⟨hresult, hrun⟩ := cvuEnd_config c.pkt (hostBytes s (pInA c.pkt) (pInL c.pkt)) (cvuU s c.unit)
  rw [← hv] at hresult
  rw [← hr] at hrun
  have hbytes : hostBytes (setCvu c.unit (cvConfig c.pkt (cvuU s c.unit)) s) (pInA c.pkt) (pInL c.pkt) =
      hostBytes s (pInA c.pkt) (pInL c.pkt) := rfl
  dsimp only at hexec
  rw [hbytes, hd, hresult, hrun] at hexec
  have hcount := (k.setCvu c.unit (cvuEnd (hostBytes s (pInA c.pkt) (pInL c.pkt)) (cvConfig c.pkt (cvuU s c.unit)))).trans
    (bytesEvent_counted .cvu 0x10 (hostBytes s (pInA c.pkt) (pInL c.pkt)).length _)
  obtain ⟨hcmd, rfl, -⟩ := h
  exact ⟨_, _, (Onward.refl (s := setCvu c.unit _ (setCvu c.unit _ s)) hcmd).counted hcount, hcount.hub, hexec⟩

theorem cmdU_congr {s t : State} (h : t.hif.cmds = s.hif.cmds) (j : Nat) : cmdU t j = cmdU s j := by
  unfold cmdU
  rw [h]

theorem concluded_of_cmds {s t u : State} {c : Cmd} {r : Result} (h : t.hif.cmds = s.hif.cmds) (k : concluded t u c r) :
    concluded s u c r := by
  obtain ⟨hcmd, hothers⟩ := k
  exact ⟨hcmd, fun j hj => (hothers j hj).trans (cmdU_congr h j)⟩

/-- CV_SCAN whose host memory does not answer ends with STS_DMA_ERROR, reported to the unit's function. -/
theorem cvScan_dmaError {s : State} {id : Nat} {c : Cmd} (h : cmdHeld s id c) (hop : cmdOp c = .cv)
    (hsrc : (byteAt c.pkt 41).testBit 0 = false)
    (hbad : hostOk s (cvuU s c.unit).inst (pInA c.pkt) (pInL c.pkt) = false) : ∃ t, exec (.cvScan id) s = .next t ∧
      t.host.mem = s.host.mem ∧ (cvuU s c.unit).inst ∈ t.host.aer ∧ concluded s t c (justStatus stsDmaError) := by
  have hunit := cvuU_setCvu_same c.unit (cvConfig c.pkt (cvuU s c.unit)) s
  have ht := scanRead_dmaErr (s := setCvu c.unit (cvConfig c.pkt (cvuU s c.unit)) s) (u := c.unit) (off := 0)
    (n := pInL c.pkt) (by rw [hunit]; exact cvConfig_source hsrc _) (by rw [hunit, cvConfig_addr]; exact hbad)
  rw [hunit] at ht
  have hexec := (exec_cvScan h hop).2 _ ht
  obtain ⟨hcmd, rfl, -⟩ := h
  obtain ⟨-, hmem, -, hhif⟩ := aerReport_keeps (cvConfig c.pkt (cvuU s c.unit)).inst
    (setCvu c.unit (cvConfig c.pkt (cvuU s c.unit)) s)
  have haer := mem_aerReport (cvConfig c.pkt (cvuU s c.unit)).inst (setCvu c.unit (cvConfig c.pkt (cvuU s c.unit)) s)
  generalize aerReport (cvConfig c.pkt (cvuU s c.unit)).inst (setCvu c.unit (cvConfig c.pkt (cvuU s c.unit)) s) = t at *
  have hcmds : t.hif.cmds = s.hif.cmds := congrArg Hif.cmds hhif
  obtain ⟨hend, hendMem⟩ := (Onward.refl (s := setCvu c.unit { cvuU t c.unit with st := .aborted, dmaError := true } t) (c := c)
    ((cmdU_congr hcmds c.id).trans hcmd)).endWith stsDmaError
  refine ⟨_, hexec, hendMem.trans hmem, ?_, concluded_of_cmds hcmds hend.concluded⟩
  exact (congrArg ((cvuU s c.unit).inst ∈ HostMem.aer ·) (finish_host ..)).mpr haer

/-- CV_SCAN delivers the final and the running value. -/
theorem cvScan_delivers {s : State} {id : Nat} {c : Cmd} (h : cmdHeld s id c) (hop : cmdOp c = .cv)
    (hsrc : (byteAt c.pkt 41).testBit 0 = false)
    (hok : hostOk s (cvuU s c.unit).inst (pInA c.pkt) (pInL c.pkt) = true) {v r : Bytes}
    (hv : v = leBytes 8 (cvFinal (byteAt c.pkt 40) (cvRun (byteAt c.pkt 40) (cvStart c.pkt)
      (hostBytes s (pInA c.pkt) (pInL c.pkt))) (cvGuard c.pkt)))
    (hr : r = leBytes 8 (cvRun (byteAt c.pkt 40) (cvStart c.pkt) (hostBytes s (pInA c.pkt) (pInL c.pkt))))
    (hout : canAccess s c (pOutA c.pkt) 16) (hplain : (byteAt c.pkt 41).testBit 1 = false) :
    ∃ t, exec (.cvScan id) s = .next t ∧ dataFrame s t ∧ t.hub = s.hub ∧ t.dge = s.dge ∧ delivered s t c (v ++ r) := by
  obtain ⟨x, t, ho, hhub, hexec⟩ := cvScan_ends h hop hsrc hok hv hr
  have hlen : (v ++ r).length = 16 := by rw [List.length_append, hv, hr, length_leBytes, length_leBytes]
  obtain ⟨hdel, hview, hkept⟩ := ho.endOut (b := v ++ r) (held_unlogged h) (by rw [hlen]; exact hout)
  have hframe := rowView_frame hview
  rw [hplain, if_neg Bool.false_ne_true] at hexec
  exact ⟨_, hexec, hframe, hkept.trans hhub, (rowView_units hview).1, hdel⟩

/-- CV_SCAN compares the final value with the eight bytes at the output address. -/
theorem cvScan_compares {s : State} {id : Nat} {c : Cmd} (h : cmdHeld s id c) (hop : cmdOp c = .cv)
    (hsrc : (byteAt c.pkt 41).testBit 0 = false)
    (hok : hostOk s (cvuU s c.unit).inst (pInA c.pkt) (pInL c.pkt) = true) {v : Bytes}
    (hv : v = leBytes 8 (cvFinal (byteAt c.pkt 40) (cvRun (byteAt c.pkt 40) (cvStart c.pkt)
      (hostBytes s (pInA c.pkt) (pInL c.pkt))) (cvGuard c.pkt)))
    (hport : c.port ≠ 256) (hout : hostOk s c.port (pOutA c.pkt) 8 = true) (hcompare : (byteAt c.pkt 41).testBit 1 = true) :
    ∃ t, exec (.cvScan id) s = .next t ∧ dataFrame s t ∧ t.host.mem = s.host.mem ∧
      concluded s t c (justStatus (if hostBytes s (pOutA c.pkt) 8 = v then stsOk else stsNotEqual)) := by
  obtain ⟨x, t, ho, -, hexec⟩ := cvScan_ends h hop hsrc hok hv rfl
  have hlen : v.length = 8 := by rw [hv, length_leBytes]
  obtain ⟨hend, hmem⟩ := ho.endCompare (v := v) stsNotEqual hport (by rw [hlen]; exact hout)
  rw [hlen] at hend
  have hframe := rowView_frame hend.view
  rw [hcompare, if_pos rfl] at hexec
  exact ⟨_, hexec, hframe, hmem, hend.concluded⟩

/-! ### The obligation -/

/-- What the registers of a unit do for its owner. -/
theorem cvuRegisters_owner {s : State} {src : Src} {u : Fin 8} (h : regsAnswer s src) (ho : (cvuU s u).owner = srcOwner src) :
    exec (.cvuRelease src u) s = .next (settleFlt .cvu u (setCvu u { ({} : Cvu) with
      offline := (cvuU s u).offline, inReset := (cvuU s u).inReset, cfgIgnored := (cvuU s u).cfgIgnored,
      foreign := (cvuU s u).foreign } s)) ∧
    ((cvuU s u).st = .running → exec (.cvuStart src u) s = .next s ∧
      exec (.cvuStop src u) s = .next (setCvu u { cvuU s u with stopReq := true } s)) ∧
    ((cvuU s u).st ≠ .running → exec (.cvuStop src u) s = .next s ∧
      exec (.cvuStart src u) s = .next (setCvu u (cvuStarted (cvuU s u)) s)) := by
  obtain ⟨-, hrelease, hstart, hstop⟩ := exec_cvuRegisters u h
  rw [hrelease, hstart, hstop, cvuOwned_owner h ho, cvuOwned_owner h ho, cvuOwned_owner h ho]
  exact ⟨rfl, fun hr => ⟨by rw [if_pos hr], by rw [if_pos hr]⟩, fun hr => ⟨by rw [if_neg hr], by rw [if_neg hr]⟩⟩

/-- A scan that reads its last byte. -/
theorem exec_cvuScanDone {s t : State} {u : Fin 8} {b : Bytes} (hrun : (cvuU s u).st = .running) (hready : scanReady s u = true)
    (hscan : scanRead u (cvuU s u).bytes ((cvuU s u).len - (cvuU s u).bytes) s = .ok b t) (k : Counted s t) :
    ∃ v, exec (.cvuScanDone u) s = .next v ∧ outsideKept s v ∧ v.seq = s.seq ∧
      (∀ m, m ≠ u.val → cvuU v m = cvuU s m) ∧ cvuU v u = cvuEnd b (cvuU s u) := by
  have hexec : exec (.cvuScanDone u) s = execCvuScanDone u s := rfl
  rw [hexec, execCvuScanDone]
  simp only [hrun, hready, and_self, if_true, hscan]
  exact ⟨_, rfl, counted_setCvu k (bytesEvent_counted ..)⟩

/-- A scan that stops at a 64-byte boundary before its end (R377). -/
theorem exec_cvuStopped {s t : State} {u : Fin 8} {done : Nat} {b : Bytes} (hrun : (cvuU s u).st = .running)
    (hready : scanReady s u = true) (hstop : (cvuU s u).stopReq = true) (hblock : done % 64 = 0)
    (hfrom : (cvuU s u).bytes ≤ done) (hto : done < (cvuU s u).len)
    (hscan : scanRead u (cvuU s u).bytes (done - (cvuU s u).bytes) s = .ok b t) (k : Counted s t) :
    ∃ v, exec (.cvuStopped u done) s = .next v ∧ outsideKept s v ∧ v.seq = s.seq ∧
      (∀ m, m ≠ u.val → cvuU v m = cvuU s m) ∧ cvuU v u = { cvuU s u with
        st := .stopped, bytes := done, stopReq := false
        run := BitVec.ofNat 64 (cvRun (cvuU s u).alg (cvuU s u).run.toNat b) } := by
  have hexec : exec (.cvuStopped u done) s = execCvuStopped u done s := rfl
  rw [hexec, execCvuStopped, if_pos ⟨hrun, hready, hstop, hblock, hfrom, hto⟩]
  simp only [hscan]
  exact ⟨_, rfl, counted_setCvu k (bytesEvent_counted ..)⟩

/-- A host-memory error on the unit of manager firmware aborts its scan and ends no command (R374). -/
theorem scanAbort_manager {s : State} {u : Nat} (howner : (cvuU s u).owner = .manager) (hcmd : (cvuU s u).cmd = none) :
    scanAbort u true s = setCvu u { cvuU s u with st := .aborted, dmaError := true, memError := false } s := by
  unfold scanAbort
  dsimp only
  rw [if_neg (by rw [howner]; decide)]
  split
  · next k hk => simp [hcmd] at hk
  · rfl

theorem exec_cvuScanDone_dmaError {s : State} {u : Fin 8} (hrun : (cvuU s u).st = .running) (hsource : (cvuU s u).source = 0)
    (hbad : hostOk s (cvuU s u).inst ((cvuU s u).addr.toNat + (cvuU s u).bytes) ((cvuU s u).len - (cvuU s u).bytes) = false)
    (howner : (cvuU s u).owner = .manager) (hcmd : (cvuU s u).cmd = none) :
    exec (.cvuScanDone u) s = .next (setCvu u { cvuU s u with st := .aborted, dmaError := true, memError := false }
      (aerReport (cvuU s u).inst s)) := by
  have hexec : exec (.cvuScanDone u) s = execCvuScanDone u s := rfl
  obtain ⟨hview, -⟩ := aerReport_keeps (cvuU s u).inst s
  obtain ⟨-, -, hcvu, -⟩ := rowView_units hview
  have hunit := cvuU_congr hcvu u
  rw [hexec, execCvuScanDone, if_pos ⟨hrun, scanReady_host hsource⟩]
  simp only [scanRead_dmaErr hsource hbad]
  rw [scanAbort_manager (by rw [hunit]; exact howner) (by rw [hunit]; exact hcmd), hunit]

/-- Settles O52: a scan's end is `cvuEnd` of the bytes read; what the registers do is `exec_cvuRegisters`. -/
theorem checkValueUnitCommands : Obligations.CheckValueUnitCommands := by
  unfold Obligations.CheckValueUnitCommands
  intro s u
  refine ⟨fun src hsrc => ⟨(exec_cvuRegisters u hsrc).1, fun ho i hi => ?_, fun ho => ?_⟩, fun hrun hsource => ?_,
    fun hrun hsource hready harm hpoison hfit hlen => ?_, fun hidle => ?_, fun id c m r h hop hhost hm hr => ?_⟩
  · obtain ⟨-, hrelease, hstart, hstop⟩ := exec_cvuRegisters u hsrc
    simp only [List.mem_cons, List.not_mem_nil, or_false] at hi
    rcases hi with rfl | rfl | rfl
    · rw [hrelease, cvuOwned_foreign hsrc ho]
    · rw [hstart, cvuOwned_foreign hsrc ho]
    · rw [hstop, cvuOwned_foreign hsrc ho]
  · obtain ⟨hrelease, hrunning, hother⟩ := cvuRegisters_owner hsrc ho
    refine ⟨hrelease, hrunning, fun hr => ⟨(hother hr).1, _, (hother hr).2, cvuStarted_leaves _⟩⟩
  · have hready := scanReady_host hsource
    refine ⟨fun hok => ?_, fun hbad howner hcmd => ?_, fun done hstop hblock hfrom hto hok => ?_⟩
    · obtain ⟨t, ht, k⟩ := scanRead_ok hsource hok
      obtain ⟨v, hv, hout, hseq, hothers, hunit⟩ := exec_cvuScanDone hrun hready ht k
      exact ⟨v, hv, hout, hseq, hothers, by rw [hunit]; exact scanned_cvuEnd _ _⟩
    · exact exec_cvuScanDone_dmaError hrun hsource hbad howner hcmd
    · obtain ⟨t, ht, k⟩ := scanRead_ok hsource hok
      exact exec_cvuStopped hrun hready hstop hblock hfrom hto ht k
  · have hend : (cvuU s u).addr.toNat + (cvuU s u).bytes + ((cvuU s u).len - (cvuU s u).bytes) ≤
        (pagesOfInst s (cvuU s u).inst).length * 0x100000 := by omega
    obtain ⟨t, ht, k⟩ := scanRead_pannier hsource harm hpoison hend
    obtain ⟨v, hv, hout, -, -, hunit⟩ := exec_cvuScanDone hrun (by simp [scanReady, hready]) ht k
    obtain ⟨-, -, hmem, -⟩ := hout
    exact ⟨v, hv, hmem, by rw [hunit]; exact scanned_cvuEnd _ _⟩
  · have hdone : exec (.cvuScanDone u) s = execCvuScanDone u s := rfl
    have hstopped : ∀ done, exec (.cvuStopped u done) s = execCvuStopped u done s := fun _ => rfl
    simp only [hdone, hstopped, execCvuScanDone, execCvuStopped, hidle, false_and, if_false, implies_true, and_self]
  · subst hm hr
    have hheld := held_of_ready h
    exact ⟨fun hok hout hplain => cvScan_delivers hheld hop hhost hok rfl rfl hout hplain,
      fun hok hport hout hcompare => cvScan_compares hheld hop hhost hok rfl hport hout hcompare,
      cvScan_dmaError hheld hop hhost⟩

end Sys2Proof.Machine
end

section
/-! The body of an extended key opens as it was sealed (R189): the sponge gives the bytes asked for. -/
namespace Sys2Proof.Machine
open Sys2Proof

theorem length_kRound (a : List (BitVec 64)) (rc : BitVec 64) : (kRound a rc).length = 25 := by
  simp only [kRound, List.length_modify, List.length_map, List.length_range]

theorem length_keccakF {a : List (BitVec 64)} (h : a.length = 25) : (keccakF a).length = 25 :=
  List.foldlRecOn (motive := fun x => x.length = 25) ((List.range 24).map kRc) kRound h (fun _ _ _ _ => length_kRound ..)

theorem length_kBytes {a : List (BitVec 64)} (h : a.length = 25) : (kBytes a).length = 200 := by
  simp only [kBytes, List.length_flatMap, length_leBytes, List.map_const', List.sum_replicate, h]
  rfl

theorem length_kSqueeze {r k : Nat} (hr : r ≤ 200) {a : List (BitVec 64)} (h : a.length = 25) :
    (kSqueeze r k a).length = k * r := by
  induction k generalizing a with
  | zero => rw [kSqueeze, List.length_nil, Nat.zero_mul]
  | succ k ih =>
    rw [kSqueeze, List.length_append, List.length_take, length_kBytes h, Nat.min_eq_left hr, ih (length_keccakF h),
      Nat.succ_mul, Nat.add_comm]

/-- Absorbing leaves 25 lanes. -/
theorem length_absorbed (l : List Bytes) : (l.foldl kAbsorb (List.replicate 25 0)).length = 25 := by
  refine List.foldlRecOn (motive := fun x => x.length = 25) l kAbsorb List.length_replicate
    (fun a h b _ => length_keccakF ?_)
  rw [List.length_zipWith, h, chunks, List.length_map, List.length_range, length_fit]
  rfl

theorem length_sponge {r : Nat} (hpos : 0 < r) (hr : r ≤ 200) (dom : Byte) (m : Bytes) (n : Nat) :
    (sponge r dom m n).length = n := by
  unfold sponge
  dsimp only
  rw [List.length_take, length_kSqueeze hr (length_absorbed _)]
  have h := Nat.div_add_mod (n + r - 1) r
  have hlt := Nat.mod_lt (n + r - 1) hpos
  rw [Nat.mul_comm] at h
  omega

theorem length_shake256 (m : Bytes) (n : Nat) : (shake256 m n).length = n := length_sponge (by decide) (by decide) ..

theorem length_kmac256 (key m cu : Bytes) (n : Nat) : (kmac256 key m cu n).length = n :=
  length_sponge (by decide) (by decide) ..

theorem xorB_xorB (b s : Bytes) (h : b.length ≤ s.length) : xorB (xorB b s) s = b := by
  induction b generalizing s with
  | nil => rfl
  | cons x b ih =>
    cases s with
    | nil => exact absurd h (by simp)
    | cons y s =>
      have hx : x ^^^ y ^^^ y = x := by rw [BitVec.xor_assoc, BitVec.xor_self, BitVec.xor_zero]
      exact congrArg₂ List.cons hx (ih s (Nat.le_of_succ_le_succ h))

theorem unsealBody_sealBody (key b : Bytes) : unsealBody key (sealBody key b) = some b := by
  have hx : (xorB b (shake256 key b.length)).length = b.length := by
    rw [xorB, List.length_zipWith, length_shake256, Nat.min_self]
  have hlen : (sealBody key b).length - 32 = b.length := by
    rw [sealBody, List.length_append, hx, length_kmac256, Nat.add_sub_cancel]
  have htake : (sealBody key b).take b.length = xorB b (shake256 key b.length) := List.take_left' hx
  have hdrop : (sealBody key b).drop b.length = kmac256 key b [] 32 := List.drop_left' hx
  unfold unsealBody
  dsimp only
  rw [hlen, htake, hdrop, xorB_xorB _ _ (Nat.le_of_eq (length_shake256 ..).symm), if_pos rfl]

end Sys2Proof.Machine
end

section
/-! The counterexample to the two statements that say how a row with an extended key leaves the Hub. The statements range over
every state, also over one whose engine table is not canonical and names engine 0 twice. A row writes its engine twice,
first what it has read (R59) and then the plain body (R189); where the first write leaves the engine at its reset value,
both entries go, and after the second the table has one entry. `sameHub` allows one write of the table before: two entries,
or none. -/
namespace Sys2Proof.Machine
open Sys2Proof

/-- A command without input, with number 0 on engine 0, and an extended key that signs with `body`. -/
def extCmd (pkt body pub : Bytes) : Cmd :=
  { pkt := pkt, phase := .running, kind := .hub, key := some { ext := true, pub := pub, body := sealBody [] body } }

/-- The block right after reset but for one command that runs, and an engine table with two entries of engine 0. -/
def engTwice (c : Cmd) : State :=
  { State.reset with hub := { State.reset.hub with eng := [(0, {}), (0, {})] }, hif := { State.reset.hif with cmds := [c] } }

theorem eng_engTwice (c : Cmd) (n : Nat) : eng (engTwice c) n = {} := by
  by_cases h : n = 0
  · rw [h]
    rfl
  · simp [eng, engTwice, Tbl.get, Ne.symm h]

/-- A write of engine 0 leaves none or both of its entries; so `sameHub` bars a table of one. -/
theorem not_sameHub_engTwice {d c : Cmd} {t : State} {e : Engine} (hunit : c.unit = 0) (h : t.hub.eng = [(0, e)]) :
    ¬ sameHub (engTwice d) t c := by
  have hset : ∀ x : Engine, (Tbl.set {} [(0, ({} : Engine)), (0, {})] 0 x).length ≠ 1 := fun x => by
    unfold Tbl.set
    split
    · exact Nat.zero_ne_one
    · exact (by decide : (2 : Nat) ≠ 1)
  rintro (hsame | ⟨b, w, m, l, g, hsame⟩)
  · rw [hsame] at h
    exact absurd (congrArg List.length h) (by decide : (2 : Nat) ≠ 1)
  · rw [hsame, hunit] at h
    exact hset _ (congrArg List.length h)

theorem bodyOf_extCmd (pkt body pub : Bytes) : bodyOf (extCmd pkt body pub) = some body := unsealBody_sealBody [] body

theorem cmdU_engTwice (pkt body pub : Bytes) : cmdU (engTwice (extCmd pkt body pub)) 0 = some (extCmd pkt body pub) := rfl

/-- With no input to read the first write takes both entries of engine 0 away. -/
theorem extCmd_reads {pkt : Bytes} (hlen : pInL pkt = 0) (body pub : Bytes) :
    ∃ t, Counted (engTwice (extCmd pkt body pub)) t ∧
      ∀ f, withIn (extCmd pkt body pub) (engTwice (extCmd pkt body pub)) f = f [] (setEng 0 {} t) := by
  have hread : inputRead (engTwice (extCmd pkt body pub)) (extCmd pkt body pub) = [] := rfl
  obtain ⟨t, ht, k⟩ := readAt_ok (s := engTwice (extCmd pkt body pub)) (c := extCmd pkt body pub) (a := pInA pkt) (n := 0)
    (.inr rfl)
  have hbytes : readBytes (engTwice (extCmd pkt body pub)) (extCmd pkt body pub) (pInA pkt) 0 = [] :=
    List.eq_nil_of_length_eq_zero (length_readBytes ..)
  have hkeep : keepInput (extCmd pkt body pub) [] t = setEng 0 {} t := by
    have hupd : keepInput (extCmd pkt body pub) [] t = updEng 0 (fun e => { e with staged := [] }) t := rfl
    rw [hupd, updEng, k.eng, eng_engTwice]
  have hin : readIn (extCmd pkt body pub) (engTwice (extCmd pkt body pub)) = some ([], setEng 0 {} t) := by
    have hpkt : (extCmd pkt body pub).pkt = pkt := rfl
    simp [readIn, hread, hpkt, hlen, ht, hbytes, hkeep]
  exact ⟨t, k, fun f => by simp only [withIn, hin]⟩

/-- The body marks lines of WORK as written, so the engine is not at its reset value. -/
theorem bodyToWork_ne {b : Bytes} (h : b ≠ []) : bodyToWork b {} ≠ {} := fun he => by
  have hline := congrArg (fun e : Engine => Tbl.get false e.lines 0) he
  change Tbl.get false (Tbl.setList false [] 0 (List.replicate (ceilDiv b.length 64) true)) 0 = false at hline
  have hpos : 0 < ceilDiv b.length 64 := by
    have := List.length_pos_iff.mpr h
    unfold ceilDiv
    omega
  rw [Tbl.get_setList, if_pos (by simpa using hpos)] at hline
  obtain ⟨n, hn⟩ := Nat.exists_eq_add_of_lt hpos
  rw [hn] at hline
  simp [List.replicate_succ] at hline

theorem withBody_opens {c : Cmd} {k : KeyObj} {s : State} {b : Bytes} (hext : k.ext = true) (hkind : c.kind = .hub)
    (harm : (fltU s .hub c.unit).armed = false) (hcmd : (cmdU s c.id).isSome = true)
    (hopen : unsealBody k.secret k.body = some b) (f : Bytes → State → State) :
    withBody c k s f = f b (updEng c.unit (bodyToWork b) s) := by
  obtain ⟨d, hd⟩ := Option.isSome_iff_exists.mp hcmd
  simp [withBody, hext, access_unarmed _ _ _ _ _ _ _ _ _ harm, hd, hopen, hkind]

/-- After the plain body has been written the table has one entry; the command runs on as it was. -/
theorem extCmd_opens {pkt body : Bytes} (hlen : pInL pkt = 0) (hbody : body ≠ []) (pub : Bytes) :
    ∃ u, rowView u = rowView (engTwice (extCmd pkt body pub)) ∧ cmdU u 0 = some (extCmd pkt body pub) ∧
      u.hub.eng = [(0, bodyToWork body {})] ∧ ∀ f : Bytes → Bytes → State → State,
        withIn (extCmd pkt body pub) (engTwice (extCmd pkt body pub)) (fun m t =>
          withBody (extCmd pkt body pub) (keyOf (extCmd pkt body pub)) t (f m)) = f [] body u := by
  obtain ⟨t, k, hin⟩ := extCmd_reads hlen body pub
  have heng : (setEng 0 {} t).hub.eng = [] := by
    unfold setEng
    rw [k.hub]
    rfl
  have hcmd : cmdU (setEng 0 {} t) 0 = some (extCmd pkt body pub) := k.cmdU 0
  have harm : (fltU (setEng 0 {} t) .hub 0).armed = false := by
    have hflt := k.fltU .hub 0
    change (fltU t .hub 0).armed = false
    rw [hflt]
    rfl
  refine ⟨updEng 0 (bodyToWork body) (setEng 0 {} t), k.rowView, hcmd, ?_, fun f => ?_⟩
  · have hzero : eng (setEng 0 {} t) 0 = {} := eng_setEng_same ..
    unfold updEng
    rw [hzero]
    unfold setEng at heng ⊢
    dsimp only at heng ⊢
    rw [heng, Tbl.set, if_neg (bodyToWork_ne hbody)]
    rfl
  · rw [hin]
    have hopen : unsealBody (keyOf (extCmd pkt body pub)).secret (keyOf (extCmd pkt body pub)).body = some body :=
      unsealBody_sealBody [] body
    exact withBody_opens (k := keyOf (extCmd pkt body pub)) rfl rfl harm (Option.isSome_of_eq_some hcmd) hopen _

/-- Every address of the first page of host memory answers. -/
theorem engTwice_hostOk (c : Cmd) (fn : Nat) {n : Nat} (h : n ≤ 64) : hostOk (engTwice c) fn 0 n = true := by
  simp only [hostOk, engTwice, State.reset, List.contains_nil, List.all_nil, Bool.not_false, Bool.true_and,
    Bool.and_true, Nat.zero_add, Bool.or_eq_true, decide_eq_true_eq]
  omega

theorem engTwice_canAccess {pkt body pub : Bytes} (hout : pOutA pkt = 0) {n : Nat} (h : n ≤ 64) :
    canAccess (engTwice (extCmd pkt body pub)) (extCmd pkt body pub) (pOutA pkt) n :=
  .inr (by rw [hout]; exact engTwice_hostOk _ _ h)

/-- Where the row's output goes out, the Hub is none that `sameHub` allows. -/
theorem extCmd_delivers {pkt body pub b : Bytes} {u : State} (hout : pOutA pkt = 0) (hb : b.length ≤ 64)
    (hview : rowView u = rowView (engTwice (extCmd pkt body pub))) (hcmd : cmdU u 0 = some (extCmd pkt body pub))
    (heng : u.hub.eng = [(0, bodyToWork body {})]) :
    ¬ sameHub (engTwice (extCmd pkt body pub)) (endOut (extCmd pkt body pub) b u) (extCmd pkt body pub) := by
  have hinst : (instU u (extCmd pkt body pub).port).logging = false := by
    rw [rowView_instU hview]
    rfl
  have hok : hostOk u (extCmd pkt body pub).port (pOutA (extCmd pkt body pub).pkt) b.length = true := by
    rw [rowView_hostOk hview, show pOutA (extCmd pkt body pub).pkt = 0 from hout]
    exact engTwice_hostOk _ _ hb
  obtain ⟨-, -, hhub⟩ := (Onward.refl (c := extCmd pkt body pub) hcmd).endOut (b := b) (fun _ => hinst) (.inr hok)
  refine not_sameHub_engTwice rfl ?_ (e := bodyToWork body {})
  rw [hhub]
  exact heng

/-! ### The key and the packets -/

/-- A small RSA key, its modulus of 22 bytes with exponent 3. -/
def smallRsa : RsaKey :=
  { p := 0xFFFFFFFFFFFFFFFFFFFED5, q := 0xFFFFFFFFFFFFFFFFFFFE39, dP := 0xAAAAAAAAAAAAAAAAAAA9E3
    dQ := 0xAAAAAAAAAAAAAAAAAAA97B, qInv := 0xB96F96F96F96F96F96F897 }

/-- The body of the small key. -/
def smallBody : Bytes := rsaBody 22 smallRsa

/-- The public key of the small key: n, then e. -/
def smallPub : Bytes := beBytes 22 (smallRsa.p * smallRsa.q) ++ beBytes 4 3

/-- KEM_DECAPSULATE with ML-KEM-512, without input. -/
def kemPkt : Bytes := leBytes 2 0x0112

/-- SIG_SIGN with RSA over a supplied hash, deterministic, PKCS #1 v1.5, without input. -/
def signPkt : Bytes := leBytes 2 0x02F2 ++ zeros 38 ++ [3, 0, 0, 1]

theorem smallBody_ne : smallBody ≠ [] := by decide +kernel

/-- R77's check of the signature over the empty message passes. -/
theorem small_verifies : verify 0xF smallPub (sigPar signPkt) [] [] (rsaSign 22 true 1 smallBody [] []) = true := by
  decide +kernel

theorem small_signs : sign 0xF smallBody smallPub (sigPar signPkt) [] [] [] =
    some (rsaSign 22 true 1 smallBody [] []) := by
  decide +kernel

theorem extCmd_ready {pkt : Bytes} (body pub : Bytes)
    (hstore : storeReady (engTwice (extCmd pkt body pub)) (extCmd pkt body pub) = true) :
    cmdReady (engTwice (extCmd pkt body pub)) 0 (extCmd pkt body pub) :=
  ⟨rfl, rfl, rfl, rfl, hstore, rfl, fun _ => rfl⟩

/-! ### The refutations -/

theorem exec_kemDecapsulate {s : State} {id set : Nat} {c : Cmd} (h : cmdHeld s id c) (hop : cmdOp c = .kem set 2)
    (hkem : isAgree set = false) :
    exec (.kemDecapsulate id) s = .next (withIn c s (fun ct t => withBody c (keyOf c) t (fun body t =>
      endOut c (fit ((kemSet set).getD (0, 0, 0)).2.2 (kemDecaps set (materialOf (keyOf c) body) ct)) t))) := by
  have hexec : exec (.kemDecapsulate id) s = execKemDecapsulate id s := rfl
  rw [hexec, execKemDecapsulate, running_held h]
  · simp only [hop, hkem, Bool.false_eq_true, if_false]
  · simp only [hop]

/-- KEM_DECAPSULATE with the extended key hands its secret out over one entry of engine 0. -/
theorem kemDecapsulate_not_sameHub {z : Bytes} (hop : cmdOp (extCmd kemPkt smallBody smallPub) = .kem 1 2)
    (hz : fit ((kemSet 1).getD (0, 0, 0)).2.2 (kemDecaps 1 (materialOf (keyOf (extCmd kemPkt smallBody smallPub)) smallBody) [])
      = z) (hlen : z.length ≤ 64) {t : State}
    (ht : exec (.kemDecapsulate 0) (engTwice (extCmd kemPkt smallBody smallPub)) = .next t) :
    ¬ sameHub (engTwice (extCmd kemPkt smallBody smallPub)) t (extCmd kemPkt smallBody smallPub) := by
  have hready := extCmd_ready smallBody smallPub (pkt := kemPkt) (by simp only [storeReady, hop])
  obtain ⟨u, hview, hcmd, heng, hopens⟩ := extCmd_opens (pkt := kemPkt) (by decide +kernel) smallBody_ne smallPub
  rw [exec_kemDecapsulate (held_of_ready hready) hop (by decide), hopens, hz] at ht
  rw [← Host.Outcome.next.inj ht]
  exact extCmd_delivers (by decide +kernel) hlen hview hcmd heng

/-- Refutes O44: KEM_DECAPSULATE with the extended key, on the state with two entries of engine 0, leaves one entry. -/
theorem not_kemRowsDeliverTheirResult : ¬ Obligations.KemRowsDeliverTheirResult := by
  unfold Obligations.KemRowsDeliverTheirResult
  intro h
  have hop : cmdOp (extCmd kemPkt smallBody smallPub) = .kem 1 2 := by decide +kernel
  have hready := extCmd_ready smallBody smallPub (pkt := kemPkt) (by simp only [storeReady, hop])
  obtain ⟨-, -, hdecaps⟩ := h (engTwice (extCmd kemPkt smallBody smallPub)) 0 (extCmd kemPkt smallBody smallPub) 1 _ hready rfl rfl
  obtain ⟨hdelivers, -⟩ := hdecaps smallBody hop (.inr rfl) (bodyOf_extCmd ..)
  have hplain : isAgree 1 = false := by decide
  obtain ⟨z, hz⟩ : ∃ z, fit ((kemSet 1).getD (0, 0, 0)).2.2
    (kemDecaps 1 (materialOf (keyOf (extCmd kemPkt smallBody smallPub)) smallBody) []) = z := ⟨_, rfl⟩
  have hin : inputOf (engTwice (extCmd kemPkt smallBody smallPub)) (extCmd kemPkt smallBody smallPub) = [] :=
    List.eq_nil_of_length_eq_zero (length_readBytes ..)
  have hlen : z.length ≤ 64 := by
    rw [← hz, length_fit]
    decide
  rw [hplain, hin, hz] at hdelivers
  obtain ⟨t, ht, -, -, hhub⟩ := hdelivers z rfl (engTwice_canAccess (by decide +kernel) hlen)
  exact kemDecapsulate_not_sameHub hop hz hlen ht hhub

theorem exec_sigSign {s : State} {id set : Nat} {c : Cmd} (h : cmdHeld s id c) (hop : cmdOp c = .sig set 2)
    (hdraw : signDraw set c.pkt = 0) :
    exec (.sigSign id) s = .next (withIn c s (fun b t => signRow c set b [] t)) := by
  have hexec : exec (.sigSign id) s = execSigSign id s := rfl
  rw [hexec, execSigSign, running_held h]
  · simp only [hop, hdraw, if_true]
  · simp only [hop]

theorem rowView_fltU {s t : State} (h : rowView t = rowView s) (b : Blk) (n : Nat) : fltU t b n = fltU s b n := by
  have hflt : (rowView t).flt = (rowView s).flt := congrArg State.flt h
  change t.flt = s.flt at hflt
  simp only [fltU, hflt]

/-- A check by a unit with no injection armed lets its command go on (R77). -/
theorem withCheck_unarmed {b : Blk} {set checker cls : Nat} {dec : Bool} {c d : Cmd} {s : State} (f : Cmd → State → State)
    (harm : (fltU s b set).armed = false) (hcmd : cmdU s c.id = some d) :
    withCheck b set checker cls dec c s f = f d s := by
  have hsame : cmdAccess b set checker cls dec c s = s := access_unarmed _ _ _ _ _ _ _ _ _ harm
  rw [withCheck, hsame]
  simp only [hcmd]

/-- SIG_SIGN with its key open: sign, check, hand out (R77). -/
def signWith (c : Cmd) (set : Nat) (m r body : Bytes) (s : State) : State :=
  match sign set (materialOf (keyOf c) body) (keyOf c).pub (sigPar c.pkt) (m.take (byteAt c.pkt 42))
    (m.drop (byteAt c.pkt 42)) r with
  | none => faultAt { blk := .hub, set := c.unit, checker := 14, cls := 1, inst := cmdInst c } (some c.id) s
  | some sig =>
    withCheck .hub c.unit 11 1 false c s (fun d s =>
      if verify set (keyOf c).pub (sigPar c.pkt) (m.take (byteAt c.pkt 42)) (m.drop (byteAt c.pkt 42)) sig then endOut d sig s
      else faultAt { blk := .hub, set := d.unit, checker := 11, cls := 1, inst := cmdInst d } (some d.id) s)

theorem signRow_eq (c : Cmd) (set : Nat) (m r : Bytes) (s : State) :
    signRow c set m r s = withBody c (keyOf c) s (signWith c set m r) := rfl

theorem signWith_verified {c : Cmd} {set : Nat} {r body sig : Bytes} {s : State} (harm : (fltU s .hub c.unit).armed = false)
    (hcmd : cmdU s c.id = some c)
    (hsign : sign set (materialOf (keyOf c) body) (keyOf c).pub (sigPar c.pkt) [] [] r = some sig)
    (hverify : verify set (keyOf c).pub (sigPar c.pkt) [] [] sig = true) :
    signWith c set [] r body s = endOut c sig s := by
  simp only [signWith, List.take_nil, List.drop_nil, hsign, withCheck_unarmed _ harm hcmd, hverify, if_true]

/-- The signature the small key makes of the empty message. -/
def smallSig : Bytes := rsaSign 22 true 1 smallBody [] []

theorem length_smallSig : smallSig.length ≤ 64 := by decide +kernel

/-- SIG_SIGN with the extended key hands its signature out over one entry of engine 0. -/
theorem sigSign_not_sameHub (hop : cmdOp (extCmd signPkt smallBody smallPub) = .sig 0xF 2)
    (hdraw : signDraw 0xF (extCmd signPkt smallBody smallPub).pkt = 0) {t : State}
    (ht : exec (.sigSign 0) (engTwice (extCmd signPkt smallBody smallPub)) = .next t) :
    ¬ sameHub (engTwice (extCmd signPkt smallBody smallPub)) t (extCmd signPkt smallBody smallPub) := by
  have hready := extCmd_ready smallBody smallPub (pkt := signPkt) (by simp only [storeReady, hop])
  obtain ⟨u, hview, hcmd, heng, hopens⟩ := extCmd_opens (pkt := signPkt) (by decide +kernel) smallBody_ne smallPub
  have harm : (fltU u .hub 0).armed = false := by
    rw [rowView_fltU hview]
    rfl
  have hsigned := signWith_verified (c := extCmd signPkt smallBody smallPub) (body := smallBody) harm hcmd small_signs
    small_verifies
  rw [exec_sigSign (held_of_ready hready) hop hdraw] at ht
  simp only [signRow_eq] at ht
  rw [hopens, hsigned] at ht
  rw [← Host.Outcome.next.inj ht]
  exact extCmd_delivers (by decide +kernel) length_smallSig hview hcmd heng

/-- What O45 says of a command without input whose signature needs no randomness and verifies. -/
theorem sigSign_claimed (h : Obligations.SignRandomAndGcmEncryptDeliver) {s : State} {id set : Nat} {c : Cmd} {body sig : Bytes}
    (hready : cmdReady s id c) (hop : cmdOp c = .sig set 2) (hbody : bodyOf c = some body)
    (harm : (fltU s .hub c.unit).armed = false) (hdraw : signDraw set c.pkt = 0) (hin : inputOf s c = [])
    (hread : canAccess s c (pInA c.pkt) (pInL c.pkt))
    (hsign : sign set (materialOf (keyOf c) body) (keyOf c).pub (sigPar c.pkt) [] [] [] = some sig)
    (hverify : verify set (keyOf c).pub (sigPar c.pkt) [] [] sig = true)
    (hwrite : canAccess s c (pOutA c.pkt) sig.length) :
    ∃ t, exec (.sigSign id) s = .next t ∧ sameHub s t c := by
  obtain ⟨t, r, ht, hr, hcase⟩ := (h s id c hready).1 set body hop hread hbody harm (.inl hdraw)
  obtain rfl : r = [] := List.eq_nil_of_length_eq_zero (hr.trans hdraw)
  simp only [hin, List.take_nil, List.drop_nil, hsign, hverify, if_true] at hcase
  obtain ⟨-, -, hhub⟩ := hcase hwrite
  exact ⟨t, ht, hhub⟩

/-- Refutes O45: SIG_SIGN with the extended key, on the state with two entries of engine 0, leaves one entry. -/
theorem not_signRandomAndGcmEncryptDeliver : ¬ Obligations.SignRandomAndGcmEncryptDeliver := by
  intro h
  have hop : cmdOp (extCmd signPkt smallBody smallPub) = .sig 0xF 2 := by decide +kernel
  have hready := extCmd_ready smallBody smallPub (pkt := signPkt) (by simp only [storeReady, hop])
  have hdraw : signDraw 0xF (extCmd signPkt smallBody smallPub).pkt = 0 := by
    change signDraw 0xF signPkt = 0
    decide +kernel
  have hin : inputOf (engTwice (extCmd signPkt smallBody smallPub)) (extCmd signPkt smallBody smallPub) = [] :=
    List.eq_nil_of_length_eq_zero (length_readBytes ..)
  obtain ⟨t, ht, hhub⟩ := sigSign_claimed h hready hop (bodyOf_extCmd ..) rfl hdraw hin (.inr rfl) small_signs small_verifies
    (engTwice_canAccess (by decide +kernel) length_smallSig)
  exact sigSign_not_sameHub hop hdraw ht hhub

end Sys2Proof.Machine
end

section
/-! Rows of the vault and of the administration: what going on with the running command and its input means. -/
namespace Sys2Proof.Machine
open Sys2Proof

/-- With no injection armed on the vault's checker its rows answer what they compute (R456). -/
theorem withRow_unarmed {s : State} {id : Nat} {c : Cmd} (h : cmdHeld s id c) (harm : (fltU s .kvt 0).armed = false)
    {ok : Op → Bool} (hok : ok (cmdOp c) = true) (f : Cmd → State) : withRow id s ok f = f c := by
  have hhit : ∀ t, kvtHit s t = false := fun t => by simp only [kvtHit, injArmed, harm, Bool.false_and]
  simp only [withRow, running_held h hok, hhit, Bool.false_eq_true, if_false]

/-- A command that has read nothing reads its whole input (R59). -/
theorem readIn_fresh {s : State} {id : Nat} {c : Cmd} (h : cmdReady s id c) (hin : canAccess s c (pInA c.pkt) (pInL c.pkt)) :
    ∃ t, readIn c s = some (inputOf s c, keepInput c (inputOf s c) t) ∧ Counted s t := by
  obtain ⟨-, -, -, -, -, hread, -⟩ := h
  obtain ⟨t, ht, k⟩ := readAt_ok hin
  have hbytes : readBytes s c (pInA c.pkt) (pInL c.pkt) = inputOf s c := by
    unfold readBytes inputOf
    rw [Nat.sub_self]
  refine ⟨t, ?_, k⟩
  simp [readIn, hread, ht, hbytes]

/-- What a command on a Hub engine has read is staged there. -/
theorem eng_keepInput {s t : State} {c : Cmd} (k : Counted s t) (hkind : c.kind = .hub) (hremote : c.remote = none)
    (hport : c.port ≠ 256) (b : Bytes) : eng (keepInput c b t) c.unit = { eng s c.unit with staged := b } := by
  rw [keepInput, if_pos ⟨hkind, by rw [hremote]; rfl, hport⟩, updEng, eng_setEng_same, k.eng]

end Sys2Proof.Machine
end

section
/-! The counterexample to the statement on the installs: KEY_AGREE_STORE with an extended key. The decrypted body of the
key stands in WORK of the command's engine (R189), where the statement has the state that the reading of the input leaves. -/
namespace Sys2Proof.Machine
open Sys2Proof

/-- The packet of KEY_AGREE_STORE with kdf 0 and no input. -/
def agreePkt : Bytes := leBytes 2 0x0510

/-- KEY_AGREE_STORE on engine 0, with an expanded ML-KEM-512 key of this body. -/
def agreeCmd (body : Bytes) : Cmd :=
  { pkt := agreePkt, phase := .running, kind := .hub, key := some { cls := 0x0101, ext := true, body := sealBody [] body } }

/-- The block right after reset but for one command that runs and a memory that is initialised. -/
def oneCommand (c : Cmd) : State :=
  { State.reset with mem := { State.reset.mem with initDone := 0x7F }, hif := { State.reset.hif with cmds := [c] } }

theorem agreeCmd_op (body : Bytes) : cmdOp (agreeCmd body) = .key 0x0510 :=
  (by decide +kernel : cmdOp { pkt := agreePkt } = .key 0x0510)

theorem agreeCmd_ready (body : Bytes) : cmdReady (oneCommand (agreeCmd body)) 0 (agreeCmd body) :=
  ⟨rfl, rfl, rfl, rfl, by
    simp only [storeReady, agreeCmd_op]
    exact (by decide : Nat.testBit 0x7F (initBit 0) = true), rfl, fun _ => rfl⟩

theorem agreeCmd_body (body : Bytes) : bodyOf (agreeCmd body) = some body := unsealBody_sealBody [] body

/-- The 32 bytes of a shared secret of ML-KEM are, with kdf 0, no secret of 64 bytes (R93). -/
theorem agreeCmd_secret (z : Bytes) : (some (fit ((kemSet 1).getD (0, 0, 0)).2.2 z)).bind
    (fun z => agreed (byteAt agreePkt 46) z (([] : Bytes).drop ((kemSet 1).getD (0, 0, 0)).2.1)
      (leAt agreePkt 40 2) (secretLen (leAt agreePkt 40 2) (byteAt agreePkt 47))) = none := by
  have hf : byteAt agreePkt 46 = 0 := by decide +kernel
  have hn : secretLen (leAt agreePkt 40 2) (byteAt agreePkt 47) = 64 := by decide +kernel
  have hlen : (fit ((kemSet 1).getD (0, 0, 0)).2.2 z).length ≠ 64 := by
    rw [length_fit]
    decide
  rw [Option.bind_some, hf, hn]
  exact if_neg hlen

theorem agreeCmd_reads (body : Bytes) : ∃ s1, readIn (agreeCmd body) (oneCommand (agreeCmd body)) = some ([], s1) ∧
    rowView s1 = rowView (oneCommand (agreeCmd body)) ∧ cmdU s1 0 = some (agreeCmd body) ∧ eng s1 0 = {} := by
  obtain ⟨t, ht, k⟩ := readIn_fresh (agreeCmd_ready body) (.inr rfl)
  have hin : inputOf (oneCommand (agreeCmd body)) (agreeCmd body) = [] := List.eq_nil_of_length_eq_zero (length_inputOf ..)
  rw [hin] at ht
  have hport : (agreeCmd body).port ≠ 256 := (by decide : (0 : Nat) ≠ 256)
  exact ⟨_, ht, k.rowView, k.cmdU 0, eng_keepInput k rfl rfl hport []⟩

/-- Whether there is room for an install shows in the journal and its newest number. -/
theorem installRoom_congr {s t : State} (hbbram : t.bbram = s.bbram) (hkvt : t.kvt = s.kvt) :
    installRoom t = installRoom s := by
  obtain ⟨⟩ := s
  obtain ⟨⟩ := t
  cases hbbram
  cases hkvt
  rfl

theorem oneCommand_room {c : Cmd} {t : State} (h : rowView t = rowView (oneCommand c)) : installRoom t = true := by
  obtain ⟨-, -, -, -, -, -, hkvt, hbbram, -⟩ := rowView_frame h
  exact (installRoom_congr (s := State.reset) hbbram hkvt).trans (by decide +kernel)

/-- The row ends with the body of its key in WORK. -/
theorem exec_agreeCmd {body : Bytes} {s1 : State} (hread : readIn (agreeCmd body) (oneCommand (agreeCmd body)) = some ([], s1))
    (hview : rowView s1 = rowView (oneCommand (agreeCmd body))) (hcmd : cmdU s1 0 = some (agreeCmd body)) :
    exec (.keyAgreeStore 0) (oneCommand (agreeCmd body)) =
      .next (finish 0 (justStatus stsBadParameter) (updEng 0 (bodyToWork body) s1)) := by
  have hexec : exec (.keyAgreeStore 0) (oneCommand (agreeCmd body)) = execKeyAgreeStore 0 (oneCommand (agreeCmd body)) := rfl
  have harm : (fltU s1 .hub (agreeCmd body).unit).armed = false := by
    rw [rowView_fltU hview]
    rfl
  have hopen := withBody_opens (c := agreeCmd body) (k := keyOf (agreeCmd body)) (s := s1) rfl rfl harm
    (Option.isSome_of_eq_some hcmd) (unsealBody_sealBody [] body)
  have hroom : installRoom (updEng (agreeCmd body).unit (bodyToWork body) s1) = true :=
    oneCommand_room (c := agreeCmd body) hview
  have hset : clsSet (keyOf (agreeCmd body)).cls = 1 := (by decide : clsSet 0x0101 = 1)
  have hkem : isAgree 1 = false := by decide
  have hpkt : (agreeCmd body).pkt = agreePkt := rfl
  rw [hexec, execKeyAgreeStore, withRow_unarmed (held_of_ready (agreeCmd_ready body)) rfl (by rw [agreeCmd_op]; rfl)]
  simp only [withIn, hread, hopen, hset, hkem, hpkt, hroom, not_true_eq_false, Bool.false_eq_true, if_false, List.take_nil,
    agreeCmd_secret]
  rfl

/-- What O46 says of the row on that state: it ends with the engine as the reading of the input leaves it. -/
theorem agreeCmd_claimed (h : Obligations.InstallsAreTestedJournalledAndDelivered) {body : Bytes} {s1 : State}
    (hread : readIn (agreeCmd body) (oneCommand (agreeCmd body)) = some ([], s1))
    (hview : rowView s1 = rowView (oneCommand (agreeCmd body))) :
    exec (.keyAgreeStore 0) (oneCommand (agreeCmd body)) = .next (finish 0 (justStatus stsBadParameter) s1) := by
  obtain ⟨-, hrows⟩ := h
  obtain ⟨-, -, -, -, hagree⟩ := hrows (oneCommand (agreeCmd body)) 0 (agreeCmd body) (agreeCmd_ready body) rfl
  have hset : clsSet (keyOf (agreeCmd body)).cls = 1 := (by decide : clsSet 0x0101 = 1)
  have hkem : isAgree 1 = false := by decide
  have hpkt : (agreeCmd body).pkt = agreePkt := rfl
  have hslh : isSlh (leAt (agreeCmd body).pkt 40 2) = false := (by decide +kernel : isSlh (leAt agreePkt 40 2) = false)
  have hclaim := hagree [] s1 _ body (agreeCmd_op body) (agreeCmd_body body) rfl hslh hread (oneCommand_room hview) rfl
  simpa only [hset, hkem, hpkt, Bool.false_eq_true, if_false, List.take_nil, agreeCmd_secret] using hclaim

/-- Refutes O46: after KEY_AGREE_STORE with an extended key the body of the key stands in WORK of engine 0, which is not the
state that the reading of the input leaves. -/
theorem not_installsAreTestedJournalledAndDelivered : ¬ Obligations.InstallsAreTestedJournalledAndDelivered := by
  intro h
  obtain ⟨s1, hread, hview, hcmd, heng⟩ := agreeCmd_reads [1]
  have hends := Host.Outcome.next.inj ((exec_agreeCmd hread hview hcmd).symm.trans (agreeCmd_claimed h hread hview))
  have hhub := congrArg State.hub hends
  rw [finish_hub, finish_hub] at hhub
  refine bodyToWork_ne (b := [1]) (by decide) ?_
  calc bodyToWork [1] {} = eng (updEng 0 (bodyToWork [1]) s1) 0 := by rw [updEng, eng_setEng_same, heng]
    _ = eng s1 0 := by rw [eng, eng, hhub]
    _ = {} := heng

end Sys2Proof.Machine
end

section
/-! The counterexample to the statement on the life cycle, bundles and extensions: EXT_LOAD on a Hub engine. The input of a
command on an engine is staged there (R59), so that the Hub is not as before when the bundle is refused. -/
namespace Sys2Proof.Machine
open Sys2Proof

/-- The packet of EXT_LOAD for no instance, with one byte of input at address 0. -/
def loadPkt : Bytes := leBytes 2 0x0F40 ++ zeros 22 ++ [1]

/-- EXT_LOAD on engine 0. -/
def loadCmd : Cmd := { pkt := loadPkt, phase := .running, kind := .hub }

/-- What the byte declares. -/
def loadDecl : ExtDecl := declOf [0] []

/-- A program that takes every opcode up to the first that the byte declares. -/
def loadedProgram : ExtDecl := { first := 0, last := loadDecl.first }

/-- The block right after reset but for EXT_LOAD on engine 0 and the program. -/
def loadState : State :=
  { oneCommand loadCmd with seq := { (oneCommand loadCmd).seq with exts := [loadedProgram] } }

theorem loadCmd_op : cmdOp loadCmd = .adm 0x0F40 := by decide +kernel

theorem loadCmd_ready : cmdReady loadState 0 loadCmd :=
  ⟨rfl, rfl, rfl, rfl, by simp only [storeReady, loadCmd_op], rfl, fun _ => rfl⟩

theorem loadCmd_insts : (slice loadCmd.pkt 42 (byteAt loadCmd.pkt 41)).map (·.toNat) = [] := by decide +kernel

/-- The byte of host memory is read and staged. -/
theorem loadCmd_reads : ∃ s1, readIn loadCmd loadState = some ([0], s1) ∧ rowView s1 = rowView loadState ∧
    eng s1 0 = { staged := [0] } := by
  have hport : loadCmd.port ≠ 256 := (by decide : (0 : Nat) ≠ 256)
  have hlen : pInL loadCmd.pkt = 1 := by decide +kernel
  have haddr : pInA loadCmd.pkt = 0 := by decide +kernel
  have hok : hostOk loadState loadCmd.port (pInA loadCmd.pkt) (pInL loadCmd.pkt) = true := by
    rw [hlen, haddr]
    decide +kernel
  obtain ⟨t, ht, k⟩ := readIn_fresh loadCmd_ready (.inr hok)
  have hin : inputOf loadState loadCmd = [0] := by
    rw [inputOf, if_neg hport, hlen, haddr]
    rfl
  rw [hin] at ht
  exact ⟨_, ht, k.rowView, eng_keepInput k rfl rfl hport [0]⟩

/-- Its program takes an opcode of the declaration. -/
theorem loadState_overlaps : overlapsExt loadState loadDecl = true := by
  have hexts : loadState.seq.exts = [loadedProgram] := rfl
  simp [overlapsExt, hexts, loadedProgram]

/-- EXT_LOAD of a program whose opcodes are taken is refused, whether its bundle verifies or not (R114). -/
theorem exec_extLoad_refused {s s1 : State} {id : Nat} {c : Cmd} {b : Bytes} (h : cmdReady s id c)
    (harm : (fltU s .kvt 0).armed = false) (hop : cmdOp c = .adm 0x0F40) (hread : readIn c s = some (b, s1))
    (hover : overlapsExt s1 (declOf b ((slice c.pkt 42 (byteAt c.pkt 41)).map (·.toNat))) = true) :
    ∃ st, exec (.extLoad id) s = .next (endWith c st s1) := by
  have hexec : exec (.extLoad id) s = execExtLoad id s := rfl
  rw [hexec, execExtLoad, withAdm, withRow_unarmed (held_of_ready h) harm (by rw [hop]; rfl)]
  simp only [withIn, hread]
  split
  · exact ⟨_, rfl⟩
  · rw [if_pos (Or.inr hover)]
    exact ⟨_, rfl⟩

/-- What O50 says of EXT_LOAD of a program whose opcodes are taken: the Hub stays. -/
theorem extLoad_claimed (h : Obligations.LifeCycleBundleAndExtensionCommands) {s s1 : State} {id : Nat} {c : Cmd} {b : Bytes}
    (hready : cmdReady s id c) (harm : ∀ n, n < 64 → (fltU s .hub n).armed = false) (hop : cmdOp c = .adm 0x0F40)
    (hread : readIn c s = some (b, s1))
    (hover : overlapsExt s (declOf b ((slice c.pkt 42 (byteAt c.pkt 41)).map (·.toNat))) = true) :
    ∃ t, exec (.extLoad id) s = .next t ∧ t.hub = s.hub := by
  obtain ⟨-, -, -, hload, -⟩ := h s id c hready harm
  obtain ⟨t, ht, hcase⟩ := hload b s1 _ hop hread rfl
  refine ⟨t, ht, ?_⟩
  split at hcase
  · obtain ⟨-, -, hhub⟩ := hcase
    exact hhub
  · rw [if_pos (Or.inr hover)] at hcase
    obtain ⟨-, -, hhub⟩ := hcase
    exact hhub

/-- Refutes O50: EXT_LOAD on engine 0, refused for its opcodes or its signature, leaves its input staged at the engine. -/
theorem not_lifeCycleBundleAndExtensionCommands : ¬ Obligations.LifeCycleBundleAndExtensionCommands := by
  intro h
  obtain ⟨s1, hread, hview, heng⟩ := loadCmd_reads
  obtain ⟨-, -, -, -, -, -, -, -, -, -, -, -, -, -, -, -, hseq, -⟩ := rowView_frame hview
  have hover : overlapsExt loadState (declOf [0] ((slice loadCmd.pkt 42 (byteAt loadCmd.pkt 41)).map (·.toNat))) = true := by
    rw [loadCmd_insts]
    exact loadState_overlaps
  have hlater : overlapsExt s1 = overlapsExt loadState := by
    unfold overlapsExt
    rw [hseq]
  obtain ⟨st, hends⟩ := exec_extLoad_refused loadCmd_ready rfl loadCmd_op hread (hlater ▸ hover)
  obtain ⟨t, ht, hhub⟩ := extLoad_claimed h loadCmd_ready (fun _ _ => rfl) loadCmd_op hread hover
  rw [← Host.Outcome.next.inj (hends.symm.trans ht), endWith, finish_hub] at hhub
  have hkept : eng s1 0 = eng loadState 0 := by rw [eng, eng, hhub]
  have hstaged := congrArg Engine.staged (heng.symm.trans hkept)
  exact absurd hstaged (by decide : ([0] : Bytes) ≠ [])

end Sys2Proof.Machine
end


section
/-! A command that runs on while its row works on the vault: what such work leaves, and how the command then ends. -/
namespace Sys2Proof.Machine
open Sys2Proof

/-! ### What the work of a vault row leaves -/

/-- The state without the vault, BBRAM, the Hub, the links and what counting changes. -/
def restView (s : State) : State := { linkView s with kvt := {}, bbram := {}, hub := {} }

theorem restView_of_linkView {s t : State} (h : linkView t = linkView s) : restView t = restView s :=
  congrArg (fun x : State => { x with kvt := {}, bbram := {}, hub := {} }) h

theorem Counted.restView {s t : State} (h : Counted s t) : restView t = restView s := restView_of_linkView h.linkView

theorem restView_fields {s t : State} (h : restView t = restView s) : t.hif.cmds = s.hif.cmds ∧ t.hif.inst = s.hif.inst ∧
    t.host.mem = s.host.mem ∧ t.host.noMaster = s.host.noMaster ∧ t.host.bad = s.host.bad ∧ t.flt = s.flt ∧
    t.lcs = s.lcs ∧ t.ent = s.ent := by
  have e := congrArg (fun x : State => (x.hif.cmds, x.hif.inst, x.host.mem, x.host.noMaster, x.host.bad, x.flt, x.lcs,
    x.ent)) h
  simp only [Prod.mk.injEq] at e
  exact e

theorem fltU_congr {s t : State} (h : t.flt = s.flt) (b : Blk) (n : Nat) : fltU t b n = fltU s b n := by
  unfold fltU
  rw [h]

/-- Where what a row leaves has the fault registers as they were, no injection has hit a word (R456). -/
theorem withRow_unhit {s : State} {id : Nat} {c : Cmd} (h : cmdHeld s id c) {ok : Op → Bool} (hok : ok (cmdOp c) = true)
    {f : Cmd → State} (hflt : (f c).flt = s.flt) : withRow id s ok f = f c := by
  have hhit : kvtHit s (f c) = false := by
    simp only [kvtHit, fltU_congr hflt, bne_self_eq_false, Bool.and_false]
  simp only [withRow, running_held h hok, hhit, Bool.false_eq_true, if_false]

/-! ### A command on its way to its end -/

/-- Command `c` runs in `t`, with at most its input read; the other commands, host memory, where it answers and the
instances are as in `s`. -/
structure Going (s t : State) (c : Cmd) : Prop where
  cmd : ∃ b, cmdU t c.id = some { c with input := b }
  others : ∀ j, j ≠ c.id → cmdU t j = cmdU s j
  mem : t.host.mem = s.host.mem
  hosts : ∀ fn a n, hostOk t fn a n = hostOk s fn a n
  inst : ∀ i, instU t i = instU s i

theorem Going.refl {s : State} {c : Cmd} (h : cmdU s c.id = some c) : Going s s c :=
  ⟨⟨c.input, h⟩, fun _ _ => rfl, rfl, fun _ _ _ => rfl, fun _ => rfl⟩

theorem Onward.going {s t : State} {c : Cmd} (h : Onward s t c) : Going s t c :=
  ⟨h.cmd, h.others, h.mem, rowView_hostOk h.view, rowView_instU h.view⟩

theorem Going.rest {s t u : State} {c : Cmd} (h : Going s t c) (k : restView u = restView t) : Going s u c := by
  obtain ⟨hcmds, hinst, hmem, hmaster, hbad, -⟩ := restView_fields k
  obtain ⟨b, hb⟩ := h.cmd
  refine ⟨⟨b, (cmdU_congr hcmds _).trans hb⟩, fun j hj => (cmdU_congr hcmds j).trans (h.others j hj), hmem.trans h.mem,
    fun fn a n => ?_, fun i => ?_⟩
  · rw [← h.hosts, hostOk, hostOk, hmaster, hbad]
  · rw [← h.inst, instU, instU, hinst]

theorem Going.running {s t : State} {c : Cmd} (h : Going s t c) : (cmdU t c.id).isSome = true := by
  obtain ⟨b, hb⟩ := h.cmd
  exact Option.isSome_of_eq_some hb

theorem Going.onward {s t : State} {c : Cmd} (h : Going s t c) : Onward t t c :=
  ⟨rfl, rfl, .inl rfl, h.cmd, fun _ _ => rfl⟩

/-- A row that ends with a status changes nothing but its command. -/
theorem Going.endWith {s t : State} {c : Cmd} (h : Going s t c) (st : Nat) :
    concluded s (endWith c st t) c (justStatus st) ∧ (endWith c st t).host.mem = s.host.mem ∧
      rowView (endWith c st t) = rowView t := by
  obtain ⟨hend, hmem⟩ := h.onward.endWith st
  obtain ⟨hcmd, hothers⟩ := hend.concluded
  exact ⟨⟨hcmd, fun j hj => (hothers j hj).trans (h.others j hj)⟩, hmem.trans h.mem, hend.view⟩

/-- A row that delivers its output changes its command and those bytes of host memory. -/
theorem Going.endOut {s t : State} {c : Cmd} (h : Going s t c) {b : Bytes}
    (hlog : c.port ≠ 256 → (instU s c.port).logging = false)
    (hout : canAccess s c (pOutA c.pkt) b.length) :
    delivered s (endOut c b t) c b ∧ rowView (endOut c b t) = rowView t ∧ (endOut c b t).hub = t.hub := by
  have hout' : canAccess t c (pOutA c.pkt) b.length := hout.imp id (fun h' => (h.hosts ..).trans h')
  obtain ⟨⟨⟨hcmd, hothers⟩, hguest, hhost⟩, hview, hhub⟩ :=
    h.onward.endOut (b := b) (fun hp => (h.inst _).symm ▸ hlog hp) hout'
  rw [h.mem] at hguest hhost
  refine ⟨⟨⟨hcmd, fun j hj => (hothers j hj).trans (h.others j ?_)⟩, hguest, hhost⟩, hview, hhub⟩
  by_cases hp : c.port = 256
  · rw [if_pos hp] at hj
    exact hj
  · rw [if_neg hp] at hj
    exact hj

/-- The output of a command goes where its packet says, whatever else its record has. -/
theorem endOut_congr {c d : Cmd} {t : State} (hid : d.id = c.id) (hpkt : d.pkt = c.pkt) (hport : d.port = c.port)
    (hcmd : (cmdU t c.id).isSome = true) (b : Bytes) : endOut d b t = endOut c b t := by
  obtain ⟨x, hx⟩ := Option.isSome_iff_exists.mp hcmd
  simp only [endOut, writeOut, dmaSpill, dmaEnd, hid, hpkt, hport, hx, Option.getD_some]

/-! ### Words that the vault writes -/

theorem wordsOut_counted {s : State} (harm : (fltU s .kvt 0).armed = false) (n : Nat) : Counted s (wordsOut n s) := by
  have k := blkEvent_counted .kvt 0x13 n s
  rw [wordsOut, access_unarmed _ _ _ _ _ _ _ _ _ (by rw [k.fltU, harm])]
  exact k

/-- A counter record in a slot whose cells take a write is written and nothing else. -/
theorem putPair_counted {s : State} {n : Nat} (harm : (fltU s .kvt 0).armed = false) (hgood : n ∉ s.bbram.badRecs)
    (words : Nat) (p : RecPair) : Counted (setRec n p s) (putPair n words p s) := by
  have hflt : fltU (setRec n p s) .kvt 0 = fltU s .kvt 0 := fltU_congr rfl ..
  rw [putPair, if_neg (by simpa using hgood)]
  exact wordsOut_counted (by rw [hflt, harm]) words

/-! ### The counter records (R211-R222) -/

/-- The state without the counter records, what the vault notes of them, and what counting changes. -/
def recView (s : State) : State :=
  { linkView s with
    kvt := { s.kvt with cuts := [], sfsCursor := [], recsLost := [] }, bbram := { s.bbram with recs := [], recOwner := [] } }

theorem recView_fields {s t : State} (h : recView t = recView s) : restView t = restView s ∧ t.hub = s.hub ∧ t.flt = s.flt ∧
    t.kvt.res = s.kvt.res ∧ t.kvt.jseq = s.kvt.jseq ∧ t.kvt.claims = s.kvt.claims ∧ t.bbram.gens = s.bbram.gens ∧
    t.bbram.journal = s.bbram.journal ∧ t.bbram.badRecs = s.bbram.badRecs := by
  have e := congrArg (fun x : State => ({ x with kvt := {}, bbram := {}, hub := {} }, x.hub, x.flt, x.kvt.res, x.kvt.jseq,
    x.kvt.claims, x.bbram.gens, x.bbram.journal, x.bbram.badRecs)) h
  simp only [Prod.mk.injEq] at e
  exact e

theorem Counted.recView {s t : State} (h : Counted s t) : recView t = recView s := by
  have e := congrArg Machine.recView (show _ = s from h)
  exact e

theorem recView_putPair {s : State} {n : Nat} (harm : (fltU s .kvt 0).armed = false) (hgood : n ∉ s.bbram.badRecs)
    (words : Nat) (p : RecPair) : recView (putPair n words p s) = recView s :=
  (putPair_counted harm hgood words p).recView.trans rfl

theorem recs_putPair {s : State} {n : Nat} (harm : (fltU s .kvt 0).armed = false) (hgood : n ∉ s.bbram.badRecs)
    (words : Nat) (p : RecPair) : (putPair n words p s).bbram.recs = Tbl.set {} s.bbram.recs n p :=
  congrArg Bbram.recs (putPair_counted harm hgood words p).bbram

/-- Closing a record writes its slot. -/
theorem closeRec_leaves {s : State} {n : Nat} (harm : (fltU s .kvt 0).armed = false) (hgood : n ∉ s.bbram.badRecs) :
    recView (closeRec n s) = recView s ∧ ∀ m, m ≠ n → recU (closeRec n s) m = recU s m := by
  unfold closeRec
  split
  · refine ⟨recView_putPair harm hgood 2 _, fun m hm => ?_⟩
    rw [recU, putRec, recs_putPair harm hgood]
    exact Tbl.get_set_other _ _ _ hm
  · exact ⟨rfl, fun _ _ => rfl⟩

/-- Clearing a record empties its slot. -/
theorem clearRec_leaves {s : State} {n : Nat} (harm : (fltU s .kvt 0).armed = false) (hgood : n ∉ s.bbram.badRecs) :
    recView (clearRec n s) = recView s ∧ (clearRec n s).bbram.recs = Tbl.set {} s.bbram.recs n {} :=
  ⟨recView_putPair harm hgood 4 {}, recs_putPair harm hgood 4 {}⟩

/-- Starting a record in a slot leaves all but the counter records. -/
theorem recView_startRec {s : State} {n : Nat} (harm : (fltU s .kvt 0).armed = false) (hgood : n ∉ s.bbram.badRecs)
    (inst : Nat) (r : RecCopy) : recView (startRec n inst r s) = recView s := by
  have hput : ∀ t : State, recView t = recView s → recView (putPair n 2 { a := sealCopy { r with seq := 1, live := true } } t) =
      recView s := fun t h => by
    obtain ⟨-, -, hflt, -, -, -, -, -, hbad⟩ := recView_fields h
    exact (recView_putPair (by rw [fltU_congr hflt, harm]) (by rw [hbad]; exact hgood) 2 _).trans h
  unfold startRec
  exact hput _ (ite_keeps recView rfl (clearRec_leaves harm hgood).1)

end Sys2Proof.Machine
end

section
/-! The stateful-signature rows, PENDING_REWRITE and PANNIER_SWEEP (chapters 04, 09 and 11). -/
namespace Sys2Proof.Machine
open Sys2Proof

/-! ### SFS_VERIFY and SFS_SIGN (R77, R102, R103) -/

/-- What a verification answers to its input. -/
def sfsAnswer (par b : Bytes) : Nat :=
  match sfsParams par with
  | none => stsBadParameter
  | some d => if sfsVerify par (b.take d.pub) (slice b d.pub d.sig) (b.drop (d.pub + d.sig)) then stsOk else stsVerifyFail

theorem sfsVerifyRow_eq (c : Cmd) (s : State) :
    sfsVerifyRow c s = withIn c s (fun b => endWith c (sfsAnswer (sfsPar c.pkt) b)) := by
  unfold sfsVerifyRow sfsAnswer
  congr 1
  funext b t
  cases sfsParams (sfsPar c.pkt) <;> rfl

theorem exec_sfsVerify {s : State} {id : Nat} {c : Cmd} (h : cmdHeld s id c) {r : Instr × Nat}
    (hr : r ∈ [(Instr.sfsVerifyHss id, 0x0801), (.sfsVerifyXmss id, 0x0802)]) (hop : cmdOp c = .sfs r.2) :
    exec r.1 s = .next (sfsVerifyRow c s) := by
  simp only [List.mem_cons, List.not_mem_nil, or_false] at hr
  rcases hr with rfl | rfl
  · have hexec : exec (.sfsVerifyHss id) s = execSfsVerifyHss id s := rfl
    rw [hexec, execSfsVerifyHss, running_held h (by rw [hop]; rfl)]
  · have hexec : exec (.sfsVerifyXmss id) s = execSfsVerifyXmss id s := rfl
    rw [hexec, execSfsVerifyXmss, running_held h (by rw [hop]; rfl)]

/-- A verification whose input answers ends with its answer, and changes nothing else. -/
theorem sfsVerify_ends {s : State} {id : Nat} {c : Cmd} (h : cmdHeld s id c) {r : Instr × Nat}
    (hr : r ∈ [(Instr.sfsVerifyHss id, 0x0801), (.sfsVerifyXmss id, 0x0802)]) (hop : cmdOp c = .sfs r.2)
    (hin : canAccess s c (pInA c.pkt) (pInL c.pkt)) :
    ∃ t, exec r.1 s = .next t ∧ t.host.mem = s.host.mem ∧ dataFrame s t ∧
      concluded s t c (justStatus (sfsAnswer (sfsPar c.pkt) (inputOf s c))) := by
  obtain ⟨t, ht, ho⟩ := withIn_held h hin
  obtain ⟨hend, hmem⟩ := ho.endWith (sfsAnswer (sfsPar c.pkt) (inputOf s c))
  exact ⟨_, by rw [exec_sfsVerify h hr hop, sfsVerifyRow_eq, ht], hmem, rowView_frame hend.view, hend.concluded⟩

/-- A signature that verifies is delivered. -/
theorem sfsSign_delivers {s : State} {id : Nat} {c : Cmd} {sig : Bytes} (h : cmdHeld s id c) (hop : cmdOp c = .sfs 0x0811)
    (hin : canAccess s c (pInA c.pkt) (pInL c.pkt)) (harm : (fltU s .hub c.unit).armed = false)
    (hsig : sig = sfsSign (keyOf c).par (keyOf c).secret (keyOf c).pub (c.leaf.getD 0) (inputOf s c))
    (hverify : sfsVerify (keyOf c).par (keyOf c).pub sig (inputOf s c) = true)
    (hout : canAccess s c (pOutA c.pkt) sig.length) :
    ∃ t, exec (.sfsSign id) s = .next t ∧ delivered s t c sig ∧ dataFrame s t ∧ sameHub s t c := by
  obtain ⟨t, ht, ho⟩ := withIn_held h hin
  obtain ⟨i, hi⟩ := ho.cmd
  have hexec : exec (.sfsSign id) s = execSfsSign id s := rfl
  have harm' : (fltU t .hub c.unit).armed = false := by rw [rowView_fltU ho.view, harm]
  have hrow : exec (.sfsSign id) s = .next (endOut c sig t) := by
    rw [hexec, execSfsSign, running_held h (by rw [hop]; rfl)]
    simp only [ht, ← hsig, withCheck_unarmed _ harm' hi, hverify, if_true]
    rw [endOut_congr (c := c) (d := { c with input := i }) rfl rfl rfl ho.going.running]
  obtain ⟨hdel, hview, hhub⟩ := ho.endOut (held_unlogged h) hout
  refine ⟨_, hrow, hdel, rowView_frame (hview), ?_⟩
  unfold sameHub
  rw [hhub]
  exact ho.hub

/-! ### SFS_STATUS (R224) -/

/-- Marks that are found, here or by the key's home, go out. -/
theorem exec_sfsStatus_found {s : State} {id : Nat} {c : Cmd} {v : Nat × Nat} (h : cmdHeld s id c) (hop : cmdOp c = .sfs 0x0812)
    (hfound : c.served = some v ∨ c.served = none ∧ sfsMarks (keyOf c).stateId s = (some v, s)) :
    exec (.sfsStatus id) s =
      .next (endOut c (leBytes 8 (leavesTotal (keyOf c).par) ++ leBytes 8 v.1 ++ leBytes 8 v.2) s) := by
  have hexec : exec (.sfsStatus id) s = execSfsStatus id s := rfl
  rw [hexec, execSfsStatus, running_held h (by rw [hop]; rfl)]
  rcases hfound with hserved | ⟨hserved, hmarks⟩
  · simp only [hserved]
  · simp only [hserved, hmarks]

theorem exec_sfsStatus_lost {s : State} {id : Nat} {c : Cmd} (h : cmdHeld s id c) (hop : cmdOp c = .sfs 0x0812)
    (hserved : c.served = none) (hmarks : sfsMarks (keyOf c).stateId s = (none, s)) :
    exec (.sfsStatus id) s = .next (endWith c stsStateLost s) := by
  have hexec : exec (.sfsStatus id) s = execSfsStatus id s := rfl
  rw [hexec, execSfsStatus, running_held h (by rw [hop]; rfl)]
  simp only [hserved, hmarks]

theorem sfsMarks_lost {s : State} {sid : Nat} (h : recFind s sid = none) : sfsMarks sid s = (none, s) := by
  unfold sfsMarks
  rw [h]

/-- The marks of a live record. -/
theorem sfsMarks_live {s : State} {sid n : Nat} {r : RecCopy} (h : recLive s sid = some (n, r)) :
    sfsMarks sid s = (some (sfsCursor s n r, r.hwm), s) := by
  unfold recLive at h
  unfold sfsMarks
  split at h
  · next m hm =>
    split at h
    · next c b hv =>
      split at h
      · cases h
      · next hopen =>
        cases h
        simp only [hm, hv, hopen, Bool.false_eq_true, if_false]
    · cases h
  · cases h

/-- Total, next leaf and mark go out, and nothing but the command and its output changes. -/
theorem sfsStatus_delivers {s : State} {id : Nat} {c : Cmd} {v : Nat × Nat} (h : cmdHeld s id c) (hop : cmdOp c = .sfs 0x0812)
    (hfound : c.served = some v ∨ c.served = none ∧ sfsMarks (keyOf c).stateId s = (some v, s))
    (hout : canAccess s c (pOutA c.pkt) 24) :
    ∃ t, exec (.sfsStatus id) s = .next t ∧ dataFrame s t ∧
      delivered s t c (leBytes 8 (leavesTotal (keyOf c).par) ++ leBytes 8 v.1 ++ leBytes 8 v.2) := by
  have hrow := exec_sfsStatus_found h hop hfound
  have hlog := held_unlogged h
  obtain ⟨hcmd, rfl, -⟩ := h
  have hlen : (leBytes 8 (leavesTotal (keyOf c).par) ++ leBytes 8 v.1 ++ leBytes 8 v.2).length = 24 := by
    simp only [List.length_append, length_leBytes]
  obtain ⟨hdel, hview, -⟩ := (Onward.refl hcmd).endOut hlog (hlen.symm ▸ hout)
  exact ⟨_, hrow, rowView_frame hview, hdel⟩

/-! ### SFS_RETIRE (R222) -/

theorem recView_noteCut (id : Nat) (ps : List BbStage) (s : State) : recView (noteCut id ps s) = recView s := rfl

/-- Retiring a state identifier closes and clears the slot of its record. -/
theorem retireSid_leaves {s : State} {id sid n : Nat} (harm : (fltU s .kvt 0).armed = false) (hfind : recFind s sid = some n)
    (hgood : n ∉ s.bbram.badRecs) : recView (retireSid id sid s) = recView s ∧ recU (retireSid id sid s) n = {} ∧
      ∀ m, m ≠ n → recU (retireSid id sid s) m = recU s m := by
  obtain ⟨hview, hothers⟩ := closeRec_leaves harm hgood
  obtain ⟨-, -, hflt, -, -, -, -, -, hbad⟩ := recView_fields hview
  obtain ⟨hclear, hrecs⟩ := clearRec_leaves (s := closeRec n s) (by rw [fltU_congr hflt, harm]) (by rw [hbad]; exact hgood)
  have hretire : retireSid id sid s = noteCut id (recStages n (retireStages (recU s n))) (clearRec n (closeRec n s)) := by
    unfold retireSid
    rw [hfind]
    exact if_neg (by simpa using hgood)
  have hrecU : ∀ m, recU (retireSid id sid s) m = Tbl.get {} (Tbl.set {} (closeRec n s).bbram.recs n {}) m := fun m => by
    rw [hretire, ← hrecs]
    rfl
  refine ⟨by rw [hretire, recView_noteCut, hclear, hview], ?_, fun m hm => ?_⟩
  · rw [hrecU, Tbl.get_set, if_pos rfl]
  · rw [hrecU, Tbl.get_set_other _ _ _ hm]
    exact hothers m hm

theorem sfsRetire_retires {s : State} {id n : Nat} {c : Cmd} {k : KeyObj} (h : cmdHeld s id c) (hop : cmdOp c = .sfs 0x0813)
    (hserved : c.served = none) (hkey : c.key = some k) (hlen : pInL c.pkt = 0) (hfind : recFind s k.stateId = some n)
    (harm : (fltU s .kvt 0).armed = false) (hgood : n ∉ s.bbram.badRecs) :
    ∃ t, exec (.sfsRetire id) s = .next t ∧ concluded s t c (justStatus stsOk) ∧ recU t n = {} ∧
      (∀ m, m ≠ n → recU t m = recU s m) ∧ t.kvt.res = s.kvt.res ∧ t.host.mem = s.host.mem := by
  have hexec : exec (.sfsRetire id) s = execSfsRetire id s := rfl
  have hk : keyOf c = k := by rw [keyOf, hkey]; rfl
  have hrow : exec (.sfsRetire id) s = .next (endWith c stsOk (retireSid c.id k.stateId s)) := by
    rw [hexec, execSfsRetire, withRow_unarmed h harm (by rw [hop]; rfl)]
    simp [hserved, hkey, hlen, hk]
  obtain ⟨hcmd, rfl, -⟩ := h
  obtain ⟨hview, hnone, hothers⟩ := retireSid_leaves (id := c.id) harm hfind hgood
  obtain ⟨hrest, -, -, hres, -⟩ := recView_fields hview
  obtain ⟨hend, hmem, hrow'⟩ := ((Going.refl hcmd).rest hrest).endWith stsOk
  obtain ⟨-, -, -, -, -, -, hkvt, hbbram, -⟩ := rowView_frame hrow'
  have hrecU : ∀ m, recU (endWith c stsOk (retireSid c.id k.stateId s)) m = recU (retireSid c.id k.stateId s) m := fun m => by
    rw [recU, hbbram]
    rfl
  refine ⟨_, hrow, hend, (hrecU n).trans hnone, fun m hm => (hrecU m).trans (hothers m hm), ?_, hmem⟩
  rw [hkvt, hres]

/-- A blob that names another handle retires nothing. -/
theorem sfsRetire_otherHandle {s : State} {id : Nat} {c : Cmd} (h : cmdHeld s id c) (hop : cmdOp c = .sfs 0x0813)
    (hserved : c.served = none) (hlen : 0 < pInL c.pkt) (hin : canAccess s c (pInA c.pkt) (pInL c.pkt))
    (hother : leAt (inputOf s c) 8 8 ≠ pKey c.pkt) :
    ∃ t, exec (.sfsRetire id) s = .next t ∧ concluded s t c (justStatus stsBadParameter) ∧ t.bbram = s.bbram ∧
      t.kvt = s.kvt ∧ t.host.mem = s.host.mem := by
  obtain ⟨t, ht, ho⟩ := withIn_held h hin
  have hne : inputOf s c ≠ [] := List.ne_nil_of_length_pos (by rw [length_inputOf]; exact hlen)
  obtain ⟨hend, hmem⟩ := ho.endWith stsBadParameter
  obtain ⟨-, -, -, -, -, -, hkvt, hbbram, -, -, -, -, -, -, hflt, -⟩ := rowView_frame hend.view
  have hlen' : pInL c.pkt ≠ 0 := Nat.ne_of_gt hlen
  have hfirst : (if c.served.isSome then endWith c stsOk s
      else if c.key.isSome ∧ pInL c.pkt = 0 then endWith c stsOk (retireSid c.id (keyOf c).stateId s)
      else withIn c s (fun b s =>
        endWith c (retireKey c.id (cmdInst c) (pKey c.pkt) c.key b s).1
          (retireKey c.id (cmdInst c) (pKey c.pkt) c.key b s).2)) = endWith c stsBadParameter t := by
    simp [hserved, hlen', ht, retireKey, hne, hother]
  have hexec : exec (.sfsRetire id) s = execSfsRetire id s := rfl
  refine ⟨_, ?_, hend.concluded, hbbram, hkvt, hmem⟩
  rw [hexec, execSfsRetire, withRow_unhit h (by rw [hop]; rfl)]
  · exact congrArg Host.Outcome.next hfirst
  · exact (congrArg State.flt hfirst).trans hflt

/-! ### PENDING_REWRITE (R259) and PANNIER_SWEEP (R264) -/

theorem slotU_setSlot (n m : Nat) (j : JSlot) (s : State) : slotU (setSlot n j s) m = if m = n then j else slotU s m :=
  Tbl.get_set _ _ _ _ _

theorem exec_pendingRewrite {s : State} {slot : Fin 256} (h : jPending (slotU s slot) = true) :
    exec (.pendingRewrite slot) s = .next (setSlot slot { slotU s slot with
      pend := { (slotU s slot).pend with jseq := (s.kvt.jseq + 1) % 2 ^ 24 } }
      { s with kvt := { s.kvt with jseq := (s.kvt.jseq + 1) % 2 ^ 24 } }) :=
  congrArg Host.Outcome.next (if_pos h)

/-- What a sweep of instance `i` leaves of one resident record: no current key whose lineage has ended. -/
def swept (s : State) (i : Nat) (p : Nat × Option Resident) : Option (Nat × Option Resident) :=
  match p.2 with
  | none => if hInst p.1 = i then none else some p
  | some r => if hInst p.1 = i ∧ (r.cur.bind (genCheck s)).isSome then
      (tidyRes { r with cur := none, old := [] }).map (fun r => (p.1, some r))
    else some p

theorem exec_pannierSweep {s : State} {i : Fin 256} (h : i.val ∈ s.kvt.sweep) :
    exec (.pannierSweep i) s = .next { s with kvt := { s.kvt with
      sweep := s.kvt.sweep.filter (· != i.val), res := s.kvt.res.filterMap (swept s i) } } := by
  have hexec : exec (.pannierSweep i) s = execPannierSweep i s := rfl
  have hone : ∀ p, (if (hInst p.1 == i.val && (match p.2 with
      | some r => match r.cur with
        | some k => (genCheck s k).isSome
        | none => false
      | none => true)) = true then match p.2 with
        | some r => (tidyRes { r with cur := none, old := [] }).map (fun r => (p.1, some r))
        | none => none
      else some p) = swept s i p := by
    rintro ⟨n, r⟩
    cases r with
    | none => simp [swept]
    | some r => cases hc : r.cur <;> simp [swept, hc]
  rw [hexec, execPannierSweep, if_pos (by simpa using h)]
  exact congrArg (fun l => Host.Outcome.next { s with kvt := { s.kvt with
    sweep := s.kvt.sweep.filter (· != i.val), res := l } }) (List.filterMap_congr (fun p _ => hone p))

theorem tidyRes_some {r x : Resident} (h : tidyRes r = some x) : x = r := by
  unfold tidyRes at h
  split at h
  · cases h
  · exact (Option.some.inj h).symm

/-- A swept record of the instance has no current key that is orphaned. -/
theorem swept_cur {s : State} {i : Nat} {p q : Nat × Option Resident} (h : swept s i p = some q) (hi : hInst q.1 = i)
    {r : Resident} (hr : q.2 = some r) {k : KeyObj} (hk : r.cur = some k) : genCheck s k = none := by
  obtain ⟨n, x⟩ := p
  cases x with
  | none =>
    by_cases hn : hInst n = i
    · simp [swept, hn] at h
    · simp only [swept, hn, if_false, Option.some.injEq] at h
      subst h
      exact absurd hi hn
  | some y =>
    unfold swept at h
    dsimp only at h
    split at h
    · obtain ⟨z, hz, rfl⟩ := Option.map_eq_some_iff.mp h
      rw [tidyRes_some hz] at hr
      cases hr
      cases hk
    · next hkeep =>
      cases h
      cases hr
      simpa [hk, show hInst n = i from hi] using hkeep

theorem swept_other {s : State} {i : Nat} {p : Nat × Option Resident} (h : hInst p.1 ≠ i) : swept s i p = some p := by
  obtain ⟨n, x⟩ := p
  cases x <;> simp [swept, show ¬ hInst n = i from h]

/-- Settles O48: each row by its own lemma; the sweep filters the resident records one by one. -/
theorem statefulRowsAndVaultEvents : Obligations.StatefulRowsAndVaultEvents := by
  unfold Obligations.StatefulRowsAndVaultEvents
  refine ⟨fun s id c hready => ?_, fun s => ⟨fun slot hpend => ?_, fun i hi => ?_⟩⟩
  · have h := held_of_ready hready
    refine ⟨fun r hr hop hin => ⟨fun hnone => ?_, fun d hd => ?_⟩, fun sig hop hin harm hsig hverify hout =>
      sfsSign_delivers h hop hin harm hsig hverify hout, fun hop hserved => ⟨fun n r hlive hout => ?_, fun hlost => ?_⟩,
      fun v hop hserved hout => ?_, fun k n hop hserved hkey hlen hfind harm hgood =>
      sfsRetire_retires h hop hserved hkey hlen hfind harm hgood, fun hop hserved hlen hin hother =>
      sfsRetire_otherHandle h hop hserved hlen hin hother⟩
    · obtain ⟨t, ht, hmem, hframe, hend⟩ := sfsVerify_ends h hr hop hin
      simp only [sfsAnswer, hnone] at hend
      exact ⟨t, ht, hend, hmem, hframe⟩
    · obtain ⟨t, ht, hmem, hframe, hend⟩ := sfsVerify_ends h hr hop hin
      simp only [sfsAnswer, hd] at hend
      exact ⟨t, ht, hmem, hframe, hend⟩
    · exact sfsStatus_delivers (v := (sfsCursor s n r, r.hwm)) h hop (.inr ⟨hserved, sfsMarks_live hlive⟩) hout
    · obtain ⟨-, hid, -⟩ := h
      rw [exec_sfsStatus_lost (held_of_ready hready) hop hserved (sfsMarks_lost hlost), endWith, hid]
    · exact sfsStatus_delivers (v := v) h hop (.inl hserved) hout
  · refine ⟨_, exec_pendingRewrite hpend, ?_, fun n hn => ?_, rfl, rfl, rfl, rfl⟩
    · rw [slotU_setSlot, if_pos rfl]
    · rw [slotU_setSlot, if_neg hn]
      rfl
  · refine ⟨_, exec_pannierSweep hi, ?_, fun q hq hinst r k hr hk => ?_, fun p hp hother => ?_, rfl, rfl, rfl⟩
    · simp
    · obtain ⟨p, -, hp⟩ := List.mem_filterMap.mp hq
      exact swept_cur hp hinst hr hk
    · exact List.mem_filterMap.mpr ⟨p, hp, swept_other hother⟩

end Sys2Proof.Machine
end

section
/-! What a draw of randomness and the writes of a commit leave (chapters 11 and 12). -/
namespace Sys2Proof.Machine
open Sys2Proof

/-! ### Draws (R273, R274, R278) -/

/-- The state without what a command that draws and answers can change. -/
def drawnView (s : State) : State := { rowView s with ent := {} }

theorem drawnView_of_rowView {s t : State} (h : rowView t = rowView s) : drawnView t = drawnView s :=
  congrArg (fun x : State => { x with ent := {} }) h

theorem drawnView_frame {s t : State} (h : drawnView t = drawnView s) : dataFrame s t := by
  have e := congrArg (fun x : State => (x.pending, x.now, x.hif.qps, x.hif.inst, x.hif.ts, x.drl, x.kvt, x.bbram, x.mem,
    x.pwr, x.glb, x.lcs, x.dbg, x.tmp, x.flt, x.tlk, x.seq, x.pins)) h
  simp only [Prod.mk.injEq] at e
  exact e

/-- The state without the DRBGs and what counting changes. -/
def drbgView (s : State) : State :=
  { s with cad := {}, free := 0, ent := {}, host := { s.host with msgs := [] }, hif := { s.hif with msix := [] } }

theorem Counted.drbgView {s t : State} (h : Counted s t) : drbgView t = drbgView s := by
  have e := congrArg Machine.drbgView (show _ = s from h)
  exact e

theorem drawnView_of_drbgView {s t : State} (h : drbgView t = drbgView s) : drawnView t = drawnView s ∧ t.hub = s.hub := by
  have e := congrArg (fun x : State => (drawnView x, x.hub)) h
  simp only [Prod.mk.injEq] at e
  exact e

/-- Work of the DRBGs leaves a command on its way. -/
theorem Going.drbg {s t u : State} {c : Cmd} (h : Going s t c) (k : drbgView u = drbgView t) : Going s u c := by
  have e := congrArg (fun x : State => restView { x with ent := t.ent }) k
  have hrest : restView { u with ent := t.ent } = restView t := e
  obtain ⟨hcmd, hothers, hmem, hhosts, hinst⟩ := h.rest hrest
  exact ⟨hcmd, hothers, hmem, hhosts, hinst⟩

theorem drbgView_genRequests (d inst : Nat) : ∀ (k n : Nat) (s : State), drbgView (genRequests d inst k n s).2 = drbgView s
  | 0, _, _ => rfl
  | k + 1, n, s => drbgView_genRequests d inst k (n - 65536) (genRequest d inst (min n 65536) s).2

theorem length_genRequests (d inst : Nat) : ∀ (k n : Nat) (s : State), n ≤ k * 65536 →
    (genRequests d inst k n s).1.length = n
  | 0, n, s, h => by
    have hn : n = 0 := by omega
    rw [hn]
    rfl
  | k + 1, n, s, h => by
    have hreq : (genRequest d inst (min n 65536) s).1.length = min n 65536 := length_fit ..
    have hrest := length_genRequests d inst k (n - 65536) (genRequest d inst (min n 65536) s).2 (by omega)
    rw [genRequests, List.length_append, hreq, hrest]
    omega

theorem drbgView_generate (d inst n : Nat) (s : State) : drbgView (generate d inst n s).2 = drbgView s :=
  (drbgView_genRequests ..).trans (blkEvent_counted ..).drbgView

theorem length_generate (d inst n : Nat) (s : State) : (generate d inst n s).1.length = n := by
  refine length_genRequests _ _ _ _ _ ?_
  unfold ceilDiv
  omega

/-- A draw notes the switch of the source in its command. -/
theorem noteSwitch_going {s : State} {c : Cmd} (h : cmdU s c.id = some c) :
    Going s (noteSwitch c.id s) (drew s c) ∧ drawnView (noteSwitch c.id s) = drawnView s ∧ (noteSwitch c.id s).hub = s.hub := by
  unfold noteSwitch
  simp only [h]
  split
  next hon =>
    have hdrew : drew s c = { c with switched := true } := by simp only [drew, hon, Bool.or_true]
    rw [hdrew]
    refine ⟨⟨⟨c.input, ?_⟩, fun j hj => ?_, rfl, fun _ _ _ => rfl, fun _ => rfl⟩, rfl, rfl⟩
    · exact cmdU_setCmd_same (d := { c with switched := true }) h
    · exact cmdU_setCmd_other (d := { c with switched := true }) hj
  next hoff =>
    have hdrew : drew s c = c := by simp only [drew, Bool.eq_false_iff.mpr hoff, Bool.or_false]
    rw [hdrew]
    exact ⟨.refl h, rfl, rfl⟩

theorem draw_of_unit {s : State} {d : Nat} (h : drawUnit s = some d) (id n : Nat) :
    draw id n s = some (generate d (drawInst s id) n (noteSwitch id s)) := by
  unfold draw
  rw [h]

/-- What the DRBGs do after the note leaves the command on its way. -/
theorem drawn_going {s t : State} {c : Cmd} (h : cmdU s c.id = some c) (k : drbgView t = drbgView (noteSwitch c.id s)) :
    Going s t (drew s c) ∧ drawnView t = drawnView s ∧ t.hub = s.hub := by
  obtain ⟨hnote, hview, hhub⟩ := noteSwitch_going h
  obtain ⟨hdrawn, hsame⟩ := drawnView_of_drbgView k
  exact ⟨hnote.drbg k, hdrawn.trans hview, hsame.trans hhub⟩

/-- With a DRBG that can generate a draw gives its bytes; its command and the DRBGs change. -/
theorem draw_going {s : State} {c : Cmd} (h : cmdU s c.id = some c) (hunit : drawUnit s ≠ none) (n : Nat) :
    ∃ x : Bytes × State, draw c.id n s = some x ∧ x.1.length = n ∧ Going s x.2 (drew s c) ∧ drawnView x.2 = drawnView s ∧
      x.2.hub = s.hub := by
  obtain ⟨d, hd⟩ := Option.ne_none_iff_exists'.mp hunit
  exact ⟨_, draw_of_unit hd .., length_generate .., drawn_going h (drbgView_generate ..)⟩

/-- A row that draws and delivers leaves what a data command leaves. -/
theorem draw_delivers {s t : State} {c : Cmd} {b : Bytes} (h : Going s t (drew s c)) (hview : drawnView t = drawnView s)
    (hlog : c.port ≠ 256 → (instU s c.port).logging = false) (hout : canAccess s c (pOutA c.pkt) b.length) :
    delivered s (endOut c b t) (drew s c) b ∧ dataFrame s (endOut c b t) := by
  obtain ⟨hdel, hend, -⟩ := h.endOut (b := b) hlog hout
  rw [← endOut_congr (d := drew s c) (c := c) rfl rfl rfl h.running]
  exact ⟨hdel, drawnView_frame ((drawnView_of_rowView hend).trans hview)⟩

/-! ### Input that a read has brought (R59) -/

theorem readAt_counted {s t : State} {c : Cmd} {a n : Nat} {b : Bytes} (h : readAt c a n s = some (b, t)) : Counted s t := by
  unfold readAt at h
  split at h
  · simp only [Option.some.injEq, Prod.mk.injEq] at h
    exact h.2 ▸ .refl s
  · have hok : hostOk s c.port a n = true := by
      by_contra hno
      simp only [dmaRead, hno] at h
      cases h
    obtain ⟨u, hu, k⟩ := dmaRead_ok c.port a n s hok
    rw [hu] at h
    simp only [Option.some.injEq, Prod.mk.injEq] at h
    exact h.2 ▸ k

/-- A read that succeeds changes at most what the command's unit holds. -/
theorem readIn_onward {s t : State} {c : Cmd} {b : Bytes} (hcmd : cmdU s c.id = some c) (h : readIn c s = some (b, t)) :
    Onward s t c := by
  unfold readIn at h
  dsimp only at h
  split at h
  next x u hread =>
    simp only [Option.some.injEq, Prod.mk.injEq] at h
    exact h.2 ▸ keepInput_onward hcmd (readAt_counted hread) _
  next => cases h

/-! ### The writes of a commit (R259) -/

/-- The state without what a commit or an abandoned install writes, what the vault notes of it, the links and what counting
changes. -/
def writeView (s : State) : State :=
  { linkView s with
    kvt := { s.kvt with cuts := [], sfsCursor := [], recsLost := [], jseq := 0 }
    bbram := { s.bbram with recs := [], recOwner := [], gens := [], journal := [] } }

theorem writeView_fields {s t : State} (h : writeView t = writeView s) : restView t = restView s ∧ t.kvt.res = s.kvt.res ∧
    t.bbram.badRecs = s.bbram.badRecs := by
  have e := congrArg (fun x : State => ({ x with kvt := {}, bbram := {}, hub := {} }, x.kvt.res, x.bbram.badRecs)) h
  simp only [Prod.mk.injEq] at e
  exact e

theorem Counted.writeView {s t : State} (h : Counted s t) : writeView t = writeView s := by
  have e := congrArg Machine.writeView (show _ = s from h)
  exact e

theorem fltU_armed {s t : State} {b : Blk} {n : Nat} (harm : (fltU s b n).armed = false) (h : t.flt = s.flt) :
    (fltU t b n).armed = false := by rw [fltU_congr h, harm]

/-- What a write of the generation table leaves. -/
theorem gensPut_leaves {s t : State} {p : BbStage → Bool} {g : Tbl GenEntry}
    (k : Counted (dropCuts p { s with bbram := { s.bbram with gens := g } }) t) :
    writeView t = writeView s ∧ t.bbram.gens = g ∧ t.bbram.journal = s.bbram.journal ∧ t.kvt.jseq = s.kvt.jseq ∧
      t.kvt.stops = s.kvt.stops :=
  ⟨k.writeView, congrArg Bbram.gens k.bbram, (congrArg Bbram.journal k.bbram).trans rfl, (congrArg Kvt.jseq k.kvt).trans rfl,
    (congrArg Kvt.stops k.kvt).trans rfl⟩

/-- What a write of the install journal leaves. -/
theorem slotsPut_leaves {s t : State} {p : BbStage → Bool} {j : Tbl JSlot}
    (k : Counted (dropCuts p { s with bbram := { s.bbram with journal := j } }) t) :
    writeView t = writeView s ∧ t.bbram.journal = j ∧ t.bbram.gens = s.bbram.gens :=
  ⟨k.writeView, congrArg Bbram.journal k.bbram, (congrArg Bbram.gens k.bbram).trans rfl⟩

/-- Writing a generation-table entry leaves the other entries and the journal. -/
theorem setGen_leaves {s : State} (harm : (fltU s .kvt 0).armed = false) (n : Nat) (e : GenEntry) :
    writeView (setGen n e s) = writeView s ∧ (∀ m, genE (setGen n e s) m = if m = n then e else genE s m) ∧
      (setGen n e s).bbram.journal = s.bbram.journal ∧ (setGen n e s).kvt.jseq = s.kvt.jseq ∧
      (setGen n e s).kvt.stops = s.kvt.stops := by
  have k := wordsOut_counted (s := dropCuts (fun x => x.gens.any (·.1 == n))
    { s with bbram := { s.bbram with gens := Tbl.set {} s.bbram.gens n e } }) (fltU_armed harm rfl) 1
  change Counted _ (setGen n e s) at k
  obtain ⟨hview, hgens, hrest⟩ := gensPut_leaves k
  refine ⟨hview, fun m => ?_, hrest⟩
  unfold genE
  rw [hgens]
  exact Tbl.get_set ..

/-- Writing a journal slot leaves the other slots and the generations. -/
theorem writeSlot_leaves {s : State} (harm : (fltU s .kvt 0).armed = false) (words n : Nat) (j : JSlot) :
    writeView (wordsOut words (setSlot n j s)) = writeView s ∧ slotU (wordsOut words (setSlot n j s)) n = j ∧
      (wordsOut words (setSlot n j s)).bbram.gens = s.bbram.gens := by
  have k := wordsOut_counted (s := setSlot n j s) (fltU_armed harm rfl) words
  obtain ⟨hview, hslots, hgens⟩ := slotsPut_leaves k
  refine ⟨hview, ?_, hgens⟩
  unfold slotU
  rw [hslots]
  exact Tbl.get_set_same ..

end Sys2Proof.Machine
end

section
/-! Broadcasts, resident records, KEY_COMMIT and KEY_ABANDON (R95, R96, R259, R260, R366). -/
namespace Sys2Proof.Machine
open Sys2Proof

theorem held_id {s : State} {id : Nat} {c : Cmd} (h : cmdHeld s id c) : id = c.id := h.2.1.symm

theorem held_cmd {s : State} {id : Nat} {c : Cmd} (h : cmdHeld s id c) : cmdU s c.id = some c := by
  obtain ⟨hcmd, rfl, -⟩ := h
  exact hcmd

/-! ### Broadcasts (R129, R264, R366) -/

/-- The state without the links, the Hub and what counting changes. -/
def castView (s : State) : State := { linkView s with hub := {} }

theorem castView_fields {s t : State} (h : castView t = castView s) : restView t = restView s ∧ t.kvt = s.kvt ∧
    t.bbram = s.bbram := by
  have e := congrArg (fun x : State => ({ x with kvt := {}, bbram := {} }, x.kvt, x.bbram)) h
  simp only [Prod.mk.injEq] at e
  exact e

theorem castView_sendTo (p ty txn : Nat) (m : Bytes) (s : State) : castView (sendTo p ty txn m s) = castView s := by
  unfold sendTo
  split
  · exact foldl_keeps castView _ (fun _ _ => congrArg (fun x : State => { x with hub := {} }) (linkView_passFrame ..)) _ _
  · rfl

theorem castView_castOthers (id : Nat) (x : Cast) (s : State) : castView (castOthers id x s) = castView s := by
  have htlk : ∀ (t : State) b, castView { t with tlk := b } = castView t := fun _ _ => rfl
  unfold castOthers
  refine ite_keeps castView rfl ?_
  rw [htlk]
  exact foldl_keeps castView _ (fun _ _ => castView_sendTo ..) _ s

theorem castView_markEngines (x : Cast) (s : State) : castView (markEngines x s) = castView s := by
  refine foldl_keeps castView _ (fun s n => ?_) _ s
  split
  · exact ite_keeps castView (ite_keeps castView rfl rfl) rfl
  · rfl

theorem castView_broadcast (id : Nat) (x : Cast) (s : State) : castView (broadcast id x s) = castView s :=
  (castView_castOthers ..).trans (castView_markEngines ..)

/-! ### The resident records -/

theorem resU_setResident (h : Nat) (r : Option Resident) (s : State) : resU (setResident h r s) h = r :=
  Tbl.get_set_same ..

theorem resU_congr {s t : State} (h : t.kvt = s.kvt) (n : Nat) : resU t n = resU s n := by rw [resU, resU, h]

theorem genE_congr {s t : State} (h : t.bbram = s.bbram) (n : Nat) : genE t n = genE s n := by rw [genE, genE, h]

/-! ### KEY_COMMIT (R95, R96, R214, R259, R260) -/

/-- The class entry that a first commit starts. -/
def startedEntry (r : Resident) (i : Nat) (s : State) : GenEntry :=
  { genE s r.entry with gen := (genE s r.entry).gen + 1, parentGen := (genE s i).gen, inst := i, st := 1 }

/-- Step 2 of R259: the class entry is written. -/
def commitGen (r : Resident) (i : Nat) (s : State) : State :=
  if r.install = 1 then setGen r.entry (startedEntry r i s) s else s

/-- The COMMIT record of a pending key. -/
def commitRecord (r : Resident) (k : KeyObj) (s : State) : JRec :=
  { kind := 2, install := r.install, version := k.version, handle := k.handle, cls := k.cls, entry := r.entry
    digest := (slotU s r.slot).pend.digest, jseq := (s.kvt.jseq + 1) % 2 ^ 24, valid := true }

/-- Its slot. -/
def committedSlot (r : Resident) (k : KeyObj) (s : State) : JSlot := { slotU s r.slot with commit := commitRecord r k s }

/-- The vault takes the next sequence number of the journal. -/
def nextJseq (s : State) : State := { s with kvt := { s.kvt with jseq := (s.kvt.jseq + 1) % 2 ^ 24 } }

/-- The write of the COMMIT record. -/
def commitSlot (r : Resident) (k : KeyObj) (s : State) : State :=
  wordsOut 4 (setSlot r.slot (committedSlot r k s) (nextJseq s))

/-- The counter record of a stateful key. -/
def commitCounter (r : Resident) (k : KeyObj) (claim : Option Nat) (s : State) : State :=
  match r.install, claim with
  | 3, some n => newRecord k n s
  | _, _ => s

/-- The vault's note of a commit: the pending key is current. -/
def commitResident (id h : Nat) (r : Resident) (cut : List BbStage) (s : State) : State :=
  let s := noteCut id cut s
  let s : State := { s with kvt := { s.kvt with
    claims := s.kvt.claims.filter (· != r.entry), cache := s.kvt.cache.filter (· != h) } }
  setResident h (some (committed id r)) s

theorem commitResident_leaves (id h : Nat) (r : Resident) (cut : List BbStage) (s : State) :
    restView (commitResident id h r cut s) = restView s ∧ resU (commitResident id h r cut s) h = some (committed id r) ∧
      (commitResident id h r cut s).bbram = s.bbram := ⟨rfl, resU_setResident .., rfl⟩

/-- The other devices learn of a replacement. -/
def castOld (id : Nat) (r : Resident) (s : State) : State :=
  match r.cur with
  | some o => castOthers id (castKey o.tag) s
  | none => s

/-- The work of a commit, in the order of its writes. -/
def commitWork (id h : Nat) (r : Resident) (k : KeyObj) (s : State) : State :=
  castOld id r (commitResident id h r (commitStages r (recClaim s) s)
    (commitCounter r k (recClaim s) (commitSlot r k (commitGen r (hInst h) s))))

theorem exec_keyCommit {s : State} {id : Nat} {c : Cmd} (h : cmdHeld s id c) (harm : (fltU s .kvt 0).armed = false)
    (hop : cmdOp c = .key 0x0504) {r : Resident} {k : KeyObj} (hr : resU s (pKey c.pkt) = some r) (hk : r.pend = some k)
    (hfault : parentFault s k = false) (hholds : parentHolds s k = true) (hclaim : r.install = 3 → (recClaim s).isNone = false) :
    exec (.keyCommit id) s = .next (endWith c stsOk (commitWork c.id (pKey c.pkt) r k s)) := by
  have hexec : exec (.keyCommit id) s = execKeyCommit id s := rfl
  have hroom : ¬ (r.install = 3 ∧ (recClaim s).isNone = true) := fun ⟨h3, hn⟩ => by
    rw [hclaim h3] at hn
    cases hn
  rw [hexec, execKeyCommit, withRow_unarmed h harm (by rw [hop]; rfl)]
  simp only [hr, hk, hfault, hholds, hroom, Bool.false_eq_true, not_true_eq_false, if_false]
  rfl

/-- A key with nothing pending has nothing to commit. -/
theorem exec_keyCommit_idle {s : State} {id : Nat} {c : Cmd} (h : cmdHeld s id c) (harm : (fltU s .kvt 0).armed = false)
    (hop : cmdOp c = .key 0x0504) (hnone : (resU s (pKey c.pkt)).bind (·.pend) = none) :
    exec (.keyCommit id) s = .next (endWith c stsBadParameter s) := by
  have hexec : exec (.keyCommit id) s = execKeyCommit id s := rfl
  rw [hexec, execKeyCommit, withRow_unarmed h harm (by rw [hop]; rfl)]
  cases hr : resU s (pKey c.pkt) with
  | none => simp only [hr]
  | some r =>
    rw [hr] at hnone
    simp only [hr, show r.pend = none from hnone]

theorem commitGen_leaves {s : State} (harm : (fltU s .kvt 0).armed = false) (r : Resident) (i : Nat) :
    writeView (commitGen r i s) = writeView s ∧ (commitGen r i s).bbram.journal = s.bbram.journal ∧
      (commitGen r i s).kvt.jseq = s.kvt.jseq ∧
      (r.install = 1 → (genE (commitGen r i s) r.entry).gen = (genE s r.entry).gen + 1 ∧
        (genE (commitGen r i s) r.entry).st = 1) ∧
      (r.install ≠ 1 → (commitGen r i s).bbram.gens = s.bbram.gens) := by
  unfold commitGen
  split
  next hnew =>
    obtain ⟨hview, hgens, hjournal, hjseq, -⟩ := setGen_leaves harm r.entry (startedEntry r i s)
    refine ⟨hview, hjournal, hjseq, fun _ => ?_, fun hold => absurd hnew hold⟩
    rw [hgens, if_pos rfl]
    exact ⟨rfl, rfl⟩
  next hold => exact ⟨rfl, rfl, rfl, fun hnew => absurd hnew hold, fun _ => rfl⟩

theorem nextJseq_leaves (s : State) : writeView (nextJseq s) = writeView s ∧ (nextJseq s).flt = s.flt ∧
    (nextJseq s).bbram = s.bbram := by
  have h : ∀ q, writeView { s with kvt := { s.kvt with jseq := q } } = writeView s := fun _ => rfl
  exact ⟨h _, rfl, rfl⟩

theorem commitSlot_leaves {s : State} (harm : (fltU s .kvt 0).armed = false) (r : Resident) (k : KeyObj) :
    writeView (commitSlot r k s) = writeView s ∧ slotU (commitSlot r k s) r.slot = committedSlot r k s ∧
      (commitSlot r k s).bbram.gens = s.bbram.gens := by
  obtain ⟨hview, hflt, hbbram⟩ := nextJseq_leaves s
  obtain ⟨hview', hslot, hgens⟩ := writeSlot_leaves (fltU_armed harm hflt) 4 r.slot (committedSlot r k s)
  rw [hbbram] at hgens
  unfold commitSlot
  exact ⟨hview'.trans hview, hslot, hgens⟩

theorem recView_commitCounter {s : State} (harm : (fltU s .kvt 0).armed = false) {r : Resident} {claim : Option Nat}
    (hgood : ∀ n, r.install = 3 → claim = some n → n ∉ s.bbram.badRecs) (k : KeyObj) :
    recView (commitCounter r k claim s) = recView s := by
  unfold commitCounter
  split
  next n h3 => exact recView_startRec harm (hgood n h3 rfl) ..
  next => rfl

theorem castView_castOld (id : Nat) (r : Resident) (s : State) : castView (castOld id r s) = castView s := by
  unfold castOld
  split
  · exact castView_castOthers ..
  · rfl

/-- A commit makes the pending key current and writes the COMMIT record, and the class entry of a first commit. -/
theorem commitWork_leaves {s : State} (harm : (fltU s .kvt 0).armed = false) {r : Resident}
    (hgood : ∀ n, r.install = 3 → recClaim s = some n → n ∉ s.bbram.badRecs) (id h : Nat) (k : KeyObj) :
    restView (commitWork id h r k s) = restView s ∧ resU (commitWork id h r k s) h = some (committed id r) ∧
      slotU (commitWork id h r k s) r.slot = committedSlot r k s ∧
      (r.install = 1 → (genE (commitWork id h r k s) r.entry).gen = (genE s r.entry).gen + 1 ∧
        (genE (commitWork id h r k s) r.entry).st = 1) ∧
      (r.install ≠ 1 → (commitWork id h r k s).bbram.gens = s.bbram.gens) := by
  obtain ⟨hview1, hjournal1, hjseq1, hnew, hold⟩ := commitGen_leaves harm r (hInst h)
  obtain ⟨hrest1, -, hbad1⟩ := writeView_fields hview1
  obtain ⟨-, -, -, -, -, hflt1, -⟩ := restView_fields hrest1
  obtain ⟨hview2, hslot2, hgens2⟩ := commitSlot_leaves (fltU_armed harm hflt1) r k
  obtain ⟨hrest2, -, hbad2⟩ := writeView_fields hview2
  obtain ⟨-, -, -, -, -, hflt2, -⟩ := restView_fields hrest2
  have hrec := recView_commitCounter (r := r) (fltU_armed harm (hflt2.trans hflt1)) (claim := recClaim s)
    (fun n h3 hn => by
      rw [hbad2, hbad1]
      exact hgood n h3 hn) k
  obtain ⟨hrest3, -, -, -, -, -, hgens3, hjournal3, -⟩ := recView_fields hrec
  obtain ⟨hrest4, hres4, hbbram4⟩ := commitResident_leaves id h r (commitStages r (recClaim s) s)
    (commitCounter r k (recClaim s) (commitSlot r k (commitGen r (hInst h) s)))
  obtain ⟨hrest5, hkvt5, hbbram5⟩ := castView_fields (castView_castOld id r (commitResident id h r
    (commitStages r (recClaim s) s) (commitCounter r k (recClaim s) (commitSlot r k (commitGen r (hInst h) s)))))
  have hgens : (commitWork id h r k s).bbram.gens = (commitGen r (hInst h) s).bbram.gens :=
    (congrArg Bbram.gens (hbbram5.trans hbbram4)).trans (hgens3.trans hgens2)
  have hjournal : (commitWork id h r k s).bbram.journal = (commitSlot r k (commitGen r (hInst h) s)).bbram.journal :=
    (congrArg Bbram.journal (hbbram5.trans hbbram4)).trans hjournal3
  have hslot1 : slotU (commitGen r (hInst h) s) r.slot = slotU s r.slot := by rw [slotU, slotU, hjournal1]
  refine ⟨hrest5.trans (hrest4.trans (hrest3.trans (hrest2.trans hrest1))), (resU_congr hkvt5 h).trans hres4, ?_,
    fun h1 => ?_, fun h1 => hgens.trans (hold h1)⟩
  · rw [slotU, hjournal, ← slotU, hslot2, committedSlot, committedSlot, commitRecord, commitRecord, hslot1, hjseq1]
  · rw [genE, hgens, ← genE]
    exact hnew h1

theorem keyCommit_commits {s : State} {id : Nat} {c : Cmd} (h : cmdHeld s id c) (harm : (fltU s .kvt 0).armed = false)
    (hop : cmdOp c = .key 0x0504) {r : Resident} {k : KeyObj} (hr : resU s (pKey c.pkt) = some r) (hk : r.pend = some k)
    (hfault : parentFault s k = false) (hholds : parentHolds s k = true)
    (hclaim : r.install = 3 → ∃ n, recClaim s = some n ∧ n ∉ s.bbram.badRecs) :
    ∃ t, exec (.keyCommit id) s = .next t ∧ concluded s t c (justStatus stsOk) ∧ t.host.mem = s.host.mem ∧
      resU t (pKey c.pkt) = some (committed id r) ∧
      slotU t r.slot = committedSlot r k s ∧
      (r.install = 1 → (genE t r.entry).gen = (genE s r.entry).gen + 1 ∧ (genE t r.entry).st = 1) ∧
      (r.install ≠ 1 → t.bbram.gens = s.bbram.gens) ∧ t.lcs = s.lcs ∧ t.ent = s.ent := by
  have hcmd := held_cmd h
  obtain rfl := held_id h
  obtain ⟨hrest, hres, hslot, hnew, hold⟩ := commitWork_leaves harm (r := r) (fun n h3 hn => by
    obtain ⟨m, hm, hgood⟩ := hclaim h3
    rw [hm] at hn
    exact Option.some.inj hn ▸ hgood) c.id (pKey c.pkt) k
  obtain ⟨hend, hmem, hview⟩ := ((Going.refl hcmd).rest hrest).endWith stsOk
  obtain ⟨-, -, -, -, -, -, hkvt, hbbram, -, -, -, hlcs, -⟩ := rowView_frame hview
  obtain ⟨-, -, -, hent, -⟩ := rowView_units hview
  obtain ⟨-, -, -, -, -, -, hlcs', hent'⟩ := restView_fields hrest
  refine ⟨_, exec_keyCommit h harm hop hr hk hfault hholds fun h3 => ?_, hend, hmem, (resU_congr hkvt _).trans hres, ?_,
    fun h1 => ?_, fun h1 => (congrArg Bbram.gens hbbram).trans (hold h1), hlcs.trans hlcs', hent.trans hent'⟩
  · obtain ⟨m, hm, -⟩ := hclaim h3
    rw [hm]
    rfl
  · rw [slotU, hbbram, ← slotU, hslot]
  · rw [genE_congr hbbram]
    exact hnew h1

/-! ### KEY_ABANDON (R95, R259) -/

/-- The vault's note that a pending key is gone. -/
def dropResident (id h : Nat) (r : Resident) (cut : List BbStage) (s : State) : State :=
  let s := noteCut id cut s
  let s : State := { s with kvt := { s.kvt with claims := s.kvt.claims.filter (· != r.entry) } }
  setResident h (tidyRes { r with pend := none }) s

theorem dropResident_leaves (id h : Nat) (r : Resident) (cut : List BbStage) (s : State) :
    restView (dropResident id h r cut s) = restView s ∧ resU (dropResident id h r cut s) h = tidyRes { r with pend := none } ∧
      (dropResident id h r cut s).bbram = s.bbram := ⟨rfl, resU_setResident .., rfl⟩

/-- The slot of an install that is dropped: kind 3 in its PENDING record. -/
def droppedSlot (n : Nat) (s : State) : JSlot := { slotU s n with pend := { (slotU s n).pend with kind := 3 } }

theorem dropPending_eq {s : State} {id h : Nat} {r : Resident} (hr : resU s h = some r) :
    dropPending id h s = dropResident id h r
      [{ slots := [(r.slot, slotU s r.slot)] }, { slots := [(r.slot, { slotU s r.slot with pend := {} })] }]
      (wordsOut 1 (setSlot r.slot (droppedSlot r.slot s) s)) := by
  unfold dropPending droppedSlot dropResident
  rw [hr]

/-- Dropping a pending key leaves the current one, and the generations. -/
theorem dropPending_leaves {s : State} (harm : (fltU s .kvt 0).armed = false) {id h : Nat} {r : Resident} (hr : resU s h = some r) :
    restView (dropPending id h s) = restView s ∧ resU (dropPending id h s) h = tidyRes { r with pend := none } ∧
      (dropPending id h s).bbram.gens = s.bbram.gens := by
  obtain ⟨hview, -, hgens⟩ := writeSlot_leaves harm 1 r.slot (droppedSlot r.slot s)
  rw [dropPending_eq hr]
  generalize wordsOut 1 (setSlot r.slot (droppedSlot r.slot s) s) = t at hview hgens
  obtain ⟨hrest, hres, hbbram⟩ := dropResident_leaves id h r
    [{ slots := [(r.slot, slotU s r.slot)] }, { slots := [(r.slot, { slotU s r.slot with pend := {} })] }] t
  exact ⟨hrest.trans (writeView_fields hview).1, hres, (congrArg Bbram.gens hbbram).trans hgens⟩

theorem keyAbandon_abandons {s : State} {id : Nat} {c : Cmd} (h : cmdHeld s id c) (harm : (fltU s .kvt 0).armed = false)
    (hop : cmdOp c = .key 0x0505) {r : Resident} {k : KeyObj} (hr : resU s (pKey c.pkt) = some r) (hk : r.pend = some k) :
    ∃ t, exec (.keyAbandon id) s = .next t ∧ concluded s t c (justStatus stsOk) ∧
      resU t (pKey c.pkt) = tidyRes { r with pend := none } ∧ t.host.mem = s.host.mem ∧ t.bbram.gens = s.bbram.gens := by
  have hcmd := held_cmd h
  obtain ⟨hrest, hres, hgens⟩ := dropPending_leaves harm (id := c.id) hr
  obtain ⟨hend, hmem, hview⟩ := ((Going.refl hcmd).rest hrest).endWith stsOk
  obtain ⟨-, -, -, -, -, -, hkvt, hbbram, -⟩ := rowView_frame hview
  have hexec : exec (.keyAbandon id) s = execKeyAbandon id s := rfl
  refine ⟨_, ?_, hend, (resU_congr hkvt _).trans hres, hmem, (congrArg Bbram.gens hbbram).trans hgens⟩
  rw [hexec, execKeyAbandon, withRow_unarmed h harm (by rw [hop]; rfl)]
  simp only [hr, hk, Option.bind_some, Option.isSome_some, if_true]

theorem exec_keyAbandon_idle {s : State} {id : Nat} {c : Cmd} (h : cmdHeld s id c) (harm : (fltU s .kvt 0).armed = false)
    (hop : cmdOp c = .key 0x0505) (hnone : (resU s (pKey c.pkt)).bind (·.pend) = none) :
    exec (.keyAbandon id) s = .next (endWith c stsBadParameter s) := by
  have hexec : exec (.keyAbandon id) s = execKeyAbandon id s := rfl
  rw [hexec, execKeyAbandon, withRow_unarmed h harm (by rw [hop]; rfl)]
  simp only [hnone, Option.isSome_none, Bool.false_eq_true, if_false]

end Sys2Proof.Machine
end

section
/-! KEY_LOAD, KEY_EVICT and KEY_INVALIDATE (R97, R98, R254, R262, R263). -/
namespace Sys2Proof.Machine
open Sys2Proof

/-! ### KEY_LOAD (R98, R254) -/

theorem loadNote_onward {s t : State} {c : Cmd} {i : Nat} {q : Bool} (h : Onward (loadNote i q s) t c) :
    Going s t c ∧ sameHub s t c ∧ t.kvt.res = s.kvt.res ∧ t.bbram = s.bbram ∧ t.flt = s.flt := by
  obtain ⟨hcmd, hothers, hmem, hhosts, hinst⟩ := h.going
  obtain ⟨-, -, -, -, -, -, hkvt, hbbram, -, -, -, -, -, -, hflt, -⟩ := rowView_frame h.view
  exact ⟨⟨hcmd, hothers, hmem, hhosts, hinst⟩, h.hub, (congrArg Kvt.res hkvt).trans rfl, hbbram, hflt⟩

/-- A blob that its header refuses ends the load. -/
theorem exec_keyLoad_refused {s s1 : State} {id st : Nat} {c : Cmd} {b : Bytes} (h : cmdHeld s id c)
    (harm : (fltU s .kvt 0).armed = false) (hop : cmdOp c = .key 0x0506)
    (hread : readIn c (loadNote (cmdInst c) false s) = some (b, s1)) (hst : blobRefused s1 (cmdInst c) b = some st) :
    exec (.keyLoad id) s = .next (endWith c st s1) := by
  have hexec : exec (.keyLoad id) s = execKeyLoad id s := rfl
  rw [hexec, execKeyLoad, withRow_unarmed h harm (by rw [hop]; rfl)]
  simp only [withIn, hread, hst]

/-- A key that is not resident yet and fits the quota is put beside what the handle has. -/
theorem exec_keyLoad_loads {s s1 : State} {id : Nat} {c d : Cmd} {b : Bytes} {k : KeyObj} (h : cmdHeld s id c)
    (harm : (fltU s .kvt 0).armed = false) (hop : cmdOp c = .key 0x0506)
    (hread : readIn c (loadNote (cmdInst c) false s) = some (b, s1)) (hpass : blobRefused s1 (cmdInst c) b = none)
    (hflt : s1.flt = s.flt) (htmp : (fltU s .tmp 0).armed = false) (hd : cmdU s1 c.id = some d) (hid : d.id = c.id)
    (hinst : cmdInst d = cmdInst c) (hk : loadBlob b s1 = .inr k) (hcur : (resU s1 k.handle).bind (·.cur) = none)
    (hfits : quotaFits s1 (cmdInst c) k = true) :
    exec (.keyLoad id) s = .next (endOut d (leBytes 8 k.handle) (blkEvent .kvt 0x12 1 (putLoaded d k s1))) := by
  have hblob : blobRead d b s1 = s1 := by
    unfold blobRead
    split
    · exact access_unarmed _ _ _ _ _ _ _ _ _ (fltU_armed htmp hflt)
    · rfl
  have hexec : exec (.keyLoad id) s = execKeyLoad id s := rfl
  rw [hexec, execKeyLoad, withRow_unarmed h harm (by rw [hop]; rfl)]
  simp only [withIn, hread, hpass]
  rw [withCheck_unarmed _ (fltU_armed htmp hflt) hd, hblob, withCheck_unarmed _ (fltU_armed harm hflt) (hid ▸ hd)]
  simp only [hk, hcur, hinst, hfits, not_true_eq_false, if_false]

/-- A resident record with a loaded key. -/
def loadedRecord (r : Option Resident) (k : KeyObj) : Resident := { r.getD {} with cur := some k }

theorem putLoaded_new {s : State} {k : KeyObj} (hcur : (resU s k.handle).bind (·.cur) = none) (c : Cmd) :
    putLoaded c k s = setResident k.handle (some (loadedRecord (resU s k.handle) k)) s := by
  unfold putLoaded loadedRecord
  cases hr : resU s k.handle with
  | none => rfl
  | some r =>
    rw [hr] at hcur
    simp only [Option.getD_some, show r.cur = none from hcur]

theorem keyLoad_loads {s s1 : State} {id : Nat} {c : Cmd} {b : Bytes} {k : KeyObj} (h : cmdHeld s id c)
    (harm : (fltU s .kvt 0).armed = false) (hop : cmdOp c = .key 0x0506)
    (hread : readIn c (loadNote (cmdInst c) false s) = some (b, s1)) (hpass : blobRefused s1 (cmdInst c) b = none)
    (htmp : (fltU s .tmp 0).armed = false) (hk : loadBlob b s1 = .inr k) (hcur : (resU s1 k.handle).bind (·.cur) = none)
    (hfits : quotaFits s1 (cmdInst c) k = true) (hout : canAccess s c (pOutA c.pkt) 8) :
    ∃ t, exec (.keyLoad id) s = .next t ∧ delivered s t c (leBytes 8 k.handle) ∧
      resU t k.handle = some (loadedRecord (resU s k.handle) k) ∧ t.bbram = s.bbram ∧ sameHub s t c := by
  have hcmd : cmdU (loadNote (cmdInst c) false s) c.id = some c := held_cmd h
  obtain ⟨hgoing, hhub, hres, hbbram, hflt⟩ := loadNote_onward (readIn_onward hcmd hread)
  obtain ⟨i, hi⟩ := hgoing.cmd
  have hsame : resU s1 k.handle = resU s k.handle := by rw [resU, resU, hres]
  have hput : restView (setResident k.handle (some (loadedRecord (resU s k.handle) k)) s1) = restView s1 := rfl
  have kev := blkEvent_counted .kvt 0x12 1 (setResident k.handle (some (loadedRecord (resU s k.handle) k)) s1)
  have hgo := (hgoing.rest hput).rest kev.restView
  obtain ⟨hdel, hview, hhub'⟩ := hgo.endOut (held_unlogged h) (b := leBytes 8 k.handle)
    (by rw [length_leBytes]; exact hout)
  obtain ⟨-, -, -, -, -, -, hkvt, hbbram', -⟩ := rowView_frame hview
  refine ⟨_, (exec_keyLoad_loads h harm hop hread hpass hflt htmp hi rfl rfl hk hcur hfits).trans ?_, hdel, ?_, ?_, ?_⟩
  · rw [putLoaded_new hcur, hsame, endOut_congr (d := { c with input := i }) (c := c) rfl rfl rfl hgo.running]
  · rw [resU_congr (hkvt.trans kev.kvt), resU_setResident]
  · exact (hbbram'.trans kev.bbram).trans hbbram
  · unfold sameHub
    rw [hhub'.trans kev.hub]
    exact hhub

/-! ### KEY_EVICT (R98, R262) -/

/-- The vault's note that the current key of a handle has left the Pannier store. -/
def evictResident (h : Nat) (r : Resident) (s : State) : State :=
  let s := setResident h (tidyRes { r with cur := none, old := [] }) s
  { s with kvt := { s.kvt with trees := Tbl.set 0 s.kvt.trees h 0, cache := s.kvt.cache.filter (· != h) } }

theorem evictResident_leaves (h : Nat) (r : Resident) (s : State) : restView (evictResident h r s) = restView s ∧
    resU (evictResident h r s) h = tidyRes { r with cur := none, old := [] } ∧
    (evictResident h r s).kvt.grants = s.kvt.grants ∧ (evictResident h r s).bbram = s.bbram :=
  ⟨rfl, resU_setResident .., rfl, rfl⟩

theorem keyEvict_evicts {s : State} {id : Nat} {c : Cmd} {r : Resident} (h : cmdHeld s id c)
    (harm : (fltU s .kvt 0).armed = false) (hop : cmdOp c = .key 0x0507) (hr : resU s (pKey c.pkt) = some r) :
    ∃ t, exec (.keyEvict id) s = .next t ∧ concluded s t c (justStatus stsOk) ∧
      resU t (pKey c.pkt) = tidyRes { r with cur := none, old := [] } ∧ t.kvt.grants = s.kvt.grants ∧ t.bbram = s.bbram ∧
      t.host.mem = s.host.mem := by
  obtain ⟨hrest, hres, hgrants, hbbram⟩ := evictResident_leaves (pKey c.pkt) r s
  obtain ⟨hrest', hkvt', hbbram'⟩ := castView_fields (castView_broadcast c.id (castKey (keyOf c).tag)
    (evictResident (pKey c.pkt) r s))
  obtain ⟨hend, hmem, hview⟩ := ((Going.refl (held_cmd h)).rest (hrest'.trans hrest)).endWith stsOk
  obtain ⟨-, -, -, -, -, -, hkvt'', hbbram'', -⟩ := rowView_frame hview
  have hkvt := hkvt''.trans hkvt'
  have hexec : exec (.keyEvict id) s = execKeyEvict id s := rfl
  refine ⟨_, ?_, hend, (resU_congr hkvt _).trans hres, (congrArg Kvt.grants hkvt).trans hgrants,
    hbbram''.trans (hbbram'.trans hbbram), hmem⟩
  rw [hexec, execKeyEvict, withRow_unarmed h harm (by rw [hop]; rfl)]
  simp only [hr]
  rfl

/-! ### KEY_INVALIDATE (R97, R263) -/

/-- The generation entry that KEY_INVALIDATE raises. -/
def namedEntry (s : State) (c : Cmd) : Nat :=
  if hLevel (pKey c.pkt) = 1 then hInst (pKey c.pkt) else entryOf s (hInst (pKey c.pkt)) (hIndex (pKey c.pkt))

/-- Its lineage. -/
def namedCast (c : Cmd) (g : Nat) : Cast :=
  if hLevel (pKey c.pkt) = 1 then castDomain (hInst (pKey c.pkt)) g
  else castClass (hInst (pKey c.pkt)) (hIndex (pKey c.pkt)) g

/-- An entry at the next generation. -/
def raisedEntry (n : Nat) (s : State) : GenEntry := { genE s n with gen := (genE s n).gen + 1 }

/-- Commands that may use the lineage stop until the reply, and the instance is swept (R263, R264). -/
def stopsNoted (id i : Nat) (s : State) : State :=
  { s with kvt := { s.kvt with stops := id :: s.kvt.stops, sweep := i :: s.kvt.sweep.filter (· != i) } }

/-- The work of an invalidation, in the order of R263. -/
def invalidated (c : Cmd) (n : Nat) (s : State) : State :=
  endGrants (dropCache (namedCast c (genE s n).gen) (broadcast c.id (namedCast c (genE s n).gen)
    (setGen n (raisedEntry n s) (stopsNoted c.id (hInst (pKey c.pkt)) s))))

/-- The vault's caches and grants are all that ends with a lineage's broadcast. -/
theorem endGrants_leaves (x : Cast) (s : State) : restView (endGrants (dropCache x s)) = restView s ∧
    (endGrants (dropCache x s)).kvt.stops = s.kvt.stops ∧ (endGrants (dropCache x s)).kvt.res = s.kvt.res ∧
    (endGrants (dropCache x s)).bbram = s.bbram := ⟨rfl, rfl, rfl, rfl⟩

theorem stopsNoted_leaves (id i : Nat) (s : State) : restView (stopsNoted id i s) = restView s ∧
    (stopsNoted id i s).kvt.stops = id :: s.kvt.stops ∧ (stopsNoted id i s).kvt.res = s.kvt.res ∧
    (stopsNoted id i s).bbram = s.bbram ∧ (stopsNoted id i s).flt = s.flt := ⟨rfl, rfl, rfl, rfl, rfl⟩

theorem invalidated_leaves {s : State} (harm : (fltU s .kvt 0).armed = false) (c : Cmd) (n : Nat) :
    restView (invalidated c n s) = restView s ∧ (invalidated c n s).kvt.stops = c.id :: s.kvt.stops ∧
      (invalidated c n s).kvt.res = s.kvt.res ∧
      ∀ m, genE (invalidated c n s) m = if m = n then raisedEntry n s else genE s m := by
  obtain ⟨hrest1, hstops1, hres1, hbbram1, hflt1⟩ := stopsNoted_leaves c.id (hInst (pKey c.pkt)) s
  obtain ⟨hview2, hgens2, -, -, hstops2⟩ := setGen_leaves (fltU_armed harm hflt1) n (raisedEntry n s)
  obtain ⟨hrest2, hres2, -⟩ := writeView_fields hview2
  obtain ⟨hrest3, hkvt3, hbbram3⟩ := castView_fields (castView_broadcast c.id (namedCast c (genE s n).gen)
    (setGen n (raisedEntry n s) (stopsNoted c.id (hInst (pKey c.pkt)) s)))
  obtain ⟨hrest4, hstops4, hres4, hbbram4⟩ := endGrants_leaves (namedCast c (genE s n).gen) (broadcast c.id
    (namedCast c (genE s n).gen) (setGen n (raisedEntry n s) (stopsNoted c.id (hInst (pKey c.pkt)) s)))
  unfold invalidated
  rw [hkvt3] at hstops4 hres4
  refine ⟨hrest4.trans (hrest3.trans (hrest2.trans hrest1)), hstops4.trans (hstops2.trans hstops1),
    hres4.trans (hres2.trans hres1), fun m => ?_⟩
  rw [genE_congr (hbbram4.trans hbbram3), hgens2, genE_congr hbbram1]

theorem exec_keyInvalidate {s : State} {id : Nat} {c : Cmd} (h : cmdHeld s id c) (harm : (fltU s .kvt 0).armed = false)
    (hop : cmdOp c = .key 0x0508) (hread : (genE s (namedEntry s c)).unreadable = false) :
    exec (.keyInvalidate id) s = .next (if (genE s (namedEntry s c)).gen = 0xFFFF then quotaEnd c s
      else endOut c (leBytes 2 ((genE s (namedEntry s c)).gen + 1)) (invalidated c (namedEntry s c) s)) := by
  have hexec : exec (.keyInvalidate id) s = execKeyInvalidate id s := rfl
  have hread' : (genE s (if hLevel (pKey c.pkt) = 1 then hInst (pKey c.pkt)
      else entryOf s (hInst (pKey c.pkt)) (hIndex (pKey c.pkt)))).unreadable = false := hread
  rw [hexec, execKeyInvalidate, withRow_unarmed h harm (by rw [hop]; rfl)]
  simp only [hread', Bool.false_eq_true, if_false, invalidated, namedEntry, namedCast, raisedEntry, stopsNoted]

theorem keyInvalidate_raises {s : State} {id : Nat} {c : Cmd} (h : cmdHeld s id c) (harm : (fltU s .kvt 0).armed = false)
    (hop : cmdOp c = .key 0x0508) (hread : (genE s (namedEntry s c)).unreadable = false)
    (hlow : (genE s (namedEntry s c)).gen ≠ 0xFFFF) (hout : canAccess s c (pOutA c.pkt) 2) :
    ∃ t, exec (.keyInvalidate id) s = .next t ∧ delivered s t c (leBytes 2 ((genE s (namedEntry s c)).gen + 1)) ∧
      (∀ m, genE t m = if m = namedEntry s c then raisedEntry (namedEntry s c) s else genE s m) ∧
      t.kvt.stops = c.id :: s.kvt.stops ∧ t.kvt.res = s.kvt.res := by
  obtain ⟨hrest, hstops, hres, hgens⟩ := invalidated_leaves harm c (namedEntry s c)
  obtain ⟨hdel, hview, -⟩ := ((Going.refl (held_cmd h)).rest hrest).endOut (held_unlogged h)
    (b := leBytes 2 ((genE s (namedEntry s c)).gen + 1)) (by rw [length_leBytes]; exact hout)
  obtain ⟨-, -, -, -, -, -, hkvt, hbbram, -⟩ := rowView_frame hview
  refine ⟨_, (exec_keyInvalidate h harm hop hread).trans (by rw [if_neg hlow]), hdel, fun m => ?_,
    (congrArg Kvt.stops hkvt).trans hstops, (congrArg Kvt.res hkvt).trans hres⟩
  rw [genE_congr hbbram]
  exact hgens m

end Sys2Proof.Machine
end

section
/-! KEY_EXPORT, KEY_PUBLIC, KEY_INFO and KEY_SHARE (R99, R265), and the statement on the key-management rows. -/
namespace Sys2Proof.Machine
open Sys2Proof

/-! ### KEY_EXPORT (R265) -/

/-- The export under an encapsulated key, from 44 drawn bytes: ciphertext, IV, wrapped record, tag. -/
def exportedBytes (c : Cmd) (body d : Bytes) : Bytes :=
  let t := c.key2.getD {}
  let z := kemEncaps (clsSet t.cls) t.pub (d.take 32)
  let g := gcmEnc (fit 32 z.2) (d.drop 32) (leBytes 2 (keyOf c).cls)
    (exportRec (keyOf c).cls (exportMaterial (keyOf c) body))
  fit ((kemSet (clsSet t.cls)).getD (0, 0, 0)).2.1 z.1 ++ d.drop 32 ++ g.1 ++ g.2

theorem exec_keyExport {s : State} {id : Nat} {c : Cmd} (h : cmdHeld s id c) (harm : (fltU s .kvt 0).armed = false)
    (hop : cmdOp c = .key 0x0509) {body : Bytes} (hbody : bodyOf c = some body) :
    exec (.keyExport id) s = .next (if (c.key2.getD {}).cls = 0x3620 then
        endOut c (kwpWrap (c.key2.getD {}).secret (exportRec (keyOf c).cls (exportMaterial (keyOf c) body))) s
      else withDraw c 44 s s (fun d s => endOut c (exportedBytes c body d) s)) := by
  have hexec : exec (.keyExport id) s = execKeyExport id s := rfl
  unfold bodyOf at hbody
  rw [hexec, execKeyExport, withRow_unarmed h harm (by rw [hop]; rfl)]
  simp only [hbody]
  rfl

/-- With a DRBG that can generate, the export draws 44 bytes and delivers. -/
theorem keyExport_encapsulates {s : State} {id : Nat} {c : Cmd} (h : cmdHeld s id c) (harm : (fltU s .kvt 0).armed = false)
    (hop : cmdOp c = .key 0x0509) {body : Bytes} (hbody : bodyOf c = some body) (hcls : (c.key2.getD {}).cls ≠ 0x3620)
    (hunit : drawUnit s ≠ none) : ∃ t d, exec (.keyExport id) s = .next t ∧ d.length = 44 ∧
      (canAccess s c (pOutA c.pkt) (exportedBytes c body d).length →
        delivered s t (drew s c) (exportedBytes c body d) ∧ dataFrame s t) := by
  obtain ⟨x, hdraw, hlen, hgo, hview, -⟩ := draw_going (held_cmd h) hunit 44
  refine ⟨endOut c (exportedBytes c body x.1) x.2, x.1, ?_, hlen, fun hout => draw_delivers hgo hview (held_unlogged h) hout⟩
  rw [exec_keyExport h harm hop hbody, if_neg hcls, withDraw, hdraw]

/-! ### KEY_INFO (R99, Table 4-4) -/

/-- The pending state that KEY_INFO reports: 0 none, 1 a first key pending, 2 a replacement pending. -/
def pendCode (r : Option Resident) : Nat :=
  if (r.bind (·.pend)).isNone then 0 else if (r.bind (·.cur)).isSome then 2 else 1

/-- The fields of KEY_INFO (Table 4-4). -/
def infoFields (s : State) (k : KeyObj) : List Bytes :=
  [leBytes 8 k.handle, leBytes 2 k.cls, leBytes 1 k.level, leBytes 1 k.attr, leBytes 1 (pendCode (resU s k.handle)),
    leBytes 1 (b2n ((resU s k.handle).bind (·.cur)).isSome), leBytes 2 (parentGenNow s k), leBytes 8 (infoTag s k),
    leBytes 8 (grantsOf s k.handle).length]

/-- Its 32 bytes. -/
def infoBytes (s : State) (k : KeyObj) : Bytes := (infoFields s k).flatten

theorem exec_keyInfo {s : State} {id : Nat} {c : Cmd} (h : cmdHeld s id c) (harm : (fltU s .kvt 0).armed = false)
    (hop : cmdOp c = .key 0x050B) (hplain : (keyOf c).stateful = false) :
    exec (.keyInfo id) s = .next (endOut c (infoBytes s (keyOf c)) s) := by
  have hexec : exec (.keyInfo id) s = execKeyInfo id s := rfl
  rw [hexec, execKeyInfo, withRow_unarmed h harm (by rw [hop]; rfl)]
  simp only [hplain, Bool.false_eq_true, false_and, if_false, infoBytes, infoFields, pendCode, List.flatten_cons,
    List.flatten_nil, List.append_nil, List.append_assoc]
  cases resU s (keyOf c).handle <;> rfl

theorem length_infoBytes (s : State) (k : KeyObj) : (infoBytes s k).length = 32 := by
  simp [infoBytes, infoFields, length_leBytes]

/-- A field of a record stands after those before it. -/
theorem slice_flatten (l : List Bytes) (i : Nat) (hi : i < l.length) :
    slice l.flatten (l.take i).flatten.length l[i].length = l[i] := by
  have hsplit : l.flatten = (l.take i).flatten ++ l[i] ++ (l.drop (i + 1)).flatten := by
    rw [List.append_assoc, ← List.flatten_cons, List.getElem_cons_drop, ← List.flatten_append, List.take_append_drop]
  have hdrop : l.flatten.drop (l.take i).flatten.length = l[i] ++ (l.drop (i + 1)).flatten := by
    rw [hsplit, List.append_assoc, List.drop_left]
  rw [slice, hdrop, fit, List.append_assoc, List.take_left]

/-- Each field of KEY_INFO at its offset. -/
theorem infoBytes_fields (s : State) (k : KeyObj) : (infoBytes s k).take 8 = leBytes 8 k.handle ∧
    slice (infoBytes s k) 8 2 = leBytes 2 k.cls ∧ slice (infoBytes s k) 10 1 = leBytes 1 k.level ∧
    slice (infoBytes s k) 11 1 = leBytes 1 k.attr ∧ slice (infoBytes s k) 12 1 = leBytes 1 (pendCode (resU s k.handle)) ∧
    slice (infoBytes s k) 13 1 = leBytes 1 (b2n ((resU s k.handle).bind (·.cur)).isSome) ∧
    slice (infoBytes s k) 14 2 = leBytes 2 (parentGenNow s k) ∧ slice (infoBytes s k) 16 8 = leBytes 8 (infoTag s k) ∧
    slice (infoBytes s k) 24 8 = leBytes 8 (grantsOf s k.handle).length := by
  have hfield := fun i (hi : i < 9) => slice_flatten (infoFields s k) i hi
  exact ⟨List.take_left' (length_leBytes ..), hfield 1 (by decide), hfield 2 (by decide), hfield 3 (by decide),
    hfield 4 (by decide), hfield 5 (by decide), hfield 6 (by decide), hfield 7 (by decide), hfield 8 (by decide)⟩

/-! ### KEY_SHARE (R99) -/

/-- The grants of a handle with one instance granted or revoked. -/
def sharedWith (on : Bool) (t : Nat) (l : List Nat) : List Nat := if on then t :: l.filter (· != t) else l.filter (· != t)

theorem mem_sharedWith {on : Bool} {t i : Nat} {l : List Nat} :
    i ∈ sharedWith on t l ↔ if i = t then on = true else i ∈ l := by
  unfold sharedWith
  by_cases hi : i = t <;> cases on <;> simp [hi]

theorem grantsOf_setGrants (h m : Nat) (l : List Nat) (s : State) :
    grantsOf (setGrants h l s) m = if m = h then l else grantsOf s m := Tbl.get_set ..

theorem keyShare_shares {s : State} {id : Nat} {c : Cmd} (h : cmdHeld s id c) (harm : (fltU s .kvt 0).armed = false)
    (hop : cmdOp c = .key 0x050C) :
    ∃ t, exec (.keyShare id) s = .next t ∧ concluded s t c (justStatus stsOk) ∧ t.host.mem = s.host.mem ∧
      t.bbram = s.bbram ∧ t.kvt.res = s.kvt.res ∧
      ∀ m, grantsOf t m = if m = pKey c.pkt then
        sharedWith (decide (byteAt c.pkt 45 = 1)) (byteAt c.pkt 44) (grantsOf s (pKey c.pkt)) else grantsOf s m := by
  have hset : ∀ l, restView (setGrants (pKey c.pkt) l s) = restView s := fun _ => rfl
  obtain ⟨hend, hmem, hview⟩ := ((Going.refl (held_cmd h)).rest (hset (sharedWith (decide (byteAt c.pkt 45 = 1))
    (byteAt c.pkt 44) (grantsOf s (pKey c.pkt))))).endWith stsOk
  obtain ⟨-, -, -, -, -, -, hkvt, hbbram, -⟩ := rowView_frame hview
  have hexec : exec (.keyShare id) s = execKeyShare id s := rfl
  refine ⟨_, ?_, hend, hmem, hbbram, (congrArg Kvt.res hkvt).trans rfl, fun m => ?_⟩
  · rw [hexec, execKeyShare, withRow_unarmed h harm (by rw [hop]; rfl)]
    simp only [sharedWith, decide_eq_true_eq]
  · rw [grantsOf, hkvt]
    exact grantsOf_setGrants ..

/-- Settles O47, row by row: each row's work is a chain of writes of which the views say what they leave, and the command
then ends with its status or its output. -/
theorem keyManagementRowsDoTheirWork : Obligations.KeyManagementRowsDoTheirWork := by
  unfold Obligations.KeyManagementRowsDoTheirWork
  intro s id c hready harm
  have h := held_of_ready hready
  obtain rfl := held_id h
  refine ⟨fun hop => ⟨fun r k hr hk hfault hholds hclaim => ?_, exec_keyCommit_idle h harm hop⟩,
    fun hop => ⟨fun r k hr hk => keyAbandon_abandons h harm hop hr hk, exec_keyAbandon_idle h harm hop⟩,
    fun b s1 hop hread => ⟨fun st hst => exec_keyLoad_refused h harm hop hread hst,
      fun k hpass htmp hk hcur hfits hout => keyLoad_loads h harm hop hread hpass htmp hk hcur hfits hout⟩,
    fun r hop hr => keyEvict_evicts h harm hop hr, fun n hop hn hread => ?_, fun body hop hbody => ⟨fun b hcls hb hout => ?_,
      fun hcls hunit => ?_⟩, fun hop hout => ?_, fun hop hplain hout => ?_, fun hop => ?_⟩
  · obtain ⟨t, ht, hend, hmem, hres, hslot, hnew, hold, hlcs, hent⟩ :=
      keyCommit_commits h harm hop hr hk hfault hholds hclaim
    exact ⟨t, ht, hend, hmem, hres, (congrArg JSlot.pend hslot).trans rfl, (congrArg JSlot.commit hslot).trans rfl,
      hnew, hold, hlcs, hent⟩
  · obtain rfl : n = namedEntry s c := hn
    refine ⟨fun htop => ?_, fun hlow hout => ?_⟩
    · rw [exec_keyInvalidate h harm hop hread, if_pos htop]
      rfl
    · obtain ⟨t, ht, hdel, hgens, hstops, hres⟩ := keyInvalidate_raises h harm hop hread hlow hout
      refine ⟨t, ht, hdel, ?_, fun m hm => ?_, hstops, hres⟩
      · rw [hgens, if_pos rfl, raisedEntry]
      · rw [hgens, if_neg hm]
  · obtain ⟨hdel, hframe, -⟩ := (Onward.refl (held_cmd h)).delivers (held_unlogged h) hout
    subst hb
    exact ⟨_, by rw [exec_keyExport h harm hop hbody, if_pos hcls], hdel, hframe⟩
  · obtain ⟨t, d, ht, hlen, hdel⟩ := keyExport_encapsulates h harm hop hbody hcls hunit
    exact ⟨t, d, _, _, _, ht, hlen, rfl, rfl, rfl, hdel⟩
  · obtain ⟨hdel, hframe, -⟩ := (Onward.refl (held_cmd h)).delivers (held_unlogged h) hout
    have hexec : exec (.keyPublic c.id) s = execKeyPublic c.id s := rfl
    exact ⟨_, by rw [hexec, execKeyPublic, withRow_unarmed h harm (by rw [hop]; rfl)], hdel, hframe⟩
  · obtain ⟨hdel, hframe, -⟩ := (Onward.refl (held_cmd h)).delivers (held_unlogged h)
      (b := infoBytes s (keyOf c)) (by rw [length_infoBytes]; exact hout)
    exact ⟨_, _, exec_keyInfo h harm hop hplain, hdel, hframe, length_infoBytes .., infoBytes_fields ..⟩
  · obtain ⟨t, ht, hend, hmem, hbbram, hres, hgrants⟩ := keyShare_shares h harm hop
    refine ⟨t, ht, hend, hmem, hbbram, hres, fun m hm => by rw [hgrants, if_neg hm], fun i => ?_⟩
    rw [hgrants, if_pos rfl, mem_sharedWith, decide_eq_true_eq]

end Sys2Proof.Machine
end

section
/-! The class bits of the fault-register sets (R448, R449): what ends the commands and enters LOCKED leaves them. -/
namespace Sys2Proof.Machine
open Sys2Proof

/-- A read of a table whose values have all been mapped, where what an unlisted key reads as is mapped too. -/
theorem Tbl.get_map {α β : Type} (f : α → β) (d : α) (m : Tbl α) (k : Nat) :
    Tbl.get (f d) (m.map (fun p => (p.1, f p.2))) k = f (Tbl.get d m k) := by
  induction m with
  | nil => rfl
  | cons p m ih =>
    simp only [List.map_cons, Tbl.get, ih]
    split <;> rfl

/-- The class bits of every fault-register set. -/
def faultBits (s : State) (k : Nat) : Nat := (Tbl.get {} s.flt k).classBits

theorem faultBits_congr {s t : State} (h : t.flt = s.flt) : faultBits t = faultBits s := by
  funext k
  rw [faultBits, faultBits, h]

theorem Counted.faultBits {s t : State} (h : Counted s t) : faultBits t = faultBits s := faultBits_congr h.flt

theorem linkView_faultBits {s t : State} (h : linkView t = linkView s) : faultBits t = faultBits s := by
  have e := congrArg State.flt h
  exact faultBits_congr e

/-! ### Units released -/

theorem faultBits_settleFlt (b : Blk) (u : Nat) (s : State) : faultBits (settleFlt b u s) = faultBits s := by
  funext k
  change (Tbl.get {} (Tbl.set {} s.flt (fltKey b u) (fltLive (fltU s b u))) k).classBits = _
  rw [Tbl.get_set]
  split
  · next h => rw [h]; rfl
  · rfl

theorem faultBits_cadEvent (b : Bank) (u code amt : Nat) (v : Bool) (i : Nat) (s : State) :
    faultBits (cadEvent b u code amt v i s) = faultBits s := by
  have e := congrArg State.flt (countView_cadEvent b u code amt v i s)
  exact faultBits_congr e

theorem faultBits_charge (aes : Bool) (i start : Nat) (s : State) : faultBits (charge aes i start s) = faultBits s := by
  have h : ∀ t, Counted s t → ∀ d, faultBits { t with drl := d } = faultBits s := fun t ht _ =>
    (rfl : _ = faultBits t).trans ht.faultBits
  cases aes <;> exact h _ (instEvent_counted ..) _

theorem faultBits_releaseEngine (i start n : Nat) (s : State) : faultBits (releaseEngine i start n s) = faultBits s := by
  have hset : ∀ k t, faultBits (updEng n (engBoundary k) t) = faultBits t := fun _ _ => rfl
  have hjobs : faultBits (dropJobs n s) = faultBits s := ite_keeps faultBits rfl rfl
  unfold releaseEngine
  rw [faultBits_settleFlt, hset, faultBits_cadEvent, faultBits_charge, hjobs]

theorem faultBits_releaseAes (i start n : Nat) (s : State) : faultBits (releaseAes i start n s) = faultBits s := by
  have hset : ∀ t m c f, faultBits (updEng m f (setAes n c t)) = faultBits t := fun _ _ _ _ => rfl
  unfold releaseAes
  dsimp only
  rw [hset, faultBits_charge]

theorem faultBits_releaseDge (n : Nat) (s : State) : faultBits (releaseDge n s) = faultBits s := by
  have hset : ∀ d a t, faultBits (setDge n d (setHsa n a t)) = faultBits t := fun _ _ _ => rfl
  unfold releaseDge
  dsimp only
  rw [faultBits_settleFlt, hset]
  split
  · exact ite_keeps faultBits rfl rfl
  · rfl

theorem faultBits_releaseCvu (n : Nat) (s : State) : faultBits (releaseCvu n s) = faultBits s := faultBits_settleFlt ..

theorem faultBits_releaseCore (n : Nat) (s : State) : faultBits (releaseCore n s) = faultBits s := faultBits_settleFlt ..

theorem faultBits_releaseOwn (c : Cmd) (s : State) : faultBits (releaseOwn c s) = faultBits s := by
  unfold releaseOwn
  split
  · rfl
  · split
    · split
      · exact faultBits_charge ..
      · exact foldl_keeps faultBits _ (fun _ _ => faultBits_releaseEngine ..) _ _
    · exact faultBits_releaseAes ..
    · exact faultBits_releaseDge ..
    · exact faultBits_releaseCvu ..
    · rfl

/-- Release of a unit that a command's core has claimed, where it is not the command's own. -/
def releaseIfClaimed (c : Cmd) (k : UnitKind) (f : Nat → State → State) (o : Option Nat) (s : State) : State :=
  match o with
  | none => s
  | some n => if c.kind == k && n == c.unit then s else f n s

theorem releaseClaimed_some {c : Cmd} {n : Nat} (h : c.core = some n) (s : State) : releaseClaimed c s =
    releaseCore n (releaseIfClaimed c .cvu releaseCvu (coreU s n).cvu
      (releaseIfClaimed c .dge releaseDge (coreU s n).dge
        (releaseIfClaimed c .hub (releaseEngine (cmdInst c) c.start) (coreU s n).hub s))) := by
  unfold releaseClaimed
  rw [h]
  rfl

theorem faultBits_releaseIfClaimed {f : Nat → State → State} (hf : ∀ n s, faultBits (f n s) = faultBits s) (c : Cmd)
    (k : UnitKind) (o : Option Nat) (s : State) : faultBits (releaseIfClaimed c k f o s) = faultBits s := by
  cases o with
  | none => rfl
  | some n => exact ite_keeps faultBits rfl (hf n s)

theorem faultBits_releaseClaimed (c : Cmd) (s : State) : faultBits (releaseClaimed c s) = faultBits s := by
  cases h : c.core with
  | none =>
    unfold releaseClaimed
    rw [h]
  | some n =>
    rw [releaseClaimed_some h, faultBits_releaseCore, faultBits_releaseIfClaimed faultBits_releaseCvu,
      faultBits_releaseIfClaimed faultBits_releaseDge, faultBits_releaseIfClaimed fun _ _ => faultBits_releaseEngine ..]

theorem faultBits_freeReserved (n : Nat) (s : State) : faultBits (freeReserved n s) = faultBits s := by
  have hset : ∀ f t, faultBits (updEng n f t) = faultBits t := fun _ _ => rfl
  unfold freeReserved
  dsimp only
  split
  · rfl
  · refine ite_keeps faultBits rfl ((hset _ _).trans ?_)
    split
    · exact faultBits_charge ..
    · rfl

theorem faultBits_freed (c : Cmd) (s : State) : faultBits (freed c s) = faultBits s := by
  have hunits : faultBits (releaseUnits c s) = faultBits s :=
    (faultBits_releaseClaimed c (releaseOwn c s)).trans (faultBits_releaseOwn c s)
  exact (foldl_keeps faultBits _ (fun s n => ite_keeps faultBits (faultBits_freeReserved n s) rfl) _ _).trans hunits

/-! ### Commands ended -/

theorem faultBits_reply (c : Cmd) (r : Result) (s : State) : faultBits (reply c r s) = faultBits s := by
  have e := congrArg State.flt (replyView_reply c r s)
  exact faultBits_congr e

theorem faultBits_abandon (r : Result) (c : Cmd) (s : State) : faultBits (abandon (some r) c s) = faultBits s := by
  have h : faultBits (conclude (some r) c s) = faultBits s := by
    rw [conclude_some, faultBits_reply, faultBits_freed]
  unfold abandon
  dsimp only
  split
  · exact h
  · exact h

/-! ### Entry into LOCKED (Table 18-7) -/

theorem faultBits_closeSession (s : State) : faultBits (closeSession s) = faultBits s := by
  have hclosed : ∀ t d, faultBits { t with dbg := d } = faultBits t := fun _ _ => rfl
  have heng : ∀ t n f, faultBits (updEng n f t) = faultBits t := fun _ _ _ => rfl
  have hcore : ∀ t n f, faultBits (updCore n f t) = faultBits t := fun _ _ _ => rfl
  unfold closeSession
  dsimp only
  rw [hclosed]
  exact (foldl_keeps faultBits _ (fun t n => ite_keeps faultBits (hcore t n _) rfl) _ _).trans
    (foldl_keeps faultBits _ (fun t n => ite_keeps faultBits (heng t n _) rfl) _ s)

theorem faultBits_cancelInjections (s : State) : faultBits (cancelInjections s) = faultBits s := by
  funext k
  have h := congrArg FltSet.classBits (Tbl.get_map (fun f : FltSet => { f with armed := false, iLeft := 0 }) {} s.flt k)
  exact h

theorem faultBits_gateAll (s : State) : faultBits (gateAll s) = faultBits s := by
  have hgate : ∀ t g, faultBits (gateGroup g t) = faultBits t := fun t g => by
    have e := congrArg State.flt (gateView_gateGroup g t)
    exact faultBits_congr e
  exact foldl_keeps faultBits (fun s g => gateGroup g s) hgate s.pwr.groups s

theorem faultBits_setMode (m : Mode) (s : State) : faultBits (setMode m s) = faultBits s := by
  by_cases h : s.pwr.mode = m
  · have e : setMode m s = s := if_pos h
    rw [e]
  · have hleft : (modeLeft s).flt = s.flt := by
      unfold modeLeft
      split <;> rfl
    have e := congrArg State.flt (keyView_setMode h)
    exact faultBits_congr (e.trans hleft)

theorem faultBits_enterLocked (st : Nat) (s : State) : faultBits (enterLocked st s) = faultBits s := by
  have hdown : ∀ t, faultBits (linksDown t) = faultBits t := fun _ => rfl
  have hend : faultBits (abandonAll (fun _ => true) (some (justStatus st)) s) = faultBits s :=
    foldl_keeps faultBits _ (fun s c => faultBits_abandon _ c s) _ s
  refine ite_keeps faultBits ?_ hend
  rw [faultBits_setMode, faultBits_gateAll, faultBits_cancelInjections, faultBits_closeSession, hdown,
    linkView_faultBits (linkView_sendLeave _), hend]

/-- A record sets the bit of its class in its set. -/
theorem faultBits_record (r : FltRec) (s : State) : (faultBits (record r s) (fltKey r.blk r.set)).testBit r.cls = true := by
  have hset : (faultBits (setFlt r.blk r.set (recordSet s.now r (fltU s r.blk r.set)) s) (fltKey r.blk r.set)).testBit r.cls =
      true := by
    unfold faultBits setFlt
    rw [Tbl.get_set_same]
    have hbits : (recordSet s.now r (fltU s r.blk r.set)).classBits = (fltU s r.blk r.set).classBits ||| 2 ^ r.cls := by
      unfold recordSet
      simp only [apply_ite FltSet.classBits, ite_self]
    rw [hbits, Nat.testBit_or, Nat.testBit_two_pow_self, Bool.or_true]
  have hlatch : faultBits (record r s) = faultBits (setFlt r.blk r.set (recordSet s.now r (fltU s r.blk r.set)) s) :=
    ite_keeps faultBits ((signal_counted ..).faultBits.trans (ite_keeps faultBits rfl rfl)) (ite_keeps faultBits rfl rfl)
  rw [hlatch]
  exact hset

end Sys2Proof.Machine
end

section
/-! DERAILLEUR_DISPATCH (R44, R110, R114, R136, R138, R250). -/
namespace Sys2Proof.Machine
open Sys2Proof

/-! ### The command picked is one of the commands -/

theorem firstOf_mem {lt : Cmd → Cmd → Bool} {cs : List Cmd} {c : Cmd} (h : firstOf lt cs = some c) : c ∈ cs := by
  have key : ∀ (l : List Cmd) (b : Option Cmd), l.foldl (fun b c => match b with
      | none => some c
      | some x => if lt c x then some c else some x) b = some c → b = some c ∨ c ∈ l := by
    intro l
    induction l with
    | nil => exact fun _ h => .inl h
    | cons x l ih =>
      intro b h
      rcases ih _ h with hb | hl
      · cases b with
        | none => exact .inr (by simp [Option.some.inj hb])
        | some y =>
          dsimp only at hb
          split at hb
          · exact .inr (by simp [Option.some.inj hb])
          · exact .inl hb
      · exact .inr (List.mem_cons_of_mem _ hl)
  exact (key cs none h).resolve_left (by simp)

theorem nextDigest_mem {s : State} {u : Nat} {c : Cmd} (h : nextDigest s u = some c) : c ∈ s.hif.cmds :=
  List.mem_of_mem_filter (firstOf_mem h)

theorem nextHub_mem {s : State} {c : Cmd} (h : nextHub s = some c) : c ∈ s.hif.cmds := by
  rcases List.mem_append.mp (firstOf_mem h) with hhub | hkeyed
  · exact List.mem_of_mem_filter hhub
  · obtain ⟨u, -, hu⟩ := Option.bind_eq_some_iff.mp (Option.mem_toList.mp (List.mem_of_mem_filter hkeyed))
    exact nextDigest_mem hu

theorem pick_mem {s : State} {k : UnitKind} {u : Nat} {c : Cmd} (h : pick s k u = some c) : c ∈ s.hif.cmds := by
  have hc := (Option.filter_eq_some_iff.mp h).1
  cases k with
  | hub => exact nextHub_mem hc
  | dge => exact nextDigest_mem hc
  | aes | cvu | parser | seq | none => exact List.mem_of_mem_filter (firstOf_mem hc)

/-! ### The command picked goes to its unit -/

theorem exec_dispatch_picked {s : State} {k : UnitKind} {u : Nat} {c : Cmd} (hu : u < 64) (h : pick (freeOld s) k u = some c) :
    exec (.derailleurDispatch k u) s = .next (dispatch k u c (freeOld s)) := by
  have hexec : exec (.derailleurDispatch k u) s = execDerailleurDispatch k u s := rfl
  rw [hexec, execDerailleurDispatch]
  dsimp only
  rw [if_neg fun hremote => Nat.not_le.mpr hu hremote.2, h]

theorem exec_dispatch_nothing {s : State} {k : UnitKind} {u : Nat} (hu : u < 64) (h : pick (freeOld s) k u = none) :
    exec (.derailleurDispatch k u) s = .next (freeOld s) := by
  have hexec : exec (.derailleurDispatch k u) s = execDerailleurDispatch k u s := rfl
  rw [hexec, execDerailleurDispatch]
  dsimp only
  rw [if_neg fun hremote => Nat.not_le.mpr hu hremote.2, h]

theorem bbramRead_unarmed {s : State} (harm : (fltU s .tmp 0).armed = false) (c : Cmd) : bbramRead c s = s := by
  unfold bbramRead
  simp only [access_unarmed _ _ _ _ _ _ _ _ _ harm, ite_self]
  split <;> rfl

/-- Where no injection is armed on the BBRAM's checkers, its words are read and the command is as it was. -/
theorem dispatch_unarmed {s : State} {c : Cmd} (harm : (fltU s .tmp 0).armed = false) (hgone : extGone s c = false)
    (hc : c ∈ s.hif.cmds) (k : UnitKind) (u : Nat) : dispatch k u c s = dispatchTo k u c s := by
  have hsome : (cmdU s c.id).isNone = false := by
    rw [Option.isNone_eq_false_iff, cmdU, List.find?_isSome]
    exact ⟨c, hc, by simp⟩
  have hsame : { c with inj := c.inj || tmpHit s s } = c := by simp [tmpHit]
  unfold dispatch
  dsimp only
  rw [hgone, bbramRead_unarmed harm, hsome, hsame]
  rfl

/-- Does a command take a leaf of a stateful key as it is dispatched (R77)? -/
def takesLeaf (c : Cmd) : Bool := match cmdOp c with | .sfs 0x0811 => c.leaf.isNone | _ => false

theorem takesLeaf_false {c : Cmd} (h : cmdOp c ≠ .sfs 0x0811 ∨ c.leaf ≠ none) : takesLeaf c = false := by
  unfold takesLeaf
  split
  · next hop =>
    exact Option.isNone_eq_false_iff.mpr (Option.isSome_iff_ne_none.mpr (h.resolve_left (not_not.mpr hop)))
  · rfl

theorem dispatchTo_starts {s : State} {k : UnitKind} {u : Nat} {c : Cmd} {k1 k2 : Option KeyObj}
    (hpass : dispatchCheck s c = .pass k1 k2) (hslots : slotsHeld s k c = false)
    (hquota : quotaCheck s (cmdInst c) (cmdOp c) c.pkt k1 = none) (hgang : isGang s c = false) (hleaf : takesLeaf c = false) :
    dispatchTo k u c s = startCmd c k u k1 k2 (zeroizeOthers c s) := by
  have hno : ¬ takesLeaf c = true := by simp [hleaf]
  unfold dispatchTo
  simp only [hpass, hslots, hquota, hgang, Bool.false_eq_true, if_false]
  exact if_neg hno

theorem dispatchTo_overQuota {s : State} {k : UnitKind} {u : Nat} {c : Cmd} {k1 k2 : Option KeyObj} {r : Result}
    (hpass : dispatchCheck s c = .pass k1 k2) (hslots : slotsHeld s k c = false)
    (hquota : quotaCheck s (cmdInst c) (cmdOp c) c.pkt k1 = some r) :
    dispatchTo k u c s = refuse c r (unreserve c.id s) := by
  unfold dispatchTo
  simp only [hpass, hslots, hquota, Bool.false_eq_true, if_false]

theorem dispatchTo_fails {s : State} {k : UnitKind} {u : Nat} {c : Cmd} {r : Result} (hfail : dispatchCheck s c = .fail r) :
    dispatchTo k u c s = refuseNine c r (unreserve c.id s) := by
  unfold dispatchTo
  simp only [hfail]

/-! ### An unreadable generation entry (R250) -/

theorem faultBits_refuseLeft (c : Cmd) (st : Nat) (s : State) : faultBits (refuseLeft c st s) = faultBits s :=
  ite_keeps faultBits (faultBits_reply ..) rfl

/-- A DEVICE fault of the BBRAM's ECC stays recorded while LOCKED is entered and the command is answered. -/
theorem refuseNine_records {c : Cmd} {r : Result} (h : r.status = stsFault) (s : State) :
    (fltU (refuseNine c r s) .tmp 0).classBits.testBit 3 = true := by
  have hbits : faultBits (refuseNine c r s) =
      faultBits (record { blk := .tmp, checker := 1, cls := 3, inst := cmdInst c } s) := by
    unfold refuseNine
    rw [if_pos h, faultBits_refuseLeft]
    exact faultBits_enterLocked stsFault _
  have hrec := faultBits_record { blk := .tmp, checker := 1, cls := 3, inst := cmdInst c } s
  rw [← hbits] at hrec
  exact hrec

/-- Settles O38: the command picked is one of the commands, so that `dispatch` is `dispatchTo`, whose branches are the
statement's cases. -/
theorem dispatchStartsTheCommandPicked : Obligations.DispatchStartsTheCommandPicked := by
  unfold Obligations.DispatchStartsTheCommandPicked
  intro s k u hu
  have hto : ∀ c, pick (freeOld s) k u = some c → extGone (freeOld s) c = false → (fltU s .tmp 0).armed = false →
      exec (.derailleurDispatch k u) s = .next (dispatchTo k u c (freeOld s)) := fun c hpick hgone harm => by
    rw [exec_dispatch_picked hu hpick, dispatch_unarmed (s := freeOld s) harm hgone (pick_mem hpick)]
  refine ⟨fun c k1 k2 hpick harm hgone hpass hslots => ⟨fun hquota hgang hleaf => ?_, fun r hquota => ?_⟩,
    fun c r hpick hgone harm hfail => ⟨fun hst => ?_, fun hst => ?_⟩, fun c hpick hgone => ?_, exec_dispatch_nothing hu⟩
  · rw [hto c hpick hgone harm, dispatchTo_starts hpass hslots hquota hgang (takesLeaf_false hleaf)]
  · rw [hto c hpick hgone harm, dispatchTo_overQuota hpass hslots hquota]
  · rw [hto c hpick hgone harm, dispatchTo_fails hfail, refuseNine, if_neg hst]
  · rw [hto c hpick hgone harm, dispatchTo_fails hfail]
    exact ⟨_, rfl, refuseNine_records hst _⟩
  · rw [exec_dispatch_picked hu hpick, dispatch, if_pos hgone]

end Sys2Proof.Machine
end

section
/-! EPOCH_BOUNDARY (R134, R135, R391, R392). -/
namespace Sys2Proof.Machine
open Sys2Proof

/-! ### Charges up to now -/

/-- What charging leaves: host memory, the queue pairs, the vault, BBRAM, the instances and the epoch count. -/
def epochView (s : State) : Tbl Byte × Tbl Qp × Kvt × Bbram × Tbl Inst × Nat :=
  (s.host.mem, s.hif.qps, s.kvt, s.bbram, s.hif.inst, s.drl.epoch)

theorem Counted.epochView {s t : State} (h : Counted s t) : epochView t = epochView s := by
  have e := congrArg Machine.epochView (show _ = s from h)
  exact e

theorem epochView_updEng (n : Nat) (f : Engine → Engine) (s : State) : epochView (updEng n f s) = epochView s := rfl

theorem epochView_setCmd (c : Cmd) (s : State) : epochView (setCmd c s) = epochView s := rfl

theorem epochView_charge (aes : Bool) (i start : Nat) (s : State) : epochView (charge aes i start s) = epochView s := by
  have h : ∀ t, Counted s t → ∀ x y, epochView { t with drl := { t.drl with hub := x, aes := y } } = epochView s :=
    fun t ht _ _ => (rfl : _ = epochView t).trans ht.epochView
  cases aes <;> exact h _ (instEvent_counted ..) _ _

theorem epochView_chargeCmd (s : State) (c : Cmd) : epochView (chargeCmd s c) = epochView s := by
  unfold chargeCmd
  dsimp only
  split
  · rfl
  · exact (epochView_setCmd ..).trans (epochView_charge ..)
  · refine (epochView_setCmd ..).trans (ite_keeps epochView (epochView_charge ..) ?_)
    exact foldl_keeps epochView _ (fun _ _ => (epochView_updEng ..).trans (epochView_charge ..)) _ s

theorem epochView_chargeReserved (s : State) (n : Nat) : epochView (chargeReserved s n) = epochView s := by
  unfold chargeReserved
  split
  · exact (epochView_updEng ..).trans (epochView_charge ..)
  · rfl

/-- Every running command and every forming gang charged up to now. -/
def chargedUp (s : State) : State := (List.range 64).foldl chargeReserved (s.hif.cmds.foldl chargeCmd s)

theorem epochView_chargedUp (s : State) : epochView (chargedUp s) = epochView s :=
  (foldl_keeps epochView _ epochView_chargeReserved _ _).trans (foldl_keeps epochView _ epochView_chargeCmd _ s)

/-! ### The new epoch -/

/-- An instance with its new weight in force. -/
def renewed (x : Inst) : Inst := { x with weight := x.nextWeight }

/-- The new weights in force. -/
def weightsInForce (s : State) : State :=
  { s with
    hif := { s.hif with inst := s.hif.inst.map (fun p => (p.1, renewed p.2)) }
    drl := { s.drl with mgrLive := s.drl.mgrWeight, lendLive := s.tlk.lendWeight } }

/-- Both ledgers started anew, the epoch counted and the sensors read. -/
def ledgersAnew (s : State) : State :=
  let t := freeNumber 256 s
  let w := freeNumber 551 t.2
  { w.2 with
    drl := { s.drl with hub := newLedger s false, aes := newLedger s true, epoch := s.drl.epoch + 1 }
    pwr := { s.pwr with tj := t.1, power := w.1 } }

theorem exec_epochBoundary {s : State} (h : epochsRun s = true) :
    exec .epochBoundary s = .next (surgeEpoch (ledgersAnew (weightsInForce (chargedUp s)))) := by
  have hexec : exec .epochBoundary s = execEpochBoundary s := rfl
  rw [hexec, execEpochBoundary, if_pos h]
  dsimp only
  rw [← chargedUp]
  generalize chargedUp s = x
  rfl

/-- What the new weights and ledgers leave, and what they set. -/
theorem newEpoch_leaves (s : State) : (ledgersAnew (weightsInForce s)).host = s.host ∧
    (ledgersAnew (weightsInForce s)).hif.qps = s.hif.qps ∧ (ledgersAnew (weightsInForce s)).kvt = s.kvt ∧
    (ledgersAnew (weightsInForce s)).bbram = s.bbram ∧
    (ledgersAnew (weightsInForce s)).hif.inst = s.hif.inst.map (fun p => (p.1, renewed p.2)) ∧
    (ledgersAnew (weightsInForce s)).drl.epoch = s.drl.epoch + 1 ∧
    (ledgersAnew (weightsInForce s)).drl.hub.charged = [] ∧ (ledgersAnew (weightsInForce s)).drl.aes.charged = [] :=
  ⟨rfl, rfl, rfl, rfl, rfl, rfl, rfl, rfl⟩

/-- The state as the SURGE rules leave it: `epochView` with the Derailleur's registers. -/
def surgeView (s : State) : (Tbl Byte × Tbl Qp × Kvt × Bbram × Tbl Inst × Nat) × Drl := (epochView s, s.drl)

theorem Counted.surgeView {s t : State} (h : Counted s t) : surgeView t = surgeView s := by
  have e := congrArg Machine.surgeView (show _ = s from h)
  exact e

theorem surgeView_pwr (p : Pwr) (s : State) : surgeView { s with pwr := p } = surgeView s := rfl

theorem surgeView_setMode (m : Mode) (s : State) : surgeView (setMode m s) = surgeView s := by
  by_cases h : s.pwr.mode = m
  · have e : setMode m s = s := if_pos h
    rw [e]
  · have hleft : surgeView (modeLeft s) = surgeView s := by
      unfold modeLeft
      split <;> rfl
    have e := congrArg surgeView (keyView_setMode h)
    exact e.trans hleft

/-- The events that the SURGE rules count. -/
def surgeEvents (s : State) : State :=
  let t := if s.pwr.mode = .surge then blkEvent .pwr 0x11 1 s else s
  if capBlocked s then blkEvent .pwr 0x12 1 t else t

theorem surgeEvents_counted (s : State) : Counted s (surgeEvents s) :=
  (ite_counted (blkEvent_counted .pwr 0x11 1 s)).trans (ite_counted (blkEvent_counted .pwr 0x12 1 _))

/-- The SURGE rules count their events, set power registers and may enter SURGE. -/
theorem surgeEpoch_cases (s : State) : ∃ p, surgeEpoch s = { surgeEvents s with pwr := p } ∨
    surgeEpoch s = setMode .surge { surgeEvents s with pwr := p } := by
  unfold surgeEpoch
  extract_lets
  split
  · split
    · exact ⟨_, .inr rfl⟩
    · exact ⟨_, .inl rfl⟩
  · split
    · exact ⟨_, .inl rfl⟩
    · exact ⟨_, .inl rfl⟩

theorem surgeView_surgeEpoch (s : State) : surgeView (surgeEpoch s) = surgeView s := by
  have hcount : ∀ p, surgeView { surgeEvents s with pwr := p } = surgeView s := fun p =>
    (surgeView_pwr p _).trans (surgeEvents_counted s).surgeView
  obtain ⟨p, h | h⟩ := surgeEpoch_cases s
  · rw [h, hcount]
  · rw [h, surgeView_setMode, hcount]

/-- Settles O39: the charges and the SURGE rules leave what the statement speaks of, so that the new weights and ledgers
can be read off the two steps between them. -/
theorem epochsStartTheLedgersAnew : Obligations.EpochsStartTheLedgersAnew := by
  unfold Obligations.EpochsStartTheLedgersAnew
  intro s hrun
  have hcharged := epochView_chargedUp s
  obtain ⟨nhost, nqps, nkvt, nbbram, ninst, nepoch, nhub, naes⟩ := newEpoch_leaves (chargedUp s)
  have hsurge := surgeView_surgeEpoch (ledgersAnew (weightsInForce (chargedUp s)))
  simp only [surgeView, epochView, Prod.mk.injEq] at hcharged hsurge
  obtain ⟨hmem, hqps, hkvt, hbbram, hinst, hepoch⟩ := hcharged
  obtain ⟨⟨kmem, kqps, kkvt, kbbram, kinst, -⟩, kdrl⟩ := hsurge
  refine ⟨_, exec_epochBoundary hrun, ?_, ?_, ?_, fun i => ?_, ?_, ?_, ?_, ?_⟩
  · rw [kdrl, nepoch, hepoch]
  · rw [kdrl, nhub]
  · rw [kdrl, naes]
  · unfold instU
    rw [kinst, ninst, hinst]
    exact congrArg Inst.weight (Tbl.get_map renewed {} s.hif.inst i)
  · rw [kmem, nhost, hmem]
  · rw [kqps, nqps, hqps]
  · rw [kkvt, nkvt, hkvt]
  · rw [kbbram, nbbram, hbbram]

end Sys2Proof.Machine
end

section
/-! The counterexample to the statement on the engines' administration: OFFLINE_REQ on an engine that is reserved for a forming
gang. The reservation's unit time is charged (R140) and counted as an event of the instance (R461); where that wraps a counter
whose overflow interrupt is enabled, vector 114 is signalled (R463, R504), so that `host` is not as before. -/
namespace Sys2Proof.Machine
open Sys2Proof

/-- A Classic McEliece key generation of instance 0 that waits while its gang forms (R140). -/
def gangCmd : Cmd := { id := 1, pkt := leBytes 2 0x0501 ++ zeros 38 ++ leBytes 2 0x0104 ++ zeros 22 }

/-- A counter of unit time one below its wrap, with its overflow interrupt enabled. -/
def fullCounter : Cnt := { en := true, event := 4, ovfInt := true, val := 2 ^ 48 - 1 }

/-- SERVICE, a tick after engine 0 was reserved for the gang; MSI-X of function 0 is enabled. -/
def gangForms : State :=
  setCnt .inst 0 0 fullCounter (setMsix 0 114 { mask := false } (setPort 0 { msixEnable := true } (setEng 0 { powered := true, reservedBy := some 1 }
    { State.reset with
      now := 1, pwr := { State.reset.pwr with mode := .service }
      hif := { reach := true, counting := true, cmds := [gangCmd], nextId := 2 } })))

/-- The engine's withdrawal sends the counter's message. -/
theorem offlineReq_signals : ∃ t, exec (.offlineReq 0 true) gangForms = .next t ∧ t.host.msgs.length = 1 :=
  ⟨_, rfl, by decide +kernel⟩

/-- Refutes O53: a reserved engine that is taken out of the pool has its time charged, and the counter that wraps then sends a
message to the host, which the statement says stays as it was. -/
theorem not_engineAdministrationAndHashJobs : ¬ Obligations.EngineAdministrationAndHashJobs := by
  unfold Obligations.EngineAdministrationAndHashJobs
  intro h
  obtain ⟨-, hreserved, -⟩ := h gangForms
  obtain ⟨t, ht, -, -, -, -, -, hhost⟩ := hreserved 0 rfl (by decide) (by decide) rfl
  obtain ⟨u, hu, hsent⟩ := offlineReq_signals
  rw [← Host.Outcome.next.inj (ht.symm.trans hu), hhost] at hsent
  exact absurd hsent (by decide)

end Sys2Proof.Machine
end

section
/-! The mask generator of an engine whose kernel runs (R125, R126), and the counterexamples to the statements on the kernel's
rows. An instruction that retires settles its engine's generator: at 983,040 blocks the generator asks the entropy block for a
seed, and at 2^20 without one it halts and ends a command of order 1 or above. The statements say that the entropy block and the
command are as before; they bound the count of blocks at order 1 and above, or not at all. The count outlasts a command, and the
load of a key adds to it with no instruction after which it is settled (R128), so a kernel may be entered past either count;
and the statements range over every state. -/
namespace Sys2Proof.Machine
open Sys2Proof

/-! ### A generator that has yet to ask for its seed -/

/-- An engine with `vl` elements of 32 bits, on which command 1 runs a kernel at order 0. Its generator has delivered 983,040
blocks and has not asked for a seed. -/
def seedDueEngine (vl : Nat) : Engine :=
  { powered := true, busy := true, cmd := some 1, vl := vl, sew := 2, mg := { seeded := true, blocks := 983040 } }

/-- That engine as engine 0 of a block with its memory initialised. -/
def seedDue (vl : Nat) : State := setEng 0 (seedDueEngine vl) { State.reset with mem := { initDone := 0x7F } }

/-- Operands of VADD and VTEST: vd is V1, the sources V2 and V3, with no mask, in mode 0 at 32 bits. -/
def vecOperands : VF := ⟨.v, 1, 2, 3, 0, 2, 0⟩

/-- Operands of VLD: V1 from the address 0 on, with no mask, in mode 0 at 32 bits. -/
def loadOperands : MF := ⟨1, 0, 0, 0, 2, 0⟩

/-- Operands of XADDI: X1 is X0 plus 1. -/
def addOne : XF := ⟨1, 0, 1⟩

/-- Operands of VXOF.INIT: context 0, function 0. -/
def initOperands : LF := ⟨0, 0, 0, 0⟩

theorem eng_seedDue (vl : Nat) : eng (seedDue vl) (0 : Fin 64) = seedDueEngine vl := eng_setEng_same ..

theorem seedDue_ready (vl : Nat) : kernelReady (seedDue vl) (0 : Fin 64) := by
  unfold kernelReady
  rw [eng_seedDue]
  exact ⟨rfl, rfl, rfl, rfl, rfl, rfl, rfl⟩

/-- At order 0 no share is drawn, and nothing is asked of the count. -/
theorem seedDue_sharesFit (vl : Nat) : sharesFit (eng (seedDue vl) (0 : Fin 64)) := by
  rw [eng_seedDue]
  exact fun horder => absurd horder (Nat.lt_irrefl 0)

/-- The queue of seed requests, which was empty, is not as before where a row has the generator ask. -/
theorem not_kernelFrame_of_asks {i : Instr} {vl n : Nat} {t : State}
    (hasks : ∃ u, exec i (seedDue vl) = .next u ∧ u.ent.seedQ = [0]) (ht : exec i (seedDue vl) = .next t) :
    ¬ kernelFrame (seedDue vl) t n := by
  rintro ⟨⟨-, -, -, -, -, -, -, -, -, -, hent, -⟩, -⟩
  obtain ⟨u, hu, hqueue⟩ := hasks
  have hempty : (seedDue vl).ent.seedQ = [] := rfl
  rw [← Host.Outcome.next.inj (ht.symm.trans hu), hent, hempty] at hqueue
  exact absurd hqueue (by decide)

/-- Refutes O8: VADD of one element, on an engine whose generator is due for a seed, puts the engine into the entropy block's
queue. -/
theorem not_elementwiseRowsWriteActiveElements : ¬ Obligations.ElementwiseRowsWriteActiveElements := by
  unfold Obligations.ElementwiseRowsWriteActiveElements
  intro h
  obtain ⟨t, ht, -, -, -, -, -, -, -, -, -, hframe⟩ := h (seedDue 1) 0 vecOperands
    (.vadd 0 vecOperands, .add) (by decide) (seedDue_ready 1) rfl (fun horder => absurd horder (by decide))
    rfl (by decide) (by decide) rfl (by decide)
  exact not_kernelFrame_of_asks ⟨_, rfl, by decide +kernel⟩ ht hframe

/-- Refutes O9: a legal VTEST, on an engine whose generator is due for a seed, puts the engine into the entropy block's queue. -/
theorem not_vectorRowsRetire : ¬ Obligations.VectorRowsRetire := by
  unfold Obligations.VectorRowsRetire
  intro h
  obtain ⟨hlegal, -⟩ := h (seedDue 0) 0 false 0 0 vecOperands (.vtest 0 vecOperands, vtest vecOperands)
    (by simp [rowsVector]) (seedDue_ready 0) rfl
  obtain ⟨x, t, -, ht, -, hframe⟩ := hlegal (by decide : vecOperands.vs1.toNat % 8 ≠ 0) (seedDue_sharesFit 0)
  exact not_kernelFrame_of_asks ⟨_, rfl, by decide +kernel⟩ ht hframe

/-- VLD with VL = 0 makes no access. -/
theorem loadLegal_seedDue : loadLegal false loadOperands (eng (seedDue 0) (0 : Fin 64)) := by
  rw [eng_seedDue]
  exact ⟨rfl, rfl, rfl, fun i hi => absurd hi (Nat.not_lt_zero i)⟩

/-- Refutes O10: a legal VLD, on an engine whose generator is due for a seed, puts the engine into the entropy block's queue. -/
theorem not_memoryRowsRetire : ¬ Obligations.MemoryRowsRetire := by
  unfold Obligations.MemoryRowsRetire
  intro h
  obtain ⟨hlegal, -⟩ := h (seedDue 0) 0 loadOperands ⟨0, 0, 0, 0, 0, 0, 0⟩
    (.vld 0 loadOperands, vmem (fun _ _ => false) false loadOperands) (by simp [rowsMemory]) (seedDue_ready 0) rfl
  obtain ⟨x, t, -, ht, -, hframe⟩ := hlegal loadLegal_seedDue (seedDue_sharesFit 0)
  exact not_kernelFrame_of_asks ⟨_, rfl, by decide +kernel⟩ ht hframe

/-- Refutes O11: XADDI, on an engine whose generator is due for a seed, puts the engine into the entropy block's queue. -/
theorem not_scalarRowsRetire : ¬ Obligations.ScalarRowsRetire := by
  unfold Obligations.ScalarRowsRetire
  intro h
  obtain ⟨hlegal, -⟩ := h (seedDue 0) 0 0 0 0 addOne (.xaddi 0 addOne, xaddi addOne) (by simp [rowsScalar])
    (seedDue_ready 0) rfl
  obtain ⟨x, t, -, ht, -, hframe⟩ := hlegal trivial (seedDue_sharesFit 0)
  exact not_kernelFrame_of_asks ⟨_, rfl, by decide +kernel⟩ ht hframe

/-- Refutes O12: VXOF.INIT of SHAKE128, on an engine whose generator is due for a seed, puts the engine into the entropy
block's queue. -/
theorem not_longRowsRetire : ¬ Obligations.LongRowsRetire := by
  unfold Obligations.LongRowsRetire
  intro h
  obtain ⟨hlegal, -⟩ := h (seedDue 0) 0 initOperands (.vxofInit 0 initOperands, 17, vxofInit initOperands)
    (by simp [rowsLong]) (seedDue_ready 0) rfl rfl
  obtain ⟨x, t, -, ht, hframe, -⟩ := hlegal (by decide : initOperands.p.toNat < 6) (seedDue_sharesFit 0)
  exact not_kernelFrame_of_asks ⟨_, rfl, by decide +kernel⟩ ht hframe

/-- Refutes O15: VADD with VL = 0, on an engine whose generator is due for a seed, puts the engine into the entropy block's
queue. -/
theorem not_elementwiseRowsThatWriteNoElement : ¬ Obligations.ElementwiseRowsThatWriteNoElement := by
  unfold Obligations.ElementwiseRowsThatWriteNoElement
  intro h
  obtain ⟨hempty, -⟩ := h (seedDue 0) 0 vecOperands (.vadd 0 vecOperands, .add) (by decide) (seedDue_ready 0) rfl
  obtain ⟨t, ht, -, hframe⟩ := hempty rfl (by decide) (by decide) rfl rfl
  exact not_kernelFrame_of_asks ⟨_, rfl, by decide +kernel⟩ ht hframe

/-! ### A generator whose seed has not come -/

/-- Command 1 at order 1 enters its kernel on engine 0, whose generator has asked for a seed, has none, and with the load of
the command's key has delivered 2^20 blocks. -/
def seedOverdue : State :=
  setEng 0
    { powered := true, busy := true, cmd := some 1, order := 1, sew := 2
      mg := { seeded := true, reseedReq := true, blocks := 2 ^ 20 } }
    { State.reset with
      mem := { initDone := 0x7F }
      hif := { cmds := [{ id := 1, phase := .running, kind := .hub, order := 1 }] } }

theorem seedOverdue_ready : kernelReady seedOverdue (0 : Fin 64) := by decide

/-- XADDI retires, the generator halts, and the end of the command clears the scalar registers (R126, R132). -/
theorem xaddi_seedOverdue : ∃ t, exec (.xaddi 0 addOne) seedOverdue = .next t ∧ getX (eng t 0) 1 = 0 :=
  ⟨_, rfl, by decide +kernel⟩

/-- VEND retires, the generator halts, and the command has ended before VEND's code is looked at (R126). -/
theorem vend_seedOverdue : ∃ t, exec (.vend 0 ⟨0, 0, 0⟩) seedOverdue = .next t ∧ cmdU t 1 = none :=
  ⟨_, rfl, by decide +kernel⟩

/-- Refutes O13: X1 is 0, not 1, after XADDI has added 1 to X0 on an engine whose generator halts with it. -/
theorem not_setvlAddImmediateAndShiftResults : ¬ Obligations.SetvlAddImmediateAndShiftResults := by
  unfold Obligations.SetvlAddImmediateAndShiftResults
  intro h
  obtain ⟨hxaddi, -⟩ := h seedOverdue 0 addOne seedOverdue_ready (by decide)
  obtain ⟨t, ht, hsum, -⟩ := hxaddi rfl
  obtain ⟨u, hu, hcleared⟩ := xaddi_seedOverdue
  rw [← Host.Outcome.next.inj (ht.symm.trans hu)] at hcleared
  exact absurd (hcleared.symm.trans hsum) (by decide)

/-- Refutes O14: the command of a VEND with code 0 is gone, and not finished with STS_OK, where the engine's generator halts
with it. -/
theorem not_vendGivesTheCommandItsStatus : ¬ Obligations.VendGivesTheCommandItsStatus := by
  unfold Obligations.VendGivesTheCommandItsStatus
  intro h
  obtain ⟨t, d, ht, hfinished, -⟩ := h seedOverdue 0 0 1 _ seedOverdue_ready rfl rfl rfl rfl rfl rfl
  obtain ⟨u, hu, hgone⟩ := vend_seedOverdue
  rw [← Host.Outcome.next.inj (ht.symm.trans hu), hfinished] at hgone
  exact absurd hgone (Option.some_ne_none d)

end Sys2Proof.Machine
end

section
/-! The events of a routine: wait ceilings, the hold timer, interrupts (R173, R177, R178, R180, R181). -/
namespace Sys2Proof.Machine
open Sys2Proof

/-- A write of an engine goes along with counting. -/
theorem Counted.setEng {s t : State} (h : Counted s t) (n : Nat) (x : Engine) :
    Counted (setEng n x s) (setEng n x t) := by
  have e := congrArg (Machine.setEng n x) (show _ = s from h)
  exact e

/-- Counting after the writing of engine `n` stays in that engine. -/
theorem Counted.kernelFrame_of_setEng {s t : State} {n : Nat} {x : Engine} (h : Counted (Machine.setEng n x s) t) :
    kernelFrame s t n ∧ Machine.eng t n = x := by
  have hframe := kernelFrame_of n x (.refl s)
  obtain ⟨-, -, -, -, hother, -⟩ := hframe
  have hkmem : t.hub.kmem = s.hub.kmem := (congrArg Hub.kmem h.hub).trans (setEng_hub_kmem ..)
  have hpatch : t.hub.patch = s.hub.patch := (congrArg Hub.patch h.hub).trans (setEng_hub_patch ..)
  have haes : t.hub.aes = s.hub.aes := (congrArg Hub.aes h.hub).trans (setEng_hub_aes ..)
  exact ⟨⟨h.outsideKept, h.seq, h.dge, h.cvu, fun m hm => (h.eng m).trans (hother m hm), hkmem, hpatch, haes⟩,
    (h.eng n).trans (eng_setEng_same ..)⟩

/-! ### Wait ceilings (R173, R178, R180) -/

theorem inReset_of_kernRuns {x : Engine} (h : kernRuns x = true) : x.inReset = false := by
  rw [kernRuns, Bool.and_eq_true, Bool.not_eq_true'] at h
  exact h.2

theorem kernRuns_of_mayExpire {x : Engine} {k cond : Nat} (h : mayExpire x k cond = true) : kernRuns x = true := by
  simp only [mayExpire, Bool.and_eq_true] at h
  obtain ⟨⟨⟨⟨⟨hruns, -⟩, -⟩, -⟩, -⟩, -⟩ := h
  exact hruns

/-- The restarts that the routine's issue has had; a new issue has had none. -/
abbrev issueRestarts (u : Uc) : Nat := if u.issue then u.restarts else 0

theorem issueRestarts_eq_four (u : Uc) : issueRestarts u = 4 ↔ u.issue = true ∧ u.restarts = 4 := by
  cases h : u.issue <;> simp [issueRestarts, h]

/-- Routine `k` whose wait on `cond` has reached its ceiling, abandoned and in progress again. -/
def atCeiling (k cond : Nat) (u : Uc) : Uc :=
  { u with
    routine := k, running := true, issue := true, committed := false, lastWait := cond, ceilingExpired := true
    restarts := min 4 (issueRestarts u + 1), cntExpiries := min 0xFFFF (u.cntExpiries + 1) }

/-- The engine of such a routine, with the restart counted; nothing is left of the words and the scratch. -/
def restarted (k cond : Nat) (x : Engine) : Engine :=
  { x with mc := {}, uc := { atCeiling k cond x.uc with cntRestarts := min 0xFFFF (x.uc.cntRestarts + 1) } }

/-- With no injection armed the checkers that see the routine leave the state: what an expiry comes to turns on the condition
and on the restarts alone. Condition 9 is a wait for the mask generator, whose command ends (R126). -/
theorem exec_waitCeilingExpiry {s : State} {e : Fin 64} {k : Fin 128} {cond : Fin 64}
    (hmay : mayExpire (eng s e) k cond = true) (hunarmed : (fltU s .hub e).armed = false) :
    (cond.val ≠ 9 → issueRestarts (eng s e).uc ≠ 4 → ∃ t, exec (.waitCeilingExpiry e k cond) s = .next t ∧
      Counted (setEng e (restarted k cond (eng s e)) s) t) ∧
    (cond.val ≠ 9 → issueRestarts (eng s e).uc = 4 → ∃ u, exec (.waitCeilingExpiry e k cond) s = .next
      (faultAt { blk := .hub, set := e, checker := 10, cls := 1, inst := (eng s e).inst } (eng s e).cmd u)) ∧
    (cond.val = 9 → ∀ id c, (eng s e).cmd = some id → cmdU s id = some c →
      ∃ u, exec (.waitCeilingExpiry e k cond) s = .next (entropyFail { c with switched := true } u) ∧
        u.hif.cmds = s.hif.cmds ∧ (eng u e).uc.running = false) := by
  have hout := inReset_of_kernRuns (kernRuns_of_mayExpire hmay)
  have hcount : Counted s (cadEvent .hub e 6 1 (!(eng s e).owner) (eng s e).inst s) :=
    cadEvent_counted _ _ _ _ _ _ _ (by decide)
  have hunf : exec (.waitCeilingExpiry e k cond) s = execWaitCeilingExpiry e k cond s := rfl
  rw [hunf, execWaitCeilingExpiry, if_pos hmay]
  dsimp only
  rw [kAccess_unarmed _ _ _ _ _ hunarmed, if_neg (by simp [hout])]
  refine ⟨fun hcond hfew => ?_, fun hcond hfour => ?_, fun hcond id c hrun hcmd => ?_⟩
  · rw [if_neg hcond, if_neg hfew]
    exact ⟨_, rfl, (hcount.setEng _ _).trans (cadEvent_counted _ _ _ _ _ _ _ (by decide))⟩
  · rw [if_neg hcond, if_pos hfour]
    exact ⟨_, rfl⟩
  · have hcmds : ∀ x, (setEng e x (cadEvent .hub e 6 1 (!(eng s e).owner) (eng s e).inst s)).hif.cmds = s.hif.cmds :=
      fun x => by rw [setEng_hif, hcount.cmds]
    rw [if_pos hcond, hrun, Option.bind_some, cmdU_congr (hcmds _), hcmd]
    refine ⟨_, rfl, hcmds _, ?_⟩
    rw [eng_setEng_same]

/-! ### The hold timer (R177) -/

theorem exec_holdTimerExpiry {s : State} {e : Fin 64} (hruns : kernRuns (eng s e) = true) :
    exec (.holdTimerExpiry e) s = .next
      (faultAt { blk := .hub, set := e, checker := 1, cls := 2, inst := (eng s e).inst } (eng s e).cmd
        (setEng e { eng s e with uc := { (eng s e).uc with guard := true, committed := true, running := false } } s)) := by
  have hunf : exec (.holdTimerExpiry e) s = execHoldTimerExpiry e s := rfl
  rw [hunf, execHoldTimerExpiry]
  dsimp only
  rw [if_pos hruns]

/-! ### Interrupts (R178, R179, R181, R426) -/

/-- A routine abandoned at its first word: its issue is open again, and a restart is counted. -/
def abandonedUc (u : Uc) : Uc :=
  if u.running then
    { u with
      running := false, issue := true, cntRestarts := min 0xFFFF (u.cntRestarts + 1), restarts := issueRestarts u }
  else u

/-- An engine after an interrupt, with `halt` one that grants a halt: past its commit point the routine goes on to its end and
the halt is held till then; otherwise the routine is abandoned and the halt holds the engine at once. -/
def interrupted (halt : Bool) (x : Engine) : Engine :=
  if x.mc.live = true ∧ x.uc.committed = true then { x with mc := { x.mc with held := x.mc.held || halt } }
  else { x with mc := {}, uc := abandonedUc x.uc, halted := x.halted || halt }

/-- An interrupt that grants no halt leaves alone what it does not abandon. -/
theorem interrupted_false (x : Engine) : interrupted false x =
    if x.mc.live = true ∧ x.uc.committed = true then x else { x with mc := {}, uc := abandonedUc x.uc } := by
  simp only [interrupted, Bool.or_false]

/-- In a device that is awake an interrupt interrupts its engine, and may count the restart. -/
theorem engineInterrupt_interrupts {s : State} {e : Fin 64} {kind : Fin 3} {halt : Bool}
    (hhalt : (kind == 1 && s.dbg.session && s.dbg.perm.testBit 3) = halt) (hawake : halt = true → s.pwr.mode ≠ .freewheel)
    (hcmd : (eng s e).cmd.isSome = true) :
    ∃ t, exec (.engineInterrupt e kind) s = .next (setEng e (interrupted halt (eng s e)) t) ∧ Counted s t := by
  have hunf : exec (.engineInterrupt e kind) s = execEngineInterrupt e kind s := rfl
  have hwake : (if halt then wake s else s) = s := by
    split
    · next h => exact wake_awake (hawake h)
    · rfl
  have hbusy : ¬ (eng s e).cmd.isNone = true := by
    rw [← Option.not_isSome, hcmd]
    decide
  rw [hunf, execEngineInterrupt]
  dsimp only
  rw [hhalt, hwake, if_neg hbusy, interrupted]
  split
  · exact ⟨s, rfl, .refl s⟩
  · exact ⟨_, rfl, ite_counted (cadEvent_counted _ _ _ _ _ _ _ (by decide))⟩

/-- Settles O32: each event by its lemma above; an interrupt of kind 0 or 2 grants no halt, one of kind 1 as session and
permission say. -/
theorem routineEventsFollowTheirRules : Obligations.RoutineEventsFollowTheirRules := by
  unfold Obligations.RoutineEventsFollowTheirRules
  intro s e k cond
  refine ⟨fun hmay hunarmed hcond => ?_, fun hmay hunarmed hcond => ?_, exec_holdTimerExpiry, fun hcmd kind hkind => ?_,
    fun hcmd hawake => ?_⟩
  · obtain ⟨hrestarts, hfaults, -⟩ := exec_waitCeilingExpiry hmay hunarmed
    refine ⟨fun hfew => ?_, fun hissue hfour => hfaults hcond ((issueRestarts_eq_four _).mpr ⟨hissue, hfour⟩)⟩
    obtain ⟨t, ht, hcount⟩ := hrestarts hcond (by rwa [Ne, issueRestarts_eq_four, not_and_or, Bool.not_eq_true])
    obtain ⟨hframe, heng⟩ := hcount.kernelFrame_of_setEng
    refine ⟨t, ht, hframe, ?_⟩
    rw [heng]
    exact ⟨rfl, rfl, rfl, rfl, rfl, rfl, rfl⟩
  · obtain ⟨-, -, hends⟩ := exec_waitCeilingExpiry hmay hunarmed
    exact hends hcond
  · have hnone : (kind == 1 && s.dbg.session && s.dbg.perm.testBit 3) = false := by
      rcases hkind with rfl | rfl <;> rfl
    obtain ⟨t, ht, hcount⟩ := engineInterrupt_interrupts hnone (fun h => absurd h (by decide)) hcmd
    refine ⟨_, ht, kernelFrame_of _ _ hcount, ?_⟩
    rw [eng_setEng_same, interrupted_false]
    rfl
  · obtain ⟨t, ht, -⟩ := engineInterrupt_interrupts (kind := 1) (halt := s.dbg.session && s.dbg.perm.testBit 3) rfl
      (fun _ => hawake) hcmd
    refine ⟨_, ht, ?_⟩
    rw [eng_setEng_same, interrupted]
    by_cases hlate : (eng s e).mc.live = true ∧ (eng s e).uc.committed = true
    · simp only [hlate, and_self, if_true]
    · simp only [hlate, if_false]

end Sys2Proof.Machine
end

section
/-! The counterexample to the statement on the rows of BOOT: JOURNAL_RECOVERY in a state that notes stages of an install in
flight (R259). Every write of a journal slot drops the noted stages of that slot, so that the vault is not as before but for
`recovered` and `jseq`, as the statement says for every state. The hypothesis that it lacks is `cuts = []`, which RESET leaves
(`wipe`). -/
namespace Sys2Proof.Machine
open Sys2Proof

/-! ### Recovery of one slot (Table 11-8) -/

/-- A slot whose install was abandoned: its COMMIT record is blank, its PENDING record a tombstone. -/
def tombstone (j : JSlot) : JSlot := { pend := { j.pend with kind := 3 }, commit := {} }

/-- An install that waits for its commit and brought no parent entry is abandoned. -/
theorem recoverSlot_pending {s : State} {n : Nat} (hp : jPending (slotU s n) = true) (hi : (slotU s n).pend.install ≠ 1) :
    recoverSlot s n = setSlot n (tombstone (slotU s n)) s := by
  have hopen := hp
  simp only [jPending, Bool.and_eq_true, beq_iff_eq, Bool.not_eq_true'] at hopen
  obtain ⟨⟨-, hkind⟩, hno⟩ := hopen
  simp [recoverSlot, hp, hi, hkind, hno, tombstone]

/-- Recovery leaves a slot that holds a tombstone, or no record. -/
theorem recoverSlot_settled {s : State} {n : Nat}
    (h : (jValid (slotU s n).pend = true ∧ (slotU s n).pend.kind = 3) ∨ jEmpty (slotU s n) = true) : recoverSlot s n = s := by
  rcases h with h | h
  · simp [recoverSlot, h]
  · simp only [jEmpty, Bool.and_eq_true, Bool.not_eq_true'] at h
    obtain ⟨hpend, hcommit⟩ := h
    simp [recoverSlot, jPending, jCommitted, hpend, hcommit]

theorem setSlot_cuts (n : Nat) (j : JSlot) (s : State) :
    (setSlot n j s).kvt.cuts = s.kvt.cuts.filter (fun c => !c.2.any (fun x => x.slots.any (·.1 == n))) := rfl

/-- JOURNAL_RECOVERY leaves the stages noted that the recovery of the 256 slots leaves (R261). -/
theorem exec_journalRecovery_cuts {s : State} (hm : s.pwr.mode = .boot) (hs : s.lcs.sensed = true)
    (hr : s.kvt.recovered = false) (hst : s.lcs.st ≠ .scrapped) :
    ∃ t, exec .journalRecovery s = .next t ∧ t.kvt.cuts = ((List.range 256).foldl recoverSlot s).kvt.cuts := by
  have hexec : exec .journalRecovery s = execJournalRecovery s := rfl
  rw [hexec, execJournalRecovery, if_pos ⟨hm, hs, by simp [hr], hst⟩]
  dsimp only
  generalize (List.range 256).foldl recoverSlot s = t
  exact ⟨_, rfl, rfl⟩

/-! ### The state -/

/-- A PENDING record without a COMMIT record. -/
def waitingRec : JRec := { kind := 1, valid := true }

/-- BOOT after sensing, with an install that waits in slot 0 and the stages of its PENDING record noted. -/
def stagesNoted : State :=
  { State.reset with
    pwr := { mode := .boot }, lcs := { sensed := true }, bbram := { journal := [(0, { pend := waitingRec })] }
    kvt := { cuts := [(0, pendStages 0 {} waitingRec)] } }

/-- The install is abandoned; no other slot is written. -/
theorem stagesNoted_recovered :
    (List.range 256).foldl recoverSlot stagesNoted = setSlot 0 (tombstone { pend := waitingRec }) stagesNoted := by
  have hfirst : recoverSlot stagesNoted 0 = setSlot 0 (tombstone { pend := waitingRec }) stagesNoted :=
    recoverSlot_pending (by decide) (by decide)
  have hrest : ∀ n, recoverSlot (setSlot 0 (tombstone { pend := waitingRec }) stagesNoted) n =
      setSlot 0 (tombstone { pend := waitingRec }) stagesNoted := fun n => by
    refine recoverSlot_settled ?_
    rw [slotU_setSlot]
    split
    · exact .inl (by decide)
    · next hn =>
      have hblank : slotU stagesNoted n = {} := if_neg (Ne.symm hn)
      exact .inr (by rw [hblank]; decide)
  rw [List.range_succ_eq_map, List.foldl_cons, hfirst, List.foldl_fixed' hrest]

/-- Refutes O58: recovery of slot 0 drops the stages noted of it, where the statement has the vault keep them. -/
theorem not_bootRows : ¬ Obligations.BootRows := by
  unfold Obligations.BootRows
  intro h
  obtain ⟨-, hboot, -⟩ := h stagesNoted
  obtain ⟨-, -, hrecovery, -⟩ := hboot rfl
  obtain ⟨t, ht, hkvt, -⟩ := hrecovery rfl rfl (by decide)
  obtain ⟨u, hu, hcuts⟩ := exec_journalRecovery_cuts (s := stagesNoted) rfl rfl rfl (by decide)
  have hdropped : u.kvt.cuts = [] := by
    rw [hcuts, stagesNoted_recovered, setSlot_cuts]
    decide
  rw [← Host.Outcome.next.inj (ht.symm.trans hu), hkvt] at hdropped
  exact absurd hdropped (by decide)

end Sys2Proof.Machine
end

section
/-! The digest engines: their registers, the key-feed port, the timeout and the end of a message (R233-R243). -/
namespace Sys2Proof.Machine
open Sys2Proof

/-! ### What the shared operations of a digest engine leave -/

theorem dgeU_congr {s t : State} (h : t.dge = s.dge) (m : Nat) : dgeU t m = dgeU s m := by
  unfold dgeU
  rw [h]

/-- A block that goes to core 31 changes nothing but the hash arrays. -/
theorem dgePump_eq (u : Nat) (s : State) : ∃ a, dgePump u s = { s with hsa := a } := by
  unfold dgePump
  split
  · exact ⟨_, rfl⟩
  · exact ⟨s.hsa, rfl⟩

theorem dgeStop_dge (u : Nat) (s : State) : (dgeStop u s).dge = s.dge := by
  have hset : ∀ a, (setHsa u a s).dge = s.dge := fun _ => rfl
  unfold dgeStop
  exact ite_keeps State.dge (hset _) rfl

/-- An abort under manager firmware ends no command (R239). -/
theorem dgeAbortFault_manager {s : State} {u : Nat} (h : (dgeU s u).owner = .manager) : dgeAbortFault u s = s := by
  unfold dgeAbortFault
  simp only [h]

theorem dgeAbortFault_stopped {s : State} {u : Nat} {d : Dge} (h : d.owner = .manager) :
    dgeAbortFault u (dgeStop u (setDge u d s)) = dgeStop u (setDge u d s) := by
  refine dgeAbortFault_manager ?_
  rw [dgeU_congr (dgeStop_dge ..), dgeU_setDge_same]
  exact h

/-! ### Access to the registers (R233) -/

theorem dgeOwned_foreign {s : State} {src : Src} {u : Nat} (h : regsAnswer s src) (ho : (dgeU s u).owner ≠ srcOwner src)
    (f : State → State) : dgeOwned src u f s = setDge u { dgeU s u with foreign := true } s := by
  unfold dgeOwned
  rw [if_neg (not_not_intro h.1), if_neg ho]

theorem dgeOwned_owner {s : State} {src : Src} {u : Nat} (h : regsAnswer s src) (ho : (dgeU s u).owner = srcOwner src)
    (f : State → State) : dgeOwned src u f s = f s := by
  unfold dgeOwned
  rw [if_neg (not_not_intro h.1), if_pos ho]

/-- The registers that only the owner writes. -/
theorem exec_dgeWrite_foreign {s : State} {src : Src} {u : Fin 16} {v : Word} (h : regsAnswer s src)
    (ho : (dgeU s u).owner ≠ srcOwner src) {c : Instr}
    (hc : c ∈ [Instr.dgeLen src u v, .dgeDataWord src u v, .dgeLastCount src u v, .dgeKeyfeedGo src u v]) :
    exec c s = .next (setDge u { dgeU s u with foreign := true } s) := by
  have howned : ∃ f, exec c s = .next (dgeOwned src u f (touch src s)) := by
    simp only [List.mem_cons, List.not_mem_nil, or_false] at hc
    rcases hc with rfl | rfl | rfl | rfl <;> exact ⟨_, rfl⟩
  obtain ⟨f, hf⟩ := howned
  rw [hf, touch_awake src h.2, dgeOwned_foreign h ho]

/-! ### Claim and release (R235, R243, R245) -/

theorem exec_dgeClaim {s : State} {src : Src} (u : Fin 16) (h : regsAnswer s src) :
    exec (.dgeClaim src u) s = .next (if srcOwner src = .manager ∧ dgeFree s u = true ∧ dgeHeld s 0 < (instU s 0).dgeSlots then
      setDge u { dgeU s u with owner := .manager, inst := 0, st := .owned } s else s) := by
  have hexec : exec (.dgeClaim src u) s = execDgeClaim src u s := rfl
  rw [hexec, execDgeClaim, touch_awake src h.2]
  simp only [h.1, true_and]

/-- A release zeroes the unit, ends its work on core 31 and, where bytes were discarded, notes that at its command. -/
theorem releaseDge_eq (n : Nat) (s : State) : ∃ a l, releaseDge n s =
    settleFlt .dge n (setDge n (dgeRelease (dgeU s n)) { s with hsa := a, hif := { s.hif with cmds := l } }) ∧
      ((dgeU s n).truncSeen = false → l = s.hif.cmds) := by
  unfold releaseDge
  dsimp only
  split
  · split
    · next htrunc => exact ⟨_, _, rfl, fun hseen => by simp [hseen] at htrunc⟩
    · exact ⟨_, _, rfl, fun _ => rfl⟩
  · exact ⟨_, _, rfl, fun _ => rfl⟩

theorem exec_dgeRelease {s : State} {src : Src} {u : Fin 16} (h : regsAnswer s src) (ho : (dgeU s u).owner = srcOwner src) :
    exec (.dgeRelease src u) s = .next (releaseDge u s) := by
  have hexec : exec (.dgeRelease src u) s = execDgeRelease src u s := rfl
  rw [hexec, execDgeRelease, touch_awake src h.2, if_pos ⟨h.1, ho⟩]

/-! ### DGE_LEN (R236) -/

theorem exec_dgeLen {s : State} {src : Src} {u : Fin 16} (v : Word) (h : regsAnswer s src)
    (ho : (dgeU s u).owner = srcOwner src) : exec (.dgeLen src u v) s = .next (
      if (dgeU s u).st = .absorbing ∨ (dgeU s u).st = .finishing then
        setDge u { dgeU s u with cfgIgnored := (dgeU s u).cfgIgnored || decide ((dgeU s u).len ≠ v.toNat) } s
      else dgeStart u v.toNat s) := by
  have hexec : exec (.dgeLen src u v) s = execDgeLen src u v s := rfl
  rw [hexec, execDgeLen, touch_awake src h.2, dgeOwned_owner h ho]

/-- The unit as DGE_LEN arms it, its two outcomes told apart by the configuration alone. -/
theorem dgeArm_eq (len : Nat) (d : Dge) : dgeArm len d = { d with
    len := len, equal := false, notEqual := false, truncated := false, timeout := false, dmaError := false,
    short := false, count := 0, msg := [], result := [],
    offloaded := dgeCfgOk d && (decide (4096 ≤ len) || d.keyed), done := 0,
    total := if d.keyed then keyedJobs d.alg (d.key.getD []).length [] len (dgeOutLen d) else digestJobs d.alg len (dgeOutLen d),
    st := if dgeCfgOk d = false then .aborted else if len = 0 then .finishing else .absorbing } := by
  unfold dgeArm
  cases hok : dgeCfgOk d <;> rfl

/-- Arming on the register path changes the unit and the hash arrays. -/
theorem dgeStart_register {s : State} {u : Nat} (len : Nat) (h : (dgeU s u).source = false) :
    ∃ a, dgeStart u len s = { setDge u (dgeArm len (dgeU s u)) s with hsa := a } := by
  have hsource : (dgeArm len (dgeU s u)).source = false := by
    rw [dgeArm_eq]
    exact h
  unfold dgeStart
  simp only [hsource, Bool.false_eq_true, false_and, if_false]
  exact dgePump_eq ..

/-! ### Message bytes (R237, R238) -/

/-- The state of a unit that has appended bytes says whether its declared length is reached. -/
theorem dgeAppend_st (bs : Bytes) (d : Dge) :
    (dgeAppend bs d).st = if (dgeAppend bs d).count = d.len then .finishing else .absorbing := rfl

theorem dgeAppend_finishing (bs : Bytes) (d : Dge) : (dgeAppend bs d).st = .finishing ↔ (dgeAppend bs d).count = d.len := by
  simp [dgeAppend_st]

theorem dgeAppend_absorbing (bs : Bytes) (d : Dge) : (dgeAppend bs d).st = .absorbing ↔ (dgeAppend bs d).count ≠ d.len := by
  simp [dgeAppend_st]

theorem dgeAppend_truncated (bs : Bytes) (d : Dge) :
    (dgeAppend bs d).truncated = true ↔ d.truncated = true ∨ d.len - d.count < bs.length := by
  change (d.truncated || decide (d.len - d.count < bs.length)) = true ↔ _
  rw [Bool.or_eq_true, decide_eq_true_iff]

theorem dgeAppend_count (bs : Bytes) (d : Dge) : (dgeAppend bs d).count = d.count + min bs.length (d.len - d.count) := rfl

theorem dgeAppend_msg (bs : Bytes) (d : Dge) : (dgeAppend bs d).msg = d.msg ++ bs.take (d.len - d.count) := rfl

/-- Two register words are eight bytes. -/
theorem length_dataWord (lo hi : Word) : (leBytes 4 lo.toNat ++ leBytes 4 hi.toNat).length = 8 := by
  rw [List.length_append, length_leBytes, length_leBytes]

theorem exec_dgeDataWord {s : State} {src : Src} {u : Fin 16} (v : Word) (h : regsAnswer s src)
    (ho : (dgeU s u).owner = srcOwner src) (hst : (dgeU s u).st = .absorbing) (hsource : (dgeU s u).source = false) :
    exec (.dgeDataWord src u v) s = .next (dgePump u (setDge u
      (dgeAppend (leBytes 4 (dgeU s u).dataLo.toNat ++ leBytes 4 v.toNat) (dgeU s u)) s)) := by
  have hexec : exec (.dgeDataWord src u v) s = execDgeDataWord src u v s := rfl
  rw [hexec, execDgeDataWord, touch_awake src h.2, dgeOwned_owner h ho, dgeWord, if_pos ⟨hst, by simp [hsource]⟩]

/-- A data word appends its eight bytes to the unit's message, as far as the declared length needs them. -/
theorem dgeDataWord_appends {s : State} {src : Src} {u : Fin 16} (v : Word) (h : regsAnswer s src)
    (ho : (dgeU s u).owner = srcOwner src) (hst : (dgeU s u).st = .absorbing) (hsource : (dgeU s u).source = false) :
    ∃ d, exec (.dgeDataWord src u v) s = .next (dgePump u (setDge u d s)) ∧
      d.msg = (dgeU s u).msg ++ (leBytes 4 (dgeU s u).dataLo.toNat ++ leBytes 4 v.toNat).take ((dgeU s u).len - (dgeU s u).count) ∧
      d.count = (dgeU s u).count + min 8 ((dgeU s u).len - (dgeU s u).count) ∧
      (d.truncated = true ↔ (dgeU s u).truncated = true ∨ (dgeU s u).len - (dgeU s u).count < 8) ∧
      (d.st = .finishing ↔ d.count = d.len) ∧ (d.st = .absorbing ↔ d.count ≠ d.len) ∧ d.len = (dgeU s u).len := by
  have hlen := length_dataWord (dgeU s u).dataLo v
  refine ⟨_, exec_dgeDataWord v h ho hst hsource, dgeAppend_msg .., ?_, ?_, dgeAppend_finishing .., dgeAppend_absorbing .., rfl⟩
  · rw [dgeAppend_count, hlen]
  · rw [dgeAppend_truncated, hlen]

/-! ### DGE_LAST_COUNT (R238, R239) -/

/-- The bytes of the partial word that DGE_LAST_COUNT appends. -/
abbrev lastBytes (c : Nat) (d : Dge) : Bytes := (leBytes 4 d.lastLo.toNat ++ leBytes 4 d.lastHi.toNat).take c

theorem length_lastBytes {c : Nat} (hc : c ≤ 8) (d : Dge) : (lastBytes c d).length = c := by
  rw [List.length_take, length_dataWord, Nat.min_eq_left hc]

theorem dgeLast_absorbing {d : Dge} (hst : d.st = .absorbing) (hsource : d.source = false) (c : Nat) :
    dgeLast c d = if (dgeAppend (lastBytes c d) d).count < d.len then
      { dgeAppend (lastBytes c d) d with st := .aborted, short := true, msg := [] } else dgeAppend (lastBytes c d) d := by
  unfold dgeLast
  rw [if_pos ⟨hst, by simp [hsource]⟩]

theorem dgeLast_owner {d : Dge} (hst : d.st = .absorbing) (hsource : d.source = false) (c : Nat) :
    (dgeLast c d).owner = d.owner := by
  rw [dgeLast_absorbing hst hsource]
  split <;> rfl

/-- The last bytes reach the declared length: the message is complete. -/
theorem dgeLast_complete {d : Dge} {c : Nat} (hst : d.st = .absorbing) (hsource : d.source = false) (hc : c ≤ 8)
    (hreach : d.len ≤ d.count + c) (hcount : d.count ≤ d.len) :
    (dgeLast c d).st = .finishing ∧ (dgeLast c d).count = d.len ∧ (dgeLast c d).msg = d.msg ++
      (leBytes 4 d.lastLo.toNat ++ leBytes 4 d.lastHi.toNat).take (d.len - d.count) := by
  have hend : (dgeAppend (lastBytes c d) d).count = d.len := by
    rw [dgeAppend_count, length_lastBytes hc]
    omega
  rw [dgeLast_absorbing hst hsource, if_neg (by omega)]
  refine ⟨(dgeAppend_finishing _ _).mpr hend, hend, ?_⟩
  rw [dgeAppend_msg, List.take_take, Nat.min_eq_left (by omega)]

/-- The message ends short of the declared length. -/
theorem dgeLast_short {d : Dge} {c : Nat} (hst : d.st = .absorbing) (hsource : d.source = false) (hc : c ≤ 8)
    (hshort : d.count + c < d.len) :
    (dgeLast c d).st = .aborted ∧ (dgeLast c d).short = true ∧ (dgeLast c d).msg = [] := by
  have hend : (dgeAppend (lastBytes c d) d).count < d.len := by
    rw [dgeAppend_count, length_lastBytes hc]
    omega
  rw [dgeLast_absorbing hst hsource, if_pos hend]
  exact ⟨rfl, rfl, rfl⟩

theorem fld_lt (v : Word) (lo w : Nat) : fld v lo w < 2 ^ w := Nat.mod_lt _ (Nat.two_pow_pos w)

theorem exec_dgeLastCount {s : State} {src : Src} {u : Fin 16} (v : Word) (h : regsAnswer s src)
    (ho : (dgeU s u).owner = srcOwner src) (hmanager : srcOwner src = .manager) (hst : (dgeU s u).st = .absorbing)
    (hsource : (dgeU s u).source = false) :
    exec (.dgeLastCount src u v) s = .next (if (dgeLast (fld v 0 3) (dgeU s u)).st = .aborted then
      dgeStop u (setDge u (dgeLast (fld v 0 3) (dgeU s u)) s)
    else dgePump u (setDge u (dgeLast (fld v 0 3) (dgeU s u)) s)) := by
  have hexec : exec (.dgeLastCount src u v) s = execDgeLastCount src u v s := rfl
  have howner := (dgeLast_owner hst hsource (fld v 0 3)).trans (ho.trans hmanager)
  rw [hexec, execDgeLastCount, touch_awake src h.2, dgeOwned_owner h ho]
  simp only [hst, and_true, dgeAbortFault_stopped howner]

/-! ### DGE_KEYFEED_GO (R242) -/

/-- A released engine stands at its command boundary. -/
theorem eng_releaseEngine (i start n : Nat) (s : State) :
    ∃ x, eng (releaseEngine i start n s) n = engBoundary s.hub.kmem x := by
  have hsettled : ∀ b t, eng (settleFlt b n t) n = eng t n := fun _ _ => rfl
  unfold releaseEngine
  rw [hsettled, updEng, eng_setEng_same]
  exact ⟨_, rfl⟩

/-- The engine whose key is fed has ended its part of the command. -/
theorem keyFeed_engine (k n u : Nat) (kr : KeyReg) (s : State) :
    (eng (keyFeed k n u kr s) n).key = none ∧ (eng (keyFeed k n u kr s) n).cmd = none ∧
      (eng (keyFeed k n u kr s) n).busy = false := by
  unfold keyFeed
  dsimp only
  rw [updEng, eng_setEng_same]
  obtain ⟨x, hx⟩ := eng_releaseEngine _ _ n _
  rw [hx]
  exact ⟨rfl, rfl, rfl⟩

theorem exec_dgeKeyfeedGo {s : State} {u k : Fin 16} {v : Word} {kr : KeyReg} {id : Nat} (h : regsAnswer s (.core k))
    (ho : (dgeU s u).owner = .core k) (hkeyed : (dgeU s u).keyed = true) (hgo : flag v 6 = true)
    (habsorb : (dgeU s u).st ≠ .absorbing) (hfinish : (dgeU s u).st ≠ .finishing) (hkey : (eng s (fld v 0 6)).key = some kr)
    (hcmd : (eng s (fld v 0 6)).cmd = some id) (hcore : (coreU s k).cmd = some id) :
    exec (.dgeKeyfeedGo (.core k) u v) s = .next (keyFeed k (fld v 0 6) u kr s) := by
  have hexec : exec (.dgeKeyfeedGo (.core k) u v) s = execDgeKeyfeedGo (.core k) u v s := rfl
  rw [hexec, execDgeKeyfeedGo, touch_awake _ h.2, dgeOwned_owner h ho]
  simp only [hkey, hkeyed, hgo, hcmd, hcore, Option.isSome_some, and_self, ne_eq, habsorb, hfinish, not_false_iff, if_true]

theorem unitView_hostMem_kvt {s t : State} (h : unitView t = unitView s) : t.host.mem = s.host.mem ∧ t.kvt = s.kvt := by
  have e := congrArg (fun x : State => (x.host.mem, x.kvt)) h
  simp only [Prod.mk.injEq] at e
  exact e

/-! ### DGE_TIMEOUT_EXPIRY (R239) -/

theorem exec_dgeTimeoutExpiry_absorbing {s : State} {u : Fin 16} (hst : (dgeU s u).st = .absorbing)
    (hsource : (dgeU s u).source = false) (howner : (dgeU s u).owner = .manager) :
    exec (.dgeTimeoutExpiry u) s =
      .next (dgeStop u (setDge u { dgeU s u with st := .aborted, timeout := true, msg := [] } s)) := by
  have hexec : exec (.dgeTimeoutExpiry u) s = execDgeTimeoutExpiry u s := rfl
  rw [hexec, execDgeTimeoutExpiry, if_pos ⟨hst, by simp [hsource]⟩]
  exact congrArg Host.Outcome.next (dgeAbortFault_stopped howner)

theorem exec_dgeTimeoutExpiry_idle {s : State} {u : Fin 16} (h : (dgeU s u).st ≠ .absorbing ∨ (dgeU s u).source = true) :
    exec (.dgeTimeoutExpiry u) s = .next s := by
  have hexec : exec (.dgeTimeoutExpiry u) s = execDgeTimeoutExpiry u s := rfl
  rw [hexec, execDgeTimeoutExpiry, if_neg]
  rintro ⟨hst, hsource⟩
  exact h.elim (fun hn => hn hst) hsource

/-! ### DGE_FINISH (R232, R240, R241) -/

theorem exec_dgeFinish_waits {s : State} {u : Fin 16} (hoff : (dgeU s u).offloaded = true)
    (hleft : (dgeU s u).done < (dgeU s u).total) : exec (.dgeFinish u) s = .next s := by
  have hexec : exec (.dgeFinish u) s = execDgeFinish u s := rfl
  rw [hexec, execDgeFinish, if_neg]
  rintro ⟨-, hdone⟩
  exact absurd (hdone hoff) (Nat.not_le.mpr hleft)

theorem dgeFinish_compare {d : Dge} (h : d.compare = true) : dgeFinish d = { d with
    st := .done, equal := decide (fit (dgeOutLen d) d.expect = dgeValue d),
    notEqual := !decide (fit (dgeOutLen d) d.expect = dgeValue d), result := [], msg := [] } := by
  unfold dgeFinish
  rw [if_pos h]

theorem dgeFinish_digest {d : Dge} (h : d.compare = false) :
    dgeFinish d = { d with st := .done, result := dgeValue d, msg := [] } := by
  unfold dgeFinish
  rw [if_neg (by simp [h])]

/-- A message whose value stays in the unit: it finishes there, and its blocks are counted. -/
theorem exec_dgeFinish_held {s : State} {u : Fin 16} (hst : (dgeU s u).st = .finishing)
    (hdone : (dgeU s u).offloaded = true → (dgeU s u).total ≤ (dgeU s u).done)
    (hheld : (dgeU s u).compare = true ∨ (dgeU s u).source = false) :
    ∃ t, Counted s t ∧ exec (.dgeFinish u) s = .next (setDge u (dgeFinish (dgeU s u)) t) := by
  have hexec : exec (.dgeFinish u) s = execDgeFinish u s := rfl
  have hstays : ¬ ((dgeU s u).source = true ∧ ¬ (dgeU s u).compare = true) := by
    rintro ⟨hsource, hcompare⟩
    exact hheld.elim hcompare (by simp [hsource])
  rw [hexec, execDgeFinish, if_pos ⟨hst, hdone⟩]
  dsimp only
  rw [if_neg hstays]
  exact ⟨_, (blkEvent_counted ..).trans (blkEvent_counted ..), rfl⟩

theorem hostPut_mem_congr {s t : State} (h : t.host.mem = s.host.mem) (a : Nat) (b : Bytes) :
    (hostPut a b t).host.mem = (hostPut a b s).host.mem := by
  unfold hostPut
  rw [h]

/-- A digest on the DMA feed is one store of host memory at DGE_DMA_OUT. -/
theorem exec_dgeFinish_dma {s : State} {u : Fin 16} (hst : (dgeU s u).st = .finishing)
    (hdone : (dgeU s u).offloaded = true → (dgeU s u).total ≤ (dgeU s u).done) (hcompare : (dgeU s u).compare = false)
    (hsource : (dgeU s u).source = true) (hlog : (instU s (dgeU s u).inst).logging = false)
    (hok : hostOk s (dgeU s u).inst (dgeU s u).dmaOut.toNat (dgeValue (dgeU s u)).length = true) :
    ∃ t, t.host.mem = (hostPut (dgeU s u).dmaOut.toNat (dgeValue (dgeU s u)) s).host.mem ∧
      exec (.dgeFinish u) s = .next (setDge u (dgeFinish (dgeU s u)) t) := by
  have hexec : exec (.dgeFinish u) s = execDgeFinish u s := rfl
  have hevents := digestEvents_counted (dgeU s u).alg (dgeU s u).len s
  have hresult : (dgeFinish (dgeU s u)).result = dgeValue (dgeU s u) := by rw [dgeFinish_digest hcompare]
  obtain ⟨t, hwrite, hcount⟩ := dmaWrite_ok (dgeU s u).inst (dgeU s u).dmaOut.toNat (dgeValue (dgeU s u))
    (digestEvents (dgeU s u).alg (dgeU s u).len s) ((rowView_hostOk hevents.rowView _ _ _).trans hok)
    (by rw [hevents.instU]; exact hlog)
  refine ⟨t, hcount.hostMem.trans (hostPut_mem_congr hevents.hostMem _ _), ?_⟩
  unfold digestEvents at hwrite
  rw [hexec, execDgeFinish, if_pos ⟨hst, hdone⟩]
  simp only [hsource, hcompare, Bool.false_eq_true, not_false_iff, and_self, if_true, hresult, hwrite]

/-! ### The obligation -/

/-- Settles O51: each register by its equation for the owner, where the registers answer; a message's end is `dgeFinish` of
its unit after events that only count. -/
theorem digestEngineRegisterCommands : Obligations.DigestEngineRegisterCommands := by
  unfold Obligations.DigestEngineRegisterCommands
  intro s u
  refine ⟨fun src h => ⟨exec_dgeClaim u h, fun ho => ?_, fun v ho c hc => exec_dgeWrite_foreign h ho hc, fun v ho => ?_⟩,
    fun k v kr id h ho hkeyed hgo habsorb hfinish harm hkey hcmd hcore => ?_, exec_dgeTimeoutExpiry_absorbing,
    exec_dgeTimeoutExpiry_idle, fun _ hoff hleft => exec_dgeFinish_waits hoff hleft, fun hst hdone => ?_⟩
  · obtain ⟨a, l, hrelease, hcmds⟩ := releaseDge_eq u s
    have hunit : dgeU (releaseDge u s) u = dgeRelease (dgeU s u) := by
      rw [hrelease]
      exact dgeU_setDge_same ..
    refine ⟨releaseDge u s, exec_dgeRelease h ho, ?_⟩
    rw [hunit, hrelease]
    refine ⟨rfl, rfl, rfl, rfl, rfl, rfl, rfl, rfl, fun m hm => ?_, rfl, fun hseen => ?_, rfl, rfl, rfl, rfl, rfl, rfl, rfl, rfl,
      Tbl.get_set_same .., rfl, rfl, rfl⟩
    · exact (dgeU_setDge ..).trans (if_neg hm)
    · rw [hcmds hseen]
      rfl
  · refine ⟨fun hbusy => ?_, fun habsorb hfinish hsource => ?_, dgeDataWord_appends v h ho, fun hst hsource hmanager => ?_⟩
    · rw [exec_dgeLen v h ho, if_pos hbusy]
    · obtain ⟨a, ha⟩ := dgeStart_register v.toNat hsource
      refine ⟨_, exec_dgeLen v h ho, ?_⟩
      rw [if_neg (not_or.mpr ⟨habsorb, hfinish⟩), ha]
      refine ⟨⟨rfl, rfl, rfl, rfl, rfl, rfl, rfl, rfl, rfl, rfl, rfl, rfl, rfl, rfl, rfl, rfl, rfl, rfl, rfl, rfl⟩, rfl, rfl, rfl,
        fun m hm => (dgeU_setDge ..).trans (if_neg hm), ?_⟩
      have hv : v = 0 ↔ v.toNat = 0 := BitVec.toNat_inj.symm
      simp only [hv]
      exact (dgeU_setDge_same ..).trans (dgeArm_eq ..)
    · refine ⟨_, exec_dgeLastCount v h ho hmanager hst hsource, ?_⟩
      have hc : fld v 0 3 ≤ 8 := (fld_lt v 0 3).le
      split
      · next hreach => exact dgeLast_complete hst hsource hc hreach.1 hreach.2
      · next hreach => exact fun hcount => dgeLast_short hst hsource hc (by omega)
  · obtain ⟨hview, hunit, -⟩ := keyFeed_leaves harm k (fld v 0 6) kr
    obtain ⟨hcleared, hended, hidle⟩ := keyFeed_engine k (fld v 0 6) u kr s
    obtain ⟨hmem, hkvt⟩ := unitView_hostMem_kvt hview
    exact ⟨_, exec_dgeKeyfeedGo h ho hkeyed hgo habsorb hfinish hkey hcmd hcore, hunit, hcleared, hended, hidle, hmem, hkvt,
      (unitView_fields hview).1⟩
  · refine ⟨fun hcompare => ?_, fun hcompare hsource => ?_, fun hcompare hsource hlog hok => ?_⟩
    · obtain ⟨t, k, ht⟩ := exec_dgeFinish_held hst hdone (.inl hcompare)
      refine ⟨_, ht, ?_⟩
      rw [dgeU_setDge_same, dgeFinish_compare hcompare]
      exact ⟨rfl, rfl, decide_eq_true_iff, rfl, rfl, k.hostMem, k.cmds⟩
    · obtain ⟨t, k, ht⟩ := exec_dgeFinish_held hst hdone (.inr hsource)
      exact ⟨_, ht, by rw [dgeU_setDge_same, dgeFinish_digest hcompare], k.hostMem, k.cmds⟩
    · obtain ⟨t, hmem, ht⟩ := exec_dgeFinish_dma hst hdone hcompare hsource hlog hok
      refine ⟨_, ht, ?_, ?_, fun a ha => ?_⟩
      · rw [dgeU_setDge_same, dgeFinish_digest hcompare]
      · exact (congrArg (Tbl.getList 0 · _ _) hmem).trans (hostBytes_hostPut _ _ s)
      · exact (congrArg (Tbl.get 0 · a) hmem).trans (hostPut_get_outside _ _ s a ha)

end Sys2Proof.Machine
end

section
/-! The rows of the entropy block: its sources, the conditioner, the DRBGs, their queues and the test access (chapter 12). -/
namespace Sys2Proof.Machine
open Sys2Proof

/-! ### What every row of the block leaves -/

/-- A state that differs in the entropy block and in what counting changes is within the frame of the block's events. -/
theorem entFrame_of_drbgView {s t : State} (h : drbgView t = drbgView s) : entFrame s t := by
  have e := congrArg (fun x : State => (x.pending, x.now, x.host.mem, x.hif.cmds, x.hif.qps, x.hif.inst, x.drl, x.hub, x.seq,
    x.kvt, x.bbram, x.mem, x.pwr, x.glb, x.lcs, x.dbg, x.tmp, x.flt, x.tlk)) h
  simp only [Prod.mk.injEq] at e
  exact e

theorem srcU_congr {s t : State} (h : t.ent = s.ent) (n : Nat) : srcU t n = srcU s n := by
  unfold srcU
  rw [h]

theorem drbgU_congr {s t : State} (h : t.ent = s.ent) (n : Nat) : drbgU t n = drbgU s n := by
  unfold drbgU
  rw [h]

theorem entInt_counted (old s : State) : Counted s (entInt old s) := ite_counted (signal_counted ..)

/-! ### The sources in a state (R266) -/

theorem mem_srcsIn {s : State} {v : SrcState} {n : Nat} : n ∈ srcsIn s v ↔ n < 8 ∧ (srcU s n).st = v := by
  simp [srcsIn]

theorem nodup_srcsIn (s : State) (v : SrcState) : (srcsIn s v).Nodup := List.nodup_range.filter _

theorem srcsIn_congr {s t : State} {v : SrcState} (h : ∀ m, (srcU t m).st = v ↔ (srcU s m).st = v) :
    srcsIn t v = srcsIn s v := by
  refine List.filter_congr fun m _ => ?_
  rw [Bool.eq_iff_iff, beq_iff_eq, beq_iff_eq, h m]

theorem srcsIn_setSrc_outside {s : State} {v : SrcState} {n : Nat} {x : Source} (hs : (srcU s n).st ≠ v) (hx : x.st ≠ v) :
    srcsIn (setSrc n x s) v = srcsIn s v := by
  refine srcsIn_congr fun m => ?_
  rw [srcU_setSrc]
  split
  · next hm => simp [hm, hs, hx]
  · rfl

/-- A source that comes into a state, where the others stay as they are, is one more in it. -/
theorem length_srcsIn_gain {s t : State} {v : SrcState} {n : Nat} (hn : n < 8) (hs : (srcU s n).st ≠ v) (ht : (srcU t n).st = v)
    (hkeep : ∀ m, m ≠ n → srcU t m = srcU s m) : (srcsIn t v).length = (srcsIn s v).length + 1 := by
  have hcons : (n :: srcsIn s v).Nodup := (nodup_srcsIn s v).cons fun h => hs (mem_srcsIn.mp h).2
  refine ((List.perm_ext_iff_of_nodup (nodup_srcsIn t v) hcons).mpr fun m => ?_).length_eq
  rw [List.mem_cons, mem_srcsIn, mem_srcsIn]
  by_cases hm : m = n
  · subst hm
    simp [hn, ht]
  · simp [hm, hkeep m hm]

/-- Giving every listed source a new value that stands when given again. -/
theorem srcU_foldl_setSrc (f : Source → Source) (hf : ∀ x, f (f x) = f x) (l : List Nat) (s : State) (m : Nat) :
    srcU (l.foldl (fun s n => setSrc n (f (srcU s n)) s) s) m = if m ∈ l then f (srcU s m) else srcU s m := by
  induction l generalizing s with
  | nil => rfl
  | cons n l ih =>
    rw [List.foldl_cons, ih, srcU_setSrc]
    by_cases hm : m = n
    · subst hm
      simp [hf]
    · simp [hm]

/-- Steps of which one establishes a property that all keep. -/
theorem foldl_establishes {P : State → Prop} {g : State → Nat → State} {n : Nat} (hn : ∀ s, P (g s n))
    (hkeep : ∀ s m, P s → P (g s m)) {l : List Nat} (h : n ∈ l) (s : State) : P (l.foldl g s) := by
  obtain ⟨a, b, rfl⟩ := List.append_of_mem h
  rw [List.foldl_append, List.foldl_cons]
  exact List.foldlRecOn b g (hn _) fun s hs m _ => hkeep s m hs

/-- The state without its sources. -/
def sourceView (s : State) : State := { s with ent := { s.ent with src := [] } }

theorem drbgView_of_sourceView {s t : State} (h : sourceView t = sourceView s) : drbgView t = drbgView s := by
  have e := congrArg drbgView h
  exact e

theorem mayFail_of_sourceView {s t : State} (h : sourceView t = sourceView s) (n : Nat) (apt : Bool) :
    mayFail t n apt = mayFail s n apt := by
  have e := congrArg (fun x : State => mayFail x n apt) h
  exact e

theorem sourceView_testResult (pass rct : BitVec 8) (s : State) (n : Nat) :
    sourceView (testResult pass rct s n) = sourceView s := ite_keeps sourceView rfl rfl

theorem mayFail_untested {s : State} (h : s.ent.testActive = false) (n : Nat) (apt : Bool) : mayFail s n apt = true := by
  simp [mayFail, h]

/-! ### HEALTH_TEST_FAIL (R267, R269) -/

theorem takeOver_noSpare {s : State} (h : srcsIn s .spare = []) (k : Nat) (mark : Bool) : takeOver k mark s = s := by
  cases k with
  | zero => rfl
  | succ k =>
    unfold takeOver
    rw [h]
    exact ite_self s

theorem takeOver_full {s : State} (h : 2 ≤ (srcsIn s .active).length) (k : Nat) (mark : Bool) : takeOver (k + 1) mark s = s :=
  if_pos h

/-- Spare `n` made active. -/
def promote (mark : Bool) (n : Nat) (s : State) : State :=
  let t := setSrc n { srcU s n with st := .active } s
  { t with ent := { t.ent with switched := t.ent.switched || mark } }

theorem srcU_promote (mark : Bool) (n m : Nat) (s : State) :
    srcU (promote mark n s) m = if m = n then { srcU s n with st := .active } else srcU s m :=
  srcU_setSrc n m { srcU s n with st := .active } s

/-- The lowest-numbered spare becomes active. -/
theorem takeOver_spare {s : State} {n : Nat} {l : List Nat} (h : (srcsIn s .active).length < 2) (hspare : srcsIn s .spare = n :: l)
    (k : Nat) (mark : Bool) : takeOver (k + 1) mark s = takeOver k mark (promote mark n s) := by
  rw [takeOver, if_neg (Nat.not_le.mpr h), hspare]
  rfl

/-- A takeover changes spares alone, and source_switched only towards 1. -/
theorem takeOver_keeps (mark : Bool) (k : Nat) (s : State) : drbgView (takeOver k mark s) = drbgView s ∧
    (s.ent.switched = true → (takeOver k mark s).ent.switched = true) ∧
    ∀ m, (srcU s m).st ≠ .spare → srcU (takeOver k mark s) m = srcU s m := by
  induction k generalizing s with
  | zero => exact ⟨rfl, id, fun _ _ => rfl⟩
  | succ k ih =>
    by_cases hfull : 2 ≤ (srcsIn s .active).length
    · rw [takeOver_full hfull]
      exact ⟨rfl, id, fun _ _ => rfl⟩
    · cases hspare : srcsIn s .spare with
      | nil =>
        rw [takeOver_noSpare hspare]
        exact ⟨rfl, id, fun _ _ => rfl⟩
      | cons n l =>
        rw [takeOver_spare (Nat.not_le.mp hfull) hspare]
        obtain ⟨hview, hmark, hkeep⟩ := ih (promote mark n s)
        refine ⟨hview, fun hs => hmark (Bool.or_eq_true_iff.mpr (.inl hs)), fun m hm => ?_⟩
        have hne : m ≠ n := by
          rintro rfl
          exact hm (mem_srcsIn.mp (hspare ▸ List.mem_cons_self)).2
        have hsame : srcU (promote mark n s) m = srcU s m := (srcU_promote ..).trans (if_neg hne)
        exact (hkeep m (hsame ▸ hm)).trans hsame

theorem takeOver_promotes {s : State} {n : Nat} {l : List Nat} (h : (srcsIn s .active).length < 2)
    (hspare : srcsIn s .spare = n :: l) (k : Nat) :
    (srcU (takeOver (k + 1) true s) n).st = .active ∧ (takeOver (k + 1) true s).ent.switched = true := by
  obtain ⟨-, hmark, hkeep⟩ := takeOver_keeps true k (promote true n s)
  have hn : srcU (promote true n s) n = { srcU s n with st := .active } := (srcU_promote ..).trans (if_pos rfl)
  rw [takeOver_spare h hspare, hkeep n (by simp [hn]), hn]
  exact ⟨rfl, hmark (Bool.or_true _)⟩

/-- Source `x` after it failed a test. -/
def failedSource (apt : Bool) (x : Source) : Source :=
  { x with st := .failed, rctFail := x.rctFail || !apt, aptFail := x.aptFail || apt }

theorem exec_healthTestFail {s : State} {x : Fin 8} {apt : Bool} (hrun : s.ent.running = true)
    (hst : (srcU s x).st = .active ∨ (srcU s x).st = .spare) (hfail : mayFail s x apt = true) :
    exec (.healthTestFail x apt) s =
      .next (entInt s (takeOver 2 true (setSrc x (failedSource apt (srcU s x)) s))) := by
  have hexec : exec (.healthTestFail x apt) s = execHealthTestFail x apt s := rfl
  rw [hexec, execHealthTestFail]
  exact congrArg Host.Outcome.next (if_pos ⟨hrun, hst, hfail⟩)

theorem exec_healthTestFail_none {s : State} {x : Fin 8} {apt : Bool} (h : s.ent.running = false ∨
    ((srcU s x).st ≠ .active ∧ (srcU s x).st ≠ .spare) ∨ mayFail s x apt = false) :
    exec (.healthTestFail x apt) s = .next s := by
  have hexec : exec (.healthTestFail x apt) s = execHealthTestFail x apt s := rfl
  rw [hexec, execHealthTestFail]
  refine congrArg Host.Outcome.next (if_neg ?_)
  rintro ⟨hrun, hst, hfail⟩
  rcases h with h | h | h
  · simp [h] at hrun
  · exact hst.elim h.1 h.2
  · simp [h] at hfail

theorem srcU_fail_other {s : State} {n m : Nat} (apt : Bool) (h : m ≠ n) :
    srcU (setSrc n (failedSource apt (srcU s n)) s) m = srcU s m := (srcU_setSrc ..).trans (if_neg h)

theorem spares_fail_active {s : State} {n : Nat} (apt : Bool) (h : (srcU s n).st = .active) :
    srcsIn (setSrc n (failedSource apt (srcU s n)) s) .spare = srcsIn s .spare :=
  srcsIn_setSrc_outside (by simp [h]) (by simp [failedSource])

/-- The failure of one of at most two active sources leaves room for a spare. -/
theorem active_fail_active {s : State} {n : Nat} (apt : Bool) (hn : n < 8) (h : (srcU s n).st = .active)
    (hle : (srcsIn s .active).length ≤ 2) :
    (srcsIn (setSrc n (failedSource apt (srcU s n)) s) .active).length < 2 := by
  have hlost := length_srcsIn_gain (s := setSrc n (failedSource apt (srcU s n)) s) hn (by simp [failedSource]) h
    fun m hm => (srcU_fail_other apt hm).symm
  omega

theorem healthTestFail_fails {s : State} {x : Fin 8} {apt : Bool} (hrun : s.ent.running = true)
    (hst : (srcU s x).st = .active ∨ (srcU s x).st = .spare) (hfail : mayFail s x apt = true) :
    ∃ t, exec (.healthTestFail x apt) s = .next t ∧ entFrame s t ∧ srcU t x = failedSource apt (srcU s x) ∧
      (∀ n l, (srcU s x).st = .active → (srcsIn s .active).length ≤ 2 → srcsIn s .spare = n :: l →
        (srcU t n).st = .active ∧ t.ent.switched = true) ∧
      (srcsIn s .spare = [] → t.ent.switched = s.ent.switched ∧ ∀ m, m ≠ x.val → srcU t m = srcU s m) := by
  have hint := entInt_counted s (takeOver 2 true (setSrc x (failedSource apt (srcU s x)) s))
  obtain ⟨hview, -, hkeep⟩ := takeOver_keeps true 2 (setSrc x (failedSource apt (srcU s x)) s)
  refine ⟨_, exec_healthTestFail hrun hst hfail, entFrame_of_drbgView (hint.drbgView.trans hview), ?_,
    fun n l hact hle hspare => ?_, fun hnone => ?_⟩
  · rw [srcU_congr hint.ent, hkeep x (by simp [failedSource]), srcU_setSrc_same]
  · rw [srcU_congr hint.ent, hint.ent]
    exact takeOver_promotes (active_fail_active apt x.isLt hact hle) ((spares_fail_active apt hact).trans hspare) 1
  · have hact : (srcU s x).st = .active := hst.resolve_right fun h => by
      have hmem := mem_srcsIn.mpr ⟨x.isLt, h⟩
      simp [hnone] at hmem
    have hnotake := takeOver_noSpare ((spares_fail_active apt hact).trans hnone) 2 true
    refine ⟨?_, fun m hm => ?_⟩
    · rw [hint.ent, hnotake]
      rfl
    · rw [srcU_congr hint.ent, hnotake, srcU_fail_other apt hm]

/-! ### SOURCE_SETTLE_END, STARTUP_TEST_END (R268) -/

theorem sourceView_foldl_setSrc (f : Source → Source) (l : List Nat) (s : State) :
    sourceView (l.foldl (fun s n => setSrc n (f (srcU s n)) s) s) = sourceView s :=
  foldl_keeps sourceView (fun s n => setSrc n (f (srcU s n)) s) (fun _ _ => rfl) l s

theorem sourceSettleEnd_tests (s : State) : ∃ t, exec .sourceSettleEnd s = .next t ∧ entFrame s t ∧ ∀ n, n < 8 →
    srcU t n = if (srcU s n).st = .settling then { srcU s n with st := .testing } else srcU s n := by
  refine ⟨_, rfl, entFrame_of_drbgView (drbgView_of_sourceView
    (sourceView_foldl_setSrc (fun x => { x with st := .testing }) _ s)), fun n hn => ?_⟩
  refine (srcU_foldl_setSrc (fun x => { x with st := .testing }) (fun _ => rfl) _ s n).trans ?_
  simp only [mem_srcsIn, hn, true_and]

/-- A source whose samples may fail passes or fails as the event says. -/
theorem testResult_eq {pass rct : BitVec 8} {s : State} {n : Nat} (h : mayFail s n (!rct.getLsbD n) = true) :
    testResult pass rct s n = setSrc n { srcU s n with
      st := if pass.getLsbD n then if (srcsIn s .active).length < 2 then .active else .spare else .failed
      rctFail := !pass.getLsbD n && rct.getLsbD n, aptFail := !pass.getLsbD n && !rct.getLsbD n } s := by
  unfold testResult
  cases hp : pass.getLsbD n <;> simp [h]

/-- A source that passes is one more active source while fewer than two are. -/
theorem length_active_testResult {pass rct : BitVec 8} {s : State} {n : Nat} (hn : n < 8)
    (h : mayFail s n (!rct.getLsbD n) = true) (hst : (srcU s n).st ≠ .active) :
    (srcsIn (testResult pass rct s n) .active).length =
      (srcsIn s .active).length + if pass.getLsbD n = true ∧ (srcsIn s .active).length < 2 then 1 else 0 := by
  have hkeep := fun x m (hm : m ≠ n) => (srcU_setSrc n m x s).trans (if_neg hm)
  rw [testResult_eq h]
  by_cases hgain : pass.getLsbD n = true ∧ (srcsIn s .active).length < 2
  · rw [if_pos hgain]
    exact length_srcsIn_gain hn hst (by rw [srcU_setSrc_same, if_pos hgain.1, if_pos hgain.2]) (hkeep _)
  · rw [if_neg hgain, srcsIn_setSrc_outside hst, Nat.add_zero]
    intro hactive
    split at hactive
    · next hpass => simp [not_and.mp hgain hpass] at hactive
    · cases hactive

/-- The sources below `k` that pass. -/
abbrev passedBelow (pass : BitVec 8) (k : Nat) : Nat := ((List.range k).filter (fun n => pass.getLsbD n)).length

theorem passedBelow_succ (pass : BitVec 8) (k : Nat) :
    passedBelow pass (k + 1) = passedBelow pass k + if pass.getLsbD k then 1 else 0 := by
  rw [passedBelow, List.range_succ, List.filter_append, List.length_append]
  cases h : pass.getLsbD k <;> simp [h]

/-- A source at the end of the start-up test (R268). -/
def startedSource (pass rct : BitVec 8) (n : Nat) (x : Source) : Source := { x with
  st := if pass.getLsbD n then if passedBelow pass n < 2 then .active else .spare else .failed
  rctFail := !pass.getLsbD n && rct.getLsbD n, aptFail := !pass.getLsbD n && !rct.getLsbD n }

/-- The start-up test of the sources below `k`: as many are active as pass, up to two. -/
theorem startup_below {pass rct : BitVec 8} {s : State} (hact : s.ent.testActive = false)
    (hst : ∀ n, n < 8 → (srcU s n).st = .testing) (k : Nat) (hk : k ≤ 8) :
    ((List.range k).foldl (testResult pass rct) s).ent.testActive = false ∧
      (srcsIn ((List.range k).foldl (testResult pass rct) s) .active).length = min 2 (passedBelow pass k) ∧
      ∀ n, srcU ((List.range k).foldl (testResult pass rct) s) n =
        if n < k then startedSource pass rct n (srcU s n) else srcU s n := by
  induction k with
  | zero =>
    refine ⟨hact, ?_, fun _ => rfl⟩
    have hnone : srcsIn s .active = [] := List.eq_nil_iff_forall_not_mem.mpr fun n hn => by
      obtain ⟨hlt, h⟩ := mem_srcsIn.mp hn
      rw [hst n hlt] at h
      cases h
    exact congrArg List.length hnone
  | succ k ih =>
    obtain ⟨huntested, hcount, hsrc⟩ := ih (by omega)
    rw [List.range_succ, List.foldl_append, List.foldl_cons, List.foldl_nil]
    have hk0 := (hsrc k).trans (if_neg (Nat.lt_irrefl k))
    generalize (List.range k).foldl (testResult pass rct) s = t at *
    have hmay := mayFail_untested huntested k (!rct.getLsbD k)
    refine ⟨?_, ?_, fun n => ?_⟩
    · rw [testResult_eq hmay]
      exact huntested
    · rw [length_active_testResult hk hmay (by simp [hk0, hst k hk]), hcount, passedBelow_succ]
      cases pass.getLsbD k with
      | false => simp
      | true =>
        simp only [true_and, if_true]
        split <;> omega
    · have hroom : min 2 (passedBelow pass k) < 2 ↔ passedBelow pass k < 2 := by omega
      rw [testResult_eq hmay, srcU_setSrc, hsrc n, hk0, hcount]
      by_cases hn : n = k
      · subst hn
        simp [startedSource, hroom]
      · have hbelow : n < k + 1 ↔ n < k := by omega
        simp [hn, hbelow]

theorem startupTestEnd_starts {pass rct : BitVec 8} {s : State} (hrun : s.ent.running = true) (hstart : s.ent.startupDone = false)
    (hact : s.ent.testActive = false) (hst : ∀ n, n < 8 → (srcU s n).st = .testing) :
    ∃ t, exec (.startupTestEnd pass rct) s = .next t ∧ entFrame s t ∧ t.ent.startupDone = true ∧
      ∀ n, n < 8 → srcU t n = startedSource pass rct n (srcU s n) := by
  have hall : srcsIn s .testing = List.range 8 := List.filter_eq_self.mpr fun n hn => by
    simp [hst n (List.mem_range.mp hn)]
  obtain ⟨-, -, hsrc⟩ := startup_below (pass := pass) (rct := rct) hact hst 8 le_rfl
  have hview : drbgView ((List.range 8).foldl (testResult pass rct) s) = drbgView s :=
    drbgView_of_sourceView (foldl_keeps sourceView _ (sourceView_testResult pass rct) _ s)
  have hexec : exec (.startupTestEnd pass rct) s = execStartupTestEnd pass rct s := rfl
  rw [execStartupTestEnd, if_pos ⟨hrun, by simp [hstart], by rw [hall]; rfl⟩, hall] at hexec
  generalize (List.range 8).foldl (testResult pass rct) s = u at *
  have hint := entInt_counted s { u with ent := { u.ent with startupDone := true } }
  refine ⟨_, hexec, entFrame_of_drbgView (hint.drbgView.trans hview), ?_, fun n hn => ?_⟩
  · rw [hint.ent]
  · rw [srcU_congr hint.ent]
    exact (hsrc n).trans (if_pos hn)

theorem exec_startupTestEnd_done {s : State} (pass rct : BitVec 8) (h : s.ent.startupDone = true) :
    exec (.startupTestEnd pass rct) s = .next s :=
  congrArg Host.Outcome.next (if_neg fun hgo => hgo.2.1 h)

/-! ### RETEST, RETEST_END (R282) -/

theorem exec_retest {s : State} {src : Src} (h : regsAnswer s src) :
    exec (.retest src) s = .next (if ¬ s.ent.retesting ∧ srcsIn s .failed ≠ [] ∧ s.ent.running then
      let t := (srcsIn s .failed).foldl (fun s n => setSrc n { srcU s n with st := .settling, retest := true } s) s
      { t with ent := { t.ent with retesting := true } } else s) := by
  have hexec : exec (.retest src) s = execRetest src s := rfl
  rw [hexec, execRetest, touch_awake src h.2]
  simp only [h.1, true_and]

theorem retest_settles {s : State} {src : Src} (h : regsAnswer s src) (hrun : s.ent.running = true)
    (hretest : s.ent.retesting = false) (hfailed : srcsIn s .failed ≠ []) :
    ∃ t, exec (.retest src) s = .next t ∧ entFrame s t ∧ t.ent.retesting = true ∧ ∀ n, n < 8 →
      srcU t n = if (srcU s n).st = .failed then { srcU s n with st := .settling, retest := true } else srcU s n := by
  have hview := drbgView_of_sourceView
    (sourceView_foldl_setSrc (fun x => { x with st := .settling, retest := true }) (srcsIn s .failed) s)
  refine ⟨_, (exec_retest h).trans (congrArg Host.Outcome.next (if_pos ⟨by simp [hretest], hfailed, hrun⟩)),
    entFrame_of_drbgView hview, rfl, fun n hn => ?_⟩
  refine (srcU_foldl_setSrc (fun x => { x with st := .settling, retest := true }) (fun _ => rfl) _ s n).trans ?_
  simp only [mem_srcsIn, hn, true_and]

theorem exec_retest_none {s : State} {src : Src} (h : regsAnswer s src) (hnone : s.ent.retesting = true ∨ srcsIn s .failed = []) :
    exec (.retest src) s = .next s := by
  rw [exec_retest h, if_neg]
  rintro ⟨hretest, hfailed, -⟩
  exact hnone.elim hretest hfailed

/-- How the test of source `n` left it, whose samples may fail or not: a pass makes it active or spare with its fail bits
clear, a failure failed. -/
def Tested (pass : BitVec 8) (n : Nat) (may : Bool) (x : Source) : Prop :=
  (pass.getLsbD n = true → (x.st = .active ∨ x.st = .spare) ∧ x.rctFail = false ∧ x.aptFail = false) ∧
  (pass.getLsbD n = false → may = true → x.st = .failed)

/-- A test's end changes its own source alone. -/
theorem testResult_own (pass rct : BitVec 8) (s : State) (n : Nat) : ∃ x, testResult pass rct s n = setSrc n x s := by
  unfold testResult
  dsimp only
  split <;> exact ⟨_, rfl⟩

theorem testResult_tested (pass rct : BitVec 8) (s : State) (n : Nat) :
    Tested pass n (mayFail s n (!rct.getLsbD n)) (srcU (testResult pass rct s n) n) := by
  unfold testResult
  dsimp only
  split
  · next hpass =>
    rw [srcU_setSrc_same]
    refine ⟨fun _ => ⟨?_, rfl, rfl⟩, fun hp hm => absurd hpass (by simp [hp, hm])⟩
    exact ite_eq_or_eq ..
  · next hfail =>
    rw [srcU_setSrc_same]
    exact ⟨fun hp => absurd hp (not_or.mp hfail).1, fun _ _ => rfl⟩

/-- Source `n` keeps how its test left it while the tests of sources end. -/
theorem tested_testResult {pass rct : BitVec 8} {n : Nat} {s : State} (m : Nat)
    (h : Tested pass n (mayFail s n (!rct.getLsbD n)) (srcU s n)) :
    Tested pass n (mayFail (testResult pass rct s m) n (!rct.getLsbD n)) (srcU (testResult pass rct s m) n) := by
  rw [mayFail_of_sourceView (sourceView_testResult ..)]
  by_cases hm : n = m
  · subst hm
    exact testResult_tested ..
  · obtain ⟨x, hx⟩ := testResult_own pass rct s m
    rw [hx, srcU_setSrc, if_neg hm]
    exact h

/-- The sources in retest whose start-up test runs. -/
abbrev retested (s : State) : List Nat := (srcsIn s .testing).filter (fun n => (srcU s n).retest)

/-- The state with every retested source as its test ended, out of its retest. -/
def retestDone (pass rct : BitVec 8) (s : State) : State :=
  (retested s).foldl (fun s n => setSrc n { srcU s n with retest := false } s) ((retested s).foldl (testResult pass rct) s)

theorem sourceView_retestDone (pass rct : BitVec 8) (s : State) : sourceView (retestDone pass rct s) = sourceView s :=
  (sourceView_foldl_setSrc (fun x => { x with retest := false }) ..).trans
    (foldl_keeps sourceView _ (sourceView_testResult pass rct) ..)

theorem retestDone_tested {pass rct : BitVec 8} {s : State} {n : Nat} (h : n ∈ retested s) :
    Tested pass n (mayFail s n (!rct.getLsbD n)) (srcU (retestDone pass rct s) n) ∧
      (srcU (retestDone pass rct s) n).retest = false := by
  have htested := foldl_establishes (g := testResult pass rct)
    (P := fun s => Tested pass n (mayFail s n (!rct.getLsbD n)) (srcU s n))
    (fun s => by
      rw [mayFail_of_sourceView (sourceView_testResult ..)]
      exact testResult_tested ..) (fun _ m => tested_testResult m) h s
  rw [mayFail_of_sourceView (foldl_keeps sourceView _ (sourceView_testResult pass rct) ..)] at htested
  have hsrc : srcU (retestDone pass rct s) n =
      { srcU ((retested s).foldl (testResult pass rct) s) n with retest := false } :=
    (srcU_foldl_setSrc (fun x => { x with retest := false }) (fun _ => rfl) ..).trans (if_pos h)
  rw [hsrc]
  exact ⟨htested, rfl⟩

/-- The end of a retest: where it leaves the all-failed state every DRBG needs a reseed. -/
def retestEnded (pass rct : BitVec 8) (s : State) : State :=
  let t := retestDone pass rct s
  let t : State := { t with ent := { t.ent with
    retesting := false, switched := t.ent.switched || decide ((srcsIn s .active).length < (srcsIn t .active).length) } }
  if allFailed s ∧ ¬ allFailed t then needReseed t else t

/-- The end of a retest leaves the sources as their tests left them. -/
theorem retestEnded_keeps (pass rct : BitVec 8) (s : State) :
    drbgView (retestEnded pass rct s) = drbgView s ∧ (retestEnded pass rct s).ent.retesting = false ∧
      ∀ n, srcU (retestEnded pass rct s) n = srcU (retestDone pass rct s) n := by
  rw [← drbgView_of_sourceView (sourceView_retestDone pass rct s)]
  unfold retestEnded
  dsimp only
  split
  · exact ⟨rfl, rfl, fun _ => rfl⟩
  · exact ⟨rfl, rfl, fun _ => rfl⟩

theorem retestEnd_tests {pass rct : BitVec 8} {s : State} {n : Nat} (hretest : s.ent.retesting = true) (hn : n < 8)
    (hst : (srcU s n).st = .testing) (hown : (srcU s n).retest = true) :
    ∃ t, exec (.retestEnd pass rct) s = .next t ∧ entFrame s t ∧ t.ent.retesting = false ∧ (srcU t n).retest = false ∧
      Tested pass n (mayFail s n (!rct.getLsbD n)) (srcU t n) := by
  have hmem : n ∈ retested s := List.mem_filter.mpr ⟨mem_srcsIn.mpr ⟨hn, hst⟩, hown⟩
  have hexec : exec (.retestEnd pass rct) s = .next (signal 0 110 (retestEnded pass rct s)) :=
    congrArg Host.Outcome.next (if_pos ⟨hretest, List.ne_nil_of_mem hmem⟩)
  obtain ⟨hview, hover, hsrc⟩ := retestEnded_keeps pass rct s
  obtain ⟨htested, hout⟩ := retestDone_tested (pass := pass) (rct := rct) hmem
  have hsignal := signal_counted 0 110 (retestEnded pass rct s)
  refine ⟨_, hexec, entFrame_of_drbgView (hsignal.drbgView.trans hview), hsignal.ent ▸ hover, ?_⟩
  rw [srcU_congr hsignal.ent, hsrc]
  exact ⟨hout, htested⟩

/-! ### CONDITIONER_BLOCK_RELEASE (R271, R273) -/

/-- The lowest number with a property comes first among the numbers that have it. -/
theorem filter_range_lowest {p : Nat → Bool} {n k : Nat} (hn : n < k) (hp : p n = true) (hlow : ∀ m, m < n → p m = false) :
    ∃ l, (List.range k).filter p = n :: l := by
  have hfind : (List.range k).find? p = some n :=
    List.find?_range_eq_some.mpr ⟨hp, List.mem_range.mpr hn, fun m hm => by simp [hlow m hm]⟩
  exact List.head?_eq_some_iff.mp (List.head?_filter.trans hfind)

theorem enableQueue_off {s : State} (h : entReady s = false) : enableQueue s = s := if_neg (by simp [h])

theorem enableQueue_on {s : State} (h : entReady s = true) : enableQueue s = { s with ent := { s.ent with queueOn := true } } :=
  if_pos h

theorem drbgU_enableQueue (s : State) (n : Nat) : drbgU (enableQueue s) n = drbgU s n :=
  ite_keeps (fun s => drbgU s n) rfl rfl

/-- No DRBG can generate while every one waits for its seed. -/
theorem entReady_unseeded {s : State} (h : ∀ n, n < 64 → drbgWants s n = true) : entReady s = false := by
  refine List.any_eq_false.mpr fun n hn => ?_
  have hw : (drbgU s n).inst = false ∨ (drbgU s n).mustReseed = true := by
    simpa [drbgWants] using h n (List.mem_range.mp hn)
  rcases hw with hw | hw <;> simp [drbgUsable, hw]

theorem feedDrbg_reseed {s : State} {n : Nat} (h : (drbgU s n).inst = true) : feedDrbg n s =
    setDrbg n (seeded (drbgReseed (freeBytes 32 s).1 ((drbgU s n).key, (drbgU s n).v)) (drbgU s n)) (freeBytes 32 s).2 := if_pos h

theorem feedDrbg_first {s : State} {n : Nat} (h : (drbgU s n).inst = false) (hpart : s.ent.firstPart = 0) : feedDrbg n s =
    { (freeBytes 32 s).2 with ent := { s.ent with firstPart := 1, firstBlock := (freeBytes 32 s).1 } } :=
  (if_neg (by simp [h])).trans (if_pos hpart)

theorem feedDrbg_second {s : State} {n : Nat} (h : (drbgU s n).inst = false) (hpart : s.ent.firstPart ≠ 0) :
    ∃ kv, feedDrbg n s = setDrbg n (seeded kv (drbgU s n))
      { (freeBytes 32 s).2 with ent := { s.ent with firstPart := 0, firstBlock := [] } } :=
  ⟨_, (if_neg (by simp [h])).trans (if_neg hpart)⟩

theorem drbgView_feedDrbg (n : Nat) (s : State) : drbgView (enableQueue (feedDrbg n s)) = drbgView s :=
  have hfeed : drbgView (feedDrbg n s) = drbgView s := ite_keeps drbgView rfl (ite_keeps drbgView rfl rfl)
  ite_keeps drbgView hfeed hfeed

section Release
variable {s : State}

theorem length_wants_ne {k : Nat} (hk : k < 64) (h : drbgWants s k = false) :
    ((List.range 64).filter (drbgWants s)).length ≠ 64 := fun hall => by
  have hk' := List.length_filter_eq_length_iff.mp hall k (List.mem_range.mpr hk)
  simp [h] at hk'

theorem releaseBlock_unseeded (h : ∀ n, n < 64 → drbgWants s n = true) : releaseBlock s = enableQueue (feedDrbg 0 s) := by
  have hall : (List.range 64).filter (drbgWants s) = List.range 64 :=
    List.filter_eq_self.mpr fun n hn => h n (List.mem_range.mp hn)
  exact if_pos (congrArg List.length hall)

/-- With some DRBG seeded a block goes to the first waiting seed. -/
theorem releaseBlock_seed {k e : Nat} {q : List Nat} (hk : k < 64) (h : drbgWants s k = false) (hseed : s.ent.seedQ = e :: q) :
    releaseBlock s = { s with ent := { s.ent with seedQ := q, seedFly := s.ent.seedFly ++ [e] } } := by
  rw [releaseBlock, if_neg (length_wants_ne hk h), hseed]

theorem releaseBlock_reserve {k : Nat} (hk : k < 64) (h : drbgWants s k = false) (hseed : s.ent.seedQ = [])
    (hres : s.ent.reserve < 64) : releaseBlock s = { s with ent := { s.ent with reserve := s.ent.reserve + 1 } } := by
  rw [releaseBlock, if_neg (length_wants_ne hk h), hseed]
  exact if_pos hres

theorem releaseBlock_pr {k c : Nat} {q : List Nat} (hk : k < 64) (h : drbgWants s k = false) (hseed : s.ent.seedQ = [])
    (hres : 64 ≤ s.ent.reserve) (hpr : s.ent.prQ = c :: q) :
    releaseBlock s = { s with ent := { s.ent with prQ := q, prDone := s.ent.prDone ++ [c] } } := by
  rw [releaseBlock, if_neg (length_wants_ne hk h), hseed, hpr]
  exact if_neg (Nat.not_lt.mpr hres)

theorem releaseBlock_due {n : Nat} (hseed : s.ent.seedQ = []) (hres : 64 ≤ s.ent.reserve) (hpr : s.ent.prQ = [])
    (hnone : ∀ m, m < 64 → drbgWants s m = false) (hn : n < 64) (hdue : (drbgU s n).reseedDue = true)
    (hlow : ∀ m, m < n → (drbgU s m).reseedDue = false) : releaseBlock s = enableQueue (feedDrbg n s) := by
  have hwant : (List.range 64).filter (drbgWants s) = [] :=
    List.filter_eq_nil_iff.mpr fun m hm => by simp [hnone m (List.mem_range.mp hm)]
  obtain ⟨l, hl⟩ := filter_range_lowest (p := fun n => (drbgU s n).reseedDue) hn hdue hlow
  rw [releaseBlock, hwant, hseed, hpr, hl]
  exact (if_neg (by simp)).trans (if_neg (Nat.not_lt.mpr hres))

theorem drbgView_releaseBlock (s : State) : drbgView (releaseBlock s) = drbgView s := by
  unfold releaseBlock
  dsimp only
  refine ite_keeps drbgView (drbgView_feedDrbg 0 s) ?_
  split
  · rfl
  · refine ite_keeps drbgView rfl ?_
    split
    · rfl
    · split
      · exact drbgView_feedDrbg ..
      · split
        · exact drbgView_feedDrbg ..
        · rfl

/-- The second block of the first instantiation makes DRBG 0 ready, and the queue is enabled. -/
theorem releaseBlock_instantiates (hstart : allFailed s = false) (htest : s.ent.testActive = false)
    (hall : ∀ n, n < 64 → drbgWants s n = true) (hpart : s.ent.firstPart ≠ 0) (hinst : (drbgU s 0).inst = false) :
    ∃ kv, drbgU (releaseBlock s) 0 = seeded kv (drbgU s 0) ∧ (releaseBlock s).ent.firstPart = 0 ∧
      (releaseBlock s).ent.queueOn = true := by
  obtain ⟨kv, hfeed⟩ := feedDrbg_second (n := 0) hinst hpart
  have hunit : drbgU (feedDrbg 0 s) 0 = seeded kv (drbgU s 0) := by rw [hfeed, drbgU_setDrbg_same]
  have hkeep : allFailed (feedDrbg 0 s) = allFailed s ∧ (feedDrbg 0 s).ent.testActive = s.ent.testActive := by
    rw [hfeed]
    exact ⟨rfl, rfl⟩
  have hready : entReady (feedDrbg 0 s) = true := List.any_eq_true.mpr ⟨0, List.mem_range.mpr (by decide), by
    simp [drbgUsable, hunit, seeded, hkeep, hstart, htest]⟩
  rw [releaseBlock_unseeded hall, drbgU_enableQueue, enableQueue_on hready]
  refine ⟨kv, hunit, ?_, rfl⟩
  rw [hfeed]
  rfl

/-- The first block of the first instantiation is kept for the second. -/
theorem releaseBlock_firstPart (hall : ∀ n, n < 64 → drbgWants s n = true) (hpart : s.ent.firstPart = 0)
    (hinst : (drbgU s 0).inst = false) :
    (releaseBlock s).ent = { s.ent with firstPart := 1, firstBlock := (freeBytes 32 s).1 } := by
  have hfeed := feedDrbg_first hinst hpart
  have hwants : ∀ n, n < 64 → drbgWants (feedDrbg 0 s) n = true := by
    rw [hfeed]
    exact hall
  rw [releaseBlock_unseeded hall, enableQueue_off (entReady_unseeded hwants), hfeed]

/-- With every DRBG seeded and no other consumer the lowest-numbered due DRBG is reseeded with the block. -/
theorem drbgU_releaseBlock_due {n : Nat} (hseed : s.ent.seedQ = []) (hres : 64 ≤ s.ent.reserve) (hpr : s.ent.prQ = [])
    (hnone : ∀ m, m < 64 → drbgWants s m = false) (hn : n < 64) (hdue : (drbgU s n).reseedDue = true)
    (hlow : ∀ m, m < n → (drbgU s m).reseedDue = false) (m : Nat) : drbgU (releaseBlock s) m =
      if m = n then seeded (drbgReseed (freeBytes 32 s).1 ((drbgU s n).key, (drbgU s n).v)) (drbgU s n) else drbgU s m := by
  have hinst : (drbgU s n).inst = true := by
    have hwants := hnone n hn
    simp only [drbgWants, Bool.or_eq_false_iff, Bool.not_eq_false'] at hwants
    exact hwants.1
  rw [releaseBlock_due hseed hres hpr hnone hn hdue hlow, drbgU_enableQueue, feedDrbg_reseed hinst, drbgU_setDrbg]
  rfl

theorem exec_conditionerBlockRelease (hdone : s.ent.startupDone = true) (hfail : allFailed s = false)
    (htest : s.ent.testActive = false) :
    exec .conditionerBlockRelease s = .next (blkEvent .ent 0x10 1 (releaseBlock s)) :=
  congrArg Host.Outcome.next (if_pos ⟨hdone, by simp [hfail], by simp [htest]⟩)

theorem exec_conditionerBlockRelease_none (h : s.ent.startupDone = false ∨ allFailed s = true ∨ s.ent.testActive = true) :
    exec .conditionerBlockRelease s = .next s := by
  refine congrArg Host.Outcome.next (if_neg ?_)
  rintro ⟨hdone, hfail, htest⟩
  simp [hdone, hfail, htest] at h

end Release

/-! ### DRBG_RESEED_DUE, DRBG_STOP (R273) -/

theorem exec_drbgReseedDue {s : State} {n : Fin 64} (h : (drbgU s n).inst = true) :
    exec (.drbgReseedDue n) s = .next (setDrbg n { drbgU s n with reseedDue := true } s) :=
  congrArg Host.Outcome.next (if_pos h)

theorem exec_drbgStop {s : State} {n : Fin 64} (h : (drbgU s n).inst = true) : exec (.drbgStop n) s =
    .next (if (drbgU s n).reseedDue = true then setDrbg n { drbgU s n with stopped := true } s else s) := by
  have hexec : exec (.drbgStop n) s = execDrbgStop n s := rfl
  rw [hexec, execDrbgStop]
  simp only [h, true_and]

/-! ### RANDOM_QUEUE_FILL, ENT_DATA_READ (R276, R277) -/

theorem genRequest_once (d inst n : Nat) (s : State) : (drbgU (genRequest d inst n s).2 d).reqs = (drbgU s d).reqs + 1 ∧
    (genRequest d inst n s).2.ent.queue = s.ent.queue ∧ (genRequest d inst n s).2.ent.fifo = s.ent.fifo := by
  unfold genRequest
  rw [drbgU_setDrbg_same]
  exact ⟨rfl, rfl, rfl⟩

/-- What a generate request leaves that appends to the queue or the FIFO: one request more of the DRBG, and both as they were. -/
def Generated (d n : Nat) (s : State) (r : Bytes × State) : Prop :=
  r.1.length = n ∧ drbgView r.2 = drbgView s ∧ (drbgU r.2 d).reqs = (drbgU s d).reqs + 1 ∧ r.2.ent.queue = s.ent.queue ∧
    r.2.ent.fifo = s.ent.fifo

/-- At most 65,536 bytes take one request. -/
theorem generate_once (d inst : Nat) {n : Nat} (hn : n ≤ 65536) (s : State) : Generated d n s (generate d inst n s) := by
  have hk : max 1 (ceilDiv n 65536) = 1 := by
    unfold ceilDiv
    omega
  have hcount := blkEvent_counted .ent 0x11 1 s
  have hgen : (generate d inst n s).2 = (genRequest d inst (min n 65536) (blkEvent .ent 0x11 1 s)).2 := by
    simp only [generate, hk, genRequests]
  refine ⟨length_generate .., drbgView_generate .., ?_⟩
  rw [hgen, ← drbgU_congr hcount.ent d, ← hcount.ent]
  exact genRequest_once ..

/-- The DRBG that fills is the lowest-numbered one that can generate. -/
theorem fills_of_drawUnit {s : State} {n : Nat} (h : drawUnit s = some n) :
    drbgUsable s n = true ∧ (List.range n).all (fun k => !drbgUsable s k) = true := by
  obtain ⟨husable, -, hlow⟩ := List.find?_range_eq_some.mp h
  exact ⟨husable, List.all_eq_true.mpr fun k hk => hlow k (List.mem_range.mp hk)⟩

theorem exec_randomQueueFill_none {s : State} (n : Fin 64) (f : Bool) (h : s.ent.queueOn = false) :
    exec (.randomQueueFill n f) s = .next s :=
  congrArg Host.Outcome.next (if_neg fun hgo => by simp [h] at hgo)

/-- The state of a request whose bytes are appended to the FIFO. -/
def fillFifo (s : State) (r : Bytes × State) : State := { r.2 with ent := { r.2.ent with fifo := s.ent.fifo ++ r.1 } }

/-- The state of a request whose bytes are appended to the queue. -/
def fillQueue (s : State) (r : Bytes × State) : State := { r.2 with ent := { r.2.ent with queue := s.ent.queue ++ r.1 } }

section Fill
variable {s : State}

theorem exec_randomQueueFill_fifo {n : Fin 64} (hon : s.ent.queueOn = true) (hunit : drawUnit s = some n.val)
    (hfree : s.ent.fifo.length < 256) :
    exec (.randomQueueFill n true) s = .next (fillFifo s (generate n 0 (256 - s.ent.fifo.length) s)) := by
  have hexec : exec (.randomQueueFill n true) s = execRandomQueueFill n true s := rfl
  rw [hexec, execRandomQueueFill, if_pos ⟨hon, fills_of_drawUnit hunit⟩]
  simp only [hfree, if_true, fillFifo]

theorem exec_randomQueueFill_queue {n : Fin 64} (hon : s.ent.queueOn = true) (hunit : drawUnit s = some n.val)
    (hfree : s.ent.queue.length < 65536) :
    exec (.randomQueueFill n false) s = .next (fillQueue s (generate n 0 (65536 - s.ent.queue.length) s)) := by
  have hexec : exec (.randomQueueFill n false) s = execRandomQueueFill n false s := rfl
  rw [hexec, execRandomQueueFill, if_pos ⟨hon, fills_of_drawUnit hunit⟩]
  simp only [hfree, Bool.false_eq_true, if_true, if_false, fillQueue]

theorem fillFifo_fills {r : Bytes × State} {d : Nat} (hfree : s.ent.fifo.length < 256)
    (h : Generated d (256 - s.ent.fifo.length) s r) : entFrame s (fillFifo s r) ∧ (fillFifo s r).ent.fifo.length = 256 ∧
      (fillFifo s r).ent.fifo.take s.ent.fifo.length = s.ent.fifo ∧ (fillFifo s r).ent.queue = s.ent.queue ∧
      (drbgU (fillFifo s r) d).reqs = (drbgU s d).reqs + 1 := by
  obtain ⟨hlen, hview, hreqs, hqueue, -⟩ := h
  refine ⟨entFrame_of_drbgView hview, ?_, List.take_left, hqueue, hreqs⟩
  rw [fillFifo, List.length_append, hlen]
  omega

theorem fillQueue_fills {r : Bytes × State} {d : Nat} (hfree : s.ent.queue.length < 65536)
    (h : Generated d (65536 - s.ent.queue.length) s r) : entFrame s (fillQueue s r) ∧
      (fillQueue s r).ent.queue.length = 65536 ∧
      (fillQueue s r).ent.queue.take s.ent.queue.length = s.ent.queue ∧ (fillQueue s r).ent.fifo = s.ent.fifo := by
  obtain ⟨hlen, hview, -, -, hfifo⟩ := h
  refine ⟨entFrame_of_drbgView hview, ?_, List.take_left, hfifo⟩
  rw [fillQueue, List.length_append, hlen]
  omega

end Fill

theorem exec_entDataRead {s : State} {src : Src} (h : regsAnswer s src) (htest : s.ent.testActive = false) :
    exec (.entDataRead src) s = .next { s with ent :=
      if 3 ≤ s.ent.fifo.length then { s.ent with fifo := s.ent.fifo.drop 3 } else { s.ent with entErr := true } } := by
  have hexec : exec (.entDataRead src) s = execEntDataRead src s := rfl
  rw [hexec, execEntDataRead, touch_awake src h.2]
  dsimp only
  rw [if_pos h.1, entDataRead, if_neg (by simp [htest])]
  split <;> rfl

/-! ### ENT_TEST, ENT_TEST_PATTERN, ENT_WAIT_EXPIRY (R278, R284) -/

theorem exec_entTest {s : State} {src : Src} (v : Word) (h : regsAnswer s src) :
    exec (.entTest src v) s = .next (entTestWrite v s) := by
  have hexec : exec (.entTest src v) s = execEntTest src v s := rfl
  rw [hexec, execEntTest, touch_awake src h.2]
  exact congrArg Host.Outcome.next (if_pos h.1)

theorem exec_entTestPattern {s : State} {src : Src} (v : Word) (h : regsAnswer s src) :
    exec (.entTestPattern src v) s = .next (entPatternWrite v s) := by
  have hexec : exec (.entTestPattern src v) s = execEntTestPattern src v s := rfl
  rw [hexec, execEntTestPattern, touch_awake src h.2]
  exact congrArg Host.Outcome.next (if_pos h.1)

/-- In TEST a write takes its settings; the first of them empties the queues and turns the DRBGs off. -/
theorem entTestWrite_sets {s : State} (v : Word) (h : s.pwr.mode = .test) :
    entFrame s (entTestWrite v s) ∧ (entTestWrite v s).ent.tstSource = fld v 0 3 ∧
      (entTestWrite v s).ent.tstSubst = flag v 3 ∧ (entTestWrite v s).ent.tstRaw = flag v 4 ∧
      ((entTestWrite v s).ent.testActive = true ↔ s.ent.testActive = true ∨ flag v 3 = true ∨ flag v 4 = true) ∧
      (s.ent.testActive = false → (entTestWrite v s).ent.testActive = true → (entTestWrite v s).ent.queue = [] ∧
        (entTestWrite v s).ent.fifo = [] ∧ (entTestWrite v s).ent.queueOn = false) := by
  unfold entTestWrite
  rw [if_pos h]
  dsimp only
  split
  · next hfirst =>
    obtain ⟨hon, -⟩ := hfirst
    exact ⟨entFrame_of_drbgView rfl, rfl, rfl, rfl, iff_of_true rfl (.inr (Bool.or_eq_true_iff.mp hon)),
      fun _ _ => ⟨rfl, rfl, rfl⟩⟩
  · next hlater =>
    refine ⟨entFrame_of_drbgView rfl, rfl, rfl, rfl, ⟨.inl, fun hset => ?_⟩,
      fun hoff hactive => absurd hactive (by simp [hoff])⟩
    by_contra hoff
    exact hlater ⟨Bool.or_eq_true_iff.mpr (hset.resolve_left hoff), hoff⟩

theorem exec_entWaitExpiry {s : State} {id : Nat} {c : Cmd} (hcmd : cmdU s id = some c) (hrun : c.phase = .running) :
    exec (.entWaitExpiry id) s = .next (if drawWaits s c = true then entropyFail c s else s) := by
  have hexec : exec (.entWaitExpiry id) s = execEntWaitExpiry id s := rfl
  rw [hexec, execEntWaitExpiry, hcmd]
  simp [hrun]

/-! ### The obligation -/

/-- Settles O55: the sources by one equation per event, a released block by the first consumer that waits, the fills by one
generate request, the registers by their equation where they answer. -/
theorem entropyRows : Obligations.EntropyRows := by
  unfold Obligations.EntropyRows
  intro s
  refine ⟨fun x apt => ⟨healthTestFail_fails, exec_healthTestFail_none⟩, sourceSettleEnd_tests s,
    fun pass rct hrun hstart hact hst => ?_, exec_startupTestEnd_done, fun hdone hfail htest => ?_,
    exec_conditionerBlockRelease_none, fun n h => ⟨exec_drbgReseedDue h, exec_drbgStop h⟩,
    fun n hon hunit => ⟨fun hfree => ⟨_, exec_randomQueueFill_fifo hon hunit hfree,
      fillFifo_fills hfree (generate_once n 0 (by omega) s)⟩, fun hfree => ⟨_, exec_randomQueueFill_queue hon hunit hfree,
      fillQueue_fills hfree (generate_once n 0 (by omega) s)⟩⟩, exec_randomQueueFill_none,
    fun src => exec_entDataRead, fun src => retest_settles, fun src => exec_retest_none,
    fun pass rct n => retestEnd_tests,
    fun src v h => ⟨fun hmode => ⟨⟨_, exec_entTest v h, entTestWrite_sets v hmode⟩, ?_⟩,
      fun hmode => ⟨?_, ?_⟩⟩, fun id c => exec_entWaitExpiry⟩
  · obtain ⟨t, ht, hframe, hdone, hsrc⟩ := startupTestEnd_starts (pass := pass) (rct := rct) hrun hstart hact hst
    refine ⟨t, ht, hframe, hdone, fun n hn => ?_⟩
    rw [hsrc n hn]
    exact ⟨rfl, rfl, rfl⟩
  · have hcount := blkEvent_counted .ent 0x10 1 (releaseBlock s)
    refine ⟨_, exec_conditionerBlockRelease hdone hfail htest,
      entFrame_of_drbgView (hcount.drbgView.trans (drbgView_releaseBlock s)),
      fun hall => ⟨fun hinst hpart => ?_, fun hpart hinst => ?_⟩,
      fun k hk h => ⟨fun e q hseed => ?_, fun hseed hres => ?_, fun c q hseed hres hpr => ?_,
        fun n hseed hres hpr hnone hn hdue hlow => ?_⟩⟩
    all_goals simp only [drbgU_congr hcount.ent, hcount.ent]
    · exact releaseBlock_firstPart hall hpart hinst
    · obtain ⟨kv, hunit, hfirst, hqueue⟩ := releaseBlock_instantiates hfail htest hall hpart hinst
      rw [hunit]
      exact ⟨rfl, rfl, rfl, hfirst, hqueue⟩
    · rw [releaseBlock_seed hk h hseed]
    · rw [releaseBlock_reserve hk h hseed hres]
    · rw [releaseBlock_pr hk h hseed hres hpr]
    · have hdrbg := drbgU_releaseBlock_due hseed hres hpr hnone hn hdue hlow
      exact ⟨(hdrbg n).trans (if_pos rfl), fun m hm => (hdrbg m).trans (if_neg hm)⟩
  · exact (exec_entTestPattern v h).trans (congrArg Host.Outcome.next (if_pos hmode))
  · exact (exec_entTest v h).trans (congrArg Host.Outcome.next (if_neg hmode))
  · exact (exec_entTestPattern v h).trans (congrArg Host.Outcome.next (if_neg hmode))

end Sys2Proof.Machine
end

section
/-! One row of a core at which nothing else happens: what the rows of chapter 13 that stay in their core have in common. -/
namespace Sys2Proof.Machine
open Sys2Proof

/-! ### A row as one instruction of its core -/

/-- The core that a row's effect is applied to: its trap information is put back afterwards. -/
def untrapped (c : Core) : Core := { c with trap := {} }

/-- The core `d` with the trap information of `c`. -/
def keepTrap (c d : Core) : Core := { d with trap := c.trap }

/-- An instruction that completes on a ready core, and whose effect sets no pending interrupt, writes its core and nothing
else. -/
theorem sStep_writes {s : State} {w : SIns} {n : Nat} {f : Core → SRes} {d : Core} (data : Bool) (reps : Nat)
    (io : State → State) (hready : coreReady s n) (hw : sFetch (coreU s n) w = .this) (hf : f (untrapped (coreU s n)) = .ok d)
    (hstay : staysIn (coreU s n) d) (hint : d.intPend = (coreU s n).intPend) :
    sStep w n data reps f io s = setCore n (keepTrap (coreU s n) d) s := by
  have hoff : d.intPend = false := hint.trans hready.2.2.1
  rw [sStep_ok s w n data reps f io d hready hw hf hstay, ← hoff]
  rfl

/-- Row `i` is the instruction of core `n` whose effect on the core is `f`: it is fetched as its word, makes its accesses and
retires. -/
def StepsAs (n : Fin 16) (i : Instr) (f : Core → SRes) : Prop :=
  ∀ s : State, ∃ (w : SIns) (data : Bool) (reps : Nat) (io : State → State), seqIns i = some w ∧
    exec i s = .next (sStep w n data reps f io s)

theorem StepsAs.trap {s : State} {n : Fin 16} {i : Instr} {f : Core → SRes} {k : Nat} {d : Core} (h : StepsAs n i f)
    (hready : coreReady s n) (hfetch : coreFetches s n i) (hf : f (untrapped (coreU s n)) = .trap k d) :
    exec i s = .next (sTrap n k d s) := by
  obtain ⟨w, data, reps, io, hw, hexec⟩ := h s
  rw [hexec, sStep_trap s w n data reps f io k d hready (hfetch w hw) hf]

theorem StepsAs.exec_ok {s : State} {n : Fin 16} {i : Instr} {f : Core → SRes} {d : Core} (h : StepsAs n i f)
    (hready : coreReady s n) (hfetch : coreFetches s n i) (hf : f (untrapped (coreU s n)) = .ok d)
    (hstay : staysIn (coreU s n) d) (hint : d.intPend = (coreU s n).intPend) :
    exec i s = .next (setCore n (keepTrap (coreU s n) d) s) := by
  obtain ⟨w, data, reps, io, hw, hexec⟩ := h s
  rw [hexec, sStep_writes data reps io hready (hfetch w hw) hf hstay hint]

theorem StepsAs.completes {s : State} {n : Fin 16} {i : Instr} {f : Core → SRes} {d : Core} (h : StepsAs n i f)
    (hready : coreReady s n) (hfetch : coreFetches s n i) (hf : f (untrapped (coreU s n)) = .ok d)
    (hstay : staysIn (coreU s n) d) (hint : d.intPend = (coreU s n).intPend) :
    ∃ t, exec i s = .next t ∧ coreU t n = keepTrap (coreU s n) d ∧ coreFrame s t n :=
  ⟨_, h.exec_ok hready hfetch hf hstay hint, coreU_setCore_same .., setCore_frame ..⟩

/-- In vendor mode the row is the instruction at the PC (log 119). -/
theorem sFetch_vendor {c : Core} (h : c.extMode = false) (w : SIns) : sFetch c w = .this := by
  unfold sFetch
  rw [h]
  rfl

theorem coreFetches_vendor {s : State} {n : Fin 16} (h : (coreU s n).extMode = false) (i : Instr) : coreFetches s n i :=
  fun w _ => sFetch_vendor h w

theorem staysIn_vendor {c d : Core} (h : c.extMode = false) : staysIn c d := fun hext => absurd hext (by simp [h])

/-! ### Data registers -/

@[simp] theorem getD_setD_same (c : Core) {i : Nat} (h : i < 16) (v : Word) : getD (setD c i v) i = v := by
  unfold getD setD
  rw [Nat.mod_eq_of_lt h]
  exact Tbl.get_set_same ..

theorem getD_setD_other (c : Core) {i j : Nat} (h : i < 16) (v : Word) (hj : j ≠ i) : getD (setD c i v) j = getD c j := by
  unfold getD setD
  rw [Nat.mod_eq_of_lt h]
  exact Tbl.get_set_other _ _ _ hj

/-! ### The data rows (Tables 13-2 to 13-4) -/

/-- The results that a data row of `len` words with the register `dd` has on core `c`, each with the condition under which it
completes. -/
inductive DataOut (len dd : Nat) (c : Core) : Prop → SRes → Prop
  | result (o : AluOut) : DataOut len dd c (noOverflow c o) (putOut len dd o c)
  | quiet (o : AluOut) (hv : o.v = none) : DataOut len dd c True (putOut len dd o c)
  | flags (o : AluOut) : DataOut len dd c True (flagsOnly len o c)
  | move (v : Word) : DataOut len dd c True (.ok (adv len (setD c dd v)))
  | loadF (f : BitVec 6) : DataOut len dd c True (.ok (adv len { c with f := f }))
  | loadWin (w : BitVec 3) : DataOut len dd c True (.ok (adv len { c with win := w }))
  | gate {r : SRes} (b : Bool) (k : Nat) (h : DataOut len dd c True r) : DataOut len dd c (b = false) (if b then .trap k c else r)

/-- What a data row with the register `dd` writes: that register, F and WIN, and the PC. -/
def DataWritten (dd : Nat) (c d : Core) : Prop :=
  d = { c with d := d.d, f := d.f, win := d.win, pc := d.pc } ∧ ∀ j, j < 16 → j ≠ dd → getD d j = getD c j

theorem DataWritten.intPend {dd : Nat} {c d : Core} (h : DataWritten dd c d) : d.intPend = c.intPend := by
  have e := congrArg Core.intPend h.1
  exact e

theorem dataWritten_putRes {dd : Nat} (hdd : dd < 16) (len : Nat) (o : AluOut) (c : Core) :
    DataWritten dd c (adv len (putRes c dd o)) := ⟨rfl, fun _ _ hj => getD_setD_other c hdd o.val hj⟩

/-- A result of the ALU either completes or takes the overflow trap, on the same core (R296). -/
theorem putOut_cases (len dd : Nat) (o : AluOut) (c : Core) :
    putOut len dd o c = .ok (adv len (putRes c dd o)) ∨ putOut len dd o c = .trap 5 (adv len (putRes c dd o)) := by
  unfold putOut endV
  split
  · exact .inr rfl
  · exact .inl rfl

section
variable {len dd : Nat} {c : Core} {p : Prop} {r : SRes}

theorem DataOut.completes (h : DataOut len dd c p r) (hp : p) : ∃ d, r = .ok d := by
  induction h with
  | result o => exact putOut_quiet c len dd o hp
  | quiet o hv => exact putOut_quiet c len dd o fun _ => by simp [hv]
  | flags | move | loadF | loadWin => exact ⟨_, rfl⟩
  | gate b k _ ih =>
    rw [hp]
    exact ih trivial

/-- A result of a data row writes what the row may write, and moves the PC on. -/
theorem DataOut.written (hdd : dd < 16) (h : DataOut len dd c p r) {d : Core} (hr : r = .ok d) :
    DataWritten dd c d ∧ d.pc = (c.pc + len) % 0x4000 := by
  induction h with
  | result o | quiet o =>
    rcases putOut_cases len dd o c with hput | hput
    · rw [hput] at hr
      cases hr
      exact ⟨dataWritten_putRes hdd len o c, rfl⟩
    · rw [hput] at hr
      cases hr
  | flags | loadF | loadWin =>
    cases hr
    exact ⟨⟨rfl, fun _ _ _ => rfl⟩, rfl⟩
  | move v =>
    cases hr
    exact ⟨⟨rfl, fun _ _ hj => getD_setD_other c hdd v hj⟩, rfl⟩
  | gate b k _ ih =>
    cases b with
    | true => cases hr
    | false => exact ih hr

/-- A data row that traps has written no more than one that completes. -/
theorem DataOut.trapped (hdd : dd < 16) (h : DataOut len dd c p r) {k : Nat} {d : Core} (hr : r = .trap k d) :
    DataWritten dd c d := by
  induction h with
  | result o | quiet o =>
    rcases putOut_cases len dd o c with hput | hput
    · rw [hput] at hr
      cases hr
    · rw [hput] at hr
      cases hr
      exact dataWritten_putRes hdd len o c
  | flags | loadF | loadWin | move => cases hr
  | gate b j _ ih =>
    cases b with
    | true =>
      cases hr
      exact ⟨rfl, fun _ _ _ => rfl⟩
    | false => exact ih hr

end

theorem quickF_add (dd : Nat) (v : BitVec 5) (c : Core) :
    quickF 1 dd v.toNat c = putOut 1 dd (addC (getD c dd) (v.signExtend 32) false) c := by
  simp [quickF]

/-- A data row on a core: the instruction it is, the word it goes on at, and its result. -/
structure DataSpec (n : Fin 16) (dd : BitVec 4) (c : Core) (r : Instr × (Core → SRes) × Nat) : Prop where
  steps : StepsAs n r.1 r.2.1
  next : coreNext r.1 c = (c.pc + r.2.2) % 0x4000
  out : DataOut r.2.2 dd.toNat (untrapped c) (coreLegal r.1 c) (r.2.1 (untrapped c))

/-- Every data row by its table. -/
theorem dataRow_spec {n : Fin 16} {dd ds : BitVec 4} {v : BitVec 5} {imm : BitVec 17} {r : Instr × (Core → SRes) × Nat}
    (h : rowsData n dd ds v imm r) (c : Core) : DataSpec n dd c r := by
  have hquick : DataOut 1 dd.toNat (untrapped c) (coreLegal (.sAddq n dd v) c) (quickF 1 dd.toNat v.toNat (untrapped c)) := by
    rw [quickF_add]
    exact .result _
  simp only [rowsData, List.mem_cons, List.not_mem_nil, or_false] at h
  rcases h with rfl | rfl | rfl | rfl | rfl | rfl | rfl | rfl | rfl | rfl | rfl | rfl | rfl | rfl | rfl | rfl | rfl | rfl | rfl |
    rfl | rfl | rfl | rfl | rfl | rfl | rfl | rfl | rfl | rfl | rfl | rfl | rfl | rfl | rfl | rfl | rfl | rfl | rfl | rfl | rfl |
    rfl | rfl | rfl
  all_goals refine ⟨fun _ => ⟨_, _, _, _, rfl, rfl⟩, rfl, ?_⟩
  exacts [.quiet _ rfl, .result _, .result _, .result _, .result _, .quiet _ rfl, .quiet _ rfl, .quiet _ rfl, .flags _, .flags _,
    .quiet _ rfl, .quiet _ rfl, .quiet _ rfl, .result _,
    .quiet _ rfl, hquick, .quiet _ rfl, .quiet _ rfl, .quiet _ rfl, .quiet _ rfl,
    .quiet _ rfl, .result _, .quiet _ rfl, .quiet _ rfl, .quiet _ rfl, .flags _, .gate _ _ (.quiet _ rfl), .flags _,
    .result _, .quiet _ rfl, .result _, .quiet _ rfl, .quiet _ rfl, .quiet _ rfl, .quiet _ rfl, .quiet _ rfl, .quiet _ rfl,
    .quiet _ rfl, .move _, .loadF _, .move _, .gate _ _ (.loadWin _), .move _]

/-- Settles O16: every data row has one of the results of `DataOut`, whose writes and next word are those of the statement. -/
theorem dataRowsWriteRegisterAndFlags : Obligations.DataRowsWriteRegisterAndFlags := by
  unfold Obligations.DataRowsWriteRegisterAndFlags
  intro s n dd ds v imm r hrow hready hfetch
  obtain ⟨hsteps, hnext, hout⟩ := dataRow_spec hrow (coreU s n)
  have hrun : ∀ d, r.2.1 (untrapped (coreU s n)) = .ok d → staysIn (coreU s n) d →
      ∃ t, exec r.1 s = .next t ∧ coreU t n = keepTrap (coreU s n) d ∧ coreFrame s t n := fun d hd hstay =>
    hsteps.completes hready hfetch hd hstay (hout.written dd.isLt hd).1.intPend
  refine ⟨fun hlegal hstays => ?_, fun d hd hstay => ?_⟩
  · obtain ⟨d, hd⟩ := hout.completes hlegal
    have hpc : d.pc = coreNext r.1 (coreU s n) := (hout.written dd.isLt hd).2.trans hnext.symm
    obtain ⟨t, hexec, hcore, hframe⟩ := hrun d hd fun hext _ => hpc ▸ hstays hext
    exact ⟨d, t, hd, hexec, hcore, hframe⟩
  · obtain ⟨⟨hwritten, hregs⟩, hpc⟩ := hout.written dd.isLt hd
    obtain ⟨t, hexec, hcore, hframe⟩ := hrun d hd hstay
    rw [hpc] at hwritten
    exact ⟨t, hexec, hcore, hwritten, hregs, hframe⟩

end Sys2Proof.Machine
end

section
/-! The flags, the overflow trap and the divisions (13 R289, R291, R294-R296, Tables 13-5 and 13-6). -/
namespace Sys2Proof.Machine
open Sys2Proof

/-! ### Flags (R289) -/

theorem getLsbD_flagWord : ∀ c z m v dz ms : Bool,
    let f := BitVec.ofNat 6 (b2n c + 2 * b2n z + 4 * b2n m + 8 * b2n v + 16 * b2n dz + 32 * b2n ms)
    f.getLsbD 0 = c ∧ f.getLsbD 1 = z ∧ f.getLsbD 2 = m ∧ f.getLsbD 3 = v ∧ f.getLsbD 4 = dz ∧ f.getLsbD 5 = ms := by
  decide

/-- Each flag after a result (Table 13-5). -/
theorem putFlags_bits (f : BitVec 6) (o : AluOut) :
    (putFlags f o).getLsbD 0 = o.c.getD (f.getLsbD 0) ∧ (putFlags f o).getLsbD 1 = (o.val == 0) ∧
    (putFlags f o).getLsbD 2 = o.val.getLsbD 31 ∧ (putFlags f o).getLsbD 3 = o.v.getD (f.getLsbD 3) ∧
    (putFlags f o).getLsbD 4 = f.getLsbD 4 ∧ (putFlags f o).getLsbD 5 = f.getLsbD 5 := getLsbD_flagWord ..

/-- Signed overflow: the exact value is not the one of its low 32 bits. -/
theorem ovf32_iff (i : Int) : ovf32 i = true ↔ (BitVec.ofInt 32 i).toInt ≠ i := by
  rw [BitVec.toInt_ofInt]
  simp only [ovf32, Bool.or_eq_true, decide_eq_true_eq, Int.bmod]
  omega

theorem addC_val (a b : Word) : (addC a b false).val = a + b := by
  simp [addC, b2n, BitVec.ofNat_add]

theorem subB_val (a b : Word) : (subB a b false).val = a - b := by
  simp [subB, b2n]

theorem addC_carry (a b : Word) : (addC a b false).c = some (decide (2 ^ 32 ≤ a.toNat + b.toNat)) := rfl

theorem subB_carry (a b : Word) : (subB a b false).c = some (decide (b.toNat ≤ a.toNat)) := rfl

theorem addC_overflow (a b : Word) : ∃ v, (addC a b false).v = some v ∧ (v = true ↔ (a + b).toInt ≠ a.toInt + b.toInt) := by
  refine ⟨_, rfl, ?_⟩
  have hval : BitVec.ofInt 32 (a.toInt + b.toInt) = a + b :=
    BitVec.eq_of_toInt_eq (by rw [BitVec.toInt_ofInt, BitVec.toInt_add])
  rw [show a.toInt + b.toInt + (b2n false : Int) = a.toInt + b.toInt from add_zero _, ovf32_iff, hval]

theorem subB_overflow (a b : Word) : ∃ v, (subB a b false).v = some v ∧ (v = true ↔ (a - b).toInt ≠ a.toInt - b.toInt) := by
  refine ⟨_, rfl, ?_⟩
  have hval : BitVec.ofInt 32 (a.toInt - b.toInt) = a - b :=
    BitVec.eq_of_toInt_eq (by rw [BitVec.toInt_ofInt, BitVec.toInt_sub])
  rw [show a.toInt - b.toInt - (b2n false : Int) = a.toInt - b.toInt from sub_zero _, ovf32_iff, hval]

/-! ### ADD, SUB and CMP (R294) -/

/-- A row with a result of the ALU, the overflow trap disabled, writes the result and its flags. -/
theorem StepsAs.exec_putOut {s : State} {n : Fin 16} {i : Instr} {f : Core → SRes} {len dd : Nat} {o : AluOut}
    (h : StepsAs n i f) (hready : coreReady s n) (hfetch : coreFetches s n i) (hoff : (coreU s n).ovEn = false)
    (hstay : staysIn (coreU s n) (adv len (coreU s n))) (hdd : dd < 16)
    (hf : f (untrapped (coreU s n)) = putOut len dd o (untrapped (coreU s n))) :
    ∃ t, exec i s = .next t ∧ getD (coreU t n) dd = o.val ∧ (coreU t n).f = putFlags (coreU s n).f o := by
  have hres : f (untrapped (coreU s n)) = .ok (adv len (putRes (untrapped (coreU s n)) dd o)) := by
    rw [hf]
    exact endV_quiet _ len o.v fun hon => absurd (hoff.symm.trans hon) Bool.false_ne_true
  obtain ⟨t, hexec, hcore, -⟩ := h.completes hready hfetch hres hstay rfl
  refine ⟨t, hexec, ?_, ?_⟩
  · rw [hcore]
    exact getD_setD_same _ hdd _
  · rw [hcore]
    rfl

/-- A row that sets flags alone. -/
theorem StepsAs.exec_flagsOnly {s : State} {n : Fin 16} {i : Instr} {f : Core → SRes} {len : Nat} {o : AluOut}
    (h : StepsAs n i f) (hready : coreReady s n) (hfetch : coreFetches s n i)
    (hstay : staysIn (coreU s n) (adv len (coreU s n)))
    (hf : f (untrapped (coreU s n)) = flagsOnly len o (untrapped (coreU s n))) :
    ∃ t, exec i s = .next t ∧ (coreU t n).d = (coreU s n).d ∧ (coreU t n).f = putFlags (coreU s n).f o := by
  obtain ⟨t, hexec, hcore, -⟩ := h.completes hready hfetch hf hstay rfl
  exact ⟨t, hexec, hcore ▸ rfl, hcore ▸ rfl⟩

/-- The flags of an addition without a carry in. -/
theorem flags_addC (f : BitVec 6) (a b : Word) :
    ((putFlags f (addC a b false)).getLsbD 0 = true ↔ 2 ^ 32 ≤ a.toNat + b.toNat) ∧
    ((putFlags f (addC a b false)).getLsbD 1 = true ↔ a + b = 0) ∧
    (putFlags f (addC a b false)).getLsbD 2 = (a + b).getLsbD 31 ∧
    ((putFlags f (addC a b false)).getLsbD 3 = true ↔ (a + b).toInt ≠ a.toInt + b.toInt) ∧
    (putFlags f (addC a b false)).getLsbD 4 = f.getLsbD 4 ∧ (putFlags f (addC a b false)).getLsbD 5 = f.getLsbD 5 := by
  obtain ⟨hc, hz, hn, hv, hdz, hms⟩ := putFlags_bits f (addC a b false)
  obtain ⟨v, hsome, hovf⟩ := addC_overflow a b
  rw [hc, hz, hn, hv, addC_val, addC_carry, hsome]
  exact ⟨by simp, beq_iff_eq, rfl, hovf, hdz, hms⟩

/-- The flags of a subtraction without a borrow in. -/
theorem flags_subB (f : BitVec 6) (a b : Word) :
    ((putFlags f (subB a b false)).getLsbD 0 = true ↔ b.toNat ≤ a.toNat) ∧
    ((putFlags f (subB a b false)).getLsbD 1 = true ↔ a = b) ∧
    (putFlags f (subB a b false)).getLsbD 2 = (a - b).getLsbD 31 ∧
    ((putFlags f (subB a b false)).getLsbD 3 = true ↔ (a - b).toInt ≠ a.toInt - b.toInt) := by
  obtain ⟨hc, hz, hn, hv, -, -⟩ := putFlags_bits f (subB a b false)
  obtain ⟨v, hsome, hovf⟩ := subB_overflow a b
  rw [hc, hz, hn, hv, subB_val, subB_carry, hsome]
  have hzero : a - b = 0 ↔ a = b := sub_eq_zero
  exact ⟨by simp, by rw [beq_iff_eq, hzero], rfl, hovf⟩

/-- Settles O17: the rows write the sum or the difference, whose flags are those of Table 13-5. -/
theorem additionAndSubtractionFlags : Obligations.AdditionAndSubtractionFlags := by
  unfold Obligations.AdditionAndSubtractionFlags
  intro s n dd ds hready hoff hstay
  refine ⟨fun hfetch => ?_, fun r hr hfetch => ?_⟩
  · have hadd : StepsAs n (.sAdd n dd ds) (aluF 1 dd.toNat ds.toNat) := fun _ => ⟨_, _, _, _, rfl, rfl⟩
    obtain ⟨t, hexec, hval, hflags⟩ := hadd.exec_putOut hready hfetch hoff hstay dd.isLt rfl
    replace hval : getD (coreU t n) dd.toNat = getD (coreU s n) dd.toNat + getD (coreU s n) ds.toNat :=
      hval.trans (addC_val ..)
    exact ⟨t, hexec, hval, hval ▸ hflags ▸ flags_addC ..⟩
  · simp only [List.mem_cons, List.not_mem_nil, or_false] at hr
    rcases hr with rfl | rfl
    · have hsub : StepsAs n (.sSub n dd ds) (aluF 2 dd.toNat ds.toNat) := fun _ => ⟨_, _, _, _, rfl, rfl⟩
      obtain ⟨t, hexec, hval, hflags⟩ := hsub.exec_putOut hready hfetch hoff hstay dd.isLt rfl
      exact ⟨t, hexec, fun _ => hval.trans (subB_val ..), nofun, hflags ▸ flags_subB ..⟩
    · have hcmp : StepsAs n (.sCmp n dd ds) (aluF 8 dd.toNat ds.toNat) := fun _ => ⟨_, _, _, _, rfl, rfl⟩
      obtain ⟨t, hexec, hregs, hflags⟩ := hcmp.exec_flagsOnly hready hfetch hstay rfl
      exact ⟨t, hexec, nofun, fun _ => hregs, hflags ▸ flags_subB ..⟩

/-! ### DIVS and DIVU (R291, R295, Table 13-6) -/

/-- The core after a division: quotient with its flags into Dd, remainder into Dd+1, both of the values held before. -/
def divided (signed : Bool) (dd ds : Nat) (c : Core) : Core :=
  setD (putRes c dd (divF signed (getD c dd) (getD c ds)).1) (dd + 1) (divF signed (getD c dd) (getD c ds)).2

/-- The core after a division by zero: DZ is set beside (R295). -/
def dividedByZero (signed : Bool) (dd ds : Nat) (c : Core) : Core :=
  { divided signed dd ds c with f := (divided signed dd ds c).f ||| 0x10 }

section
variable {signed : Bool} {dd ds : Nat} {c : Core}

theorem divide_odd (h : dd % 2 = 1) : divide signed dd ds c = .trap 1 c := if_pos h

theorem divide_zero (h : dd % 2 = 0) (hz : getD c ds = 0) : divide signed dd ds c =
    if c.dzEn then .trap 4 (adv 1 (dividedByZero signed dd ds c)) else .ok (adv 1 (dividedByZero signed dd ds c)) := by
  unfold divide
  rw [if_neg (by omega), if_pos hz]
  rfl

theorem divide_nonzero (h : dd % 2 = 0) (hz : getD c ds ≠ 0) : divide signed dd ds c =
    endV 1 (divF signed (getD c dd) (getD c ds)).1.v (divided signed dd ds c) := by
  unfold divide
  rw [if_neg (by omega), if_neg hz]
  rfl

/-- The registers after a division, where Dd is even. -/
theorem getD_divided (hdd : dd < 16) (h : dd % 2 = 0) :
    getD (divided signed dd ds c) dd = (divF signed (getD c dd) (getD c ds)).1.val ∧
    getD (divided signed dd ds c) (dd + 1) = (divF signed (getD c dd) (getD c ds)).2 ∧
    ∀ j, j ≠ dd → j ≠ dd + 1 → getD (divided signed dd ds c) j = getD c j := by
  have hnext : dd + 1 < 16 := by omega
  refine ⟨?_, getD_setD_same _ hnext _, fun j hj hj1 => ?_⟩
  · exact (getD_setD_other _ hnext _ (by omega)).trans (getD_setD_same c hdd _)
  · exact (getD_setD_other _ hnext _ hj1).trans (getD_setD_other c hdd _ hj)

end

theorem divF_signed {a b : Word} (h : b ≠ 0) : (divF true a b).1.val = BitVec.ofInt 32 (a.toInt.tdiv b.toInt) ∧
    (divF true a b).2 = BitVec.ofInt 32 (a.toInt.tmod b.toInt) := by
  unfold divF
  rw [if_neg h, if_pos rfl]
  refine ⟨BitVec.eq_of_toInt_eq ?_, ?_⟩
  · rw [BitVec.toInt_sdiv, BitVec.toInt_ofInt]
  · rw [← BitVec.toInt_srem, BitVec.ofInt_toInt]

theorem divF_unsigned {a b : Word} (h : b ≠ 0) : (divF false a b).1.val = BitVec.ofNat 32 (a.toNat / b.toNat) ∧
    (divF false a b).2 = BitVec.ofNat 32 (a.toNat % b.toNat) := by
  unfold divF
  rw [if_neg h, if_neg Bool.false_ne_true]
  exact ⟨BitVec.udiv_def, BitVec.umod_def⟩

theorem stepsAs_divide (n : Fin 16) (dd ds : BitVec 4) : StepsAs n (.sDivs n dd ds) (divide true dd.toNat ds.toNat) ∧
    StepsAs n (.sDivu n dd ds) (divide false dd.toNat ds.toNat) :=
  ⟨fun _ => ⟨_, _, _, _, rfl, rfl⟩, fun _ => ⟨_, _, _, _, rfl, rfl⟩⟩

/-- A division with a divisor other than 0, the overflow trap disabled. -/
theorem StepsAs.exec_divide {s : State} {n : Fin 16} {i : Instr} {signed : Bool} {dd ds : Nat}
    (h : StepsAs n i (divide signed dd ds)) (hready : coreReady s n) (hfetch : coreFetches s n i) (hdd : dd < 16)
    (heven : dd % 2 = 0) (hz : getD (coreU s n) ds ≠ 0) (hoff : (coreU s n).ovEn = false)
    (hstay : staysIn (coreU s n) (adv 1 (coreU s n))) :
    ∃ t, exec i s = .next t ∧ (coreU t n).pc = ((coreU s n).pc + 1) % 0x4000 ∧
      getD (coreU t n) dd = (divF signed (getD (coreU s n) dd) (getD (coreU s n) ds)).1.val ∧
      getD (coreU t n) (dd + 1) = (divF signed (getD (coreU s n) dd) (getD (coreU s n) ds)).2 ∧
      ∀ j, j < 16 → j ≠ dd → j ≠ dd + 1 → getD (coreU t n) j = getD (coreU s n) j := by
  have hres : divide signed dd ds (untrapped (coreU s n)) = .ok (adv 1 (divided signed dd ds (untrapped (coreU s n)))) := by
    rw [divide_nonzero (c := untrapped (coreU s n)) heven hz]
    exact endV_quiet _ 1 _ fun hon => absurd (hoff.symm.trans hon) Bool.false_ne_true
  obtain ⟨t, hexec, hcore, -⟩ := h.completes hready hfetch hres hstay rfl
  obtain ⟨hquot, hrem, hothers⟩ := getD_divided (signed := signed) (ds := ds) (c := untrapped (coreU s n)) hdd heven
  have hregs : ∀ j, getD (coreU t n) j = getD (divided signed dd ds (untrapped (coreU s n))) j := fun j => by
    rw [hcore]
    rfl
  have hpc : (coreU t n).pc = ((coreU s n).pc + 1) % 0x4000 := by
    rw [hcore]
    rfl
  exact ⟨t, hexec, hpc, (hregs _).trans hquot, (hregs _).trans hrem,
    fun j _ hj hj1 => (hregs j).trans (hothers j hj hj1)⟩

/-- Settles O18: an odd Dd is the trap of R291; otherwise quotient and remainder are those of integer division. -/
theorem divisionQuotientAndRemainder : Obligations.DivisionQuotientAndRemainder := by
  unfold Obligations.DivisionQuotientAndRemainder
  intro s n dd ds hready
  obtain ⟨hdivs, hdivu⟩ := stepsAs_divide n dd ds
  refine ⟨fun hodd i hi hfetch => ?_, fun heven hz hoff hstay => ⟨fun hfetch => ?_, fun hfetch => ?_⟩⟩
  · simp only [List.mem_cons, List.not_mem_nil, or_false] at hi
    rcases hi with rfl | rfl
    · exact hdivs.trap hready hfetch (divide_odd hodd)
    · exact hdivu.trap hready hfetch (divide_odd hodd)
  · have h := hdivs.exec_divide hready hfetch dd.isLt heven hz hoff hstay
    rwa [(divF_signed hz).1, (divF_signed hz).2] at h
  · have h := hdivu.exec_divide hready hfetch dd.isLt heven hz hoff hstay
    rwa [(divF_unsigned hz).1, (divF_unsigned hz).2] at h

/-- A division by zero of either kind gives the same results. -/
theorem divF_zero (signed : Bool) (a : Word) : divF signed a 0 = (⟨0xFFFFFFFF, none, some false⟩, a) := if_pos rfl

theorem dividedByZero_flags {signed : Bool} {dd ds : Nat} {c : Core} (hz : getD c ds = 0) :
    (dividedByZero signed dd ds c).f.getLsbD 4 = true ∧ (dividedByZero signed dd ds c).f.getLsbD 3 = false := by
  have hflags : (dividedByZero signed dd ds c).f = putFlags c.f ⟨0xFFFFFFFF, none, some false⟩ ||| 0x10 := by
    unfold dividedByZero divided
    rw [hz, divF_zero]
    rfl
  obtain ⟨-, -, -, hv, -, -⟩ := putFlags_bits c.f ⟨0xFFFFFFFF, none, some false⟩
  rw [hflags, BitVec.getLsbD_or, BitVec.getLsbD_or, hv]
  exact ⟨by simp, by simp⟩

/-- Settles O19: the core is `dividedByZero` one word on, on which the trap follows where it is enabled. -/
theorem divisionByZero : Obligations.DivisionByZero := by
  unfold Obligations.DivisionByZero
  intro s n dd ds i hready hi hfetch heven hz hstay
  obtain ⟨signed, hsteps⟩ : ∃ signed, StepsAs n i (divide signed dd.toNat ds.toNat) := by
    obtain ⟨hdivs, hdivu⟩ := stepsAs_divide n dd ds
    rcases hi with rfl | rfl
    · exact ⟨true, hdivs⟩
    · exact ⟨false, hdivu⟩
  have hres := divide_zero (signed := signed) (c := untrapped (coreU s n)) heven hz
  obtain ⟨hquot, hrem, -⟩ := getD_divided (signed := signed) (ds := ds.toNat) (c := untrapped (coreU s n)) dd.isLt heven
  have hzero : getD (untrapped (coreU s n)) ds.toNat = 0 := hz
  rw [hzero, divF_zero] at hquot hrem
  obtain ⟨hdz, hv⟩ := dividedByZero_flags (signed := signed) (dd := dd.toNat) hzero
  refine ⟨adv 1 (dividedByZero signed dd.toNat ds.toNat (untrapped (coreU s n))), hquot, hrem, hdz, hv, rfl, fun hen => ?_,
    fun hen => ?_⟩
  · rw [if_neg (by simpa [untrapped] using hen)] at hres
    obtain ⟨t, hexec, hcore, -⟩ := hsteps.completes hready hfetch hres hstay rfl
    exact ⟨t, hexec, hcore⟩
  · rw [if_pos (by simpa [untrapped] using hen)] at hres
    exact hsteps.trap hready hfetch hres

/-! ### The overflow trap (R296) -/

/-- The core with the overflow trap enabled or not. -/
def withOv (b : Bool) (c : Core) : Core := { c with ovEn := b }

theorem endV_withOv {len : Nat} {v : Option Bool} {c d : Core} (h : endV len v (withOv false c) = .ok d) (hv : v = some true) :
    endV len v (withOv true c) = .trap 5 (withOv true d) := by
  rw [endV_quiet _ _ _ (nofun : (withOv false c).ovEn = true → _)] at h
  cases h
  exact if_pos ⟨rfl, hv⟩

/-- A result that sets V, complete where the trap is disabled, takes it where it is enabled, on the same core. -/
theorem putOut_overflow {len dd : Nat} {o : AluOut} {c d : Core} (hset : o.v.isSome)
    (h : putOut len dd o (withOv false c) = .ok d) (hf : d.f.getLsbD 3 = true) :
    putOut len dd o (withOv true c) = .trap 5 (withOv true d) := by
  have hres := h
  unfold putOut at hres
  rw [endV_quiet _ _ _ (nofun : (putRes (withOv false c) dd o).ovEn = true → _)] at hres
  cases hres
  have hbit := (putFlags_bits c.f o).2.2.2.1
  refine endV_withOv (c := putRes c dd o) h ?_
  obtain ⟨v, hv⟩ := Option.isSome_iff_exists.mp hset
  rw [hv] at hbit ⊢
  exact congrArg some (hbit.symm.trans hf)

theorem divide_overflow {signed : Bool} {dd ds : Nat} {c d : Core} (h : divide signed dd ds (withOv false c) = .ok d)
    (hf : d.f.getLsbD 3 = true) : divide signed dd ds (withOv true c) = .trap 5 (withOv true d) := by
  rcases Nat.mod_two_eq_zero_or_one dd with heven | hodd
  · by_cases hz : getD c ds = 0
    · have hv := (dividedByZero_flags (signed := signed) (dd := dd) (c := withOv false c) hz).2
      rw [divide_zero (c := withOv false c) heven hz] at h
      split at h
      · cases h
      · cases h
        exact absurd (hv.symm.trans hf) Bool.false_ne_true
    · rw [divide_nonzero (c := withOv false c) heven hz] at h
      rw [divide_nonzero (c := withOv true c) heven hz]
      have hres := h
      rw [endV_quiet _ _ _ (nofun : (divided signed dd ds (withOv false c)).ovEn = true → _)] at hres
      cases hres
      have hbit := (putFlags_bits c.f (divF signed (getD c dd) (getD c ds)).1).2.2.2.1
      refine endV_withOv (c := divided signed dd ds c) h ?_
      obtain ⟨v, hv⟩ : ∃ v, (divF signed (getD c dd) (getD c ds)).1.v = some v := by
        unfold divF
        rw [if_neg hz]
        cases signed <;> exact ⟨_, rfl⟩
      rw [hv] at hbit
      exact hv.trans (congrArg some (hbit.symm.trans hf))
  · rw [divide_odd hodd] at h
    cases h

/-- Each row that sets V takes the trap where its V is 1. -/
theorem overflowRow_traps {n : Fin 16} {dd ds : BitVec 4} {v : BitVec 5} {imm : BitVec 17} {r : Instr × (Core → SRes)}
    (h : rowsV n dd ds v imm r) : StepsAs n r.1 r.2 ∧ ∀ c d, r.2 (withOv false c) = .ok d → d.f.getLsbD 3 = true →
      r.2 (withOv true c) = .trap 5 (withOv true d) := by
  simp only [rowsV, List.mem_cons, List.not_mem_nil, or_false] at h
  rcases h with rfl | rfl | rfl | rfl | rfl | rfl | rfl | rfl | rfl | rfl | rfl
  all_goals refine ⟨fun _ => ⟨_, _, _, _, rfl, rfl⟩, fun c d hok hf => ?_⟩
  exacts [putOut_overflow rfl hok hf, putOut_overflow rfl hok hf, putOut_overflow rfl hok hf, putOut_overflow rfl hok hf,
    putOut_overflow rfl hok hf, divide_overflow hok hf, divide_overflow hok hf, putOut_overflow rfl hok hf,
    putOut_overflow rfl hok hf, putOut_overflow rfl hok hf, putOut_overflow rfl hok hf]

/-- The rows that set V and never trap. -/
theorem quietRow_steps {n : Fin 16} {mx : BitVec 2} {dd ds : BitVec 4} {imm : BitVec 17} {r : Instr × (Core → SRes)}
    (h : rowsQuiet n mx dd ds imm r) : StepsAs n r.1 r.2 ∧ ∀ c d, r.2 c = .ok d → d.intPend = c.intPend := by
  simp only [rowsQuiet, List.mem_cons, List.not_mem_nil, or_false] at h
  rcases h with rfl | rfl | rfl
  all_goals
    refine ⟨fun _ => ⟨_, _, _, _, rfl, rfl⟩, fun c d hok => ?_⟩
    cases hok
    rfl

/-- Settles O20: a row that sets V, run with the trap disabled, has the core on which the enabled trap is taken. -/
theorem overflowTrapFollowsTheResult : Obligations.OverflowTrapFollowsTheResult := by
  unfold Obligations.OverflowTrapFollowsTheResult
  intro s n mx dd ds v imm r d hready hfetch hon
  refine ⟨fun hrow hok hf => ?_, fun hrow hok hstay => ?_⟩
  · obtain ⟨hsteps, htraps⟩ := overflowRow_traps hrow
    have hsame : withOv true (untrapped (coreU s n)) = untrapped (coreU s n) := by
      unfold withOv untrapped
      rw [← hon]
    refine hsteps.trap hready hfetch ?_
    rw [← hsame]
    exact htraps _ d hok hf
  · obtain ⟨hsteps, hint⟩ := quietRow_steps hrow
    obtain ⟨t, hexec, hcore, -⟩ := hsteps.completes hready hfetch hok hstay (hint (untrapped (coreU s n)) d hok)
    exact ⟨t, hexec, hcore⟩

end Sys2Proof.Machine
end

section
/-! The rows that stay in their core: accumulators, address registers, data memory, control and repeats (13 R287, R290,
R297-R299, Tables 13-1, 13-2 and 13-4). -/
namespace Sys2Proof.Machine
open Sys2Proof

/-! ### What such a row leaves of its core -/

/-- The core without what a row that stays in it can change. -/
def localView (c : Core) : Core :=
  { c with
    a := [], d := [], m := [], f := 0, ie := false, pc := 0, b := [], l := [], dmem := [], trap := {}, sleeping := false
    haltedI := false }

theorem localView_fields {c d : Core} (h : localView d = localView c) : d.extMode = c.extMode ∧ d.stack = c.stack ∧
    d.win = c.win ∧ d.bits = c.bits ∧ d.prog = c.prog ∧ d.mbox = c.mbox ∧ d.cmd = c.cmd := by
  have e := congrArg (fun x : Core => (x.extMode, x.stack, x.win, x.bits, x.prog, x.mbox, x.cmd)) h
  simp only [Prod.mk.injEq] at e
  exact e

theorem localView_intPend {c d : Core} (h : localView d = localView c) : d.intPend = c.intPend := by
  have e := congrArg Core.intPend h
  exact e

/-- The result `r` of a row on core `c`: it completes where `legal` holds, and a core it completes with differs in what
`localView` leaves out and goes on at word `next`. -/
structure CoreOut (c : Core) (next : Nat) (legal : Prop) (r : SRes) : Prop where
  completes : legal → ∃ d, r = .ok d
  inside : ∀ d, r = .ok d → localView d = localView c ∧ d.pc = next

theorem CoreOut.done {c x : Core} {next : Nat} {p : Prop} (hview : localView x = localView c) (hpc : x.pc = next) :
    CoreOut c next p (.ok x) := by
  refine ⟨fun _ => ⟨x, rfl⟩, fun d hd => ?_⟩
  cases hd
  exact ⟨hview, hpc⟩

/-- A row that its mode or its encoding may refuse. -/
theorem CoreOut.gate {c : Core} {next k : Nat} {p q : Prop} [Decidable q] {r : SRes} (h : CoreOut c next True r)
    (hp : p → ¬ q) : CoreOut c next p (if q then .trap k c else r) := by
  refine ⟨fun hlegal => ?_, fun d hd => ?_⟩
  · rw [if_neg (hp hlegal)]
    exact h.completes trivial
  · split at hd
    · cases hd
    · exact h.inside d hd

/-! ### Data memory and mailbox (Table 13-1) -/

theorem memF_out (o m an dd : Nat) (disp : BitVec 14) (c : Core) :
    CoreOut c ((c.pc + if m = 3 then 2 else 1) % 0x4000)
      (dataGranted (o % 2 == 1) (if o < 2 then 4 else 1) (operandAddr m an disp (if o < 2 then 4 else 1) c).1.toNat c)
      (memF o m an dd disp c) := by
  refine ⟨fun h => ⟨_, memF_granted c o m an dd disp h⟩, fun d hd => ?_⟩
  simp only [memF] at hd
  generalize (if o < 2 then 4 else 1) = k at hd
  split at hd
  · split at hd
    · cases hd
    · cases hd
      by_cases ho : o % 2 = 1
      · rw [if_pos ho]
        exact ⟨rfl, rfl⟩
      · rw [if_neg ho]
        exact ⟨rfl, rfl⟩
  · cases hd

/-! ### The targets of the repeat prefixes (R297) -/

/-- A target that `decodeTgt` names: DIVS, DIVU, mode 3, MTW and the reserved functions are none. -/
def Tgt.allowed (t : Tgt) : Prop :=
  match t with
  | .alu f _ _ => f < 14
  | .mem _ m _ _ => m ≠ 3
  | .acc o _ dd => o = 0 → dd = 0
  | .unary o _ => o < 15 ∧ o ≠ 13
  | _ => True

theorem bitsOf_lt (n lo len : Nat) : bitsOf n lo len < 2 ^ len := by
  unfold bitsOf
  exact Nat.mod_lt _ (Nat.two_pow_pos len)

theorem decodeTgt_allowed {w : BitVec 14} {t : Tgt} (h : decodeTgt w = some t) : t.allowed := by
  unfold decodeTgt at h
  dsimp only at h
  split at h
  · split at h
    · cases h
    · next hf =>
      cases h
      exact Nat.lt_of_not_le hf
  split at h
  · cases h
    trivial
  split at h
  · cases h
    trivial
  split at h
  · split at h
    · cases h
    · next hm =>
      cases h
      exact hm
  split at h
  · cases h
    trivial
  split at h
  · split at h
    · cases h
    · next hacc =>
      cases h
      exact fun ho => by_contra fun hdd => hacc ⟨ho, hdd⟩
  split at h
  · split at h
    · cases h
    · next ho =>
      cases h
      have hlt := bitsOf_lt w.toNat 4 4
      exact ⟨by omega, fun h13 => ho (.inl h13)⟩
  split at h
  · cases h
    trivial
  split at h
  · cases h
    trivial
  split at h
  · cases h
    trivial
  · cases h

theorem CoreOut.putOut {c : Core} {p : Prop} (len dd : Nat) (o : AluOut) (h : p → noOverflow c o) :
    CoreOut c ((c.pc + len) % 0x4000) p (putOut len dd o c) := by
  refine ⟨fun hp => putOut_quiet c len dd o (h hp), fun d hd => ?_⟩
  rcases putOut_cases len dd o c with hput | hput
  · rw [hput] at hd
    cases hd
    exact ⟨rfl, rfl⟩
  · rw [hput] at hd
    cases hd

/-- A result that sets no V. -/
theorem CoreOut.quiet {c : Core} {p : Prop} (len dd : Nat) {o : AluOut} (h : o.v = none) :
    CoreOut c ((c.pc + len) % 0x4000) p (Machine.putOut len dd o c) :=
  .putOut len dd o fun _ _ => by simp [h]

section
variable (dd ds : Nat) (c : Core)

/-- ADD, SUB, ADC, SBC and MUL set V. -/
theorem aluF_out {f : Nat} (hf : f < 14) :
    CoreOut c ((c.pc + 1) % 0x4000) (c.ovEn = true → f ∉ [1, 2, 3, 4, 13]) (aluF f dd ds c) := by
  have hset : ∀ (g : Nat) (o : AluOut), g ∈ [1, 2, 3, 4, 13] →
      CoreOut c ((c.pc + 1) % 0x4000) (c.ovEn = true → g ∉ [1, 2, 3, 4, 13]) (putOut 1 dd o c) := fun g o hg =>
    .putOut 1 dd o fun hp hon => absurd hg (hp hon)
  interval_cases f
  exacts [.quiet 1 dd rfl, hset 1 _ (by decide), hset 2 _ (by decide), hset 3 _ (by decide), hset 4 _ (by decide), .quiet 1 dd rfl,
    .quiet 1 dd rfl, .quiet 1 dd rfl, .done rfl rfl, .done rfl rfl, .quiet 1 dd rfl, .quiet 1 dd rfl, .quiet 1 dd rfl,
    hset 13 _ (by decide)]

/-- ADDQ sets V. -/
theorem quickF_out (q v : Nat) : CoreOut c ((c.pc + 1) % 0x4000) (c.ovEn = true → q ≠ 1) (quickF q dd v c) := by
  unfold quickF
  dsimp only
  split
  · exact .quiet 1 dd rfl
  · exact .putOut 1 dd _ fun hp hon => absurd rfl (hp hon)
  all_goals exact .quiet 1 dd rfl

/-- NEG and ABS set V; MTW is not among the functions. -/
theorem unaryF_out {o : Nat} (ho : o < 15) (hmtw : o ≠ 13) :
    CoreOut c ((c.pc + 1) % 0x4000) (c.ovEn = true → o ≠ 0 ∧ o ≠ 2) (unaryF o dd c) := by
  have hneg : CoreOut c ((c.pc + 1) % 0x4000) (c.ovEn = true → 0 ≠ 0 ∧ 0 ≠ 2) (unaryF 0 dd c) :=
    .putOut 1 dd _ fun hp hon => absurd rfl (hp hon).1
  have habs : CoreOut c ((c.pc + 1) % 0x4000) (c.ovEn = true → 2 ≠ 0 ∧ 2 ≠ 2) (unaryF 2 dd c) :=
    .putOut 1 dd _ fun hp hon => absurd rfl (hp hon).2
  interval_cases o
  exacts [hneg, .quiet 1 dd rfl, habs, .quiet 1 dd rfl, .quiet 1 dd rfl, .quiet 1 dd rfl, .quiet 1 dd rfl, .quiet 1 dd rfl,
    .quiet 1 dd rfl, .quiet 1 dd rfl, .done rfl rfl, .done rfl rfl, .done rfl rfl, absurd rfl hmtw, .done rfl rfl]

end

@[simp] theorem getA_setA_same (c : Core) (an : Nat) (a : BitVec 24) : getA (setA c an a) an = a := Tbl.get_set_same ..

/-- Without a displacement the operand is where the address register points. -/
theorem operandAddr_zero_fst (m an n : Nat) (c : Core) : (operandAddr m an 0 n c).1 = getA c an := by
  unfold operandAddr
  dsimp only
  split
  · rfl
  · rfl
  · rfl
  · simp

/-- Operand and address register after it depend on the register, its base and its length alone. -/
theorem operandAddr_congr (m an : Nat) (disp : BitVec 14) (n : Nat) {c d : Core} (ha : getA d an = getA c an) (hb : d.b = c.b)
    (hl : d.l = c.l) : operandAddr m an disp n d = operandAddr m an disp n c := by
  unfold operandAddr
  rw [ha, hb, hl]

/-- The run of the addresses goes on from the register that an access has left. -/
theorem regAfter_succ {m an n : Nat} {c d : Core} (ha : getA d an = (operandAddr m an 0 n c).2) (hb : d.b = c.b)
    (hl : d.l = c.l) (j : Nat) : regAfter m an n d j = regAfter m an n c (j + 1) := by
  induction j with
  | zero =>
    have hstart := operandAddr_congr m an 0 n (c := c) (d := setA c an (getA c an)) (getA_setA_same ..) rfl rfl
    exact ha.trans (congrArg Prod.snd hstart.symm)
  | succ j ih =>
    have hstep := operandAddr_congr m an 0 n (c := setA c an (regAfter m an n c (j + 1)))
      (d := setA d an (regAfter m an n d j)) (by rw [getA_setA_same, getA_setA_same, ih]) hb hl
    exact congrArg Prod.snd hstep

/-- One iteration of a target that runs `k + 1` times without a trap. -/
theorem targetQuiet_one {t : Tgt} {k : Nat} {c : Core} (h : targetQuiet t (k + 1) c) : targetQuiet t 1 c := by
  cases t with
  | mem o m an dd => exact fun j hj => h j (by omega)
  | alu | quick | mac | acc | unary | amov | dmova | aaddq => exact h

/-- A target of a repeat (R297) completes where nothing of it traps. -/
theorem runTgt_out {t : Tgt} (ht : t.allowed) (c : Core) : CoreOut c ((c.pc + 1) % 0x4000) (targetQuiet t 1 c) (runTgt t c) := by
  cases t with
  | alu f dd ds => exact aluF_out dd ds c ht
  | quick q dd v => exact quickF_out dd c q v
  | mem o m an dd =>
    have hmem := memF_out o m an dd 0 c
    rw [operandAddr_zero_fst, if_neg (show m ≠ 3 from ht)] at hmem
    exact ⟨fun h => hmem.completes (h 0 Nat.one_pos), hmem.inside⟩
  | mac o mx a b =>
    change CoreOut c _ _ (macF o mx a b c)
    unfold macF
    dsimp only
    split
    all_goals exact .done rfl rfl
  | acc o mx dd =>
    change CoreOut c _ _ (accF o mx dd c)
    unfold accF
    dsimp only
    split
    · exact .gate (.done rfl rfl) fun _ hdd => hdd (ht rfl)
    all_goals exact .done rfl rfl
  | unary o dd => exact unaryF_out dd c ht.1 ht.2
  | amov an ds => exact .done rfl rfl
  | dmova an dd => exact .done rfl rfl
  | aaddq an v => exact .done rfl rfl

/-- After one iteration the rest of the iterations trap no more than before. -/
theorem targetQuiet_rest {t : Tgt} {k pc : Nat} {c d : Core} (ht : t.allowed) (hrun : runTgt t c = .ok d)
    (h : targetQuiet t (k + 1) c) : targetQuiet t k { d with pc := pc } := by
  have hview := ((runTgt_out ht c).inside d hrun).1
  have hov : d.ovEn = c.ovEn := by
    have e := congrArg Core.ovEn hview
    exact e
  cases t with
  | alu | quick | unary => exact fun hon => h (hov.symm.trans hon)
  | mac | acc | amov | dmova | aaddq => trivial
  | mem o m an dd =>
    have hext : d.extMode = c.extMode := (localView_fields hview).1
    have hfirst := memF_granted c o m an dd 0 (by rw [operandAddr_zero_fst]; exact h 0 (Nat.succ_pos k))
    obtain ⟨hreg, hbase, hlen⟩ : getA d an = (operandAddr m an 0 (if o < 2 then 4 else 1) c).2 ∧ d.b = c.b ∧ d.l = c.l := by
      rw [← SRes.ok.inj (hfirst.symm.trans hrun)]
      refine ⟨getA_setA_same .., ?_⟩
      by_cases ho : o % 2 = 1
      · rw [if_pos ho]
        exact ⟨rfl, rfl⟩
      · rw [if_neg ho]
        exact ⟨rfl, rfl⟩
    intro j hj
    have hgrant := h (j + 1) (by omega)
    rw [← regAfter_succ (d := { d with pc := pc }) hreg hbase hlen] at hgrant
    unfold dataGranted at hgrant ⊢
    rwa [show ({ d with pc := pc } : Core).extMode = c.extMode from hext]

/-- A repeat of a target with the PC held: where nothing traps all iterations complete. -/
theorem repeatTgt_out {t : Tgt} (ht : t.allowed) (k : Nat) (c : Core) :
    (targetQuiet t k c → ∃ d, repeatTgt t k c = (.ok d, 0)) ∧
    ∀ d j, repeatTgt t k c = (.ok d, j) → localView d = localView c ∧ d.pc = c.pc := by
  induction k generalizing c with
  | zero =>
    refine ⟨fun _ => ⟨c, rfl⟩, fun d j hd => ?_⟩
    cases hd
    exact ⟨rfl, rfl⟩
  | succ k ih =>
    obtain ⟨hcompletes, hinside⟩ := runTgt_out ht c
    refine ⟨fun h => ?_, fun d j hd => ?_⟩
    · obtain ⟨x, hx⟩ := hcompletes (targetQuiet_one h)
      obtain ⟨d, hd⟩ := (ih { x with pc := c.pc }).1 (targetQuiet_rest ht hx h)
      refine ⟨d, ?_⟩
      rw [repeatTgt, hx]
      exact hd
    · rw [repeatTgt] at hd
      split at hd
      · next x hx =>
        obtain ⟨hview, hpc⟩ := (ih { x with pc := c.pc }).2 d j hd
        exact ⟨hview.trans (hinside x hx).1, hpc⟩
      · cases hd
      · cases hd

/-! ### REP and REPI (R297-R299) -/

/-- A granted access is not one of the I/O window, so the repeat takes its target. -/
theorem prefixTgt_quiet {t : Tgt} {k : Nat} {c : Core} (hdec : decodeTgt (Tbl.get 0 c.prog ((c.pc + 1) % 0x4000)) = some t)
    (h : targetQuiet t (k + 1) c) : prefixTgt c = some t := by
  have hio : ioTgt c t = false := by
    cases t with
    | mem o m an dd =>
      have harea := (accessCause_granted c (h 0 (Nat.succ_pos k))).2
      unfold ioTgt
      dsimp only
      rw [operandAddr_zero_fst]
      exact beq_eq_false_iff_ne.mpr harea
    | alu | quick | mac | acc | unary | amov | dmova | aaddq => rfl
  unfold prefixTgt
  rw [hdec, Option.bind_some, hio]
  rfl

theorem prefixTgt_allowed {t : Tgt} {c : Core} (h : prefixTgt c = some t) : t.allowed := by
  obtain ⟨u, hu, hsel⟩ := Option.bind_eq_some_iff.mp h
  split at hsel
  · cases hsel
  · cases hsel
    exact decodeTgt_allowed hu

theorem next_word_twice (pc : Nat) : ((pc + 1) % 0x4000 + 1) % 0x4000 = (pc + 2) % 0x4000 := by omega

theorem repF_out (n : Nat) (c : Core) : CoreOut c ((c.pc + 2) % 0x4000)
    (∃ t, decodeTgt (Tbl.get 0 c.prog ((c.pc + 1) % 0x4000)) = some t ∧ targetQuiet t (n + 1) c) (repF n c) := by
  refine ⟨fun ⟨t, hdec, hquiet⟩ => ?_, fun d hd => ?_⟩
  · obtain ⟨d, hd⟩ := (repeatTgt_out (decodeTgt_allowed hdec) (n + 1) (adv 1 c)).1 hquiet
    refine ⟨adv 1 d, ?_⟩
    unfold repF
    rw [prefixTgt_quiet hdec hquiet]
    dsimp only
    rw [hd]
  · unfold repF at hd
    split at hd
    · cases hd
    · next t ht =>
      split at hd
      · next x j hx =>
        cases hd
        obtain ⟨hview, hpc⟩ := (repeatTgt_out (prefixTgt_allowed ht) (n + 1) (adv 1 c)).2 x j hx
        refine ⟨hview, ?_⟩
        rw [← next_word_twice]
        exact congrArg (fun p => (p + 1) % 0x4000) hpc
      · cases hd
      · cases hd

theorem repiF_out (c : Core) : CoreOut c (if (getA c 7).toNat = 1 then (c.pc + 2) % 0x4000 else c.pc)
    (∃ t, decodeTgt (Tbl.get 0 c.prog ((c.pc + 1) % 0x4000)) = some t ∧ namesA7 t = false ∧ 0 < (getA c 7).toNat ∧
      (getA c 7).toNat ≤ 65536 ∧ targetQuiet t 1 c) (repiF c) := by
  refine ⟨fun ⟨t, hdec, hname, hpos, hmax, hquiet⟩ => ?_, fun d hd => ?_⟩
  · obtain ⟨x, hx⟩ := (runTgt_out (decodeTgt_allowed hdec) (adv 1 c)).completes hquiet
    unfold repiF
    dsimp only
    rw [prefixTgt_quiet hdec hquiet]
    dsimp only
    rw [if_neg (by simp [hname]), if_neg (by omega), hx]
    exact ⟨_, rfl⟩
  · unfold repiF at hd
    dsimp only at hd
    split at hd
    · cases hd
    · next t ht =>
      split at hd
      · cases hd
      · split at hd
        · cases hd
        · split at hd
          · next x hx =>
            cases hd
            have hview := ((runTgt_out (prefixTgt_allowed ht) (adv 1 c)).inside x hx).1
            split
            · exact ⟨hview, rfl⟩
            · exact ⟨hview, rfl⟩
          · cases hd
          · cases hd

/-! ### The rows -/

/-- A row that stays in core `n`: the instruction it is, and its result. -/
structure CoreSpec (n : Fin 16) (c : Core) (r : Instr × (Core → SRes)) : Prop where
  steps : StepsAs n r.1 r.2
  out : CoreOut (untrapped c) (coreNext r.1 c) (coreLegal r.1 c) (r.2 (untrapped c))

theorem CoreOut.vendorOnly {c x : Core} {next : Nat} (hview : localView x = localView c) (hpc : x.pc = next) :
    CoreOut c next (c.extMode = false) (Machine.vendorOnly (fun _ => .ok x) c) :=
  .gate (.done hview hpc) fun hvendor hext => absurd (hvendor.symm.trans hext) Bool.false_ne_true

/-- Every row that stays in its core by its table. -/
theorem coreRow_spec {n : Fin 16} {mx : BitVec 2} {d1 d2 : BitVec 3} {dd : BitVec 4} {an : BitVec 3} {m : BitVec 2}
    {q : BitVec 6} {x : BitVec 8} {ext : BitVec 14} {r : Instr × (Core → SRes)}
    (h : rowsCore n mx d1 d2 dd an m q x ext r) (c : Core) : CoreSpec n c r := by
  have hmclr : CoreOut (untrapped c) ((c.pc + 1) % 0x4000) (dd = 0) (accF 0 mx.toNat dd.toNat (untrapped c)) :=
    .gate (.done rfl rfl) fun hzero hne => hne (by rw [hzero]; rfl)
  simp only [rowsCore, List.mem_cons, List.not_mem_nil, or_false] at h
  rcases h with rfl | rfl | rfl | rfl | rfl | rfl | rfl | rfl | rfl | rfl | rfl | rfl | rfl | rfl | rfl | rfl | rfl | rfl | rfl |
    rfl | rfl | rfl | rfl | rfl | rfl | rfl | rfl | rfl | rfl | rfl
  all_goals refine ⟨fun _ => ⟨_, _, _, _, rfl, rfl⟩, ?_⟩
  exacts [.done rfl rfl, .done rfl rfl, .done rfl rfl, .done rfl rfl,
    hmclr, .done rfl rfl, .done rfl rfl, .done rfl rfl, .done rfl rfl, .done rfl rfl, .done rfl rfl, .done rfl rfl,
    .done rfl rfl, .done rfl rfl, .done rfl rfl, .done rfl rfl,
    memF_out 0 .., memF_out 1 .., memF_out 2 .., memF_out 3 .., .done rfl rfl, .done rfl rfl,
    .vendorOnly rfl rfl, .vendorOnly rfl rfl, .vendorOnly rfl rfl, .vendorOnly rfl rfl,
    repF_out .., repiF_out .., .done rfl rfl, .done rfl rfl]

/-- Settles O21: every such row has a result within `CoreOut`, and a row that completes writes its core alone. -/
theorem coreRowsStayInTheCore : Obligations.CoreRowsStayInTheCore := by
  unfold Obligations.CoreRowsStayInTheCore
  intro s n mx d1 d2 dd an m q x ext r hrow hready hfetch
  obtain ⟨hsteps, hcompletes, hinside⟩ := coreRow_spec hrow (coreU s n)
  have hrun : ∀ d, r.2 (untrapped (coreU s n)) = .ok d → staysIn (coreU s n) d →
      ∃ t, exec r.1 s = .next t ∧ coreU t n = keepTrap (coreU s n) d ∧ coreFrame s t n := fun d hd hstay =>
    hsteps.completes hready hfetch hd hstay (localView_intPend (hinside d hd).1)
  refine ⟨fun hlegal hstays => ?_, fun d hd hstay => ?_⟩
  · obtain ⟨d, hd⟩ := hcompletes hlegal
    obtain ⟨t, hexec, hcore, hframe⟩ := hrun d hd fun hext _ => (hinside d hd).2 ▸ hstays hext
    exact ⟨d, t, hd, hexec, hcore, hframe⟩
  · obtain ⟨t, hexec, hcore, hframe⟩ := hrun d hd hstay
    exact ⟨t, hexec, hcore, hframe, localView_fields (hinside d hd).1⟩

end Sys2Proof.Machine
end

section
/-! Stores and loads, branches, calls and returns of a core (13 R287, R293, R300, R302, Tables 13-1 and 13-4). -/
namespace Sys2Proof.Machine
open Sys2Proof

/-! ### A store and the load after it -/

/-- What makes a core run, take interrupts and see its counters, apart from the block's part in it. -/
def runView (c : Core) : CoreState × Bool × Bool × Bool × Option (Nat × Bool) × Option Nat × Bool × Bool × Bool :=
  (c.st, c.sleeping, c.haltedI, c.haltedD, c.waitb, c.svc, c.abortPend, c.intPend, c.extMode)

theorem coreReady_setCore {s : State} {n : Nat} {d : Core} (h : coreReady s n) (hview : runView d = runView (coreU s n)) :
    coreReady (setCore n d s) n := by
  obtain ⟨hruns, hunarmed, hint, hcount, hseen⟩ := h
  simp only [runView, Prod.mk.injEq] at hview
  obtain ⟨hst, hsleep, hhalti, hhaltd, hwait, hsvc, habort, hpend, hext⟩ := hview
  refine ⟨?_, hunarmed, ?_, hcount, ?_⟩
  · unfold coreRuns at hruns ⊢
    dsimp only at hruns ⊢
    rw [coreU_setCore_same, setCore_pwr, hst, hsleep, hhalti, hhaltd, hwait, hsvc, habort]
    exact hruns
  · rw [coreU_setCore_same, hpend, hint]
  · unfold countersSeen at hseen ⊢
    rw [coreU_setCore_same, hext]
    exact hseen

theorem getList_setList (m : Tbl Byte) (a : Nat) (b : Bytes) : Tbl.getList 0 (Tbl.setList 0 m a b) a b.length = b :=
  hostBytes_hostPut a b { host := { mem := m } }

theorem ofLe_leBytes_word (v : Word) : ofLe (leBytes 4 v.toNat) = v.toNat := by
  have hlt := v.isLt
  simp only [leBytes, ofLe, BitVec.toNat_ofNat]
  omega

/-- An aligned word of data memory is granted in vendor mode (Table 13-1). -/
theorem dataGranted_vendor {store : Bool} {a : Nat} {c : Core} (hvendor : c.extMode = false) (hmax : a + 4 ≤ 0x8000)
    (halign : a % 4 = 0) : dataGranted store 4 a c := by
  refine ⟨halign, ?_⟩
  unfold areaOf
  by_cases hlow : a < 0x6000
  · rw [if_pos hlow]
    exact .inl ⟨rfl, hvendor⟩
  · rw [if_neg hlow, if_pos (by omega)]
    exact .inr (.inl rfl)

/-- A core after it has stored the word `v` where An points. -/
def storedWord (an : Nat) (v : Word) (c : Core) : Core :=
  adv 1 (setA { c with dmem := Tbl.setList 0 c.dmem (getA c an).toNat (leBytes 4 v.toNat) } an (getA c an))

/-- A core after it has loaded the word where An points into `dd`. -/
def loadedWord (an dd : Nat) (c : Core) : Core := adv 1 (setA (setD c dd (localRead c (getA c an).toNat 4)) an (getA c an))

section
variable {s : State} {n : Fin 16} {an : BitVec 3} (hready : coreReady s n) (hvendor : (coreU s n).extMode = false)
  (hmax : (getA (coreU s n) an.toNat).toNat + 4 ≤ 0x8000) (halign : (getA (coreU s n) an.toNat).toNat % 4 = 0)
include hready hvendor hmax halign

theorem exec_sSt_word (dd : BitVec 4) :
    exec (.sSt n 0 an dd 0) s = .next (setCore n (storedWord an.toNat (getD (coreU s n) dd.toNat) (coreU s n)) s) := by
  have hsteps : StepsAs n (.sSt n 0 an dd 0) (memF 1 0 an.toNat dd.toNat 0) := fun _ => ⟨_, _, _, _, rfl, rfl⟩
  exact hsteps.exec_ok hready (coreFetches_vendor hvendor _)
    (memF_granted (untrapped (coreU s n)) 1 0 an.toNat dd.toNat 0 (dataGranted_vendor hvendor hmax halign))
    (staysIn_vendor hvendor) rfl

theorem exec_sLd_word (dd : BitVec 4) :
    exec (.sLd n 0 an dd 0) s = .next (setCore n (loadedWord an.toNat dd.toNat (coreU s n)) s) := by
  have hsteps : StepsAs n (.sLd n 0 an dd 0) (memF 0 0 an.toNat dd.toNat 0) := fun _ => ⟨_, _, _, _, rfl, rfl⟩
  exact hsteps.exec_ok hready (coreFetches_vendor hvendor _)
    (memF_granted (untrapped (coreU s n)) 0 0 an.toNat dd.toNat 0 (dataGranted_vendor hvendor hmax halign))
    (staysIn_vendor hvendor) rfl

end

/-- What a load reads where the core has just stored. -/
theorem localRead_storedWord {an : Nat} {v : Word} {c : Core} (hmax : (getA c an).toNat + 4 ≤ 0x8000) :
    localRead (storedWord an v c) (getA c an).toNat 4 = v := by
  unfold localRead
  rw [if_pos (by omega)]
  have hread : Tbl.getList 0 (storedWord an v c).dmem (getA c an).toNat 4 = leBytes 4 v.toNat :=
    getList_setList c.dmem (getA c an).toNat (leBytes 4 v.toNat)
  rw [hread, ofLe_leBytes_word, BitVec.ofNat_toNat, BitVec.setWidth_eq]

/-- Settles O22: the load reads at the address of the store, whose bytes are the word's. -/
theorem storeThenLoadReturnsTheWord : Obligations.StoreThenLoadReturnsTheWord := by
  unfold Obligations.StoreThenLoadReturnsTheWord
  intro s n an dd de hready hvendor hmax halign
  have hstore := exec_sSt_word hready hvendor hmax halign dd
  generalize hx : storedWord an.toNat (getD (coreU s n) dd.toNat) (coreU s n) = x at hstore
  have hcore : coreU (setCore n x s) n = x := coreU_setCore_same ..
  have haddr : getA x an.toNat = getA (coreU s n) an.toNat := hx ▸ getA_setA_same ..
  have hload := exec_sLd_word (s := setCore n x s) (coreReady_setCore hready (hx ▸ rfl)) (by rw [hcore, ← hx]; exact hvendor)
    (by rw [hcore, haddr]; exact hmax) (by rw [hcore, haddr]; exact halign) de
  refine ⟨_, _, hstore, hload, ?_, ?_, fun a ha => ?_, ?_, setCore_frame ..⟩
  · rw [coreU_setCore_same, hcore]
    refine (getD_setD_same _ de.isLt _).trans ?_
    rw [haddr, ← hx]
    exact localRead_storedWord hmax
  · rw [hcore, ← hx]
    rfl
  · rw [hcore, ← hx]
    refine (Tbl.get_setList _ _ _ _ _).trans (if_neg ?_)
    rw [length_leBytes]
    omega
  · rw [coreU_setCore_same, hcore]
    rfl

/-! ### Bcc (R293) -/

/-- The conditions of R293's table, in the order of the cond field. -/
def condTable (f : BitVec 6) : List Bool :=
  [f.getLsbD 1, !f.getLsbD 1, f.getLsbD 0, !f.getLsbD 0, f.getLsbD 2, !f.getLsbD 2, f.getLsbD 3, !f.getLsbD 3,
    f.getLsbD 0 && !f.getLsbD 1, !f.getLsbD 0 || f.getLsbD 1, f.getLsbD 2 == f.getLsbD 3, f.getLsbD 2 != f.getLsbD 3,
    !f.getLsbD 1 && f.getLsbD 2 == f.getLsbD 3, f.getLsbD 1 || f.getLsbD 2 != f.getLsbD 3, true, f.getLsbD 4]

theorem condHolds_table (f : BitVec 6) (cond : BitVec 4) : condHolds f cond.toNat = (condTable f).getD cond.toNat false := by
  have hlt := cond.isLt
  generalize cond.toNat = k at hlt
  interval_cases k <;> rfl

theorem bccF_eq (cond : BitVec 4) (off : BitVec 6) (ext : BitVec 14) (c : Core) : bccF cond off ext c = .ok { c with
    pc := (c.pc + if condHolds c.f cond.toNat then (if off = 0 then ext.toNat else (off.signExtend 14).toNat)
      else (if off = 0 then 2 else 1)) % 0x4000 } := by
  unfold bccF
  by_cases hcond : condHolds c.f cond.toNat = true
  · rw [if_pos hcond, if_pos hcond, ← apply_ite BitVec.toNat]
    rfl
  · rw [if_neg hcond, if_neg hcond]
    rfl

/-- Settles O25: the branch completes with the PC of `bccF_eq`, whose condition is that of R293's table. -/
theorem branchConditions : Obligations.BranchConditions := by
  unfold Obligations.BranchConditions
  intro s n cond off ext hready hvendor
  have hsteps : StepsAs n (.sBcc n cond off ext) (bccF cond off ext) := fun _ => ⟨_, _, _, _, rfl, rfl⟩
  obtain ⟨t, hexec, hcore, hframe⟩ := hsteps.completes hready (coreFetches_vendor hvendor _) (bccF_eq ..)
    (staysIn_vendor hvendor) rfl
  refine ⟨t, hexec, hframe, ?_⟩
  rw [hcore, condHolds_table]
  rfl

/-! ### Calls and returns (R300, R302) -/

/-- A core after a call of `len` words to word `t`. -/
def called (t len : Nat) (c : Core) : Core :=
  { c with pc := t % 0x4000, stack := ⟨(c.pc + len) % 0x4000, c.f, c.extMode⟩ :: c.stack }

theorem called_vendor {t p len : Nat} {c : Core} (hp : t % 0x4000 = p) (h : c.extMode = false) :
    called t len c = { c with pc := p, stack := ⟨(c.pc + len) % 0x4000, c.f, false⟩ :: c.stack } := by
  subst hp
  exact congrArg (fun b => { c with pc := t % 0x4000, stack := ⟨(c.pc + len) % 0x4000, c.f, b⟩ :: c.stack }) h

/-- A core after RET from the frame `fr` above `rest`. -/
def returned (fr : Frame) (rest : List Frame) (c : Core) : Core := { c with pc := fr.pc, stack := rest }

/-- A core after RETI. -/
def resumed (fr : Frame) (rest : List Frame) (c : Core) : Core :=
  { returned fr rest c with f := fr.f, extMode := fr.ext, ie := true }

section
variable {s : State} {n : Nat} {w : SIns}

theorem sCall_pushes (t len : Nat) (hready : coreReady s n) (hvendor : (coreU s n).extMode = false)
    (hroom : (coreU s n).stack.length < 16) : sCall w n t len s = setCore n (called t len (coreU s n)) s := by
  unfold sCall
  dsimp only
  rw [if_neg (fun h => absurd h.2.2.1 (by omega))]
  exact sStep_writes (f := callF t len) (d := called t len (untrapped (coreU s n))) _ _ _ hready (sFetch_vendor hvendor w) rfl
    (staysIn_vendor hvendor) rfl

theorem sCall_too_deep (t len : Nat) (hready : coreReady s n) (hvendor : (coreU s n).extMode = false)
    (hfull : 16 ≤ (coreU s n).stack.length) : sCall w n t len s = stackFault n s :=
  if_pos ⟨hready.1, sFetch_vendor hvendor w, hfull, fun h => absurd (hvendor.symm.trans h.1) Bool.false_ne_true⟩

/-- A return finds nothing to return to exactly on an empty stack. -/
theorem emptyReturn_eq (hready : coreReady s n) (hvendor : (coreU s n).extMode = false) :
    emptyReturn w n s = (coreU s n).stack.isEmpty := by
  unfold emptyReturn
  rw [hready.1, sFetch_vendor hvendor w]
  rfl

theorem sRet_pops {fr : Frame} {rest : List Frame} (hready : coreReady s n) (hvendor : (coreU s n).extMode = false)
    (hstack : (coreU s n).stack = fr :: rest) : sRet n s = setCore n (returned fr rest (coreU s n)) s := by
  unfold sRet
  rw [if_neg (by simp [emptyReturn_eq hready hvendor, hstack])]
  refine sStep_writes (d := returned fr rest (untrapped (coreU s n))) _ _ _ hready (sFetch_vendor hvendor _) ?_
    (staysIn_vendor hvendor) rfl
  rw [show (untrapped (coreU s n)).stack = fr :: rest from hstack]
  rfl

theorem sReti_pops {fr : Frame} {rest : List Frame} (hready : coreReady s n) (hvendor : (coreU s n).extMode = false)
    (hstack : (coreU s n).stack = fr :: rest) : sReti n s = setCore n (resumed fr rest (coreU s n)) s := by
  unfold sReti
  rw [if_neg (by simp [emptyReturn_eq hready hvendor, hstack])]
  refine sStep_writes (d := resumed fr rest (untrapped (coreU s n))) _ _ _ hready (sFetch_vendor hvendor _) ?_
    (staysIn_vendor hvendor) rfl
  have hmode : ¬ (untrapped (coreU s n)).extMode = true := fun h => absurd (hvendor.symm.trans h) Bool.false_ne_true
  refine (if_neg hmode).trans ?_
  dsimp only
  rw [show (untrapped (coreU s n)).stack = fr :: rest from hstack]
  rfl

end

/-- Settles O26: a call pushes where the stack has room, a return pops where it is not empty; otherwise the stack fault. -/
theorem callsAndReturns : Obligations.CallsAndReturns := by
  unfold Obligations.CallsAndReturns
  intro s n ext an hready hvendor
  refine ⟨fun hroom => ?_, fun hfull => ⟨?_, ?_⟩, fun hnone => ?_, fun fr rest hstack => ?_⟩
  · have hcall : exec (.sCall n ext) s = .next (sCall (.ctl 9 ext) n ext.toNat 2 s) := rfl
    have hcalla : exec (.sCalla n an) s =
      .next (sCall (.ctl (0x18 + an.toNat) 0) n (getA (coreU s n) an.toNat).toNat 1 s) := rfl
    rw [hcall, hcalla, sCall_pushes _ _ hready hvendor hroom, sCall_pushes _ _ hready hvendor hroom]
    refine ⟨_, _, rfl, rfl, setCore_frame .., setCore_frame .., ?_, ?_⟩
    · exact (coreU_setCore_same ..).trans (called_vendor (Nat.mod_eq_of_lt ext.isLt) hvendor)
    · exact (coreU_setCore_same ..).trans (called_vendor rfl hvendor)
  · exact congrArg Host.Outcome.next (sCall_too_deep _ _ hready hvendor hfull)
  · exact congrArg Host.Outcome.next (sCall_too_deep _ _ hready hvendor hfull)
  · have hempty : ∀ w, emptyReturn w n s = true := fun w => by
      rw [emptyReturn_eq hready hvendor, hnone]
      rfl
    exact ⟨congrArg Host.Outcome.next (if_pos (hempty _)), congrArg Host.Outcome.next (if_pos ⟨hempty _, hvendor⟩)⟩
  · have hret : exec (.sRet n) s = .next (sRet n s) := rfl
    have hreti : exec (.sReti n) s = .next (sReti n s) := rfl
    rw [hret, hreti, sRet_pops hready hvendor hstack, sReti_pops hready hvendor hstack]
    exact ⟨_, _, rfl, rfl, setCore_frame .., setCore_frame .., coreU_setCore_same .., coreU_setCore_same ..⟩

end Sys2Proof.Machine
end

section
/-! The rows of the bit space (13 R292, R303, R304, Table 13-8). -/
namespace Sys2Proof.Machine
open Sys2Proof

/-! ### The bits -/

/-- A bit that belongs to a core's own or to the permission bits. -/
theorem bitRead_own {b : Nat} (h : b < 1024) (s : State) (n : Nat) : bitRead s n b = Tbl.get false (coreU s n).bits b := if_pos h

/-- From 2048 on a bit is a permission bit, or none. -/
theorem bitRead_high {b : Nat} (h : 2048 ≤ b) (s : State) (n : Nat) :
    bitRead s n b = if b < 3072 then permBit s ((b - 2048) / 4) ((b - 2048) % 4) else false := by
  unfold bitRead
  simp only [show ¬ b < 1024 by omega, show ¬ b < 1088 by omega, show ¬ b < 1152 by omega, show ¬ b < 1168 by omega,
    show ¬ b < 1176 by omega, show ¬ b < 1192 by omega, show ¬ (1280 ≤ b ∧ b < 1536) by omega, show ¬ b = 1536 by omega,
    show ¬ b = 1537 by omega, show ¬ b = 1538 by omega, show ¬ b = 1539 by omega, show ¬ b = 1540 by omega,
    show ¬ b = 1541 by omega, h, true_and, if_false]

/-- Neither kind of bit is touched by a write of a core that keeps its bits. -/
theorem bitRead_setCore {b n : Nat} {c : Core} {s : State} (hb : b < 1024 ∨ 2048 ≤ b) (hc : c.bits = (coreU s n).bits) :
    bitRead (setCore n c s) n b = bitRead s n b := by
  rcases hb with hb | hb
  · rw [bitRead_own hb, bitRead_own hb, coreU_setCore_same, hc]
  · rw [bitRead_high hb, bitRead_high hb]
    rfl

/-- B:2048 to 2051 are the permissions that are always held (R304). -/
theorem bitRead_first {b : Nat} (h : 2048 ≤ b) (h' : b < 2052) (s : State) (n : Nat) : bitRead s n b = true := by
  rw [bitRead_high h, if_pos (by omega), show (b - 2048) / 4 = 0 by omega]
  rfl

theorem bitWrite_own {b : Nat} (h : b < 1024) (n : Nat) (v : Bool) (s : State) :
    bitWrite n b v s = updCore n (fun c => { c with bits := Tbl.set false c.bits b v }) s := if_pos h

theorem bitWrite_perm {b : Nat} (h : 2052 ≤ b) (h' : b < 3072) (n : Nat) (v : Bool) (s : State) :
    bitWrite n b v s = setPerm ((b - 2048) / 4) ((b - 2048) % 4) v s := by
  unfold bitWrite
  rw [if_neg (by omega), if_pos ⟨h, h'⟩]

/-- B:2048 to 2051 ignore the write (R304). -/
theorem bitWrite_ignored {b : Nat} (h : 1024 ≤ b) (h' : b < 2052) (n : Nat) (v : Bool) (s : State) : bitWrite n b v s = s := by
  unfold bitWrite
  rw [if_neg (by omega), if_neg (by omega)]

theorem permBit_setPerm {i g j k : Nat} (hj : j ≠ 0) (hg : g < 4) (hk : k < 4) (v : Bool) (s : State) :
    permBit (setPerm i g v s) j k = if j = i ∧ k = g then v else permBit s j k := by
  have hpos : (j == 0) = false := beq_eq_false_iff_ne.mpr hj
  unfold permBit setPerm
  rw [hpos, Bool.false_or, Bool.false_or]
  dsimp only
  rw [Tbl.get_set]
  congr 1
  exact propext ⟨fun h => ⟨by omega, by omega⟩, fun ⟨h1, h2⟩ => by rw [h1, h2]⟩

/-- A write that Table 13-8 grants sets its bit and leaves every other one. -/
theorem bitRead_bitWrite {b a n : Nat} {s : State} (v : Bool) (hb : b < 1024 ∨ 2052 ≤ b ∧ b < 3072)
    (ha : a < 1024 ∨ 2048 ≤ a) :
    bitRead (bitWrite n b v s) n a = if a = b then v else bitRead s n a := by
  rcases hb with hb | ⟨hb, hb'⟩
  · rw [bitWrite_own hb]
    unfold updCore
    rcases ha with ha | ha
    · rw [bitRead_own ha, bitRead_own ha, coreU_setCore_same]
      exact Tbl.get_set ..
    · rw [if_neg (by omega), bitRead_high ha, bitRead_high ha]
      rfl
  · rw [bitWrite_perm hb hb']
    rcases ha with ha | ha
    · rw [if_neg (by omega), bitRead_own ha, bitRead_own ha]
      rfl
    · by_cases hlow : a < 2052
      · rw [if_neg (by omega), bitRead_first ha hlow, bitRead_first ha hlow]
      · rw [bitRead_high ha, bitRead_high ha]
        by_cases hmax : a < 3072
        · rw [if_pos hmax, if_pos hmax, permBit_setPerm (by omega) (by omega) (by omega)]
          congr 1
          exact propext ⟨fun h => by omega, fun h => by rw [h]; exact ⟨rfl, rfl⟩⟩
        · rw [if_neg hmax, if_neg hmax, if_neg (by omega)]

/-- A bit write changes at most the bits of its core and the permissions. -/
theorem coreU_bitWrite (n b : Nat) (v : Bool) (s : State) :
    ∃ bits, coreU (bitWrite n b v s) n = { coreU s n with bits := bits } := by
  unfold bitWrite
  split
  · exact ⟨_, coreU_setCore_same ..⟩
  · split
    · exact ⟨_, rfl⟩
    · exact ⟨_, rfl⟩

/-- The bits that a core may write (Table 13-8): its own, and in vendor mode the permissions. -/
theorem bitCause_write {c : Core} {b : Nat} (h : bitCause c true b = 0) : b < 1024 ∨ 2048 ≤ b ∧ b < 3072 := by
  unfold bitCause at h
  split at h
  · cases h
  · split at h
    · split at h
      · omega
      · split at h
        · next hread => exact absurd rfl hread.2.1
        · cases h
    · split at h
      · cases h
      · next hmirror => simp only [true_and, not_and, not_lt] at hmirror; omega

/-! ### The effect of a bit-space row (R292) -/

/-- The address that a row accesses: a branch takes no index register. -/
def bitTarget (o : BitOp) (x : BitVec 8) (ext : BitVec 14) (c : Core) : Nat :=
  if o = .jb ∨ o = .jnb then ext.toNat % 4096 else bitAddr c x ext

/-- Does the row write the bit? -/
def bitWrites : BitOp → Bool
  | .set | .clr | .inv | .st => true
  | _ => false

/-- What a granted row does with the bit's value `v`. -/
def bitEffect (o : BitOp) (x : BitVec 8) (b : Nat) (v : Bool) (c : Core) : Core × Option (Nat × Bool) :=
  match o with
  | .set => (adv 2 c, some (b, true))
  | .clr => (adv 2 c, some (b, false))
  | .inv => (adv 2 c, some (b, !v))
  | .ld => (adv 2 (setD c (x.toNat % 16) (if v then 1 else 0)), none)
  | .st => (adv 2 c, some (b, (getD c (x.toNat % 16)).getLsbD 0))
  | .jb => (if v then adv (x.signExtend 14).toNat c else adv 2 c, none)
  | .jnb => (if v then adv 2 c else adv (x.signExtend 14).toNat c, none)
  | .wait => (if v = x.getLsbD 0 then adv 2 c else { c with waitb := some (b, x.getLsbD 0) }, none)

theorem bitF_granted {s : State} {n : Nat} {o : BitOp} {x : BitVec 8} {ext : BitVec 14} {c : Core} (hform : bitRsv o x ext = false)
    (hgrant : bitCause c (bitWrites o) (bitTarget o x ext c) = 0) : bitF s n o x ext c =
      (.ok (bitEffect o x (bitTarget o x ext c) (bitRead s n (bitTarget o x ext c)) c).1,
        (bitEffect o x (bitTarget o x ext c) (bitRead s n (bitTarget o x ext c)) c).2) := by
  have hform' : ¬ bitRsv o x ext = true := by simp [hform]
  cases o
  all_goals
    simp only [bitTarget, bitWrites, reduceCtorEq, or_self, or_false, or_true, if_true, if_false] at hgrant
    refine (if_neg hform').trans ?_
    simp only [bitTarget, bitEffect, reduceCtorEq, or_self, or_false, or_true, if_true, if_false, hgrant]
  case jb | jnb => rfl
  case wait =>
    split
    · rfl
    · rfl

/-- The write of a row, where one is due. -/
def bitPut (n : Nat) : Option (Nat × Bool) → State → State
  | some p, s => bitWrite n p.1 p.2 s
  | none, s => s

theorem keepTrap_bitEffect (o : BitOp) (x : BitVec 8) (b : Nat) (v : Bool) (c : Core) :
    keepTrap c (bitEffect o x b v (untrapped c)).1 = (bitEffect o x b v c).1 := by
  cases o
  case jb | jnb => cases v <;> rfl
  case wait =>
    unfold bitEffect
    dsimp only
    split
    · rfl
    · rfl
  all_goals rfl

theorem bitEffect_keeps (o : BitOp) (x : BitVec 8) (b : Nat) (v : Bool) (c : Core) :
    (bitEffect o x b v c).1.intPend = c.intPend ∧ (bitEffect o x b v c).1.st = c.st := by
  cases o
  case jb | jnb => cases v <;> exact ⟨rfl, rfl⟩
  case wait =>
    unfold bitEffect
    dsimp only
    split
    · exact ⟨rfl, rfl⟩
    · exact ⟨rfl, rfl⟩
  all_goals exact ⟨rfl, rfl⟩

theorem coreRuns_st {s : State} {n : Nat} (h : coreRuns s n = true) : (coreU s n).st ≠ .blockReset := by
  intro hst
  unfold coreRuns at h
  simp [hst] at h

/-- A granted row on a ready core: its effect on the core, then its write. -/
theorem sBit_granted {s : State} {n : Nat} {o : BitOp} {x : BitVec 8} {ext : BitVec 14} {b : Nat} {e : Core × Option (Nat × Bool)}
    (hready : coreReady s n) (hw : sFetch (coreU s n) (.bit (bitCode o) x ext) = .this) (hform : bitRsv o x ext = false)
    (hb : bitTarget o x ext (coreU s n) = b) (hgrant : bitCause (coreU s n) (bitWrites o) b = 0)
    (he : bitEffect o x b (bitRead s n b) (coreU s n) = e) (hstay : staysIn (coreU s n) e.1) :
    sBit n o x ext s = bitPut n e.2 (setCore n e.1 s) := by
  subst hb he
  generalize hv : bitRead s n (bitTarget o x ext (coreU s n)) = v at hstay
  have hf : (bitF s n o x ext (untrapped (coreU s n))).1 =
      .ok (bitEffect o x (bitTarget o x ext (coreU s n)) v (untrapped (coreU s n))).1 :=
    hv ▸ congrArg Prod.fst (bitF_granted (c := untrapped (coreU s n)) hform hgrant)
  have hkeep := keepTrap_bitEffect o x (bitTarget o x ext (coreU s n)) v (coreU s n)
  have hstay' : staysIn (coreU s n) (bitEffect o x (bitTarget o x ext (coreU s n)) v (untrapped (coreU s n))).1 := by
    rw [← hkeep] at hstay
    exact hstay
  have hlocal : sLocal (.bit (bitCode o) x ext) n (fun c => (bitF s n o x ext c).1) s =
      setCore n (bitEffect o x (bitTarget o x ext (coreU s n)) v (coreU s n)).1 s :=
    (sStep_writes false 1 id hready hw hf hstay' (bitEffect_keeps ..).1).trans (congrArg (setCore n · s) hkeep)
  have hst : (coreU (setCore n (bitEffect o x (bitTarget o x ext (coreU s n)) v (coreU s n)).1 s) n).st ≠ .blockReset := by
    rw [coreU_setCore_same, (bitEffect_keeps ..).2]
    exact coreRuns_st hready.1
  unfold sBit
  dsimp only
  rw [hlocal, bitF_granted hform hgrant, hv, if_pos ⟨hready.1, hw, hst⟩]
  generalize (bitEffect o x _ v (coreU s n)).2 = p
  cases p <;> rfl

/-! ### The rows -/

section
variable {s : State} {n : Fin 16} {x : BitVec 8} {ext : BitVec 14}

/-- A row that writes its bit: the bit that a core may write then reads as written. -/
theorem bitRow_writes {i : Instr} {o : BitOp} {v : Bool} (hi : exec i s = .next (sBit n o x ext s))
    (hready : coreReady s n) (hw : sFetch (coreU s n) (.bit (bitCode o) x ext) = .this)
    (hform : bitRsv o x ext = false) (hwrites : bitWrites o = true)
    (hb : bitTarget o x ext (coreU s n) = bitAddr (coreU s n) x ext)
    (hgrant : bitCause (coreU s n) true (bitAddr (coreU s n) x ext) = 0) (hstay : staysIn (coreU s n) (adv 2 (coreU s n)))
    (he : bitEffect o x (bitAddr (coreU s n) x ext) (bitRead s n (bitAddr (coreU s n) x ext)) (coreU s n) =
      (adv 2 (coreU s n), some (bitAddr (coreU s n) x ext, v))) :
    ∃ t, exec i s = .next t ∧ (coreU t n).pc = ((coreU s n).pc + 2) % 0x4000 ∧
      (bitAddr (coreU s n) x ext < 1024 ∨ 2052 ≤ bitAddr (coreU s n) x ext → bitRead t n (bitAddr (coreU s n) x ext) = v) ∧
      (∀ b, b < 1024 ∨ 2048 ≤ b → b ≠ bitAddr (coreU s n) x ext → bitRead t n b = bitRead s n b) ∧
      (∀ b, 2048 ≤ b → b < 2052 → bitRead t n b = true) ∧ (coreU t n).d = (coreU s n).d ∧ (coreU t n).f = (coreU s n).f := by
  have hrow := sBit_granted hready hw hform hb (hwrites ▸ hgrant) he hstay
  generalize bitAddr (coreU s n) x ext = b at hgrant hrow
  obtain ⟨bits, hcore⟩ := coreU_bitWrite n b v (setCore n (adv 2 (coreU s n)) s)
  rw [coreU_setCore_same] at hcore
  have hpc := congrArg Core.pc hcore
  have hd := congrArg Core.d hcore
  have hf := congrArg Core.f hcore
  have hother : ∀ a, a < 1024 ∨ 2048 ≤ a → bitRead (setCore n (adv 2 (coreU s n)) s) n a = bitRead s n a := fun a ha =>
    bitRead_setCore ha rfl
  rw [hrow] at hi
  refine ⟨_, hi, hpc, fun hown => ?_, fun a ha hne => ?_, fun a ha ha' => bitRead_first ha ha' _ _, hd, hf⟩
  · have hrange := bitCause_write hgrant
    exact (bitRead_bitWrite v (by omega) (by omega)).trans (if_pos rfl)
  · have hrange := bitCause_write hgrant
    by_cases hb' : b < 1024 ∨ 2052 ≤ b
    · exact (bitRead_bitWrite v (by omega) ha).trans ((if_neg hne).trans (hother a ha))
    · change bitRead (bitWrite n b v _) n a = _
      rw [bitWrite_ignored (by omega) (by omega), hother a ha]

end

theorem ite_adv (v : Bool) (a b : Nat) (c : Core) : (if v then adv a c else adv b c) = adv (if v then a else b) c := by
  cases v <;> rfl

/-- A stalled WAITB goes on where its bit has come to its polarity (R292). -/
theorem execWaitbRelease_eq {s : State} {n : Fin 16} {b : Nat} {v : Bool} (hwait : (coreU s n).waitb = some (b, v))
    (hint : (coreU s n).intPend = false) (hruns : coreRuns (updCore n (fun k => { k with waitb := none }) s) n = true)
    (hcnt : ∀ k, k < 8 → (cntU s .seq n k).en = false) : exec (.waitbRelease n) s =
      .next (if bitRead s n b = v then setCore n (adv 2 { coreU s n with waitb := none }) s else s) := by
  refine congrArg Host.Outcome.next ?_
  rw [hwait]
  dsimp only
  by_cases hv : bitRead s n b = v
  · rw [if_pos ⟨hv, hruns⟩, if_pos hv, cadEvent_off .seq _ _ _ _ _ _ hcnt, takePending_none]
    · rfl
    · rw [updCore, coreU_setCore_same]
      exact hint
  · rw [if_neg (fun h => hv h.1), if_neg hv]

/-- Settles O24: a granted row is its `bitEffect` on the core and the write of its bit. -/
theorem bitRowsActOnTheBitSpace : Obligations.BitRowsActOnTheBitSpace := by
  unfold Obligations.BitRowsActOnTheBitSpace
  intro s n x ext
  refine ⟨fun hready r hr hfetch hform hgrant hstay => ?_, fun hready hfetch hform hgrant hstay => ?_,
    fun hready hform hgrant hvendor => ?_, fun hready hfetch hform hgrant hnext hsame => ?_, fun b v hwait hint hruns hcnt => ?_⟩
  · simp only [List.mem_cons, List.not_mem_nil, or_false] at hr
    rcases hr with rfl | rfl | rfl | rfl
    all_goals exact bitRow_writes rfl hready (hfetch _ rfl) hform rfl rfl hgrant hstay rfl
  · have hrow := sBit_granted hready (hfetch _ rfl) hform rfl hgrant rfl hstay
    exact ⟨_, congrArg Host.Outcome.next hrow, setCore_frame .., coreU_setCore_same ..⟩
  · have hjb := sBit_granted (b := ext.toNat % 4096) hready (sFetch_vendor hvendor _) hform rfl hgrant rfl (staysIn_vendor hvendor)
    have hjnb := sBit_granted (o := .jnb) (x := x) (b := ext.toNat % 4096) hready (sFetch_vendor hvendor _) hform rfl hgrant rfl
      (staysIn_vendor hvendor)
    exact ⟨_, _, congrArg Host.Outcome.next hjb, congrArg Host.Outcome.next hjnb, (coreU_setCore_same ..).trans (ite_adv ..),
      (coreU_setCore_same ..).trans (ite_adv ..), setCore_frame .., setCore_frame ..⟩
  · have hwait : bitEffect .wait x (bitAddr (coreU s n) x ext) (bitRead s n (bitAddr (coreU s n) x ext)) (coreU s n) =
        (if bitRead s n (bitAddr (coreU s n) x ext) = x.getLsbD 0 then adv 2 (coreU s n)
          else { coreU s n with waitb := some (bitAddr (coreU s n) x ext, x.getLsbD 0) }, none) := rfl
    have hstay : staysIn (coreU s n) (bitEffect .wait x (bitAddr (coreU s n) x ext)
        (bitRead s n (bitAddr (coreU s n) x ext)) (coreU s n)).1 := by
      rw [hwait]
      dsimp only
      split
      · exact hnext
      · exact hsame
    have hrow := sBit_granted hready (hfetch _ rfl) hform rfl hgrant rfl hstay
    exact ⟨_, congrArg Host.Outcome.next hrow, setCore_frame .., coreU_setCore_same ..⟩
  · refine ⟨_, execWaitbRelease_eq hwait hint hruns hcnt, ?_⟩
    rw [apply_ite (coreU · (n : Nat)), coreU_setCore_same]

end Sys2Proof.Machine
end

section
/-! Taking a trap (13 R300, R301): the core that every cause enters its vector with. -/
namespace Sys2Proof.Machine
open Sys2Proof

/-- The core `d` has entered the vector of cause `k` from the core `c`. -/
structure TrapEntered (k : Nat) (c d : Core) : Prop where
  pc : d.pc = 2 * k
  ie : d.ie = false
  vendor : d.extMode = false
  stack : d.stack = ⟨c.pc, c.f, c.extMode⟩ :: c.stack
  info : k ≤ 5 ∨ k = 8 → d.trap.cause = k ∧ d.trap.pc = c.pc
  regs : d.d = c.d ∧ d.a = c.a ∧ d.m = c.m ∧ d.dmem = c.dmem

/-- With room on the stack a trap that does not end an extension program's command only counts and enters its vector. -/
theorem sTrap_enters {s : State} {n k : Nat} {c : Core} (hroom : c.stack.length < 16)
    (hmode : c.extMode = true → k = 6 ∨ k = 7 ∨ k = 8) :
    ∃ u t, countView u = countView s ∧ sTrap n k c s = setCore n t u ∧ TrapEntered k c t := by
  have hend : ¬ (c.extMode = true ∧ k ≠ 6 ∧ k ≠ 7 ∧ k ≠ 8) := fun ⟨hext, h6, h7, h8⟩ => by
    have := hmode hext
    omega
  unfold sTrap
  dsimp only
  rw [if_neg (Nat.not_le.mpr hroom), if_neg hend]
  refine ⟨_, _, countView_cadEvent .seq n (if k ≤ 6 then 6 else 7) 1 (!c.extMode) c.inst s, rfl, rfl, rfl, rfl, rfl,
    fun hinfo => ?_, rfl, rfl, rfl, rfl⟩
  dsimp only
  rw [if_pos hinfo]
  exact ⟨rfl, rfl⟩

/-- Vendor firmware traps. -/
theorem sTrap_vendor {s : State} {n : Nat} (k : Nat) {c : Core} (hroom : c.stack.length < 16) (hvendor : c.extMode = false) :
    TrapEntered k c (coreU (sTrap n k c s) n) := by
  obtain ⟨u, t, -, htrap, hentered⟩ := sTrap_enters (s := s) (n := n) (k := k) hroom fun hext => absurd hext (by simp [hvendor])
  rw [htrap, coreU_setCore_same]
  exact hentered

section
variable {s : State} {n : Fin 16}

/-- The TRAP row saves the next instruction's word. -/
theorem exec_sTrap (v : BitVec 5) (hready : coreReady s n) (hvendor : (coreU s n).extMode = false) :
    exec (.sTrap n v) s = .next (Machine.sTrap n 6 (adv 1 (untrapped (coreU s n))) s) := by
  have hsteps : StepsAs n (.sTrap n v) (fun c => if c.extMode ∧ 6 ≤ v.toNat then .trap 1 c else .trap 6 (adv 1 c)) :=
    fun _ => ⟨_, _, _, _, rfl, rfl⟩
  exact hsteps.trap hready (coreFetches_vendor hvendor _) (if_neg fun h => absurd (hvendor.symm.trans h.1) Bool.false_ne_true)

/-- What lets a core run, one by one. -/
theorem coreRuns_parts {n : Nat} (h : coreRuns s n = true) : s.pwr.seqLock = true ∧ (coreU s n).st ≠ .blockReset ∧
    (coreU s n).haltedD = false ∧ (coreU s n).haltedI = false ∧ (coreU s n).abortPend = false ∧ (coreU s n).svc = none := by
  unfold coreRuns at h
  simp only [Bool.and_eq_true, bne_iff_ne, ne_eq, Bool.not_eq_true', Option.isNone_iff_eq_none] at h
  obtain ⟨⟨⟨⟨⟨⟨⟨hlock, hst⟩, -⟩, hhalti⟩, hhaltd⟩, -⟩, hsvc⟩, habort⟩ := h
  exact ⟨hlock, hst, hhaltd, hhalti, habort, hsvc⟩

/-- An interrupt that is due on a running core with IE = 1 is taken at once (R301). -/
theorem exec_seqInterrupt {kind : Fin 4} (hkind : kind.val < 3) (hruns : coreRuns s n = true) (hie : (coreU s n).ie = true)
    (hmbox : kind.val = 0 → (coreU s n).mbox ≠ []) (hpend : kind.val = 1 → (coreU s n).intPend = true) :
    exec (.seqInterrupt n kind) s = .next (sTrap n 7 { coreU s n with waitb := none, sleeping := false } s) := by
  obtain ⟨hlock, hst, hhaltd, hhalti, habort, hsvc⟩ := coreRuns_parts hruns
  have hdue : (if kind.val = 0 then !(coreU s n).mbox.isEmpty else if kind.val = 1 then (coreU s n).intPend else true) = true := by
    split
    · next h0 => simpa using hmbox h0
    · split
      · next h1 => exact hpend h1
      · rfl
  refine congrArg Host.Outcome.next ((if_neg (fun h => by subst h; exact absurd hkind (by decide))).trans ?_)
  exact (if_pos ⟨hlock, hdue, hst, hhaltd, hhalti, habort, hsvc⟩).trans (if_pos hie)

/-- A pending abort is taken whatever IE is (R301). -/
theorem exec_seqAbort (hlock : s.pwr.seqLock = true) (habort : (coreU s n).abortPend = true)
    (hst : (coreU s n).st ≠ .blockReset) (hhalt : (coreU s n).haltedD = false) :
    exec (.seqAbort n) s = .next (sTrap n 8 { coreU s n with haltedI := false, svc := none } s) :=
  congrArg Host.Outcome.next (if_pos ⟨hlock, habort, hst, hhalt⟩)

/-- Core `x`, with which the trap is taken, has the saved registers of `c`, and what no instruction before the trap writes of
`old`. -/
structure TrapsFrom (old c x : Core) : Prop where
  saved : (x.pc, x.f, x.d) = (c.pc, c.f, c.d)
  kept : (x.extMode, x.stack, x.a, x.m, x.dmem) = (old.extMode, old.stack, old.a, old.m, old.dmem)

/-- A data row that traps has written none of the registers that a trap keeps. -/
theorem DataWritten.trapsFrom {dd : Nat} {c d : Core} (h : DataWritten dd (untrapped c) d) : TrapsFrom c d d := by
  have e := congrArg (fun x : Core => (x.extMode, x.stack, x.a, x.m, x.dmem)) h.1
  exact ⟨rfl, e⟩

end

/-- Settles O27: each of the four causes is the trap of `sTrap_vendor`, from a core that still has its registers. -/
theorem trapEntryPushesAndJumps : Obligations.TrapEntryPushesAndJumps := by
  unfold Obligations.TrapEntryPushesAndJumps
  intro s n i k c hvendor hroom hcause
  have htrap : ∃ x, exec i s = .next (sTrap n k x s) ∧ TrapsFrom (coreU s n) c x := by
    rcases hcause with ⟨v, rfl, rfl, hready, rfl⟩ | ⟨kind, rfl, rfl, rfl, hkind, hruns, hie, hmbox, hpend⟩ |
      ⟨rfl, rfl, rfl, hlock, habort, hst, hhalt⟩ | ⟨dd, ds, v, imm, r, hrow, rfl, hready, htrap⟩
    · exact ⟨_, exec_sTrap v hready hvendor, rfl, rfl⟩
    · exact ⟨_, exec_seqInterrupt hkind hruns hie hmbox hpend, rfl, rfl⟩
    · exact ⟨_, exec_seqAbort hlock habort hst hhalt, rfl, rfl⟩
    · obtain ⟨hsteps, -, hout⟩ := dataRow_spec hrow (coreU s n)
      exact ⟨c, hsteps.trap hready (coreFetches_vendor hvendor _) htrap, (hout.trapped dd.isLt htrap).trapsFrom⟩
  obtain ⟨x, hexec, ⟨hsaved, hkept⟩⟩ := htrap
  simp only [Prod.mk.injEq] at hsaved hkept
  obtain ⟨hpc, hf, hd⟩ := hsaved
  obtain ⟨hext, hstack, ha, hm, hmem⟩ := hkept
  obtain ⟨tpc, tie, tvendor, tstack, tinfo, td, ta, tm, tmem⟩ := sTrap_vendor (s := s) (n := n) k (c := x) (hstack ▸ hroom)
    (hext.trans hvendor)
  rw [hpc, hf, hext, hvendor, hstack] at tstack
  rw [hpc] at tinfo
  exact ⟨_, hexec, tpc, tie, tvendor, tstack, tinfo, td.trans hd, ta.trans ha, tm.trans hm, tmem.trans hmem⟩

end Sys2Proof.Machine
end

section
/-! DONE and the run-time limit of an extension command (13 R306, R308). -/
namespace Sys2Proof.Machine
open Sys2Proof

/-! ### The end of a command leaves the stacks of the cores -/

/-- The stack of every core. -/
def frames (s : State) (m : Nat) : List Frame := (coreU s m).stack

theorem frames_congr {s t : State} (h : t.seq = s.seq) : frames t = frames s := by
  funext m
  unfold frames coreU
  rw [h]

theorem frames_updCore {n : Nat} {f : Core → Core} (hf : ∀ c, (f c).stack = c.stack) (s : State) :
    frames (updCore n f s) = frames s := by
  funext m
  unfold frames updCore
  rw [coreU_setCore]
  split
  · next hm => rw [hf, hm]
  · rfl

theorem frames_charge (aes : Bool) (i start : Nat) (s : State) : frames (charge aes i start s) = frames s := by
  have h : ∀ t, Counted s t → ∀ d, frames { t with drl := d } = frames s := fun t ht _ => frames_congr ht.seq
  cases aes <;> exact h _ (instEvent_counted ..) _

theorem frames_releaseEngine (i start n : Nat) (s : State) : frames (releaseEngine i start n s) = frames s := by
  have hset : ∀ k t, frames (settleFlt .hub n (updEng n (engBoundary k) t)) = frames t := fun _ _ => rfl
  have hjobs : frames (dropJobs n s) = frames s := ite_keeps frames rfl rfl
  unfold releaseEngine
  rw [hset, frames_congr (cadEvent_counted .hub _ _ _ _ _ _ (by decide)).seq, frames_charge, hjobs]

theorem frames_releaseAes (i start n : Nat) (s : State) : frames (releaseAes i start n s) = frames s := by
  have hset : ∀ m f c t, frames (updEng m f (setAes n c t)) = frames t := fun _ _ _ _ => rfl
  unfold releaseAes
  dsimp only
  rw [hset, frames_charge]

theorem frames_releaseDge (n : Nat) (s : State) : frames (releaseDge n s) = frames s := by
  have hset : ∀ d a t, frames (settleFlt .dge n (setDge n d (setHsa n a t))) = frames t := fun _ _ _ => rfl
  unfold releaseDge
  dsimp only
  rw [hset]
  split
  · exact ite_keeps frames rfl rfl
  · rfl

theorem frames_releaseCvu (n : Nat) (s : State) : frames (releaseCvu n s) = frames s := rfl

theorem frames_releaseCore (n : Nat) (s : State) : frames (releaseCore n s) = frames s := by
  have hset : ∀ t, frames (settleFlt .seq n t) = frames t := fun _ => rfl
  unfold releaseCore
  rw [hset, frames_updCore]
  intro c
  dsimp only
  split
  · rfl
  · rfl

theorem frames_releaseOwn (c : Cmd) (s : State) : frames (releaseOwn c s) = frames s := by
  unfold releaseOwn
  split
  · rfl
  · split
    · split
      · exact frames_charge ..
      · exact foldl_keeps frames _ (fun _ _ => frames_releaseEngine ..) _ _
    · exact frames_releaseAes ..
    · exact frames_releaseDge ..
    · exact frames_releaseCvu ..
    · rfl

theorem frames_releaseIfClaimed {f : Nat → State → State} (hf : ∀ n s, frames (f n s) = frames s) (c : Cmd) (k : UnitKind)
    (o : Option Nat) (s : State) : frames (releaseIfClaimed c k f o s) = frames s := by
  cases o with
  | none => rfl
  | some n => exact ite_keeps frames rfl (hf n s)

theorem frames_releaseClaimed (c : Cmd) (s : State) : frames (releaseClaimed c s) = frames s := by
  cases h : c.core with
  | none =>
    unfold releaseClaimed
    rw [h]
  | some n =>
    rw [releaseClaimed_some h, frames_releaseCore, frames_releaseIfClaimed frames_releaseCvu,
      frames_releaseIfClaimed frames_releaseDge, frames_releaseIfClaimed fun _ _ => frames_releaseEngine ..]

theorem frames_freeReserved (n : Nat) (s : State) : frames (freeReserved n s) = frames s := by
  have hset : ∀ f t, frames (updEng n f t) = frames t := fun _ _ => rfl
  unfold freeReserved
  dsimp only
  split
  · rfl
  · refine ite_keeps frames rfl ((hset _ _).trans ?_)
    split
    · exact frames_charge ..
    · rfl

theorem frames_conclude (r : Result) (c : Cmd) (s : State) : frames (conclude (some r) c s) = frames s := by
  have hunits : frames (releaseUnits c s) = frames s :=
    (frames_releaseClaimed c (releaseOwn c s)).trans (frames_releaseOwn c s)
  have hfreed : frames (freed c s) = frames s :=
    (foldl_keeps frames _ (fun s n => ite_keeps frames (frames_freeReserved n s) rfl) _ _).trans hunits
  have hreply : ∀ r' t, frames (reply c r' t) = frames t := fun r' t => by
    have e := congrArg State.seq (replyView_reply c r' t)
    exact frames_congr e
  rw [conclude_some, hreply, hfreed]

/-! ### A fault of a core (R302, R306) -/

/-- What a record of a fault leaves: cores and commands. -/
def runningView (s : State) : Seq × List Cmd := (s.seq, s.hif.cmds)

theorem runningView_record (r : FltRec) (s : State) : runningView (record r s) = runningView s := by
  have hsig : ∀ f v t, runningView (signal f v t) = runningView t := fun f v t =>
    Prod.ext (signal_counted f v t).seq (signal_counted f v t).cmds
  unfold record
  dsimp only
  exact ite_keeps runningView ((hsig ..).trans (ite_keeps runningView rfl rfl)) (ite_keeps runningView rfl rfl)

theorem cmdU_record (r : FltRec) (s : State) (id : Nat) : cmdU (record r s) id = cmdU s id :=
  congrArg (List.find? _) (congrArg Prod.snd (runningView_record r s))

/-- A core with no abort pending. -/
def noAbort (c : Core) : Core := { c with abortPend := false }

/-- A fault of a core that has a command: the record, then the command's end with STS_FAULT. -/
theorem coreFault_some {s : State} {n id : Nat} {k : Cmd} (checker : Nat) (hcmd : (coreU s n).cmd = some id)
    (hk : cmdU s id = some k) : coreFault n checker s = updCore n noAbort
      (conclude (some (justStatus stsFault)) k
        (record { blk := .seq, set := n, checker := checker, cls := 1, inst := (coreU s n).inst } s)) := by
  unfold coreFault
  dsimp only
  rw [hcmd, Option.bind_some, cmdU_record, hk]
  rfl

theorem coreFault_ends {s : State} {n id : Nat} {k : Cmd} (checker : Nat) (hcmd : (coreU s n).cmd = some id)
    (hk : cmdU s id = some k) (hid : k.id = id) :
    cmdU (coreFault n checker s) id = none ∧ frames (coreFault n checker s) = frames s := by
  rw [coreFault_some checker hcmd hk]
  refine ⟨?_, ?_⟩
  · have hupd : ∀ t, cmdU (updCore n noAbort t) id = cmdU t id := fun _ => rfl
    rw [hupd, ← hid, cmdU_conclude]
  · rw [frames_updCore, frames_conclude]
    · exact frames_congr (congrArg Prod.fst (runningView_record ..))
    · exact fun _ => rfl

/-! ### DONE (R308) -/

theorem doneStatus_iff (st : Nat) : doneStatus st = true ↔ st ∈ [0x0000, 0x0102, 0x0107, 0x0701, 0x0702] :=
  List.contains_iff_mem

/-- The result that a core gives with DONE: D0[15:0] and D1. -/
def doneResult (c : Core) : Result := { status := (getD c 0).toNat % 65536, outLen := (getD c 1).toNat }

/-- Where the core goes on after DONE: vendor firmware at the next word, after an extension program at an open one (log 87). -/
def doneNext (c : Core) (s : State) : Nat × State := if c.extMode then freeNumber 0x3000 s else ((c.pc + 1) % 0x4000, s)

/-- DONE on a ready core with a command ends it, with STS_FAULT where an extension program may not give the result. -/
theorem sDone_some {s : State} {n id : Nat} {k : Cmd} (hready : coreReady s n) (hw : sFetch (coreU s n) (.ctl 10 0) = .this)
    (hcmd : (coreU s n).cmd = some id) (hk : cmdU s id = some k) : sDone n s =
      updCore n (fun c => { c with pc := (doneNext (coreU s n) s).1 })
        (if (coreU s n).extMode ∧
            ¬ (doneStatus (doneResult (coreU s n)).status ∧ (doneResult (coreU s n)).outLen ≤ pMax k.pkt) then coreFault n 3 (doneNext (coreU s n) s).2
          else conclude (some (doneResult (coreU s n))) k (doneNext (coreU s n) s).2) := by
  have hcounted : cadEvent .seq n 2 1 (!(coreU s n).extMode) (coreU s n).inst (doneNext (coreU s n) s).2 =
      (doneNext (coreU s n) s).2 := by
    refine cadEvent_off .seq _ _ _ _ _ _ fun k hk => ?_
    unfold doneNext
    split
    · exact hready.2.2.2.1 k hk
    · exact hready.2.2.2.1 k hk
  have hbind : (coreU s n).cmd.bind (cmdU s) = some k := by rw [hcmd, Option.bind_some, hk]
  unfold sDone
  dsimp only
  rw [if_pos ⟨hready.1, hw⟩, hbind]
  unfold doneNext at hcounted ⊢
  dsimp only
  rw [hcounted]
  rfl

/-- Settles O28: DONE is `sDone_some` in either mode; the time limit is a fault, which ends the command and leaves the stacks, and
then the trap of cause 8. -/
theorem doneAndTheTimeLimitEndTheCommand : Obligations.DoneAndTheTimeLimitEndTheCommand := by
  unfold Obligations.DoneAndTheTimeLimitEndTheCommand
  intro s n id k hcmd hk
  refine ⟨fun hready hvendor => ?_, fun hready hext hfetch => ?_, fun hst hid hcore hroom => ?_⟩
  · have hdone := sDone_some hready (sFetch_vendor hvendor _) hcmd hk
    have hnext : doneNext (coreU s n) s = (((coreU s n).pc + 1) % 0x4000, s) := if_neg (by simp [hvendor])
    rw [hnext, if_neg (fun h => absurd (hvendor.symm.trans h.1) Bool.false_ne_true)] at hdone
    exact congrArg Host.Outcome.next hdone
  · have hdone := sDone_some hready (hfetch _ rfl) hcmd hk
    have hnext : doneNext (coreU s n) s = freeNumber 0x3000 s := if_pos hext
    refine congrArg Host.Outcome.next (hdone.trans ?_)
    rw [hnext]
    congr 1
    by_cases hgiven : (getD (coreU s n) 0).toNat % 65536 ∈ [0x0000, 0x0102, 0x0107, 0x0701, 0x0702] ∧
        (getD (coreU s n) 1).toNat ≤ pMax k.pkt
    · rw [if_pos hgiven, if_neg (fun h => h.2 ⟨(doneStatus_iff _).mpr hgiven.1, hgiven.2⟩)]
      rfl
    · rw [if_neg hgiven, if_pos ⟨hext, fun h => hgiven ⟨(doneStatus_iff _).mp h.1, h.2⟩⟩]
  · obtain ⟨hended, hframes⟩ := coreFault_ends 3 hcmd hk hid
    have hstack : (coreU (coreFault n 3 s) n).stack = (coreU s n).stack := congrFun hframes n
    obtain ⟨u, t, hcount, htrap, hentered⟩ := sTrap_enters (s := coreFault n 3 s) (n := n) (k := 8)
      (c := { coreU (coreFault n 3 s) n with f := (coreU s n).f, extMode := (coreU s n).extMode, svc := none, haltedI := false })
      (hstack ▸ hroom) (fun _ => .inr (.inr rfl))
    have hcmds := congrArg (fun x : State => x.hif.cmds) hcount
    refine ⟨setCore n t u, congrArg Host.Outcome.next ((if_pos ⟨hst, by rw [hcmd]; rfl⟩).trans htrap), ?_, ?_, ?_⟩
    · exact (congrArg (List.find? _) hcmds).trans hended
    · rw [coreU_setCore_same]
      exact hentered.pc
    · rw [coreU_setCore_same]
      exact hentered.vendor

end Sys2Proof.Machine
end

section
/-! The service calls of an extension program (13 R307, Table 13-9). -/
namespace Sys2Proof.Machine
open Sys2Proof

/-! ### Counting enables no counter -/

/-- Is the counter of a key enabled? -/
def cntOn (s : State) (key : Nat) : Bool := (Tbl.get {} s.cad.cnt key).en

theorem cntOn_setCnt (b : Bank) (u k : Nat) {c : Cnt} {s : State} (h : c.en = (cntU s b u k).en) :
    cntOn (setCnt b u k c s) = cntOn s := by
  funext key
  unfold cntOn setCnt
  dsimp only
  rw [Tbl.get_set]
  split
  · next hkey => rw [h, hkey]; rfl
  · rfl

theorem cntOn_signal (fn v : Nat) (s : State) : cntOn (signal fn v s) = cntOn s := ite_keeps cntOn rfl (ite_keeps cntOn rfl rfl)

theorem cntOn_sampleAt (b : Bank) (u k : Nat) (s : State) : cntOn (sampleAt b u k s) = cntOn s := by
  cases b with
  | seq =>
    unfold sampleAt
    refine ite_keeps cntOn (ite_keeps cntOn ?_ ?_) rfl
    all_goals cases hp : (bufU s u).precise <;> rfl
  | hub =>
    unfold sampleAt
    refine ite_keeps cntOn ?_ rfl
    cases hp : (bufU s (16 + u)).precise <;> rfl
  | block | inst => rfl

theorem cntOn_cntAdd (b : Bank) (u n k amt : Nat) (s : State) : cntOn (cntAdd b u n k amt s) = cntOn s := by
  induction n generalizing k amt s with
  | zero => rfl
  | succ n ih =>
    have hcount : ∀ v o, cntOn (setCnt b u k { cntU s b u k with val := v, ovf := o } s) = cntOn s := fun _ _ =>
      cntOn_setCnt b u k rfl
    have hwrap : ∀ (c : Bool) x, cntOn (if c then signal 0 114 (sampleAt b u k x) else x) = cntOn x := fun c x =>
      ite_keeps cntOn ((cntOn_signal ..).trans (cntOn_sampleAt ..)) rfl
    unfold cntAdd
    exact ite_keeps cntOn rfl (ite_keeps cntOn (hcount _ _)
      (ite_keeps cntOn ((ih _ _ _).trans ((hwrap _ _).trans (hcount _ _))) ((hwrap _ _).trans (hcount _ _))))

theorem cntOn_cadEvent (b : Bank) (u code amt : Nat) (v : Bool) (i : Nat) (s : State) :
    cntOn (cadEvent b u code amt v i s) = cntOn s :=
  foldl_keeps cntOn _ (fun s k => ite_keeps cntOn (cntOn_cntAdd b u _ k amt s) rfl) _ s

theorem cntOn_bytesEvent (b : Blk) (code n : Nat) (s : State) : cntOn (bytesEvent b code n s) = cntOn s := by
  unfold bytesEvent blkEvent
  dsimp only
  rw [cntOn_cadEvent]
  rfl

/-! ### What the work of a call leaves of the cores -/

/-- What decides whether a core goes on undisturbed: the cores themselves and the counters that are enabled. -/
def coresView (s : State) : Seq × (Nat → Bool) := (s.seq, cntOn s)

theorem coreU_of_view {s t : State} (h : coresView t = coresView s) (n : Nat) : coreU t n = coreU s n := by
  unfold coreU
  rw [show t.seq = s.seq from congrArg Prod.fst h]

theorem cntOn_of_view {s t : State} (h : coresView t = coresView s) : cntOn t = cntOn s := congrArg Prod.snd h

theorem coresView_counted {s t : State} (h : Counted s t) (hon : cntOn t = cntOn s) : coresView t = coresView s :=
  Prod.ext h.seq hon

theorem coresView_blkEvent (b : Blk) (code amt : Nat) (s : State) : coresView (blkEvent b code amt s) = coresView s :=
  coresView_counted (blkEvent_counted ..) (cntOn_cadEvent ..)

theorem coresView_bytesEvent (b : Blk) (code n : Nat) (s : State) : coresView (bytesEvent b code n s) = coresView s :=
  coresView_counted (bytesEvent_counted ..) (cntOn_bytesEvent ..)

theorem coresView_instEvent (i code amt : Nat) (s : State) : coresView (instEvent i code amt s) = coresView s :=
  coresView_counted (instEvent_counted ..) (cntOn_cadEvent ..)

theorem coresView_dmaRead {fn a n : Nat} {s t : State} {b : Bytes} (h : dmaRead fn a n s = some (b, t)) :
    coresView t = coresView s := by
  unfold dmaRead at h
  split at h
  · cases h
    exact (coresView_instEvent ..).trans (coresView_bytesEvent ..)
  · cases h

theorem coresView_logPage (i p : Nat) (s : State) : coresView (logPage i p s) = coresView s := ite_keeps coresView rfl rfl

theorem coresView_logWrite (fn a n : Nat) (s : State) : coresView (logWrite fn a n s) = coresView s :=
  ite_keeps coresView (foldl_keeps coresView _ (fun s p => coresView_logPage fn p s) _ s) rfl

theorem coresView_dmaWrite {fn a : Nat} {b : Bytes} {s t : State} (h : dmaWrite fn a b s = some t) :
    coresView t = coresView s := by
  have hput : coresView (hostPut a b s) = coresView s := rfl
  unfold dmaWrite at h
  split at h
  · rw [← Option.some.inj h, coresView_instEvent, coresView_bytesEvent, coresView_logWrite, hput]
  · cases h

theorem coresView_genRequests (d inst : Nat) : ∀ (k n : Nat) (s : State),
    coresView (genRequests d inst k n s).2 = coresView s
  | 0, _, _ => rfl
  | k + 1, n, s => coresView_genRequests d inst k (n - 65536) (genRequest d inst (min n 65536) s).2

/-- A draw leaves the cores and host memory. -/
theorem draw_keeps {id n : Nat} {s u : State} {b : Bytes} (h : draw id n s = some (b, u)) :
    coresView u = coresView s ∧ u.host.mem = s.host.mem := by
  have hnote : coresView (noteSwitch id s) = coresView s ∧ (noteSwitch id s).host.mem = s.host.mem := by
    unfold noteSwitch
    split
    · split
      · exact ⟨rfl, rfl⟩
      · exact ⟨rfl, rfl⟩
    · exact ⟨rfl, rfl⟩
  unfold draw at h
  split at h
  · cases h
  · next d _ =>
    have hgen := Option.some.inj h
    have hmem := congrArg (fun x : State => x.host.mem) (drbgView_generate d (drawInst s id) n (noteSwitch id s))
    have hcores : coresView (generate d (drawInst s id) n (noteSwitch id s)).2 = coresView (noteSwitch id s) :=
      (coresView_genRequests ..).trans (coresView_blkEvent ..)
    rw [hgen] at hmem hcores
    exact ⟨hcores.trans hnote.1, hmem.trans hnote.2⟩

theorem coresView_digestEvents (alg len : Nat) (s : State) : coresView (digestEvents alg len s) = coresView s :=
  (coresView_blkEvent ..).trans (coresView_blkEvent ..)

theorem cntOn_updCore (n : Nat) (f : Core → Core) (s : State) : cntOn (updCore n f s) = cntOn s := rfl

/-! ### A call and its return -/

/-- A core after a call that returned the status `st`. -/
def answered (st : Nat) (c : Core) : Core := adv 1 (setD c 0 (BitVec.ofNat 32 st))

/-- A core with the bytes `b` in its data memory. -/
def filled (a : Nat) (b : Bytes) (c : Core) : Core := { c with dmem := Tbl.setList 0 c.dmem a b }

section
variable {s t : State} {n : Nat}

/-- A call of the core's own command goes to its work. -/
theorem svcWith_some {call id : Nat} {k : Cmd} (f : Core → Cmd → State) (hready : coreReady s n)
    (hext : (coreU s n).extMode = true) (hw : sFetch (coreU s n) (.ctl (0x20 + call) 0) = .this)
    (hcmd : (coreU s n).cmd = some id) (hk : cmdU s id = some k) : svcWith call n s f = f (coreU s n) k := by
  unfold svcWith
  dsimp only
  rw [if_pos ⟨hready.1, hext, hw⟩, hcmd, Option.bind_some, hk]

/-- Nothing else happens at the boundary of the call: it writes D0 and goes on at the next word. -/
theorem svcEnd_answers (st : Nat) (hready : coreReady s n) (hon : cntOn t = cntOn s) (hint : (coreU t n).intPend = false) :
    svcEnd n st t = setCore n (answered st (coreU t n)) t := by
  unfold svcEnd
  dsimp only
  rw [cadEvent_off .seq, takePending_none]
  · rfl
  · rw [coreU_setCore_same]
    exact hint
  · intro k hk
    exact (congrFun hon (cntKey .seq n k)).trans (hready.2.2.2.1 k hk)

/-- A call whose work left the cores alone. -/
theorem svcEnd_plain (st : Nat) (hready : coreReady s n) (h : coresView t = coresView s) :
    svcEnd n st t = setCore n (answered st (coreU s n)) t := by
  have hcore := coreU_of_view h n
  rw [svcEnd_answers st hready (cntOn_of_view h) (by rw [hcore]; exact hready.2.2.1), hcore]

/-- A call that gives bytes. -/
theorem svcEnd_putCore (st a : Nat) (b : Bytes) (hready : coreReady s n) (h : coresView t = coresView s) :
    svcEnd n st (putCore n a b t) = setCore n (answered st (filled a b (coreU s n))) (putCore n a b t) := by
  have hcore := coreU_of_view h n
  have hput : coreU (putCore n a b t) n = filled a b (coreU s n) := by
    unfold putCore updCore
    rw [coreU_setCore_same, hcore]
    rfl
  rw [svcEnd_answers (t := putCore n a b t) st hready ((cntOn_updCore ..).trans (cntOn_of_view h))
    (by rw [hput]; exact hready.2.2.1), hput]

end

theorem getD_answered (st : Nat) (c : Core) : getD (answered st c) 0 = BitVec.ofNat 32 st := getD_setD_same c (by decide) _

theorem getList_answered (st a : Nat) (b : Bytes) (c : Core) :
    Tbl.getList 0 (answered st (filled a b c)).dmem a b.length = b := getList_setList c.dmem a b

/-- A range of extension data memory is none of the mailbox. -/
theorem coreBytes_inExt {a len : Nat} (h : inExt a len = true) (c : Core) : coreBytes c a len = Tbl.getList 0 c.dmem a len := by
  unfold inExt at h
  simp only [Bool.and_eq_true, decide_eq_true_eq] at h
  have hmbox : ¬ inMbox a len = true := by
    unfold inMbox
    simp only [Bool.and_eq_true, decide_eq_true_eq]
    omega
  exact if_neg hmbox

/-- The digest engine as SVC_DIGEST sets it up for `len` bytes of algorithm 1 to 6. -/
def digestSetup (alg : Nat) (d : Dge) : Dge :=
  { d with alg := alg, keyed := false, compare := false, source := false, outlen := 0 }

/-- The digest engine after the message of SVC_DIGEST. -/
def digestDone (alg len : Nat) (m : Bytes) (d : Dge) : Dge :=
  dgeFinish (if len = 0 then dgeArm len (digestSetup alg d) else dgeAppend m (dgeArm len (digestSetup alg d)))

theorem dgeFinish_st (d : Dge) : (dgeFinish d).st = .done := by
  unfold dgeFinish
  dsimp only
  split
  · rfl
  · rfl

theorem digestSetup_ok {alg : Nat} (h0 : alg ≠ 0) (h6 : alg ≤ 6) (d : Dge) : dgeCfgOk (digestSetup alg d) = true :=
  if_pos ⟨by exact Nat.pos_of_ne_zero h0, h6⟩

/-- Once core 31 has done the message the work goes on. -/
theorem offloadRun_done {s : State} {u : Nat} (h : msgDone s u) (keyed : Bool) (alg n len : Nat) (f : State → State) :
    offloadRun u keyed alg n len s f = f s := by
  rw [offloadRun_going h.1, if_neg (Nat.not_lt.mpr h.2)]

/-- What SVC_DIGEST does with its result: the engine holds it, and it goes into the core's memory at `a`. -/
def digestGiven (n a alg len u : Nat) (d : Dge) (s : State) : State :=
  svcEnd n stsOk (putCore n a d.result (digestEvents alg len (setDge u d s)))

/-- The check-value unit after SVC_CV. -/
def cvDone (alg a len : Nat) (b : Bytes) (c : Cvu) : Cvu :=
  cvuEnd b { c with
    alg := alg, source := 2, guard := 0, cont := false, addr := BitVec.ofNat 64 a, len := len
    run := BitVec.ofNat 64 (cvInit alg) }

/-- A core with a check value in D1 and D2. -/
def cvGiven (r : BitVec 64) (c : Core) : Core := setD (setD c 1 (lo32 r)) 2 (hi32 r)

theorem cvDone_st (alg a len : Nat) (b : Bytes) (c : Cvu) : (cvDone alg a len b c).st = .done := rfl

/-- The check value stands in D1 and D2 beside the status. -/
theorem getD_answered_cvGiven (st : Nat) (r : BitVec 64) (c : Core) :
    getD (answered st (cvGiven r c)) 1 = lo32 r ∧ getD (answered st (cvGiven r c)) 2 = hi32 r := by
  have h0 : ∀ c' v i, i ≠ 0 → getD (adv 1 (setD c' 0 v)) i = getD c' i := fun c' v _ hne =>
    getD_setD_other c' (by decide) v hne
  refine ⟨(h0 _ _ 1 (by decide)).trans ?_, (h0 _ _ 2 (by decide)).trans ?_⟩
  · exact (getD_setD_other _ (by decide) _ (by decide)).trans (getD_setD_same _ (by decide) _)
  · exact getD_setD_same _ (by decide) _

/-! ### The calls -/

section
variable {s : State} {n : Fin 16} {id : Nat} {k : Cmd} (hready : coreReady s n) (hext : (coreU s n).extMode = true)
  (hcmd : (coreU s n).cmd = some id) (hk : cmdU s id = some k)
include hready hext hcmd hk

theorem exec_svcIn_short (hfetch : coreFetches s n (.svcIn n)) (hin : inExt (aNum (coreU s n) 1) (dNum (coreU s n) 2) = true)
    (hlong : pInL k.pkt < dNum (coreU s n) 1 + dNum (coreU s n) 2) :
    exec (.svcIn n) s = .next (setCore n (answered stsBadLength (coreU s n)) s) := by
  refine congrArg Host.Outcome.next ((svcWith_some _ hready hext (hfetch _ rfl) hcmd hk).trans ?_)
  dsimp only
  rw [if_neg (not_not_intro hin), if_pos hlong, svcEnd_plain _ hready rfl]

theorem exec_svcIn_read {t : State} {b : Bytes} (hport : k.port ≠ 256) (hfetch : coreFetches s n (.svcIn n))
    (hin : inExt (aNum (coreU s n) 1) (dNum (coreU s n) 2) = true)
    (hfit : dNum (coreU s n) 1 + dNum (coreU s n) 2 ≤ pInL k.pkt)
    (hread : dmaRead k.port (pInA k.pkt + dNum (coreU s n) 1) (dNum (coreU s n) 2) s = some (b, t)) :
    exec (.svcIn n) s = .next (setCore n (answered stsOk (filled (aNum (coreU s n) 1) b (coreU s n)))
      (putCore n (aNum (coreU s n) 1) b t)) := by
  refine congrArg Host.Outcome.next ((svcWith_some _ hready hext (hfetch _ rfl) hcmd hk).trans ?_)
  dsimp only
  rw [if_neg (not_not_intro hin), if_neg (Nat.not_lt.mpr hfit), readAt, if_neg hport, hread]
  exact svcEnd_putCore _ _ _ hready (coresView_dmaRead hread)

theorem exec_svcOut_written {t : State} (hfetch : coreFetches s n (.svcOut n))
    (hin : inExt (aNum (coreU s n) 1) (dNum (coreU s n) 2) = true)
    (hfit : dNum (coreU s n) 1 + dNum (coreU s n) 2 ≤ pMax k.pkt)
    (hwrite : dmaWrite k.port (pOutA k.pkt + dNum (coreU s n) 1)
      (Tbl.getList 0 (coreU s n).dmem (aNum (coreU s n) 1) (dNum (coreU s n) 2)) s = some t) :
    exec (.svcOut n) s = .next (setCore n (answered stsOk (coreU s n)) t) := by
  refine congrArg Host.Outcome.next ((svcWith_some _ hready hext (hfetch _ rfl) hcmd hk).trans ?_)
  dsimp only
  rw [if_neg (not_not_intro (.inl hin)), if_neg (Nat.not_lt.mpr hfit), coreBytes_inExt hin, hwrite]
  exact svcEnd_plain _ hready (coresView_dmaWrite hwrite)

theorem exec_svcRandom_drawn {u : State} {b : Bytes} (hfetch : coreFetches s n (.svcRandom n))
    (hin : inExt (aNum (coreU s n) 1) (dNum (coreU s n) 2) = true) (hpos : 0 < dNum (coreU s n) 2)
    (hmax : dNum (coreU s n) 2 ≤ 4096) (hdraw : draw k.id (dNum (coreU s n) 2) s = some (b, u)) :
    exec (.svcRandom n) s = .next (setCore n (answered stsOk (filled (aNum (coreU s n) 1) b (coreU s n)))
      (putCore n (aNum (coreU s n) 1) b u)) := by
  refine congrArg Host.Outcome.next ((svcWith_some _ hready hext (hfetch _ rfl) hcmd hk).trans ?_)
  dsimp only
  rw [if_neg (not_not_intro hin), if_neg (by omega), hdraw]
  exact svcEnd_putCore _ _ _ hready (draw_keeps hdraw).1

theorem exec_svcKernel_started {e : Nat} (hfetch : coreFetches s n (.svcKernel n)) (he : (coreU s n).hub = some e)
    (hword : kernelWord s k (dNum (coreU s n) 1) = true) :
    exec (.svcKernel n) s = .next (setCore n (adv 1 { coreU s n with svc := some (dNum (coreU s n) 2) })
      (updEng e (ownerEntry (dNum (coreU s n) 1) (pInL k.pkt) (pMax k.pkt - dNum (coreU s n) 2) (pOp k.pkt)) s)) := by
  refine congrArg Host.Outcome.next ((svcWith_some _ hready hext (hfetch _ rfl) hcmd hk).trans ?_)
  dsimp only
  rw [he]
  exact if_neg (not_not_intro hword)

/-- SVC_DIGEST of algorithm 1 to 6 with its result's own length, once core 31 has done a long message. -/
theorem exec_svcDigest_done {u : Nat} (hfetch : coreFetches s n (.svcDigest n))
    (hin : inExt (aNum (coreU s n) 1) (dNum (coreU s n) 2) = true)
    (hout : inExt (aNum (coreU s n) 2) (dNum (coreU s n) 3) = true) (h6 : dNum (coreU s n) 1 % 16 ≤ 6)
    (h0 : dNum (coreU s n) 1 % 16 ≠ 0) (hlen : dNum (coreU s n) 3 = digestLen (dNum (coreU s n) 1 % 16))
    (hu : (coreU s n).dge = some u) (hdone : dNum (coreU s n) 2 < 4096 ∨ msgDone s u)
    {d : Dge} (hd : digestDone (dNum (coreU s n) 1 % 16) (dNum (coreU s n) 2)
      (Tbl.getList 0 (coreU s n).dmem (aNum (coreU s n) 1) (dNum (coreU s n) 2)) (dgeU s u) = d) :
    exec (.svcDigest n) s = .next (setCore n (answered stsOk (filled (aNum (coreU s n) 2) d.result (coreU s n)))
      (putCore n (aNum (coreU s n) 2) d.result
        (digestEvents (dNum (coreU s n) 1 % 16) (dNum (coreU s n) 2) (setDge u d s)))) := by
  have hown : (if dNum (coreU s n) 1 % 16 ≤ 6 ∧ dNum (coreU s n) 3 = digestLen (dNum (coreU s n) 1 % 16) then 0
      else dNum (coreU s n) 3) = 0 := if_pos ⟨h6, hlen⟩
  have hrun : ∀ f, (if dNum (coreU s n) 2 < 4096 then f s
      else offloadRun u false (dNum (coreU s n) 1 % 16)
        (digestJobs (dNum (coreU s n) 1 % 16) (dNum (coreU s n) 2) (dNum (coreU s n) 3)) (dNum (coreU s n) 2) s f) = f s :=
    fun f => by
      split
      · rfl
      · next hlong => exact offloadRun_done (hdone.resolve_left hlong) ..
  refine congrArg Host.Outcome.next ((svcWith_some _ hready hext (hfetch _ rfl) hcmd hk).trans ?_)
  dsimp only
  rw [if_neg (fun h => h.elim (fun h => h (.inl hin)) (fun h => h hout)), hu]
  dsimp only
  rw [hown, coreBytes_inExt hin]
  refine (if_neg (not_not_intro (digestSetup_ok h0 h6 (dgeU s u)))).trans ?_
  refine (hrun (digestGiven n (aNum (coreU s n) 2) (dNum (coreU s n) 1 % 16) (dNum (coreU s n) 2) u
    (digestDone (dNum (coreU s n) 1 % 16) (dNum (coreU s n) 2)
      (Tbl.getList 0 (coreU s n).dmem (aNum (coreU s n) 1) (dNum (coreU s n) 2)) (dgeU s u)))).trans ?_
  rw [hd]
  exact svcEnd_putCore _ _ _ hready (coresView_digestEvents ..)

/-- SVC_CV over extension data memory. -/
theorem exec_svcCv_done {u : Nat} (hfetch : coreFetches s n (.svcCv n))
    (hin : inExt (aNum (coreU s n) 1) (dNum (coreU s n) 2) = true) (halg : dNum (coreU s n) 1 ≤ 4)
    (hu : (coreU s n).cvu = some u) {d : Cvu} (hd : cvDone (dNum (coreU s n) 1) (aNum (coreU s n) 1) (dNum (coreU s n) 2)
      (Tbl.getList 0 (coreU s n).dmem (aNum (coreU s n) 1) (dNum (coreU s n) 2)) (cvuU s u) = d) :
    exec (.svcCv n) s = .next (setCore n (answered stsOk (cvGiven d.result (coreU s n)))
      (updCore n (cvGiven d.result) (bytesEvent .cvu 0x10 (dNum (coreU s n) 2) (setCvu u d s)))) := by
  have hview : coresView (bytesEvent .cvu 0x10 (dNum (coreU s n) 2) (setCvu u d s)) = coresView s := coresView_bytesEvent ..
  have hcore : coreU (updCore n (cvGiven d.result) (bytesEvent .cvu 0x10 (dNum (coreU s n) 2) (setCvu u d s))) n =
      cvGiven d.result (coreU s n) := by
    rw [updCore, coreU_setCore_same, coreU_of_view hview]
  have hend := svcEnd_answers stsOk hready ((cntOn_updCore n (cvGiven d.result) _).trans (cntOn_of_view hview))
    (by rw [hcore]; exact hready.2.2.1)
  rw [hcore] at hend
  refine congrArg Host.Outcome.next ((svcWith_some _ hready hext (hfetch _ rfl) hcmd hk).trans ?_)
  dsimp only
  rw [if_neg (not_not_intro (.inl hin)), hu]
  dsimp only
  rw [if_neg (Nat.not_lt.mpr halg), coreBytes_inExt hin]
  subst hd
  exact hend

end

/-- Settles O29: each call is the equation of its own above; what it gives stands where its work put it. -/
theorem serviceCallsReturnInD0 : Obligations.ServiceCallsReturnInD0 := by
  unfold Obligations.ServiceCallsReturnInD0
  intro s n id k hready hext hcmd hk hport
  refine ⟨fun hin hfit hok hfetch => ?_, fun hin hlong hfetch => ?_, fun hin hfit hlog hok hfetch => ?_,
    fun hin hpos hmax b u hdraw hfetch => ?_, fun e he hword hfetch => ?_,
    fun hin hout h6 h0 hlen u hu hdone hfetch => ?_, fun hin halg u hu hfetch => ?_⟩
  · obtain ⟨t, hread, hcount⟩ := dmaRead_ok _ _ _ s hok
    refine ⟨_, exec_svcIn_read hready hext hcmd hk hport hfetch hin hfit hread, ?_, ?_, ?_, hcount.hostMem⟩
    · rw [coreU_setCore_same, getD_answered]
      rfl
    · rw [coreU_setCore_same]
      rfl
    · have hput := getList_answered stsOk (aNum (coreU s n) 1)
        (hostBytes s (pInA k.pkt + dNum (coreU s n) 1) (dNum (coreU s n) 2)) (coreU s n)
      rw [coreU_setCore_same]
      rwa [show (hostBytes s (pInA k.pkt + dNum (coreU s n) 1) (dNum (coreU s n) 2)).length = dNum (coreU s n) 2 from
        Tbl.length_getList ..] at hput
  · refine ⟨_, exec_svcIn_short hready hext hcmd hk hfetch hin hlong, ?_, ?_⟩
    · rw [coreU_setCore_same, getD_answered]
      rfl
    · rw [coreU_setCore_same]
      rfl
  · have hbytes : (Tbl.getList 0 (coreU s n).dmem (aNum (coreU s n) 1) (dNum (coreU s n) 2)).length = dNum (coreU s n) 2 :=
      Tbl.length_getList ..
    obtain ⟨t, hwrite, hcount⟩ := dmaWrite_ok _ _ _ s (hbytes.symm ▸ hok) hlog
    have hput := hostBytes_hostPut (pOutA k.pkt + dNum (coreU s n) 1)
      (Tbl.getList 0 (coreU s n).dmem (aNum (coreU s n) 1) (dNum (coreU s n) 2)) s
    have hmem : ∀ c, (setCore n c t).host.mem = _ := fun _ => hcount.hostMem
    refine ⟨_, exec_svcOut_written hready hext hcmd hk hfetch hin hfit hwrite, ?_, ?_, fun a ha => ?_⟩
    · rw [coreU_setCore_same, getD_answered]
      rfl
    · rw [hbytes] at hput
      unfold hostBytes at hput ⊢
      rw [hmem, hput]
    · rw [hmem]
      exact hostPut_get_outside _ _ s a (by rw [hbytes]; exact ha)
  · refine ⟨_, exec_svcRandom_drawn hready hext hcmd hk hfetch hin hpos hmax hdraw, ?_, ?_, (draw_keeps hdraw).2⟩
    · rw [coreU_setCore_same, getD_answered]
      rfl
    · rw [coreU_setCore_same]
      exact getList_answered ..
  · refine ⟨_, exec_svcKernel_started hready hext hcmd hk hfetch he hword, ?_, ?_⟩
    · rw [coreU_setCore_same]
      rfl
    · have heng : ∀ f c, eng (setCore n c (updEng e f s)) e = f (eng s e) := fun f c => eng_setEng_same ..
      rw [heng]
      exact ⟨rfl, rfl, rfl⟩
  · have hexec := exec_svcDigest_done hready hext hcmd hk hfetch hin hout h6 h0 hlen hu hdone rfl
    generalize hd : digestDone _ _ _ (dgeU s u) = d at hexec
    have hdge : ∀ c t, dgeU (setCore n c (putCore n (aNum (coreU s n) 2) d.result t)) u = dgeU t u := fun _ _ => rfl
    have hunit : dgeU (digestEvents (dNum (coreU s n) 1 % 16) (dNum (coreU s n) 2) (setDge u d s)) u = d :=
      (dgeU_congr (digestEvents_counted ..).dge u).trans (dgeU_setDge_same ..)
    refine ⟨_, hexec, ?_, ?_, ?_⟩
    · rw [coreU_setCore_same, getD_answered]
      rfl
    · rw [hdge, hunit, ← hd]
      exact dgeFinish_st _
    · rw [coreU_setCore_same, hdge, hunit]
      exact getList_answered ..
  · have hexec := exec_svcCv_done hready hext hcmd hk hfetch hin halg hu rfl
    have hst := cvDone_st (dNum (coreU s n) 1) (aNum (coreU s n) 1) (dNum (coreU s n) 2)
      (Tbl.getList 0 (coreU s n).dmem (aNum (coreU s n) 1) (dNum (coreU s n) 2)) (cvuU s u)
    generalize cvDone _ _ _ _ (cvuU s u) = d at hexec hst
    have hcvu : ∀ c t, cvuU (setCore n c (updCore n (cvGiven d.result) t)) u = cvuU t u := fun _ _ => rfl
    have hunit : cvuU (bytesEvent .cvu 0x10 (dNum (coreU s n) 2) (setCvu u d s)) u = d :=
      (cvuU_congr (bytesEvent_counted ..).cvu u).trans (cvuU_setCvu_same ..)
    refine ⟨_, hexec, ?_, ?_, ?_, ?_⟩
    · rw [coreU_setCore_same, getD_answered]
      rfl
    · rw [coreU_setCore_same, hcvu, hunit]
      exact (getD_answered_cvGiven ..).1
    · rw [coreU_setCore_same, hcvu, hunit]
      exact (getD_answered_cvGiven ..).2
    · rw [hcvu, hunit, hst]

end Sys2Proof.Machine
end

section
/-! Resets and pauses of instances (15 R334, R335, R337, Table 15-3). -/
namespace Sys2Proof.Machine
open Sys2Proof

/-- A read of a table gives what an unlisted key reads as, or a listed entry. -/
theorem Tbl.get_eq_or_mem {α : Type} (d : α) (m : Tbl α) (k : Nat) : Tbl.get d m k = d ∨ (k, Tbl.get d m k) ∈ m := by
  induction m with
  | nil => exact .inl rfl
  | cons p m ih =>
    obtain ⟨j, v⟩ := p
    by_cases h : j = k
    · simp [Tbl.get, h]
    · rw [Tbl.get, if_neg h]
      exact ih.imp_right (List.mem_cons_of_mem _)

/-! ### The commands that are left while commands end -/

/-- Every command of `t` has the number and the port of a command of `s`. -/
def FromPorts (s t : State) : Prop := ∀ c ∈ t.hif.cmds, ∃ d ∈ s.hif.cmds, d.id = c.id ∧ d.port = c.port

theorem FromPorts.refl (s : State) : FromPorts s s := fun c hc => ⟨c, hc, rfl, rfl⟩

theorem FromPorts.trans {s t u : State} (h : FromPorts s t) (k : FromPorts t u) : FromPorts s u := fun c hc => by
  obtain ⟨d, hd, hid, hport⟩ := k c hc
  obtain ⟨e, he, eid, eport⟩ := h d hd
  exact ⟨e, he, eid.trans hid, eport.trans hport⟩

theorem fromPorts_of_cmds {s t : State} (h : t.hif.cmds = s.hif.cmds) : FromPorts s t := fun c hc => ⟨c, h ▸ hc, rfl, rfl⟩

theorem fromPorts_of_view {s t : State} (h : unitView t = unitView s) : FromPorts s t :=
  fromPorts_of_cmds (unitView_fields h).1

theorem fromPorts_foldl {β : Type} {g : State → β → State} (h : ∀ s x, FromPorts s (g s x)) (l : List β) (s : State) :
    FromPorts s (l.foldl g s) := by
  induction l generalizing s with
  | nil => exact .refl s
  | cons x l ih => exact (h s x).trans (ih _)

theorem ite_fromPorts {s t u : State} {p : Prop} [Decidable p] (ht : FromPorts s t) (hu : FromPorts s u) :
    FromPorts s (if p then t else u) := by
  split
  · exact ht
  · exact hu

theorem FromPorts.noneOf {s t : State} {i : Nat} (h : FromPorts s t) (hs : ∀ c ∈ s.hif.cmds, c.port ≠ i) :
    ∀ c ∈ t.hif.cmds, c.port ≠ i := fun c hc => by
  obtain ⟨d, hd, -, hport⟩ := h c hc
  rw [← hport]
  exact hs d hd

theorem fromPorts_delCmd (id : Nat) (s : State) : FromPorts s (delCmd id s) := fun c hc =>
  ⟨c, (List.mem_filter.mp hc).1, rfl, rfl⟩

/-- A command replaced by one of its number and port. -/
theorem fromPorts_setCmd {s : State} {i : Nat} {c d : Cmd} (h : cmdU s i = some c) (hid : d.id = c.id)
    (hport : d.port = c.port) : FromPorts s (setCmd d s) := fun x hx => by
  obtain ⟨y, hy, rfl⟩ := List.mem_map.mp hx
  split
  · exact ⟨c, List.mem_of_find?_eq_some h, hid.symm, hport.symm⟩
  · exact ⟨y, hy, rfl, rfl⟩

theorem fromPorts_releaseDge (n : Nat) (s : State) : FromPorts s (releaseDge n s) := by
  have h : ∀ t d a, FromPorts t (settleFlt .dge n (setDge n d (setHsa n a t))) := fun _ _ _ => fromPorts_of_cmds rfl
  unfold releaseDge
  dsimp only
  split
  · next c hc =>
    obtain ⟨i, -, hi⟩ := Option.bind_eq_some_iff.mp hc
    have hset : FromPorts s (setCmd { c with trunc := true } s) := fromPorts_setCmd hi rfl rfl
    exact FromPorts.trans (ite_fromPorts hset (.refl s)) (h _ _ _)
  · exact h _ _ _

theorem fromPorts_releaseOwn (c : Cmd) (s : State) : FromPorts s (releaseOwn c s) := by
  by_cases hk : c.kind = .dge
  · unfold releaseOwn
    simp only [hk]
    split
    · exact .refl s
    · exact fromPorts_releaseDge c.unit s
  · exact fromPorts_of_view (unitView_releaseOwn c s hk)

theorem fromPorts_releaseIfClaimed {f : Nat → State → State} (hf : ∀ n s, FromPorts s (f n s)) (c : Cmd) (k : UnitKind)
    (o : Option Nat) (s : State) : FromPorts s (releaseIfClaimed c k f o s) := by
  cases o with
  | none => exact .refl s
  | some n => exact ite_fromPorts (.refl s) (hf n s)

theorem fromPorts_releaseClaimed (c : Cmd) (s : State) : FromPorts s (releaseClaimed c s) := by
  cases h : c.core with
  | none =>
    unfold releaseClaimed
    rw [h]
    exact .refl s
  | some n =>
    have hhub := fun n s => fromPorts_of_view (unitView_releaseEngine (cmdInst c) c.start n s)
    have hcvu := fun n s => fromPorts_of_view (unitView_releaseCvu n s)
    rw [releaseClaimed_some h]
    exact (fromPorts_releaseIfClaimed hhub c _ _ s).trans ((fromPorts_releaseIfClaimed fromPorts_releaseDge c _ _ _).trans
      ((fromPorts_releaseIfClaimed hcvu c _ _ _).trans (fromPorts_of_view (unitView_releaseCore n _))))

theorem fromPorts_freed (c : Cmd) (s : State) : FromPorts s (freed c s) :=
  ((fromPorts_releaseOwn c s).trans (fromPorts_releaseClaimed c _)).trans (fromPorts_of_view (unitView_unreserve c.id _))

theorem fromPorts_abandon (c : Cmd) (s : State) : FromPorts s (abandon none c s) := by
  have hcon : conclude none c s = settleQp c.port c.q (delCmd c.id (freed c s)) := rfl
  refine ((fromPorts_freed c s).trans (fromPorts_delCmd c.id _)).trans (fromPorts_of_cmds ?_)
  rw [(abandon_concludes c s).1, hcon, (settleQp_leaves ..).1]

/-- Where the commands of a port are abandoned, none of them is left, and no other has come to the port. -/
theorem abandonAll_noneOf (i : Nat) (s : State) :
    ∀ c ∈ (abandonAll (fun c => c.port == i) none s).hif.cmds, c.port ≠ i := by
  intro c hc hport
  obtain ⟨d, hd, hid, hdport⟩ := fromPorts_foldl (fun s c => fromPorts_abandon c s) _ s c hc
  obtain ⟨hids, -, -⟩ := abandonList_leaves (s.hif.cmds.filter (fun c => c.port == i)) s
  have hleft : c.id ∈ (abandonAll (fun c => c.port == i) none s).hif.cmds.map Cmd.id := List.mem_map_of_mem hc
  rw [abandonAll, hids, List.mem_filter, List.all_eq_true] at hleft
  have hne := hleft.2 d (List.mem_filter.mpr ⟨hd, by simpa using hdport.trans hport⟩)
  simp [hid] at hne

/-! ### The states of the instances, host memory and the register reach -/

/-- The state of every instance, host memory, and whether the registers are reached. -/
def lifeView (s : State) : (Nat → InstState) × Tbl Byte × Bool := (fun j => (instU s j).st, s.host.mem, s.hif.reach)

theorem lifeView_congr {s t : State} (hinst : t.hif.inst = s.hif.inst) (hmem : t.host.mem = s.host.mem)
    (hreach : t.hif.reach = s.hif.reach) : lifeView t = lifeView s := by
  unfold lifeView instU
  rw [hinst, hmem, hreach]

theorem lifeView_setInst (i : Nat) (v : Inst) (s : State) :
    lifeView (setInst i v s) = (Function.update (lifeView s).1 i v.st, (lifeView s).2) := by
  refine Prod.ext (funext fun j => ?_) rfl
  calc (instU (setInst i v s) j).st
      = if j = i then v.st else (instU s j).st := by rw [instU_setInst, apply_ite Inst.st]
    _ = Function.update (lifeView s).1 i v.st j := (Function.update_apply (lifeView s).1 i v.st j).symm

/-- An instance written with the state it has. -/
theorem lifeView_setInst_same {i : Nat} {v : Inst} {s : State} (h : v.st = (instU s i).st) :
    lifeView (setInst i v s) = lifeView s := by
  have hsame : Function.update (lifeView s).1 i v.st = (lifeView s).1 := h ▸ Function.update_eq_self i (lifeView s).1
  rw [lifeView_setInst, hsame]

theorem Released.lifeView {s t : State} (h : Released s t) : lifeView t = lifeView s := by
  obtain ⟨hmem, -, -, -, hinst, -⟩ := h.fields
  have hreach := congrArg (fun x : State => x.hif.reach) h.1
  exact lifeView_congr hinst hmem hreach

theorem lifeView_settleQp (p q : Nat) (s : State) : lifeView (settleQp p q s) = lifeView s := by
  have hstore := storeView_settleQp p q s
  have hreach := congrArg (fun x : State => x.hif.reach) (replyView_settleQp p q s)
  exact lifeView_congr (congrArg Prod.snd hstore) (congrArg Prod.fst hstore) hreach

theorem lifeView_abandon (c : Cmd) (s : State) : lifeView (abandon none c s) = lifeView s := by
  obtain ⟨hhif, hhost, -⟩ := abandon_concludes c s
  have hcon : conclude none c s = settleQp c.port c.q (delCmd c.id (freed c s)) := rfl
  have hdel : ∀ t, lifeView (delCmd c.id t) = lifeView t := fun _ => rfl
  calc lifeView (abandon none c s)
      = lifeView (conclude none c s) :=
        lifeView_congr (congrArg Hif.inst hhif) (congrArg HostMem.mem hhost) (congrArg Hif.reach hhif)
    _ = lifeView (freed c s) := by rw [hcon, lifeView_settleQp, hdel]
    _ = lifeView s := (released_freed c s).lifeView

theorem lifeView_finish (id : Nat) (r : Result) (s : State) : lifeView (finish id r s) = lifeView s := by
  unfold finish
  split <;> rfl

/-- The INST_PAUSE that drains an instance ends with the instance's reset (R334). -/
def pauseEnded (i : Nat) (s : State) : State :=
  match (instU s i).pauseCmd with
  | some id => setInst i { instU s i with pauseCmd := none } (finish id (justStatus stsOk) s)
  | none => s

theorem abandonInst_eq (i : Nat) (r : Option Result) (s : State) :
    abandonInst i r s = abandonAll (fun c => c.port == i) r (pauseEnded i s) := rfl

theorem lifeView_pauseEnded (i : Nat) (s : State) : lifeView (pauseEnded i s) = lifeView s := by
  unfold pauseEnded
  split
  · next id _ =>
    have hfin := lifeView_finish id (justStatus stsOk) s
    have hst := congrFun (congrArg Prod.fst hfin) i
    exact (lifeView_setInst_same (v := { instU s i with pauseCmd := none }) hst.symm).trans hfin
  · rfl

theorem lifeView_abandonInst (i : Nat) (s : State) : lifeView (abandonInst i none s) = lifeView s := by
  rw [abandonInst_eq]
  exact (foldl_keeps lifeView _ (fun s c => lifeView_abandon c s) _ _).trans (lifeView_pauseEnded i s)

theorem abandonInst_noneOf (i : Nat) (s : State) : ∀ c ∈ (abandonInst i none s).hif.cmds, c.port ≠ i :=
  abandonAll_noneOf i (pauseEnded i s)

/-! ### FUNCTION_LEVEL_RESET (R334) -/

/-- The reset of a function that is no instance's: its commands, queue pairs, vectors, counters and grants. -/
def portCleared (i : Nat) (s : State) : State := revokeGrants i (zeroCounters i (resetPort i (abandonInst i none s)))

theorem lifeView_portCleared (i : Nat) (s : State) : lifeView (portCleared i s) = lifeView s := lifeView_abandonInst i s

theorem portCleared_noneOf (i : Nat) (s : State) : ∀ c ∈ (portCleared i s).hif.cmds, c.port ≠ i := abandonInst_noneOf i s

theorem qpU_resetPort (i : Nat) {q : Nat} (hq : q < 64) (s : State) : qpU (resetPort i s) i q = {} := by
  refine (Tbl.get_eq_or_mem _ _ _).resolve_right fun hmem => ?_
  have hkey := (List.mem_filter.mp hmem).2
  have hport : (i * 64 + q) / 64 = i := by omega
  simp [hport] at hkey

theorem qpU_portCleared (i : Nat) {q : Nat} (hq : q < 64) (s : State) : qpU (portCleared i s) i q = {} :=
  qpU_resetPort i hq (abandonInst i none s)

theorem flr_zero (s : State) : flr 0 s = portCleared 0 s := rfl

/-- The reset of an instance that is there leaves it resetting. -/
theorem flr_active {i : Nat} {s : State} (hi : i ≠ 0) (hst : (instU s i).st = .active) :
    flr i s = setInst i { clearPause (instU (portCleared i s) i) with st := .resetting } (portCleared i s) := by
  have hkept : (instU (portCleared i s) i).st = .active :=
    (congrFun (congrArg Prod.fst (lifeView_portCleared i s)) i).trans hst
  have hthere : ¬ ((instU (portCleared i s) i).st = .absent ∨ (instU (portCleared i s) i).st = .exported) := by
    rw [hkept]
    decide
  exact (if_neg hi).trans (if_neg hthere)

theorem functionLevelReset_leaves {s : State} {fn : Fin 256} (hreach : s.hif.reach = true) (hfn : fn.val ≠ 0)
    (hst : (instU s fn).st = .active) :
    ∃ t, exec (.functionLevelReset fn) s = .next t ∧ (∀ c ∈ t.hif.cmds, c.port ≠ fn.val) ∧
      (∀ q, q < 64 → qpU t fn q = {}) ∧ (instU t fn).st = .resetting ∧ t.host.mem = s.host.mem := by
  have hexec : exec (.functionLevelReset fn) s = .next (flr fn s) := congrArg Host.Outcome.next (if_pos ⟨hreach, hfn⟩)
  refine ⟨_, hexec, ?_⟩
  rw [flr_active hfn hst]
  refine ⟨portCleared_noneOf fn s, fun q hq => qpU_portCleared fn hq s, ?_, ?_⟩
  · rw [instU_setInst_same]
  · exact congrArg (fun v => v.2.1) (lifeView_portCleared fn s)

/-! ### FUNCTION0_RESET (R335) -/

theorem hostView_freeResidents (i : Nat) (s : State) : hostView (freeResidents i s) = hostView s := by
  unfold freeResidents
  refine foldl_keeps hostView _ (fun s p => ?_) _ s
  split
  · exact ite_keeps hostView rfl rfl
  · rfl

theorem lifeView_destroyInst (i : Nat) (s : State) :
    lifeView (destroyInst i s) = (Function.update (lifeView s).1 i .absent, (lifeView s).2) := by
  have hperm : ∀ u, lifeView ((List.range 4).foldl (fun s g => setPerm i g false s) u) = lifeView u :=
    foldl_keeps lifeView (fun s g => setPerm i g false s) (fun _ _ => rfl) _
  have hfree := hostView_freeResidents i (zeroCounters i (resetPort i s))
  have hcleared : lifeView (revokeGrants i (freeResidents i (zeroCounters i (resetPort i s)))) = lifeView s :=
    lifeView_congr (congrArg (fun v => v.2.inst) hfree) (congrArg (fun v => v.1.mem) hfree)
      (congrArg (fun v => v.2.reach) hfree)
  unfold destroyInst
  rw [lifeView_setInst, hperm, hcleared]

/-- The part of a reset of function 0 that takes one other instance away, with its pages. -/
def instTaken (s : State) (i : Nat) : State := if i = 0 then s else returnMib i (destroyInst i (abandonInst i none s))

theorem lifeView_instTaken (s : State) {i : Nat} (hi : i ≠ 0) :
    lifeView (instTaken s i) = (Function.update (lifeView s).1 i .absent, (lifeView s).2) := by
  have hpages : lifeView (returnMib i (destroyInst i (abandonInst i none s))) =
      lifeView (destroyInst i (abandonInst i none s)) := rfl
  rw [instTaken, if_neg hi, hpages, lifeView_destroyInst, lifeView_abandonInst]

/-- No instance of the list but instance 0 is left; the others' states, host memory and the reach stay. -/
theorem lifeView_instsTaken (l : List Nat) (s : State) : lifeView (l.foldl instTaken s) =
    (fun j => if j ≠ 0 ∧ j ∈ l then .absent else (instU s j).st, s.host.mem, s.hif.reach) := by
  induction l generalizing s with
  | nil => simp [lifeView]
  | cons i l ih =>
    have hmem : (instTaken s i).host.mem = s.host.mem ∧ (instTaken s i).hif.reach = s.hif.reach := by
      by_cases hi : i = 0
      · rw [instTaken, if_pos hi]
        exact ⟨rfl, rfl⟩
      · have h := congrArg Prod.snd (lifeView_instTaken s hi)
        exact Prod.mk.inj h
    have hst : ∀ j, (instU (instTaken s i) j).st = if j ≠ 0 ∧ j = i then .absent else (instU s j).st := fun j => by
      by_cases hi : i = 0
      · rw [instTaken, if_pos hi, if_neg fun h => h.1 (h.2.trans hi)]
      · have h := congrFun (congrArg Prod.fst (lifeView_instTaken s hi)) j
        exact (h.trans (Function.update_apply ..)).trans (if_congr ⟨fun hj => ⟨hj ▸ hi, hj⟩, And.right⟩ rfl rfl)
    rw [List.foldl_cons, ih, hmem.1, hmem.2]
    refine Prod.ext (funext fun j => ?_) rfl
    dsimp only
    rw [hst]
    by_cases h0 : j = 0
    · simp [h0]
    · by_cases hji : j = i
      · subst hji
        simp [h0]
      · simp [h0, hji]

theorem absent_of_not_live {s : State} {i : Nat} (h : i ∉ liveInsts s) : (instU s i).st = .absent := by
  rcases Tbl.get_eq_or_mem {} s.hif.inst i with hnone | hmem
  · exact congrArg Inst.st hnone
  · by_contra hst
    exact h (List.mem_map.mpr ⟨_, List.mem_filter.mpr ⟨hmem, bne_iff_ne.mpr hst⟩, rfl⟩)

theorem lifeView_releaseManager (s : State) : lifeView (releaseManager s) = lifeView s := by
  have hdge : ∀ s u, lifeView (if (dgeU s u).owner = .manager then releaseDge u s else s) = lifeView s := fun s u =>
    ite_keeps lifeView (released_releaseDge u s).lifeView rfl
  have hcvu : ∀ s u, lifeView (if (cvuU s u).owner = .manager then releaseCvu u s else s) = lifeView s := fun s u =>
    ite_keeps lifeView rfl rfl
  exact (foldl_keeps lifeView _ hcvu _ _).trans (foldl_keeps lifeView _ hdge _ s)

theorem fromPorts_releaseManager (s : State) : FromPorts s (releaseManager s) := by
  have hdge : ∀ s u, FromPorts s (if (dgeU s u).owner = .manager then releaseDge u s else s) := fun s u =>
    ite_fromPorts (fromPorts_releaseDge u s) (.refl s)
  have hcvu : ∀ s u, FromPorts s (if (cvuU s u).owner = .manager then releaseCvu u s else s) := fun s u =>
    ite_fromPorts (fromPorts_of_view (unitView_releaseCvu u s)) (.refl s)
  exact (fromPorts_foldl hdge _ s).trans (fromPorts_foldl hcvu _ _)

/-- The device after a reset of function 0, but for the link. -/
def managerReset (s : State) : State := releaseManager (flr 0 ((liveInsts s).foldl instTaken s))

/-- The registers are out of reach where the link went down (R335; cause 2, log 42). -/
def linkAfter (cause : Fin 3) (s : State) : State :=
  if cause.val = 2 then { s with hif := { s.hif with reach := false } } else s

theorem exec_function0Reset {s : State} (cause : Fin 3) (h : s.hif.reach = true) :
    exec (.function0Reset cause) s = .next (linkAfter cause (managerReset s)) := by
  have hunf : exec (.function0Reset cause) s = execFunction0Reset cause s := rfl
  have htaken : (liveInsts s).foldl (fun s i => if i = 0 then s else
      returnMib i (destroyInst i (abandonInst i none s))) s = (liveInsts s).foldl instTaken s := rfl
  rw [hunf, execFunction0Reset, if_pos h]
  dsimp only
  rw [htaken, linkAfter, managerReset]

theorem lifeView_managerReset (s : State) : lifeView (managerReset s) =
    (fun j => if j ≠ 0 ∧ j ∈ liveInsts s then .absent else (instU s j).st, s.host.mem, s.hif.reach) := by
  rw [managerReset, lifeView_releaseManager, flr_zero, lifeView_portCleared, lifeView_instsTaken]

theorem managerReset_noneOf (s : State) : ∀ c ∈ (managerReset s).hif.cmds, c.port ≠ 0 := by
  rw [managerReset, flr_zero]
  exact (fromPorts_releaseManager _).noneOf (portCleared_noneOf 0 _)

theorem linkAfter_leaves (cause : Fin 3) (s : State) : (linkAfter cause s).hif.inst = s.hif.inst ∧
    (linkAfter cause s).hif.cmds = s.hif.cmds ∧ (linkAfter cause s).host = s.host ∧
    (linkAfter cause s).hif.reach = (s.hif.reach && decide (cause.val ≠ 2)) := by
  unfold linkAfter
  split
  · next h => simp [h]
  · next h => simp [h]

theorem function0Reset_leaves {s : State} (cause : Fin 3) (hreach : s.hif.reach = true) :
    ∃ t, exec (.function0Reset cause) s = .next t ∧ (∀ i, i ≠ 0 → (instU t i).st = .absent) ∧
      (∀ c ∈ t.hif.cmds, c.port ≠ 0) ∧ t.host.mem = s.host.mem ∧ t.hif.reach = decide (cause.val ≠ 2) := by
  obtain ⟨linst, lcmds, lhost, lreach⟩ := linkAfter_leaves cause (managerReset s)
  have hlife := lifeView_managerReset s
  simp only [lifeView, Prod.mk.injEq] at hlife
  obtain ⟨hst, hmem, hkept⟩ := hlife
  refine ⟨_, exec_function0Reset cause hreach, fun i hi => ?_, ?_, ?_, ?_⟩
  · unfold instU
    rw [linst]
    refine (congrFun hst i).trans ?_
    by_cases hlive : i ∈ liveInsts s
    · exact if_pos ⟨hi, hlive⟩
    · exact (if_neg fun h => hlive h.2).trans (absent_of_not_live hlive)
  · rw [lcmds]
    exact managerReset_noneOf s
  · rw [lhost, hmem]
  · rw [lreach, hkept, hreach, Bool.true_and]

/-! ### The ends of a reset and of a pause (R334, R337) -/

theorem exec_instanceResetComplete {s : State} {i : Fin 256} (hst : (instU s i).st = .resetting)
    (hnone : ∀ c ∈ s.hif.cmds, c.port ≠ i.val) :
    exec (.instanceResetComplete i) s = .next (setInst i { instU s i with st := .active } s) :=
  congrArg Host.Outcome.next (if_pos ⟨hst, List.all_eq_true.mpr fun c hc => bne_iff_ne.mpr (hnone c hc)⟩)

/-- An instance whose drain has ended, before its INST_PAUSE is answered. -/
def drained (i : Nat) (s : State) : State := setInst i { instU s i with st := .paused, pauseCmd := none } s

/-- PAUSE_DRAIN_END where nothing runs: the instance is paused, and the INST_PAUSE that waited, if any, is answered. -/
theorem exec_pauseDrainEnd {s : State} {i : Fin 256} (hst : (instU s i).st = .pausing) (hrun : runningOf s i = 0) :
    exec (.pauseDrainEnd i) s = .next (((instU s i).pauseCmd.bind (cmdU s)).elim (drained i s)
      (fun c => conclude (some (justStatus stsOk)) c (drained i s))) := by
  have hunf : exec (.pauseDrainEnd i) s = execPauseDrainEnd i s := rfl
  have hcmd : cmdU (drained i s) = cmdU s := rfl
  rw [hunf, execPauseDrainEnd, ← hcmd, drained]
  dsimp only
  rw [if_pos ⟨hst, .inl hrun⟩]
  cases (instU s i).pauseCmd.bind (cmdU (setInst i { instU s i with st := .paused, pauseCmd := none } s)) <;> rfl

/-- Settles O41: the commands left have the number and port of one that was there, so a reset port has none; every
instance that exists is taken away by a reset of function 0; the ends of a reset and of a pause are their guards. -/
theorem resetsAndPausesOfInstances : Obligations.ResetsAndPausesOfInstances := by
  unfold Obligations.ResetsAndPausesOfInstances
  intro s fn cause
  refine ⟨functionLevelReset_leaves, function0Reset_leaves cause, fun i => ⟨exec_instanceResetComplete,
    fun hst hrun hcmd => ?_, fun id c hst hrun hcmd hc => ?_⟩⟩
  · rw [exec_pauseDrainEnd hst hrun, hcmd, Option.bind_none, Option.elim_none, drained]
  · rw [exec_pauseDrainEnd hst hrun, hcmd, Option.bind_some, hc, Option.elim_some, drained]

end Sys2Proof.Machine
end
